-- ==== Sys2Proof/Word.lean ====
section
/-! DEFINITION. The word and identifier types of Benkor (R13, R15, R43). -/

namespace Sys2Proof

/-- A register word (R43: registers are 32 bits wide). -/
abbrev Word := BitVec 32

/-- A byte of memory (R13). -/
abbrev Byte := BitVec 8

/-- A core number c, 0 to 1199 (R15). -/
abbrev CoreId := Fin 1200

/-- A slot number, 0 to 767 (R188). -/
abbrev SlotId := Fin 768

/-- A semaphore number, 0 to 31 (R172). -/
abbrev SemId := Fin 32

/-- A window or target-entry number, 0 to 63 (R254, R259). -/
abbrev WinId := Fin 64

/-- A stream context number, 0 to 1023 (R219). -/
abbrev CtxId := Fin 1024

/-- A tenant ID (R54). -/
abbrev TenantId := BitVec 8

/-- Torus coordinates in the layout of BLK_TORUS. -/
abbrev ChipId := BitVec 32

end Sys2Proof
end

