-- ==== Sys2Proof/Syntax.lean ====
section
/-! DEFINITION. The commands of Benkor: one constructor of Instr per row of spec/opcode_table.json, with its operands. -/

namespace Sys2Proof

/-- A port that carries register accesses: the management port, the register and doorbell port with the tenant that the host interface stamps, or the management virtual channel with the tenant of its window (R8, R54). -/
inductive Port where
  | mgmt
  | host (t : TenantId)
  | vc3 (t : TenantId)
  deriving DecidableEq, Repr

/-- A register page (R49, R50). -/
inductive PageRef where
  | blk
  | evt
  | jnl
  | fio
  | ten (u : Fin 7)
  | core (c : CoreId) (i : Fin 14)
  deriving DecidableEq, Repr

/-- The five queues, with the index of R104: 0 MXQ, 1 VXQ, 2 SKQ, 3 UPQ, 4 GVQ. -/
inductive QueueId where
  | mxq | vxq | skq | upq | gvq
  deriving DecidableEq, Repr

/-- A torus port by the port code of R251: 0 X+, 1 X−, 2 Y+, 3 Y−, 4 Z+, 5 Z−, 6 W+, 7 W−. -/
abbrev TorusPort := Fin 8

/-- A landing port, one for each HBM4 stack (R30). -/
abbrev LandingPort := Fin 16

/-- A fabric I/O pin, 0 to 95 (R371). -/
abbrev PinId := Fin 96

/-- A fabric I/O bank (R371). -/
abbrev BankId := Fin 4

/-- The header of a VC2 flit (R253). -/
structure RemoteHdr where
  kind : BitVec 4
  srcChip : ChipId
  dstChip : ChipId
  srcCore : BitVec 11
  dstCore : BitVec 11
  window : WinId
  epoch : BitVec 16
  tenant : TenantId
  offset : BitVec 20
  len : BitVec 9
  slotStart : Bool
  slotEnd : Bool
  ocnt : BitVec 4
  fwdLeft : BitVec 2
  ctx : BitVec 10
  seq : BitVec 16
  code : Byte
  deriving DecidableEq, Repr

/-- The header of a VC3 command sent to a core (R264, R265): its sender, and the window it acts through; direct for what goes to a core of the same chip without a window: an abort report (R196, R258) or an ANSWER; the copies that a forwarded report has left (R263). -/
structure WinCmd where
  srcChip : ChipId
  dstChip : ChipId
  srcCore : BitVec 11
  core : CoreId
  win : WinId
  epoch : BitVec 16
  tenant : TenantId
  direct : Bool
  fwdLeft : BitVec 2
  deriving DecidableEq, Repr

/-- Where a VC3 command with its body of 32 bytes comes from (R264, R265): to a core by a torus port, or as a flit of this chip's mesh that has reached it; to the chip from another chip, or from itself. -/
inductive CmdSrc where
  | torus (p : TorusPort) (h : WinCmd) (body : List Byte)
  | mesh (id : Nat)
  | chip (src : ChipId) (body : List Byte)
  deriving DecidableEq, Repr

/-- The body of a command has 32 bytes (R264). -/
def CmdSrc.wf : CmdSrc → Bool
  | .torus _ _ b => b.length == 32
  | .mesh _ => true
  | .chip _ b => b.length == 32

/-- An answer of the translation service (R240): the physical page, its size and its write permission, or a failure. -/
inductive TransResult where
  | page (pa : BitVec 48) (large : Bool) (writable : Bool)
  | fail
  deriving DecidableEq, Repr

/-- Where a VC2 flit comes from: a torus port, or a flit of this chip's mesh looped back (R259). -/
inductive RemoteSrc where
  | torus (p : TorusPort) (h : RemoteHdr) (payload : List Byte)
  | mesh (id : Nat)
  deriving DecidableEq, Repr

/-- How an initialisation step ends (R452 to R454): done, with a link that failed its training three times, or with the eFuse slots whose check words match. -/
inductive InitResult where
  | done
  | linkFailed
  | keys (fuseValid : BitVec 4)
  deriving DecidableEq, Repr

/-- A scale-file register written (R281). -/
inductive ScaleReg where
  | srscale | srflatv | srzp
  deriving DecidableEq, Repr

/-- What the check of a yard word (R412) or of a signature entry (R402) found. -/
inductive EccResult where
  | good | single | double
  deriving DecidableEq, Repr

/-- An item that the scrubber holds in three copies (R406). -/
inductive TmrItem where
  | ctl
  | imgLo (h : Fin 4)
  | imgHi (h : Fin 4)
  | passTimer
  | framePtr
  | sigPtr
  deriving DecidableEq, Repr

/-- The outcome of a cruise step (R433): every result right, wrong once and right on the repeat, or wrong twice, with the code and the DETAIL word reported. -/
inductive CruiseResult where
  | pass
  | passOnRepeat (code : Byte) (detail : Word)
  | confirmed (code : Byte) (detail : Word)
  deriving DecidableEq, Repr

/-- Who reads a scratchpad word with a parity mismatch (R205). -/
inductive ParityReader where
  | flight (q : QueueId) (n : Nat)
  | stream (ctx : CtxId)
  | port
  | loopBuffer (q : QueueId) (idx : BitVec 16)
  deriving DecidableEq, Repr

/-- A narrow write of a SCATTER beat (R361): its offset from OOFF and its 4, 8 or 16 bytes. -/
structure ScatterWrite where
  off : Nat
  data : List Byte
  deriving DecidableEq, Repr

/-- A beat on the grove port's OUT channel (R359 to R361): a result beat of 64 lanes with its ROWEND marker, or the writes of a SCATTER beat. -/
inductive OutBeat where
  | result (rowEnd last : Bool) (bytes : List Byte)
  | scatter (ws : List ScatterWrite)
  deriving DecidableEq, Repr

/-- A result beat has 256 bytes; a SCATTER beat has at most eight writes of 4, 8 or 16 bytes. -/
def OutBeat.wf : OutBeat → Bool
  | .result _ _ b => b.length == 256
  | .scatter ws => ws.length ≤ 8 && ws.all fun w => w.data.length == 4 || w.data.length == 8 || w.data.length == 16

/-- One command: an operation or an event of spec/opcode_table.json. A last operand of type Unit carries nothing: what such a command takes stands in its message (R264) or has come with a fetch (R160, R392, R419). -/
inductive Instr where
  -- register pages (R8, R43 to R46)
  | registerWrite (p : Port) (addr : BitVec 44) (v : Word)
  | illegalPageAccess (p : Port) (addr : BitVec 44) (width : Nat) (write : Bool)
  | shcopy (p : Port) (pg : PageRef)
  | cntclr (p : Port) (pg : PageRef)
  | errClr (p : Port) (pg : PageRef)
  -- swaps (R72 to R78)
  | chipSwapGo (p : Port) (c : CoreId) (i : Fin 14)
  | jobSwapGo (p : Port) (c : CoreId) (i : Fin 14)
  | swapCancel (p : Port) (c : CoreId) (i : Fin 14)
  | swapHold (c : CoreId)
  | quiet (c : CoreId)
  | quietReceived (c : CoreId)
  | swapat (c : CoreId)
  | swapExchange (t : TenantId)
  | holdRelease (t : TenantId)
  | swapTimeout (t : TenantId)
  | swapReleaseCommand (c : CoreId)
  | cmdPrepare (src : CmdSrc) (r : Unit := ())
  | cmdReady (src : CmdSrc) (r : Unit := ())
  | cmdCommit (src : CmdSrc) (r : Unit := ())
  | cmdDone (src : CmdSrc) (r : Unit := ())
  | cmdRelease (src : CmdSrc) (r : Unit := ())
  | cmdAbort (src : CmdSrc) (r : Unit := ())
  | cmdSwapreq (src : CmdSrc)
  | readyTimeout (job : Word)
  | doneTimeout (job : Word)
  -- scratchpad port, time, mailbox, jobs, tenants (R51 to R70)
  | scratchpadPortWrite (p : Port) (c : CoreId) (off : BitVec 20) (data : List Byte)
  | scratchpadPortRead (p : Port) (c : CoreId) (off : BitVec 20) (width : Nat)
  | rtimeLoRead (p : Port)
  | mailboxDoorbell (p : Port) (slot : BitVec 6)
  | mailboxTake (block : List Byte)
  | loadJob (t : TenantId) (slot : BitVec 6) (manifest : List Byte) (imageHdrs : List (List Byte))
  | endJob (t : TenantId) (slot : BitVec 6)
  | endJobAnswer (t : TenantId) (slot : BitVec 6)
  | loadImage (t : TenantId) (slot : BitVec 6) (header : List Byte)
  | mbxSuspend (t : TenantId) (slot : BitVec 6)
  | query (t : TenantId) (slot : BitVec 6)
  | tenCtrlWrite (p : Port) (t : TenantId) (v : Word)
  | tenAsidWrite (p : Port) (t : TenantId) (v : Word)
  | coreAssign (p : Port) (c : CoreId) (v : Word)
  | coreRelease (p : Port) (c : CoreId) (v : Word)
  | coreZeroed (c : CoreId)
  | doorbell (p : Port) (c : CoreId) (q : QueueId) (tail : BitVec 16)
  -- descriptors (R138 to R186)
  | descriptorFetch (c : CoreId) (q : QueueId) (r : Unit := ())
  | nop (c : CoreId) (q : QueueId)
  | loop (c : CoreId) (q : QueueId)
  | setreg (c : CoreId) (q : QueueId)
  | mxmul (c : CoreId)
  | mxconv (c : CoreId)
  | velt (c : CoreId)
  | vred (c : CoreId)
  | vsoftmax (c : CoreId)
  | vnorm (c : CoreId)
  | vquant (c : CoreId)
  | vdequant (c : CoreId)
  | vsample (c : CoreId)
  | vrand (c : CoreId)
  | skstream (c : CoreId)
  | mvfill (c : CoreId)
  | mvcopy (c : CoreId)
  | upstep (c : CoreId)
  | gvop (c : CoreId)
  | illegalOpcode (c : CoreId) (q : QueueId)
  | descriptorComplete (c : CoreId) (q : QueueId)
  | nullCompletion (c : CoreId) (q : QueueId)
  | clipTestFire (c : CoreId) (q : QueueId)
  | descriptorFail (c : CoreId) (q : QueueId)
  | residueMismatch (c : CoreId) (n : Nat) (stepNo : Nat) (tree : BitVec 8)
  | parityError (c : CoreId) (wordNo : Fin 196608) (mask : Word) (reader : ParityReader)
  | queueStop (p : Port) (c : CoreId) (q : QueueId)
  | queueStopped (c : CoreId) (q : QueueId)
  | queueResume (p : Port) (c : CoreId) (q : QueueId)
  | queueSkip (p : Port) (c : CoreId) (q : QueueId)
  | queueFlush (p : Port) (c : CoreId) (q : QueueId)
  | semaAdd (p : Port) (c : CoreId) (sem : SemId) (amount : BitVec 16)
  | queueWaitAged (c : CoreId) (q : QueueId)
  | bankRequestAged (c : CoreId) (bank : Fin 48) (unit : Fin 7)
  -- scratchpad (R195 to R213)
  | arrivalWrite (id : Nat)
  | spdUtagWrite (p : Port) (c : CoreId) (n : Fin 4) (v : Word)
  | refetchComplete (c : CoreId) (slot : SlotId) (r : Unit := ())
  | gatherTimeout (c : CoreId)
  | gbflush (p : Port) (c : CoreId)
  | segmentPowerOff (p : Port) (c : CoreId) (seg : Fin 12)
  | segmentPowerOn (p : Port) (c : CoreId) (seg : Fin 12)
  | segmentSettled (c : CoreId) (seg : Fin 12)
  | segmentUp (c : CoreId) (seg : Fin 12)
  | tagcmdSetEmpty (p : Port) (c : CoreId) (first last : BitVec 10)
  | tagcmdSetFull (p : Port) (c : CoreId) (first last : BitVec 10) (count : BitVec 4)
  | tagcmdClearBacked (p : Port) (c : CoreId) (first last : BitVec 10)
  | tagcmdDone (c : CoreId)
  -- skidder, yards, streams (R216 to R246)
  | skidderInject (c : CoreId)
  | readResponse (id : Nat)
  | writeAck (id : Nat)
  | nack (id : Nat)
  | yardRead (id : Nat) (ecc : EccResult)
  | yardWrite (id : Nat) (ecc : EccResult)
  | yardFill (port : LandingPort) (line : Nat) (data : List Byte)
  | externalWrite (pa : BitVec 48)
  | externalRead (pa : BitVec 48)
  | translationResponse (c : CoreId) (va : BitVec 44) (r : TransResult)
  | slotVisitEnter (c : CoreId) (ctx : CtxId)
  | slotVisitComplete (c : CoreId) (ctx : CtxId)
  | slotendSend (c : CoreId) (ctx : CtxId)
  | streamComplete (c : CoreId) (ctx : CtxId)
  | streamHalt (c : CoreId) (ctx : CtxId)
  | ctxResume (p : Port) (c : CoreId) (ctx : CtxId)
  | ctxAbort (p : Port) (c : CoreId) (ctx : CtxId)
  | abortComplete (c : CoreId) (ctx : CtxId)
  | ctxFree (p : Port) (c : CoreId) (ctx : CtxId)
  | stallTimeout (c : CoreId)
  | pullRequest (id : Nat)
  -- windows and VC3 commands (R253 to R269)
  | remoteArrival (src : RemoteSrc)
  | forwardAck (n : Nat) (code : Byte)
  | windowOpen (p : Port) (c : CoreId) (win : WinId) (setep : Bool) (epoch : BitVec 16)
  | windowClose (p : Port) (c : CoreId) (win : WinId)
  | guardExpiry (c : CoreId) (win : WinId)
  | cmdStop (src : CmdSrc) (r : Unit := ())
  | cmdStart (src : CmdSrc) (r : Unit := ())
  | cmdClose (src : CmdSrc)
  | cmdCtxcmd (src : CmdSrc) (r : Unit := ())
  | cmdAbortrep (src : CmdSrc) (r : Unit := ())
  | cmdSeed (src : CmdSrc) (r0 : Unit := ()) (r1 : Unit := ())
  | cmdEpoch (src : CmdSrc) (r : Unit := ())
  | cmdArrive (src : CmdSrc) (r : Unit := ())
  | cmdPass (src : CmdSrc) (r : Unit := ())
  | cmdAnswer (src : CmdSrc) (r0 : Unit := ()) (r1 : Unit := ()) (r2 : Unit := ())
  | cmdRefused (src : CmdSrc) (r : Unit := ())
  | jobcmdSeed (p : Port) (c : CoreId)
  | jobcmdEpoch (p : Port) (c : CoreId) (v : BitVec 16)
  | barrierCoreArrive (c : CoreId)
  -- quantisation and tallies (R106, R281, R296, R306)
  | scaleFileWrite (p : Port) (c : CoreId) (r : ScaleReg) (v : Word)
  | srzpAccess (p : Port) (c : CoreId)
  | histClr (p : Port) (c : CoreId) (h : Fin 16)
  | histLenWrite (p : Port) (c : CoreId) (h : Fin 16) (len : BitVec 5)
  | tlyClr (p : Port) (c : CoreId)
  -- grove and fabric I/O (R356 to R378)
  | clockSwitch (p : Port) (c : CoreId) (n : Fin 4) (v : Word)
  | clockSwitchDone (c : CoreId) (n : Fin 4)
  | clockLost (c : CoreId) (n : Fin 4)
  | portInBeat (c : CoreId)
  | portInCredit (c : CoreId)
  | portOutBeat (c : CoreId) (tag : Fin 4) (beat : OutBeat)
  | portDone (c : CoreId) (tag : Fin 4) (ok : Bool) (tally : List Byte)
  | portAborted (c : CoreId) (tag : Fin 4)
  | portTimeout (c : CoreId)
  | supplyStatusChange (b : BankId) (good : Bool)
  | bankClockLost (b : BankId)
  | bankClockRunning (b : BankId)
  | pinEvent (pin : PinId) (level : Bool)
  | fioEventDeliver (pin : PinId)
  | stormWindowExpiry (pin : PinId)
  | stuckStorm (pin : PinId)
  | pinRearm (p : Port) (pin : PinId)
  | tsloRead (p : Port) (b : BankId)
  -- grove configuration (R384 to R406)
  | imageLoad (p : Port) (c : CoreId) (v : Word)
  | stagingComplete (c : CoreId) (r : Unit := ())
  | pass1Complete (c : CoreId)
  | quiesceComplete (c : CoreId)
  | frameRefetchDone (c : CoreId) (r : Unit := ())
  | imageRelease (c : CoreId)
  | groveBlank (p : Port) (c : CoreId)
  | groveBlankDone (c : CoreId)
  | scrubPassStart (c : CoreId)
  | scrubForce (p : Port) (c : CoreId)
  | scrubFrameRead (c : CoreId) (observed : List Byte) (sig : EccResult)
  | scrubRepairDone (c : CoreId) (r : Unit := ())
  | tmrVote (c : CoreId) (item : TmrItem) (a b d : Word)
  | keyDataWrite (p : Port) (v : Word)
  | keyCommit (p : Port)
  | keyErase (p : Port)
  | keyLock (p : Port)
  -- faults, journal, cruise (R411 to R436)
  | errRecRead (p : Port) (c : CoreId)
  | errPop (p : Port) (c : CoreId) (seq : Byte)
  | fifoOvfClear (p : Port) (c : CoreId)
  | flitArrival (id : Nat) (parityOk : Bool)
  | flitResend (id : Nat)
  | linkFail (id : Nat)
  | fellCommand (p : Port) (c : BitVec 11)
  | fellingComplete (c : CoreId)
  | restoreCommand (p : Port) (c : BitVec 11)
  | journalWriteDone
  | jnlCompact (p : Port)
  | compactionSeal
  | zeroWord
  | jnlRddataRead (p : Port)
  | cruiseStepStart (c : CoreId)
  | cruiseStepDone (c : CoreId) (r : CruiseResult)
  | cruisePreempt (c : CoreId)
  -- power and reset (R440 to R454)
  | autoDoze (c : CoreId)
  | autoSleep (c : CoreId)
  | stateEntryDone (c : CoreId)
  | targetDoze (p : Port) (c : CoreId)
  | targetSleep (p : Port) (c : CoreId)
  | targetShut (p : Port) (c : CoreId)
  | targetActive (p : Port) (c : CoreId)
  | wakeComplete (c : CoreId)
  | dataBranchStop (c : CoreId)
  | meshBranchStop (c : CoreId)
  | powerGood
  | warmReset
  | warmWritebackDone
  | initStepDone (r : InitResult)
  | corePowerupTimeout (c : CoreId)
  | powerLoss (batteryHeld : Bool)
  deriving DecidableEq, Repr

end Sys2Proof
end

