-- ==== Sys2Proof/Decode.lean ====
section
/-! DEFINITION. The commands that words spell: no row of the table has bits, so no word spells one. -/

namespace Sys2Proof

/-- The command that the low nbits of w spell by the bits of spec/opcode_table.json: its rows give none. -/
def decodeTableWord (_nbits _w : Nat) : Option Instr := none

end Sys2Proof
end

