-- ==== Sys2Proof/Config.lean ====
section
/-! DEFINITION. What one die fixes, and the free values: constants without a body, so that no proof can lean on a value of them. The names of what a grove's logic frames configure stand here too (R348 to R354), since the places of these bits in a frame are such a value. -/

namespace Sys2Proof

/-- The direction in which a wire segment runs (R351); north is towards cord row 0, where the pins enter (R350). -/
inductive Dir where
  | north | south | east | west
  deriving DecidableEq, Repr

/-- The length of a wire segment (R351): to the next cord, the fourth, the twelfth. -/
inductive Span where
  | short | medium | far
  deriving DecidableEq, Repr

/-- A wire segment: the cord (u, v) that it starts in, its direction and length, its number among those of its kind (R351). -/
structure Wire where
  u : Nat
  v : Nat
  dir : Dir
  span : Span
  n : Nat
  deriving DecidableEq, Repr

/-- An output of a logic cell: T, U and its two flip-flops (R348). -/
inductive CellOut where
  | t | u | q0 | q1
  deriving DecidableEq, Repr

/-- A net of a grove: output of cell j of cord (u, v), a wire segment at its end, a data output bit of a port of RAM block k (port A true), a pin of the bank, a bit that the grove port's shell drives. -/
inductive Net where
  | out (u v j : Nat) (o : CellOut)
  | wire (w : Wire)
  | ram (k : Nat) (a : Bool) (i : Nat)
  | pin (n : Nat)
  | port (i : Nat)
  deriving DecidableEq, Repr

/-- A multiplexer of the fabric (R348, R349, R351, R354, R373): at the start of a segment; of cell input P0 to P5 (0 to 5) and D (6); of an enable line of a half-cord; of a cord's reset line; of its carry input; of input i of a RAM port: address bits 0 to 11, data bits 12 to 43, write enable 44; of what the grove sends to a pin of its bank, and of that pin's output enable. -/
inductive Mux where
  | wire (w : Wire)
  | cell (u v j i : Nat)
  | enable (u v half line : Nat)
  | reset (u v : Nat)
  | carry (u v : Nat)
  | ram (k : Nat) (a : Bool) (i : Nat)
  | pad (n : Nat) (en : Bool)
  deriving DecidableEq, Repr

/-- What one configuration bit of a logic frame sets (R348, R349, R352 to R354, R383): bit i of a cell's table; its split mode; of flip-flop f of a cell: data from U, from D, from P5 in place of D, the second enable line, a clear, a set, its initial value; of a cord: arithmetic mode, the start of a chain, a carry in of 1 or from routing, the carry out on U of cell 7; select bit i of a multiplexer; the pipeline register of a segment's end; of a RAM port: that it is in use, bit i of its width, bit i of its clock's region. -/
inductive CfgBit where
  | table (u v j i : Nat)
  | split (u v j : Nat)
  | ffU (u v j f : Nat)
  | ffD (u v j f : Nat)
  | ffP5 (u v j f : Nat)
  | ffLine (u v j f : Nat)
  | ffClear (u v j f : Nat)
  | ffSet (u v j f : Nat)
  | ffInit (u v j f : Nat)
  | arith (u v : Nat)
  | chain (u v : Nat)
  | carryOne (u v : Nat)
  | carryIn (u v : Nat)
  | carryOut (u v : Nat)
  | sel (m : Mux) (i : Nat)
  | pipe (w : Wire)
  | ramOn (k : Nat) (a : Bool)
  | ramWidth (k : Nat) (a : Bool) (i : Nat)
  | ramClk (k : Nat) (a : Bool) (i : Nat)
  deriving DecidableEq, Repr

/-- A built-in operator of the soft vector engine (R369). -/
inductive Operator where
  | eadd | emul | efma | emin | emax | ecvt | ediv | esqrt
  deriving DecidableEq, Repr

end Sys2Proof

namespace Sys2Proof.Config

/-- The fused bits behind the die ID (R459): not stated, so free (DESIGN CHOICE, log entry 24). -/
opaque dieIdRaw : BitVec 64

/-- The 64-bit die ID that BLK_DIEID reads; unique to the die and never 0 (R459). -/
def dieId : BitVec 64 := if dieIdRaw = 0#64 then 1#64 else dieIdRaw

/-- The n-th 32-bit value that the spec does not state (DESIGN CHOICE, log entries 16, 21). -/
opaque freeWord : Nat → BitVec 32

/-- The n-th choice that the spec leaves to the hardware or to the management processor (DESIGN CHOICE, log entries 22, 23). -/
opaque freeChoice : Nat → Nat

/-- Flit buffers beyond one of a router port for each of VC0 to VC2: their number is not stated, so free (DESIGN CHOICE, log entry 176). -/
opaque vcDepth : Nat

/-- A chip belongs to a job of several chips, by its coordinates and the JOBID: no rule says how the head chip knows them, so free (DESIGN CHOICE, log entry 177). -/
opaque jobChip : BitVec 32 → BitVec 32 → Bool

/-- The 256-bit key in eFuse slot s, programmed outside the block (R389): not stated, so free (DESIGN CHOICE, log entry 25). -/
opaque fuseKey : Nat → BitVec 256

/-- What bit b of logic frame f configures, if anything: the places of the bits are not stated, so free (DESIGN CHOICE, log entry 26). -/
opaque cfgBit : Nat → Nat → Option CfgBit

/-- Source i of the 24 of an input multiplexer: which nets it selects among is not stated, so free (DESIGN CHOICE, log entry 184). -/
opaque inputSource : Mux → Nat → Option Net

/-- Bit i that the grove port's shell drives into the fabric while an operand beat with these bytes stands at it (DESIGN CHOICE, log entry 185). -/
opaque shellBit : Nat → List (BitVec 8) → Bool

/-- The level of fabric I/O pin p in an FCLK cycle as its grove sees it: an input from outside for which the spec has no command (DESIGN CHOICE, log entry 186). -/
opaque padLevel : Nat → Nat → Bool

/-- A rising edge of the clock of bank b falls into an FCLK cycle: an input from outside (DESIGN CHOICE, log entry 186). -/
opaque bankEdge : Nat → Nat → Bool

/-- The value of a net on a loop of combinational logic in an FCLK cycle: not stated, so free (DESIGN CHOICE, log entry 187). -/
opaque loopValue : Net → Nat → Bool

/-- A port of RAM block k that reads a word which is written in the same FCLK cycle reads the new word (R354 allows either). -/
opaque ramNew : Nat → Nat → Bool

/-- The built-in operator that the image's soft vector engine has in a slot, by the grove's frames; none for a custom operator: where an image holds the assignment is not stated, so free (DESIGN CHOICE, log entry 188). -/
opaque slotOperator : Nat → List (Nat × List (BitVec 8)) → Option Operator

end Sys2Proof.Config
end

