-- ==== Sys2Proof/Machine/Bits.lean ====
section
/-! DEFINITION. Bit fields, byte order (R13), signed numbers, CRC-32C (R22), as plain arithmetic. -/

namespace Sys2Proof.Machine

/-- Bits lo to lo + n - 1 of w. -/
def fld (w lo n : Nat) : Nat := (w >>> lo) % 2 ^ n

/-- Bits lo to lo + n - 1 of a register word. -/
def wfld (w : Word) (lo n : Nat) : Nat := fld w.toNat lo n

/-- Bit i of a number. -/
def nbit (w i : Nat) : Bool := w.testBit i

/-- Bit i of a register word. -/
def wbit (w : Word) (i : Nat) : Bool := w.toNat.testBit i

/-- 1 for true. -/
def b2n (b : Bool) : Nat := if b then 1 else 0

/-- A register word from a number. -/
def word (n : Nat) : Word := BitVec.ofNat 32 n

/-- A word of ones at bits lo to lo + n - 1. -/
def fieldMask (lo n : Nat) : Word := BitVec.ofNat 32 ((2 ^ n - 1) <<< lo)

/-- w with bit i set to b. -/
def setBit (w i : Nat) (b : Bool) : Nat := if w.testBit i then (if b then w else w - 2 ^ i) else (if b then w + 2 ^ i else w)

/-- The number that little-endian bytes hold (R13). -/
def leNat : List Byte → Nat
  | [] => 0
  | b :: bs => b.toNat + 256 * leNat bs

/-- The n little-endian bytes of v (R13). -/
def natLe : Nat → Nat → List Byte
  | 0, _ => []
  | n + 1, v => BitVec.ofNat 8 v :: natLe n (v / 256)

/-- n bytes of l from o on, zeros past its end. -/
def slice (l : List Byte) (o n : Nat) : List Byte :=
  let t := (l.drop o).take n
  t ++ List.replicate (n - t.length) 0#8

/-- The little-endian number in n bytes of l from o on. -/
def leAt (l : List Byte) (o n : Nat) : Nat := leNat ((l.drop o).take n)

/-- l with the bytes bs laid over it from o on, its length unchanged. -/
def splice (l : List Byte) (o : Nat) (bs : List Byte) : List Byte :=
  l.take o ++ bs.take (l.length - o) ++ l.drop (o + bs.length)

/-- The two's-complement value of the low n bits of v. -/
def sext (n v : Nat) : Int := let w := v % 2 ^ n; if 2 * w ≥ 2 ^ n then (w : Int) - 2 ^ n else w

/-- The low n bits of an integer. -/
def wrapN (n : Nat) (v : Int) : Nat := (v % (2 ^ n : Nat)).toNat

/-- One bit of a reflected CRC-32C (R22). -/
def crcBit : Nat → Nat → Nat
  | 0, c => c
  | n + 1, c => crcBit n (if c % 2 = 1 then (c / 2) ^^^ 0x82F63B78 else c / 2)

/-- CRC-32C register after the bytes. -/
def crcRun : Nat → List Byte → Nat
  | c, [] => c
  | c, b :: bs => crcRun (crcBit 8 (c ^^^ b.toNat)) bs

/-- CRC-32C of a byte list (R22). -/
def crc32c (bs : List Byte) : Nat := crcRun 0xFFFFFFFF bs ^^^ 0xFFFFFFFF

/-- Even parity bit of a 32-bit word: 1 when the word holds an odd number of ones (R205). -/
def parityBit (w : Nat) : Bool := (List.range 32).foldl (fun p i => xor p (w.testBit i)) false

/-- x rounded up to a multiple of 2^k, over 2^k. -/
def ceilShift (x k : Nat) : Nat := (x + 2 ^ k - 1) / 2 ^ k

/-- ⌈a ÷ b⌉. -/
def ceilDiv (a b : Nat) : Nat := (a + b - 1) / b

/-- Saturating sum. -/
def satAdd (a b top : Nat) : Nat := min (a + b) top

/-- Every element of l once, first occurrences kept. -/
def dedup : List Nat → List Nat
  | [] => []
  | a :: l => a :: (dedup l).filter (· ≠ a)

/-- Positions of the ones among the low n bits of v. -/
def onesOf (n v : Nat) : List Nat := (List.range n).filter fun i => v.testBit i

end Sys2Proof.Machine
end

