-- ==== Sys2Proof/Machine/Maps.lean ====
section
/-! DEFINITION. Sparse data by number: association lists in rising order of their keys, and memories of bytes in one canonical form. -/

namespace Sys2Proof.Machine

/-- Values by number, keys rising. -/
abbrev FMap (α : Type) := List (Nat × α)

/-- The value listed for k. -/
def fget? {α : Type} : FMap α → Nat → Option α
  | [], _ => none
  | (j, a) :: m, k => if k = j then some a else fget? m k

/-- The value for k, d where none is listed. -/
def fget {α : Type} (m : FMap α) (k : Nat) (d : α) : α := (fget? m k).getD d

/-- m with k ↦ a. -/
def fset {α : Type} : FMap α → Nat → α → FMap α
  | [], k, a => [(k, a)]
  | (j, b) :: m, k, a =>
    if k = j then (k, a) :: m else if k < j then (k, a) :: (j, b) :: m else (j, b) :: fset m k a

/-- m without k. -/
def fdel {α : Type} (m : FMap α) (k : Nat) : FMap α := m.filter fun e => e.1 ≠ k

/-- A memory: the listed bytes; every other address reads 0 (R212). -/
abbrev Memory := List Host.Cell

/-- The byte at a. -/
def memGet (m : Memory) (a : Nat) : BitVec 8 := fget m a 0#8

/-- m with byte b at a; a zero byte is not listed. -/
def memSet (m : Memory) (a : Nat) (b : BitVec 8) : Memory := if b = 0#8 then fdel m a else fset m a b

/-- The n bytes from a on. -/
def memRead (m : Memory) (a n : Nat) : List (BitVec 8) := (List.range n).map fun i => memGet m (a + i)

/-- m with the bytes bs from a on. -/
def memWrite (m : Memory) (a : Nat) : List (BitVec 8) → Memory
  | [] => m
  | b :: bs => memWrite (memSet m a b) (a + 1) bs

/-- m with n zero bytes from a on. -/
def memZero (m : Memory) (a n : Nat) : Memory := m.filter fun c => c.1 < a || a + n ≤ c.1

/-- Addresses from lo on, strictly rising, and no zero byte listed. -/
def memWfFrom : Nat → Memory → Bool
  | _, [] => true
  | lo, (a, b) :: m => decide (lo ≤ a) && decide (b ≠ 0#8) && memWfFrom (a + 1) m

/-- The canonical form of a memory. -/
def Memory.wf (m : Memory) : Bool := memWfFrom 0 m

/-- The keys from lo on, strictly rising. -/
def fmapWfFrom {α : Type} : Nat → FMap α → Bool
  | _, [] => true
  | lo, (a, _) :: m => decide (lo ≤ a) && fmapWfFrom (a + 1) m

/-- Applies f to element n. -/
def modNth {α : Type} (f : α → α) : List α → Nat → List α
  | [], _ => []
  | a :: l, 0 => f a :: l
  | a :: l, n + 1 => a :: modNth f l n

end Sys2Proof.Machine
end

