-- ==== Sys2Proof/Machine/State.lean ====
section
/-! DEFINITION. The state of Benkor as plain data, its faults and refusals, and its state after reset. -/

namespace Sys2Proof.Machine

/-- Why a run stops with a fault. -/
inductive Fault where
  /-- A command carries an operand that no sender can form: a list of bytes of a length that its rule excludes (WellFormed names the lengths). Raised by every meaning with such an operand. Safe: the machine stops. DESIGN CHOICE, log entry 11. -/
  | malformed
  deriving DecidableEq, Repr

/-- Why a command has no meaning. -/
inductive Refusal where
  /-- The command has no meaning in this model yet. Safe: nothing is claimed of it. -/
  | notModelled (mnemonic : String)
  deriving DecidableEq, Repr

/-- A register page (R43 to R48): the common registers as fields, the active words and the shadow words that were written, the sixteen counters. -/
structure Page where
  swapen : Bool := true
  errint : Bool := true
  shlockhit : Bool := false
  cntsat : Bool := false
  errpend : Bool := false
  swppend : Bool := false
  errOvf : Bool := false
  errTenant : Byte := 0#8
  errCode : Byte := 0#8
  errMask : BitVec 18 := 0#18
  gen : BitVec 16 := 0#16
  scope : Bool := false
  arm : Bool := false
  cnt : FMap Word := []
  act : FMap Word := []
  shd : FMap Word := []
  deriving DecidableEq, Repr

/-- The tag state of a slot (R192). -/
inductive TagState where
  | empty | held | full
  deriving DecidableEq, Repr

/-- Who holds a HELD slot (R192). -/
inductive Holder where
  | queue (q : QueueId)
  | onchip
  | remote
  | none
  deriving DecidableEq, Repr

/-- The tag of a slot (R192), with its backing record (R203: the context, the position of the first byte delivered into the slot and that after the last, the descriptor and its effective counts), the FCLK cycle of its last underflow (R199), and, while it is HELD by an arrival, the sending chip, core and stream (R196, R258). -/
structure Tag where
  st : TagState := .empty
  count : Nat := 0
  saved : Nat := 0
  owner : Holder := .none
  src : Nat := 0
  rdpin : Nat := 0
  backed : Bool := false
  backCtx : Nat := 0
  backPos : Nat := 0
  backEnd : Nat := 0
  backRaw : List Byte := []
  backCounts : List Nat := []
  underAt : Option Nat := none
  fromChip : Word := 0#32
  fromCore : Nat := 0
  fromCtx : Nat := 0
  deriving DecidableEq, Repr

/-- An entry of the gather buffer (R206): its row, its 32 bytes, the bytes it holds (bit i for byte i), and when it was allocated. -/
structure Gather where
  row : Nat
  bytes : List Byte
  mask : Nat
  since : Nat
  deriving DecidableEq, Repr

/-- The power phase of a segment (R209, R210). -/
inductive SegPhase where
  | off | ramping | zeroing | up
  deriving DecidableEq, Repr

/-- A segment: its phase and when the phase began. -/
structure Seg where
  phase : SegPhase := .up
  since : Nat := 0
  deriving DecidableEq, Repr

/-- A tag command in progress (R213): its operation and count, its range, the cycle of its write, the next slot that it reaches. -/
structure TagCmd where
  op : Nat
  count : Nat
  first : Nat
  last : Nat
  since : Nat
  next : Nat
  deriving DecidableEq, Repr

/-- The scratchpad of a core: bytes, words with wrong parity (by word number), tags of the slots that are not as after reset, gather buffer (oldest first), segments, tag command, slots locked for a staged image (R393). -/
structure Spd where
  mem : Memory := []
  bad : List Nat := []
  tags : FMap Tag := []
  gather : List Gather := []
  segs : FMap Seg := []
  cmd : Option TagCmd := none
  skipped : Nat := 0
  lock : List Nat := []
  deriving DecidableEq, Repr

/-- An entry fetched by a queue: its ring index, its 64 bytes, whether its CRC held (R160), and what is fetched with it once it is there: the context and group of an SKSTREAM (R221, R234), the fallback entry of a descriptor with FBV = 1 (R305); a fetch of these that met a fault leaves no bytes. -/
structure Fetched where
  idx : Nat
  raw : List Byte
  ok : Bool
  ctx : Option (List Byte) := none
  group : Option (List Byte) := none
  fb : Option (List Byte) := none
  deriving DecidableEq, Repr

/-- What a queue or a refetch asks memory for (R160, R220, R234, R305, R419): the entry of a ring index, the context, group and fallback entry that belong to it, the fallback entry of a test that fired, the bytes of a BACKED slot from an offset of it on; the bytes of an image to be staged from an offset of it on (R392), a frame that pass 2 fetches again (R396), a frame under repair with the cycle of its mismatch (R401). -/
inductive FetchKind where
  | entry (idx : Nat)
  | context (idx : Nat)
  | group (idx : Nat)
  | early (idx : Nat)
  | fallback (idx : Nat)
  | backCtx (slot : Nat)
  | run (slot off : Nat)
  | image (off : Nat)
  | frame (f : Nat)
  | repair (f since : Nat)
  deriving DecidableEq, Repr

/-- Where a fetch stands: it waits for a translation, its request is under way, its bytes are there, it met a translation fault or a line that is lost. -/
inductive FetchStage where
  | asked
  | sent
  | here (data : List Byte)
  | faulted (code : Nat)
  deriving DecidableEq, Repr

/-- A fetch of the core through the READ share (R160, R216): its number, who asked for what, the virtual address (for the bytes of an image the physical one) and the length. -/
structure Fetch where
  n : Nat
  q : QueueId
  kind : FetchKind
  va : Nat
  len : Nat
  stage : FetchStage
  deriving DecidableEq, Repr

/-- An advance of a loop (R154). -/
structure Adv where
  pos : Nat
  field : Nat
  stride : Int
  deriving DecidableEq, Repr

/-- A semaphore with an amount. -/
structure SemAmt where
  sem : Nat
  amt : Nat
  deriving DecidableEq, Repr

/-- An active loop (R177): the ring index of its LOOP, its body length, its latched count, its iteration, its advances, its own signals. -/
structure LoopFrame where
  start : Nat
  len : Nat
  count : Nat
  iter : Nat
  advs : List Adv
  sigs : List SemAmt
  deriving DecidableEq, Repr

/-- A run of bytes of the scratchpad. -/
structure Region8 where
  off : Nat
  len : Nat
  deriving DecidableEq, Repr

/-- The mode of a matrix pass (R96). -/
inductive MxKind where
  | f16 | int | mx
  deriving DecidableEq, Repr

/-- One problem of a pass: its offsets, and its IV, JV, NV. -/
structure Prob where
  xoff : Nat
  xsc : Nat
  woff : Nat
  wsc : Nat
  yoff : Nat
  acco : Nat
  iv : Nat
  jv : Nat
  nv : Nat
  deriving DecidableEq, Repr

/-- A convolution block (R132). -/
structure Conv2 where
  ih : Nat
  iw : Nat
  c : Nat
  ow : Nat
  kh : Nat
  kw : Nat
  sh : Nat
  sw : Nat
  dh : Nat
  dw : Nat
  pt : Nat
  pl : Nat
  p0 : Nat
  kb : Nat
  deriving DecidableEq, Repr

/-- What a matrix pass needs beside its descriptor. -/
structure Pass where
  raw : List Byte
  kind : MxKind
  probs : List Prob
  conv : Option Conv2
  acc : Bool
  rsMode : Nat
  nv : Nat
  deriving DecidableEq, Repr

/-- What the resident record holds of the stationary tile (R119), the scratchpad rows whose writing ends it (R120), and the tile: its bytes as the load brought them, at the addresses they came from. -/
structure Resident where
  stype : Nat
  grp : Nat
  shape : Nat
  xoff : Nat
  xstride : Nat
  xscoff : Nat
  iv : Nat
  jv : Nat
  aux : Nat
  opcode : Nat
  blockBytes : List Byte
  rows : List Nat
  tile : Memory := []
  deriving DecidableEq, Repr

/-- What a unit works on, beside the descriptor and the bytes it reads: for a matrix pass its operands and the record of its tile; for a vector descriptor its seed and effective extents; for a quantise or dequantise also the bank of the scale file, the mode of its rescale block, the capacity of its burl list; for an UPSTEP its groups of 16 parameters; for a fill or a copy its rows. -/
inductive Run where
  | none
  | mx (a : Pass) (r : Resident)
  | vec (seed rows cols : Nat)
  | quant (seed bank rsMode cap rows cols : Nat)
  | upd (n : Nat)
  | move (n : Nat)
  deriving DecidableEq, Repr

/-- What happens in one FCLK cycle of a descriptor's work: a pass begins (R119), a load line is read (R117), its tile is resident (R119), a step enters with what it accumulates onto (R122), operands are read, a unit works through a segment of its operands with so many draws (R309, R330, R344), results are written, the work ends. -/
inductive Act where
  | begin
  | line (rs : List Region8)
  | loaded
  | step (rs : List Region8)
  | read (rs : List Region8)
  | pass (draws : Nat) (rs : List Region8)
  | write
  | finish
  deriving DecidableEq, Repr

/-- An event of a descriptor's work and its FCLK cycle. -/
structure Ev where
  cyc : Nat
  act : Act
  deriving DecidableEq, Repr

/-- A register that a descriptor writes at its completion (R148, R153): true for SHP, false for LC. -/
structure RegWrite where
  shp : Bool
  idx : Nat
  val : Nat
  deriving DecidableEq, Repr

/-- The counts of a descriptor (R103, R104). -/
structure Counts where
  elem : Nat := 0
  sat : Nat := 0
  flush : Nat := 0
  clip : Nat := 0
  nan : Nat := 0
  flat : Nat := 0
  amax : Nat := 0
  deriving DecidableEq, Repr

/-- An entry of the channel scale file (R279). -/
structure ScaleEnt where
  scale : Word := 0x3F800000#32
  zp : Byte := 0#8
  flat : Bool := false
  flatv : Word := 0#32
  deriving DecidableEq, Repr

/-- A value pushed to a history slot at completion (R296). -/
structure HistPush where
  slot : Nat
  val : Word
  deriving DecidableEq, Repr

/-- Where the work of an issued descriptor stands. -/
inductive WorkState where
  | running
  | finished
  | failed (code : Nat) (detail : Word) (page : Nat)
  deriving DecidableEq, Repr

/-- A descriptor that has issued and has not completed (R163): the ring index, the bytes with every advance added, the loops at its issue, its attempt, the slots it pins, holds and consumes, its completion effects (register writes as page, offset and value; counter increments as page, counter and amount; scale-file entries); its work: what it works on, the FCLK cycle from which its events count, the events still to come, the bytes it has read as they stood when they were read, whether it has written any, when its issue window opened, when it completes, until when it holds the array, its load time and the length of a step (R121), the load lines and the later events, counted from the end of its load (R122), the steps that its buffers have in hand (R125); the values that it sampled in its window: QNT_CLIPTHR (R302), the largest value of its history slot (R295). -/
structure Flight where
  idx : Nat
  raw : List Byte
  ctx : List Byte := []
  loops : List LoopFrame := []
  isLoop : Bool := false
  attempt : Nat := 1
  work : WorkState := .running
  pins : List Nat := []
  held : List Nat := []
  inplace : List Nat := []
  consume : List Nat := []
  ocnt : Nat := 0
  tally : Option Nat := none
  counts : Counts := {}
  clipInfo : Option (Nat × Nat) := none
  clipFires : Bool := false
  fallback : Bool := false
  null : Bool := false
  sigs : List SemAmt := []
  endSigs : List SemAmt := []
  regs : List RegWrite := []
  hist : List HistPush := []
  doneTo : Option Nat := none
  run : Run := .none
  start : Nat := 0
  todo : List Ev := []
  img : Memory := []
  wrote : Bool := false
  opened : Nat := 0
  ends : Nat := 0
  busyTo : Nat := 0
  load : Nat := 0
  stepLen : Nat := 1
  tag : Nat := 0
  seed : Option Nat := none
  bank : Option Nat := none
  acc : Bool := false
  waited : Bool := true
  lines : List (List Region8) := []
  tail : List Ev := []
  thr : Nat := 0
  hmax : Option Nat := none
  slack : Nat := 16
  posts : List (Nat × Nat × Nat) := []
  bumps : List (Nat × Nat × Nat) := []
  file : List (Nat × ScaleEnt) := []
  refetched : List Nat := []
  dead : Bool := false
  deriving DecidableEq, Repr

/-- Whether a queue runs or why it does not (R161, R169). -/
inductive QMode where
  | run
  | halted (code : Nat)
  | fault (code : Nat)
  deriving DecidableEq, Repr

/-- A fallback that a clip test called for (R186): the original's descriptor, its bytes once fetched, the attempts that have failed, the fetches whose check failed. -/
structure Fallback where
  orig : Flight
  entry : Option (List Byte)
  tries : Nat
  fetchTries : Nat := 0
  deriving DecidableEq, Repr

/-- A queue of a core (R156 to R171, R177 to R186); waitOn lists the slots that its head was last found to wait for, each with 0 to be read, 1 to be taken, 2 to be taken in place (R162, R246); seeds are those of the descriptors that are to reissue, oldest first (R324). -/
structure Queue where
  tail : Nat := 0
  issue : Nat := 0
  done : Nat := 0
  stop : Bool := false
  stoppedSeen : Bool := false
  mode : QMode := .run
  retries : Nat := 0
  skipWaits : Nat := 0
  seeds : List (Option Nat) := []
  fetchTries : Nat := 0
  buf : List Fetched := []
  loops : List LoopFrame := []
  flights : List Flight := []
  waitRefetch : List Nat := []
  refetched : List Nat := []
  fb : Option Fallback := none
  aged : Bool := false
  refused : Option Nat := none
  waitOn : List (Nat × Nat) := []
  winEnd : Nat := 0
  deriving DecidableEq, Repr

/-- A tenant's 64-bit field of pending mailbox slots and its table entry (R56, R65). -/
structure Tenant where
  ctrl : Word := 0#32
  asid : Word := 0#32
  mbxPage : Word := 0#32
  pend : BitVec 64 := 0#64
  deriving DecidableEq, Repr

/-- A core's ownership register (R58, R59). -/
structure Ownership where
  owned : Bool := false
  zeroed : Bool := false
  felled : Bool := false
  tenant : Byte := 0#8
  deriving DecidableEq, Repr

/-- The state of a stream (SKD_CTXSTAT). -/
inductive StreamState where
  | run | waitslot | halted | aborting | aborted
  deriving DecidableEq, Repr

/-- A visit of a stream to a destination slot (R230, R231): the walk positions it covers so far, and whether the walk has left it. -/
structure Visit where
  slot : Nat
  first : Nat
  upto : Nat
  left : Bool
  deriving DecidableEq, Repr

/-- A request or write of a stream under way: its number, its walk positions, the answers it waits for, and the visit slot it belongs to (a marker has length 0), whether it is a read request (R218). -/
structure Req where
  seq : Nat
  pos : Nat
  len : Nat
  slot : Nat
  waiting : Nat
  marker : Bool
  refused : Bool := false
  read : Bool := false
  deriving DecidableEq, Repr

/-- A halt that a stream has met (R241): its code, the saved position, the fault address, whether open visits are still to be withdrawn, whether a refusal caused it, the DETAIL word of its record, the failing word of a source read. -/
structure Halting where
  code : Nat
  pos : Nat
  lo : Word := 0#32
  hi : Word := 0#32
  report : Bool := false
  nack : Bool := false
  detail : Word := 0#32
  bad : Option Nat := none
  deriving DecidableEq, Repr

/-- A target entry as a stream read it (R259), with what its tenant's REMOTEOK was then (R58). -/
structure Target where
  ok : Bool
  chip : Word
  core : Nat
  win : Nat
  port : Nat
  epoch : Nat
  deriving DecidableEq, Repr

/-- A stream in flight (R219 to R246): its descriptor, its context and group as fetched, its effective counts, its walk position, its state, its open visits and its requests under way; of a transposed block (R228) the bytes read so far and, once all are there, the writes still to be sent, as address and bytes; loose: its slots whose mode has changed under it (R202). -/
structure Stream where
  ctx : Nat
  raw : List Byte
  cbytes : List Byte
  group : List Nat
  counts : List Nat
  total : Nat
  pos : Nat
  st : StreamState := .run
  code : Nat := 0
  halting : Option Halting := none
  lo : Word := 0#32
  hi : Word := 0#32
  visits : List Visit := []
  reqs : List Req := []
  nextSeq : Nat := 0
  held : List Nat := []
  target : Option Target := none
  order : Nat := 0
  xbuf : FMap Byte := []
  block : List (Nat × List Byte) := []
  opened : Nat := 0
  freeing : Bool := false
  nullMarks : List Nat := []
  null : Bool := false
  trans : Option Nat := none
  refetched : List Nat := []
  bad : Option Nat := none
  loose : List Nat := []
  deriving DecidableEq, Repr

/-- A translation held in the cache (R240): the virtual page number in 64 KiB or 2 MiB units, the physical page, the write permission. -/
structure Trans where
  large : Bool
  vpage : Nat
  pa : Nat
  writable : Bool
  deriving DecidableEq, Repr

/-- The three injection shares (R216). -/
structure Shares where
  read : Nat := 0
  write : Nat := 0
  remote : Nat := 0
  since : Nat := 0
  share : Nat := 0
  lastR : Nat := 0
  lastW : Nat := 0
  lastM : Nat := 0
  deriving DecidableEq, Repr

/-- State bytes of a context that wait for their translation (R220). -/
structure Save where
  va : Nat
  data : List Byte
  deriving DecidableEq, Repr

/-- An abort report whose ANSWER is awaited (R243, R264): its destination, its context. -/
structure Await where
  chip : Word
  core : Nat
  ctx : Nat
  deriving DecidableEq, Repr

/-- The skidder of a core: its streams, shares and translations, the BACKED slots to be refetched (R419), the stall count (R246), its fetches, the READ request that waits for its share (R250), the 64 KiB pages whose translation is asked for (R240), the state bytes that wait for theirs (R220), the abort reports sent, oldest first, and the cycle of its last injection. -/
structure Skd where
  streams : List Stream := []
  shares : Shares := {}
  cache : List Trans := []
  refetch : List Nat := []
  stallSince : Nat := 0
  stallCtx : Nat := 0
  stallValid : Bool := false
  issued : Nat := 0
  fetches : List Fetch := []
  nextFetch : Nat := 0
  starved : Option Nat := none
  asked : List Nat := []
  saves : List Save := []
  awaited : List Await := []
  lastOut : Option Nat := none
  deriving DecidableEq, Repr

/-- A window's state beside its registers (R255, R256). -/
structure Win where
  open_ : Bool := false
  epoch : Nat := 0
  guard : Bool := false
  guardEnd : Nat := 0
  stale : Nat := 0
  deriving DecidableEq, Repr

/-- The barrier part of the WIN page (R269). -/
structure Barrier where
  gen : Nat := 0
  arrived : Bool := false
  deriving DecidableEq, Repr

/-- The scale file and the history slots of a core (R279, R295). -/
structure Qnt where
  bankA : FMap ScaleEnt := []
  bankB : FMap ScaleEnt := []
  active : Nat := 0
  hist : FMap (List Word) := []
  deriving DecidableEq, Repr

/-- An error record (R414). -/
structure ErrRec where
  code : Nat
  cls : Nat
  page : Nat
  queue : Nat := 7
  esc : Bool := false
  cruise : Bool := false
  ctx : Nat := 0
  seq : Nat := 0
  attempt : Nat := 0
  ringidx : Nat := 0
  detail : Word := 0#32
  rtime : Word := 0#32
  deriving DecidableEq, Repr

/-- The error logic of a core (R414 to R422). -/
structure ErrUnit where
  fifo : List ErrRec := []
  seq : Nat := 0
  lost : Nat := 0
  hard : List Nat := []
  hardTotal : Nat := 0
  felling : Bool := false
  deriving DecidableEq, Repr

/-- Cruise of a core (R430 to R433). -/
structure Cruise where
  step : Nat := 0
  march : Nat := 0
  running : Bool := false
  failed : Bool := false
  passes : Nat := 0
  since : Nat := 0
  work : Bool := false
  deriving DecidableEq, Repr

/-- The power state of a core (R441). -/
inductive PState where
  | active | doze | sleep | shut | felled
  deriving DecidableEq, Repr

/-- The power control of a core (R440 to R447). -/
structure Pwr where
  st : PState := .shut
  waking : Option PState := none
  descending : Option PState := none
  deadline : Nat := 0
  dataClk : Bool := false
  dataLast : Nat := 0
  meshClk : Bool := false
  meshLast : Nat := 0
  lastWake : Nat := 0
  busyUntil : Nat := 0
  idleSince : Nat := 0
  since : Nat := 0
  deriving DecidableEq, Repr

/-- What a swap participant has seen (R72 to R74). -/
structure Hold where
  held : Bool := false
  quietSent : Bool := false
  at_ : Option Nat := none
  deriving DecidableEq, Repr

/-- A custom operator slot's declaration words (R365). -/
structure SlotDecl where
  info : Word := 0#32
  types : Word := 0#32
  deriving DecidableEq, Repr

/-- A frame's signature entry (R400). -/
structure Sig where
  crc : Word := 0#32
  kind : Nat := 2
  crit : Bool := false
  handle : Nat := 0
  pos : Nat := 0
  deriving DecidableEq, Repr

/-- A regional clock (R356, R357): the setting in force, the one being switched to, a switch under way since when, and whether it is held low for want of a source until a new setting has taken effect. -/
structure Region where
  cur : Word := 0x23#32
  target : Word := 0x23#32
  switching : Bool := false
  since : Nat := 0
  lost : Bool := false
  deriving DecidableEq, Repr

/-- A GVOP on the grove port (R359 to R363): its tag, its descriptor, its rows and columns, the operand beats sent so far, the row and column that the next result beat writes, the counts of a built-in operator's elements (R369), the elements written, whether the grove has answered it, whether it is being aborted. -/
structure PortOp where
  tag : Nat
  raw : List Byte
  rows : Nat
  cols : Nat
  beats : List (List Byte) := []
  row : Nat := 0
  col : Nat := 0
  counts : Counts := {}
  elems : Nat := 0
  answered : Bool := false
  aborting : Bool := false
  deriving DecidableEq, Repr

/-- An OUT beat in the port's buffer (R360, R361): the bytes of a result at their offset with their number of elements, or scatter writes. -/
inductive OutWrite where
  | result (off : Nat) (bytes : List Byte) (n : Nat)
  | scatter (ws : List ScatterWrite)
  deriving DecidableEq, Repr

/-- An OUT beat in the port's buffer (R360): its tag, what it writes, the FCLK cycle in which it has been written. -/
structure OutEntry where
  tag : Nat
  body : OutWrite
  due : Nat
  deriving DecidableEq, Repr

/-- The port between a core and its grove (R359 to R364): its GVOPs, the next tag, the IN beats that the grove has not taken yet and the cycle of the last one taken, the OUT beats that it has not written yet, oldest first, and the OUT credits that the grove holds, the time of its last beat or answer. -/
structure GrovePort where
  ops : List PortOp := []
  nextTag : Nat := 0
  inBuf : List (List Byte) := []
  taken : Option Nat := none
  outBuf : List OutEntry := []
  outFree : Nat := 16
  last : Nat := 0
  deriving DecidableEq, Repr

/-- What the controller keeps of the load of a handle for repairs (R401): the key, the IV, the frame count. -/
structure ImageHdr where
  key : Nat
  iv : List Byte
  nframes : Nat
  deriving DecidableEq, Repr

/-- A frame of the pending table (R394): its number, the CRC of its plaintext, its position in the body. -/
structure PendFrame where
  frame : Nat
  crc : Nat
  pos : Nat
  deriving DecidableEq, Repr

/-- An image load in progress (R392 to R397): its phase (1 staging, 2 pass 1, 3 quiesce, 4 pass 2, 5 release), the words of its command, whether the core was fresh, the staging slots in ascending order, the bytes asked for so far, the keys as they stood when it began (R391), then the header, its key and the pending table, the target frames still to be written, and a frame that is fetched again. -/
structure Load where
  phase : Nat
  handle : Nat
  len : Nat
  fresh : Bool
  slots : List Nat
  asked : Nat := 0
  mask : Nat
  fuses : BitVec 4
  keyReg : Option Nat
  hdr : List Byte := []
  key : Nat := 0
  pend : List PendFrame := []
  todo : List Nat := []
  since : Nat
  refetch : Option Nat := none
  deriving DecidableEq, Repr

/-- A repair of a frame under way (R402). -/
structure Repair where
  frame : Nat
  since : Nat
  deriving DecidableEq, Repr

/-- The grove of a core: its frames, with the contents of the RAM blocks among them (R383), the flip-flops of its cells that are not at their initial values (R348), the pipeline registers of the segments' ends (R353), the data outputs of the RAM ports (R354); its configuration and its scrubber. -/
structure Grove where
  frames : FMap (List Byte) := []
  ffs : FMap Bool := []
  regs : FMap Bool := []
  ramOut : FMap Nat := []
  pads : FMap Bool := []
  sigs : FMap Sig := []
  decls : FMap SlotDecl := []
  engine : Word := 0#32
  regions : FMap Region := []
  halted : Bool := false
  blank : Bool := true
  blanking : Option Nat := none
  port : GrovePort := {}
  load : Option Load := none
  loadCode : Nat := 0
  loadFrames : Nat := 0
  images : FMap ImageHdr := []
  histAvail : Bool := true
  romBlocks : List Nat := []
  passOn : Bool := false
  passStart : Nat := 0
  frame : Nat := 0
  repair : Option Repair := none
  lastMis : Word := 0#32
  passCnt : Nat := 0
  tmrFail : Bool := false
  deriving DecidableEq, Repr

/-- One core (R32): its register pages by index, its scratchpad, its queues and units. -/
structure Core where
  pages : FMap Page := []
  spd : Spd := {}
  mxq : Queue := {}
  vxq : Queue := {}
  skq : Queue := {}
  upq : Queue := {}
  gvq : Queue := {}
  bankAged : FMap Nat := []
  mxa : Option Resident := none
  gatedRem : Nat := 0
  drawRem : Nat := 0
  skd : Skd := {}
  wins : FMap Win := []
  barrier : Barrier := {}
  qnt : Qnt := {}
  grv : Grove := {}
  err : ErrUnit := {}
  cruise : Cruise := {}
  pwr : Pwr := {}
  hold : Hold := {}
  releasing : Option Nat := none
  order : FMap (Nat × Nat) := []
  deriving DecidableEq, Repr

/-- A node of the mesh (R30). -/
inductive Node where
  | core (c : Nat)
  | land (p : Nat) (k : Nat)
  | torus (p : Nat)
  | root
  deriving DecidableEq, Repr

/-- What a flit carries (R217, R253, R264). -/
inductive FlitKind where
  | readReq | readResp | yardWrite | arrival | marker | pullReq | pullResp | ack | nack | command
  deriving DecidableEq, Repr

/-- A flit in the mesh (R25 to R28): its channel, its ends, the routers still before it, the router that holds it and the port by which it came in, the members that a multicast flit is still to reach from there (R235), its parity failures at the present hop; the stream or fetch it belongs to (a fetch as context 1,024); what it carries, the header of a VC2 flit or of a VC3 command. -/
structure Flit where
  id : Nat
  vc : Nat
  src : Node
  dst : Node
  route : List (Nat × Nat)
  here : Option (Nat × Nat) := none
  inPort : Nat := 4
  tree : List Nat := []
  fails : Nat := 0
  resend : Bool := false
  kind : FlitKind
  core : Nat
  ctx : Nat
  seq : Nat
  addr : Nat := 0
  off : Nat := 0
  len : Nat := 0
  data : List Byte := []
  start : Bool := false
  ocnt : Nat := 0
  code : Nat := 0
  hint : Nat := 0
  group : List Nat := []
  hdr : Option RemoteHdr := none
  cmd : Option WinCmd := none
  deriving DecidableEq, Repr

/-- A yard line (R236): its line number within the stack, its dirty bit, its 256 bytes. -/
structure Line where
  num : Nat
  dirty : Bool
  data : List Byte
  deriving DecidableEq, Repr

/-- A landing port with its yard (R236, R412): sets of lines, most recently used first; requests that wait for memory; lost lines; stopped by a lost-line overflow. -/
structure Yard where
  sets : FMap (List Line) := []
  waiting : List Flit := []
  lost : List Nat := []
  stopped : Bool := false
  deriving DecidableEq, Repr

/-- A forwarded copy whose answer is awaited (R263): the flit's header, or the header of the abort report and its body, to answer upstream, the port it came in by, the answer of this chip's own core. -/
structure Forward where
  n : Nat
  hdr : Option RemoteHdr
  report : Option (WinCmd × List Byte)
  port : Nat
  own : Nat
  deriving DecidableEq, Repr

/-- A job loaded on this chip (R68, R70), with its swaps (R75 to R78) and barriers (R269): the arrivals that the head chip has counted, by generation and chip, whether this chip has arrived, the last generation that passed. -/
structure Job where
  jobid : Word
  tenant : Byte
  role : Nat
  nchips : Nat
  head : Word
  cores : List Nat
  gen : Nat := 0
  phase : Nat := 0
  since : Nat := 0
  ready : List Word := []
  done : List Word := []
  resends : Nat := 0
  taken : Nat := 0
  arrived : List (Nat × Word) := []
  chipArrived : Bool := false
  barGen : Nat := 0
  deriving DecidableEq, Repr

/-- A swap participant as the controller sees it (R72). -/
structure Part where
  core : Nat
  quiet : Bool := false
  deriving DecidableEq, Repr

/-- A swap in progress (R72 to R78): its tenant, its job for a job swap, its generation, the edge g, its participants, the edge T once sent, whether the pages have changed. -/
structure Swap where
  tenant : Byte
  job : Option Word
  gen : Nat := 0
  g : Nat
  parts : List Part
  sentAt : Option Nat := none
  exchanged : Bool := false
  ending : Bool := false
  deferred : List (Nat × Word) := []
  deriving DecidableEq, Repr

/-- A mailbox command block that the management processor has taken (R65, R66): for a job, its JOBID, the cores whose release or load is awaited, and how many it releases. -/
structure Taken where
  tenant : Byte
  slot : Nat
  block : List Byte
  job : Word := 0#32
  ending : List Nat := []
  started : Bool := false
  count : Nat := 0
  deriving DecidableEq, Repr

/-- A record waiting for the journal writer (R427), with the time at which it entered the queue. -/
structure JRec where
  ty : Nat
  payload : List Byte
  rtime : Word
  entered : Nat := 0
  deriving DecidableEq, Repr

/-- The ring journal (R426 to R429): the MRAM, the active half, its fill, the next SEQ, the BOOT count, the writer's queue, FENCE records that wait for room, the end of the last write, a compaction under way (the bytes and the first SEQ of its snapshot, its beginning), a requested one, the zeroing of the retired half (words zeroed, time of the last). -/
structure Journal where
  mram : Memory := []
  half : Nat := 0
  fill : Nat := 0
  seq : Nat := 0
  boot : Nat := 0
  queue : List JRec := []
  fences : List JRec := []
  lastEnd : Nat := 0
  compacting : Bool := false
  snapFill : Nat := 0
  snapSeq : Nat := 0
  snapSince : Nat := 0
  compactReq : Bool := false
  zeroing : Option (Nat × Nat) := none
  deriving DecidableEq, Repr

/-- The key store (R389, R390). -/
structure Keys where
  fuseValid : BitVec 4 := 0#4
  reg : Nat := 0
  regValid : Bool := false
  staged : List Word := []
  lock : Bool := false
  battLost : Bool := false
  deriving DecidableEq, Repr

/-- A fabric I/O bank (R372 to R374, R377). -/
structure Bank where
  supplyOk : Bool := false
  mismatch : Bool := false
  clkOk : Bool := false
  tsLo : Word := 0#32
  tsHi : Word := 0#32
  tsInfo : Word := 0#32
  deriving DecidableEq, Repr

/-- A fabric I/O pin's event logic (R376 to R378). -/
structure Pin where
  level : Bool := false
  lastChange : Nat := 0
  armed : Bool := true
  storm : Bool := false
  stuck : Bool := false
  supp : Nat := 0
  winStart : Nat := 0
  winCount : Nat := 0
  stuckFrom : Option Nat := none
  deliver : List (Nat × Nat) := []
  deriving DecidableEq, Repr

/-- The latches that a port keeps (R52, R377, R417), and what its last read command returned. -/
structure Latch where
  rtimeHi : Word := 0#32
  tsHi : FMap Word := []
  errRec : FMap (Word × Word × Word) := []
  data : List Byte := []
  deriving DecidableEq, Repr

/-- What leaves the block (R2): tenant events (R53), VC2 flits by a torus port (R251), VC3 commands to a core of another chip by a torus port, and to a chip or to every other chip of a job (R264), traffic to memory controllers, lookups of the translation service (R240), answers of the mailbox (R66), data for requesters outside (R238), commands and beats with their markers to a grove (R359, R360, R363). -/
inductive Out where
  | tenantEvent (t : Byte) (cause : Nat)
  | torus (p : Nat) (h : RemoteHdr) (payload : List Byte)
  | torusCmd (p : Nat) (h : WinCmd) (body : List Byte)
  | chipCmd (dst : Word) (body : List Byte)
  | jobCmd (job : Word) (body : List Byte)
  | memWrite (stack : Nat) (line : Nat) (data : List Byte)
  | memRead (stack : Nat) (line : Nat)
  | lookup (core : Nat) (asid : Word) (va : Nat) (write : Bool)
  | mailbox (t : Byte) (slot : Nat) (result : Word) (reason state : Nat)
  | external (pa : Nat) (data : List Byte)
  | groveCmd (core : Nat) (tag : Nat) (slot : Nat) (args : List Byte)
  | groveBeat (core : Nat) (tag : Nat) (rowEnd last : Bool) (beat : List Byte)
  | groveAbort (core : Nat) (tag : Nat)
  deriving DecidableEq, Repr

/-- Where initialisation stands (R451 to R454): power-good, the last step completed, READY, a stop under R454, a warm reset with its write-back under way, the beginning of the present step. -/
structure Boot where
  powered : Bool := false
  step : Nat := 0
  ready : Bool := false
  stopped : Bool := false
  warm : Bool := false
  writeback : Bool := false
  since : Nat := 0
  deriving DecidableEq, Repr

/-- The whole block: the commands that wait, the FCLK cycle and the one in which power-good rose, then its units; pageOrder holds, of each page that was written in the present RCLK cycle, that cycle and the place of the last port (R8), links of each mesh link that has carried a flit the cycle of the last one and the last of VC0 to VC2 (R25, R26). -/
structure State where
  pending : List Instr := []
  now : Nat := 0
  origin : Nat := 0
  boot : Boot := {}
  blk : Page := {}
  evt : Page := {}
  jnlPage : Page := {}
  fioPage : Page := {}
  tenPages : FMap Page := []
  evPend : Byte := 0#8
  tenants : FMap Tenant := []
  owners : FMap Ownership := []
  cores : FMap Core := []
  jobs : List Job := []
  swaps : List Swap := []
  pageOrder : FMap (Nat × Nat) := []
  mbxNext : Nat := 0
  taken : List Taken := []
  mesh : List Flit := []
  nextFlit : Nat := 0
  failedLinks : List ((Nat × Nat) × Nat) := []
  links : FMap (Nat × Nat) := []
  yards : FMap Yard := []
  forwards : List Forward := []
  nextForward : Nat := 0
  jnl : Journal := {}
  keys : Keys := {}
  banks : FMap Bank := []
  pins : FMap Pin := []
  latchM : Latch := {}
  latchH : Latch := {}
  latchV : Latch := {}
  outbox : List Out := []
  free : Nat := 0
  deriving DecidableEq, Repr

/-- The block as shipped (R459) before power-good rises: every register at its reset value, no initialisation step done, the MRAM all zeros, no key valid, no command waiting (DESIGN CHOICE, log entry 1). -/
def State.reset : State := {}

end Sys2Proof.Machine
end

