-- ==== Sys2Proof/Machine/RegTable.lean ====
section
/-! DEFINITION. The registers of every page: offsets, writable bits, write-one-to-clear bits, reset values, set or live, from the register tables of the chapters. -/

namespace Sys2Proof.Machine

/-- One row of a page's register table: registers at base + stride × n for n below count, the bits that software writes, the bits it clears by writing 1, the bits whose write acts (WO), the reset value, and whether the register is a set register (R48). -/
structure RegRow where
  base : Nat
  stride : Nat := 4
  count : Nat := 1
  rw : Nat := 0
  w1c : Nat := 0
  wo : Nat := 0
  rst : Nat := 0
  set : Bool := false
  deriving DecidableEq, Repr

/-- The BLK page (R51, R52, R459). -/
def rowsBlk : List RegRow :=
  [{ base := 0x40, count := 2 }, { base := 0x48 }, { base := 0x4C, rw := 0xFFFFFFFF },
   { base := 0x50, count := 2 }, { base := 0x58, wo := 0x3F },
   { base := 0x5C, rw := 0xFFFFFF, rst := 0xF4240 }, { base := 0x60 }]

/-- The EVT page (R52, R53). -/
def rowsEvt : List RegRow :=
  [{ base := 0x40, w1c := 0xFF }, { base := 0x44, rw := 0xFF }, { base := 0x48, count := 38 }]

/-- The JNL page (R390, R436). -/
def rowsJnl : List RegRow :=
  [{ base := 0x40, count := 3 }, { base := 0x4C, wo := 1 }, { base := 0x50, wo := 0xF00007FF },
   { base := 0x54, rw := 0x1FFFFC }, { base := 0x58 }, { base := 0x7C0, rw := 0x80000000, wo := 3 },
   { base := 0x7C4, wo := 0xFFFFFFFF }, { base := 0x7C8, w1c := 0x40 }]

/-- The FIO page (R381). -/
def rowsFio : List RegRow :=
  [{ base := 0x40, count := 4, rw := 0x8F000000 }, { base := 0x50, count := 4, w1c := 8 },
   { base := 0x60, count := 96, rw := 0xFFFFF000, rst := 0x3088000 },
   { base := 0x1E0, count := 96, rw := 0xFFFFFFF8 },
   { base := 0x360, count := 96, wo := 0x80000000, rst := 0x40000000 },
   { base := 0x4E0, stride := 12, count := 4 }, { base := 0x4E4, stride := 12, count := 4 },
   { base := 0x4E8, stride := 12, count := 4, w1c := 0xC0000000 }]

/-- TEN pages 0 to 3 (R56) and 4 to 6 (R58). -/
def rowsTen (u : Nat) : List RegRow :=
  if u < 4 then
    [{ base := 0x40, stride := 16, count := 64, rw := 0xFF8007FF },
     { base := 0x44, stride := 16, count := 64, rw := 0xFFFF },
     { base := 0x48, stride := 16, count := 64, rw := 0xFFFFFFFF },
     { base := 0x4C, stride := 16, count := 64 }]
  else [{ base := 0x40, count := 400, rw := 0x800000FF }]

/-- The block of queue registers at base; FB registers are implemented for MXQ and VXQ only (R156). -/
def rowsQueue (base : Nat) (fb : Bool) : List RegRow :=
  [{ base := base, rw := 0xFFFFFFDF, set := true }, { base := base + 4, rw := 0xFFF, set := true },
   { base := base + 8, rw := if fb then 0xFFFFFFC0 else 0, set := true },
   { base := base + 12, rw := if fb then 0xFFF else 0, set := true },
   { base := base + 16 }, { base := base + 20 }, { base := base + 24, rw := 1, wo := 0xE }, { base := base + 28 }]

/-- The CQ page (R156). -/
def rowsCq : List RegRow :=
  [{ base := 0x40, count := 5, wo := 0xFFFF }] ++ rowsQueue 0x60 true ++ rowsQueue 0x80 true ++
  rowsQueue 0xA0 false ++ rowsQueue 0xC0 false ++ rowsQueue 0xE0 false ++
  [{ base := 0x100, count := 8, rw := 0xFFFF, set := true }, { base := 0x120, count := 16, rw := 0xFFFFFFFF, set := true },
   { base := 0x160, count := 16, rw := 0xFFFFFFFF, set := true }]

/-- The SEMA page (R172). -/
def rowsSema : List RegRow :=
  [{ base := 0x40, count := 32, rw := 0xFFFF }, { base := 0xC0, wo := 0x1FFFFF }, { base := 0xC4, w1c := 0xFFFFFFFF }]

/-- The MXA page (R136). -/
def rowsMxa : List RegRow := [{ base := 0x40, rw := 3, set := true }, { base := 0x44, count := 3 }]

/-- The VEC page (R329). -/
def rowsVec : List RegRow := [{ base := 0x40, count := 4, rw := 0xFFFFFFFF, set := true }, { base := 0x50 }]

/-- The UPD page (R346). -/
def rowsUpd : List RegRow := [{ base := 0x40, count := 2, rw := 0x83FF03FF, set := true }, { base := 0x48, count := 2 }]

/-- The SPD page (R214). -/
def rowsSpd : List RegRow :=
  [{ base := 0x40, count := 4, rw := 0x83FF03FF, set := true }, { base := 0x50, rw := 0x0FFF0FFF, rst := 0x0FFF0FFF },
   { base := 0x54, w1c := 0x0FFF0000 }, { base := 0x58, rw := 0x3FF }, { base := 0x5C },
   { base := 0x60, wo := 0xFE0FFFFF }, { base := 0x64 }, { base := 0x68, wo := 1 }, { base := 0x6C }]

/-- The SKD page (R249). -/
def rowsSkd : List RegRow :=
  [{ base := 0x40, rw := 0xFFFFF000, set := true }, { base := 0x44, rw := 0xFFF, set := true },
   { base := 0x48, rw := 0xFFFFF000, set := true }, { base := 0x4C, rw := 0xFFF, set := true },
   { base := 0x50, rw := 0xFFFFFF, rst := 0x186A0, set := true }, { base := 0x54, rw := 0x1FF07FF },
   { base := 0x58, wo := 0xF00003FF }, { base := 0x5C, rw := 0x3FF }, { base := 0x60, count := 5 }]

/-- The WIN page (R271). -/
def rowsWin : List RegRow :=
  [{ base := 0x40, stride := 16, count := 64, rw := 0x7FFF0000 }, { base := 0x44, stride := 16, count := 64, rw := 0x3FF03FF },
   { base := 0x48, stride := 16, count := 64 }, { base := 0x4C, stride := 16, count := 64 },
   { base := 0x440, stride := 12, count := 64, rw := 0xFFFFFFFF }, { base := 0x444, stride := 12, count := 64, rw := 0xFFC007FF },
   { base := 0x448, stride := 12, count := 64, rw := 0xFFFF }, { base := 0x740, wo := 0xF83FFFFF },
   { base := 0x744, rw := 0x800003FF }, { base := 0x748 }, { base := 0x74C }, { base := 0x750, wo := 0xF000FFFF }]

/-- The TLY page (R106). -/
def rowsTly : List RegRow := [{ base := 0x40, count := 7 }, { base := 0x5C, wo := 1 }]

/-- The QNT page (R306). -/
def rowsQnt : List RegRow :=
  [{ base := 0x40, rw := 0x8000FFFF, set := true }, { base := 0x44, w1c := 8 }, { base := 0x48 },
   { base := 0x4C, rw := 0xC00003FF }, { base := 0x50, wo := 0xFFFFFFFF }, { base := 0x54, wo := 0xFFFFFFFF },
   { base := 0x58, wo := 0x1FF }, { base := 0x5C, rw := 0xFF }, { base := 0x60 },
   { base := 0x64, count := 16, rw := 0x1F, wo := 0x80000000, rst := 0x10 }]

/-- The GRV page (R379). -/
def rowsGrv : List RegRow :=
  [{ base := 0x40, count := 4, rw := 0x1F3, rst := 0x23, set := true }, { base := 0x50, w1c := 0xF00 },
   { base := 0x54, rw := 0xFFFFF, rst := 0x2710, set := true }, { base := 0x58, rst := 0xF1111 }, { base := 0x5C },
   { base := 0x60, rw := 0xF }, { base := 0x64, count := 3 }]

/-- The SCB page (R407). -/
def rowsScb : List RegRow :=
  [{ base := 0x40, rw := 1, wo := 2, rst := 1 }, { base := 0x44 }, { base := 0x48, stride := 8, count := 4, rw := 0xFFFFFFC0 },
   { base := 0x4C, stride := 8, count := 4, rw := 0xFFFF }, { base := 0x68, wo := 0xF001FFFF }, { base := 0x6C, count := 3 },
   { base := 0x78, rw := 0x7FF }, { base := 0x7C, count := 2 }]

/-- The PWR page (R456). -/
def rowsPwr : List RegRow :=
  [{ base := 0x40 }, { base := 0x44, rw := 0xC0000000, w1c := 8, wo := 7, rst := 0xC0000000 },
   { base := 0x48, rw := 0xFFFF, rst := 0x400 }, { base := 0x4C, rw := 0xFFFFFF, rst := 0x30D40 }]

/-- The ERR page (R434). -/
def rowsErr : List RegRow :=
  [{ base := 0x40, rw := 7, rst := 2 }, { base := 0x44, w1c := 0x80000000 }, { base := 0x48, count := 4 },
   { base := 0x58, wo := 0x1FF }, { base := 0x5C, w1c := 0x80000000 },
   { base := 0x60, rw := 0x80000F0F, rst := 0x80000A02 }, { base := 0x64 },
   { base := 0x68, rw := 0x800FFFFF, rst := 0x800186A0 }, { base := 0x6C, count := 2 }]

/-- The rows of core page i (R50). -/
def rowsCore : Nat → List RegRow
  | 0 => rowsCq | 1 => rowsSema | 2 => rowsMxa | 3 => rowsVec | 4 => rowsUpd | 5 => rowsSpd | 6 => rowsSkd
  | 7 => rowsWin | 8 => rowsTly | 9 => rowsQnt | 10 => rowsGrv | 11 => rowsScb | 12 => rowsPwr | 13 => rowsErr
  | _ => []

/-- The rows of a page. -/
def rowsOf : PageRef → List RegRow
  | .blk => rowsBlk | .evt => rowsEvt | .jnl => rowsJnl | .fio => rowsFio
  | .ten u => rowsTen u.val
  | .core _ i => rowsCore i.val

/-- The row among rs that holds offset off. -/
def findRow (rs : List RegRow) (off : Nat) : Option RegRow :=
  rs.find? fun r => r.base ≤ off && (off - r.base) % r.stride == 0 && (off - r.base) / r.stride < r.count

/-- The page swaps (R50). -/
def swappableIdx (i : Nat) : Bool := [0, 2, 3, 4, 5, 6, 9, 10].contains i

/-- The common registers of every page (R43). -/
def commonOff (off : Nat) : Bool :=
  [0x0, 0x4, 0x8, 0x10, 0x14, 0x18, 0x1C, 0x20].contains off || (0xFC0 ≤ off && off % 4 == 0 && off < 0x1000)

/-- Offset off of a core page i or a global page exists: a common register, a register of the active set, or the shadow word of a register of a swappable page (R43, R48). -/
def offExists (pg : PageRef) (off : Nat) : Bool :=
  commonOff off || (findRow (rowsOf pg) off).isSome ||
  match pg with
  | .core _ i => swappableIdx i.val && 0x800 ≤ off && off < 0xFC0 && (findRow (rowsCore i.val) (off - 0x7C0)).isSome
  | _ => false

/-- PAGE_CAPS.ACTWORDS of a page (R50). -/
def actWords : PageRef → Nat
  | .blk => 9 | .evt => 40 | .jnl => 483 | .fio => 308
  | .ten u => if u.val < 4 then 256 else 400
  | .core _ i => ([88, 34, 4, 5, 4, 12, 13, 453, 8, 25, 12, 17, 4, 13])[i.val]?.getD 0

/-- PAGE_ID.TYPE of a page (R50). -/
def pageType : PageRef → Nat
  | .blk => 1 | .evt => 2 | .jnl => 3 | .fio => 4 | .ten _ => 5
  | .core _ i => 0x10 + i.val

/-- What a block address names (R49). -/
inductive AddrKind where
  | page (p : PageRef) (off : Nat)
  | spd (c : CoreId) (off : Nat)
  | reserved
  deriving DecidableEq, Repr

/-- Where a block address lies (R49). -/
def decodeAddr (a : Nat) : AddrKind :=
  if a < 0xB000 then
    let off := a % 0x1000
    match a / 0x1000 with
    | 0 => .page .blk off
    | 1 => .page .evt off
    | 2 => .page .jnl off
    | 3 => .page .fio off
    | k + 4 => if h : k < 7 then .page (.ten ⟨k, h⟩) off else .reserved
  else if a < 0x1000000 then .reserved
  else if a < 0x5B00000 then
    let c := (a - 0x1000000) / 0x10000
    let i := a / 0x1000 % 16
    if h : c < 1200 then if g : i < 14 then .page (.core ⟨c, h⟩ ⟨i, g⟩) (a % 0x1000) else .reserved else .reserved
  else if a < 0x100000000 then .reserved
  else
    let c := (a - 0x100000000) / 0x100000
    let o := a % 0x100000
    if h : c < 1200 then if o < 0xC0000 then .spd ⟨c, h⟩ o else .reserved else .reserved

end Sys2Proof.Machine
end

