-- ==== Sys2Proof/Machine/Ops.lean ====
section
/-! DEFINITION. The named operations over the state: cores, pages, counters, errors and events, the journal queue, power wakes, tags, the scratchpad with its gather buffer and parity, semaphores, ports. -/

namespace Sys2Proof.Machine

/-- The outcome of a command. -/
abbrev Out1 := Host.Outcome State Fault Refusal

/-! Cores and pages. -/

/-- Core c. -/
def getCore (s : State) (c : Nat) : Core := fget s.cores c {}

/-- s with core c replaced. -/
def putCore (s : State) (c : Nat) (k : Core) : State := { s with cores := fset s.cores c k }

/-- s with f applied to core c. -/
def modCore (s : State) (c : Nat) (f : Core → Core) : State := putCore s c (f (getCore s c))

/-- Page i of a core. -/
def kPage (k : Core) (i : Nat) : Page := fget k.pages i {}

/-- k with f applied to page i. -/
def modKPage (k : Core) (i : Nat) (f : Page → Page) : Core := { k with pages := fset k.pages i (f (kPage k i)) }

/-- A page of the block. -/
def getPage (s : State) : PageRef → Page
  | .blk => s.blk
  | .evt => s.evt
  | .jnl => s.jnlPage
  | .fio => s.fioPage
  | .ten u => fget s.tenPages u.val {}
  | .core c i => kPage (getCore s c.val) i.val

/-- s with f applied to a page. -/
def modPage (s : State) (pg : PageRef) (f : Page → Page) : State :=
  match pg with
  | .blk => { s with blk := f s.blk }
  | .evt => { s with evt := f s.evt }
  | .jnl => { s with jnlPage := f s.jnlPage }
  | .fio => { s with fioPage := f s.fioPage }
  | .ten u => { s with tenPages := fset s.tenPages u.val (f (fget s.tenPages u.val {})) }
  | .core c i => modCore s c.val fun k => modKPage k i.val f

/-- The stored active word at off of a page whose rows are rs: the written one, else its reset value. -/
def actWord (rs : List RegRow) (p : Page) (off : Nat) : Word :=
  match fget? p.act off with
  | some w => w
  | none => word (((findRow rs off).map (·.rst)).getD 0)

/-- The stored shadow word that mirrors active offset off. -/
def shdWord (rs : List RegRow) (p : Page) (off : Nat) : Word :=
  match fget? p.shd off with
  | some w => w
  | none => word (((findRow rs off).map (·.rst)).getD 0)

/-- p with active word off set. -/
def setAct (p : Page) (off : Nat) (w : Word) : Page := { p with act := fset p.act off w }

/-- Register off of page i of a core, as a number. -/
def kReg (k : Core) (i off : Nat) : Nat := (actWord (rowsCore i) (kPage k i) off).toNat

/-- k with register off of page i set. -/
def setKReg (k : Core) (i off v : Nat) : Core := modKPage k i fun p => setAct p off (word v)

/-- Register off of a global page. -/
def gReg (s : State) (pg : PageRef) (off : Nat) : Nat := (actWord (rowsOf pg) (getPage s pg) off).toNat

/-- The event counter n of p plus amt, stopping at 0xFFFF_FFFF with CNTSAT (R46). -/
def bump (p : Page) (n amt : Nat) : Page :=
  let v := (fget p.cnt n 0#32).toNat + amt
  if amt = 0 then p
  else if v ≥ 0xFFFFFFFF then { p with cnt := fset p.cnt n 0xFFFFFFFF#32, cntsat := true }
  else { p with cnt := fset p.cnt n (word v) }

/-- Counter n of page i of a core plus amt. -/
def kBump (k : Core) (i n : Nat) (amt : Nat := 1) : Core := modKPage k i fun p => bump p n amt

/-- Counter n of the BLK page plus 1. -/
def blkBump (s : State) (n : Nat) : State := { s with blk := bump s.blk n 1 }

/-! Time (R12, R37, R52). -/

/-- BLK_RTIME: RCLK cycles since power-good. -/
def rtime (s : State) : Nat := (s.now - s.origin) / 17

/-- BLK_RTIME bits 31:0. -/
def rtimeLo (s : State) : Word := word (rtime s)

/-- RCLK cycles as FCLK cycles. -/
def rclk (n : Nat) : Nat := n * 17

/-! Tenants and ownership (R54 to R59). -/

/-- The entry of tenant t. -/
def getTenant (s : State) (t : Nat) : Tenant := fget s.tenants t {}

/-- s with f applied to the entry of tenant t. -/
def modTenant (s : State) (t : Nat) (f : Tenant → Tenant) : State :=
  { s with tenants := fset s.tenants t (f (getTenant s t)) }

/-- The ownership of core c. -/
def getOwner (s : State) (c : Nat) : Ownership := fget s.owners c {}

/-- s with f applied to the ownership of core c. -/
def modOwner (s : State) (c : Nat) (f : Ownership → Ownership) : State :=
  { s with owners := fset s.owners c (f (getOwner s c)) }

/-- Tenant t has VALID set (R56). -/
def tenValid (s : State) (t : Nat) : Bool := wbit (getTenant s t).ctrl 31
/-- Tenant t has SUSPEND set. -/
def tenSuspend (s : State) (t : Nat) : Bool := wbit (getTenant s t).ctrl 30
/-- Tenant t has GROVEOK set. -/
def tenGroveOk (s : State) (t : Nat) : Bool := wbit (getTenant s t).ctrl 29
/-- Tenant t has REMOTEOK set. -/
def tenRemoteOk (s : State) (t : Nat) : Bool := wbit (getTenant s t).ctrl 28
/-- KEYMASK of tenant t. -/
def tenKeyMask (s : State) (t : Nat) : Nat := wfld (getTenant s t).ctrl 23 5
/-- MAXCORES of tenant t, above 1,200 acting as 1,200. -/
def tenMax (s : State) (t : Nat) : Nat := min 1200 (wfld (getTenant s t).ctrl 0 11)

/-- TEN_USE.CORES of tenant t: how many cores it owns. -/
def tenCores (s : State) (t : Nat) : Nat :=
  (s.owners.filter fun e => e.2.owned && e.2.tenant.toNat == t).length

/-- The tenant that owns core c. -/
def ownerOf (s : State) (c : Nat) : Option Nat :=
  let o := getOwner s c
  if o.owned then some o.tenant.toNat else none

/-- SUSPEND of the tenant that owns core c (R57). -/
def suspended (s : State) (c : Nat) : Bool :=
  match ownerOf s c with
  | some t => tenSuspend s t
  | none => false

/-- The job that core c belongs to (R40). -/
def jobOfCore (s : State) (c : Nat) : Option Job := s.jobs.find? fun j => j.cores.contains c

/-- The job with that JOBID: the first where two have it, which no check of R69 excludes (DESIGN CHOICE, log entry 193). -/
def jobById (s : State) (id : Word) : Option Job := s.jobs.find? fun j => j.jobid == id

/-- s with f applied to the job of that JOBID. -/
def modJob (s : State) (id : Word) (f : Job → Job) : State :=
  { s with jobs := s.jobs.map fun j => if j.jobid == id then f j else j }

/-- BLK_TORUS (R51). -/
def torusHere (s : State) : Word := actWord rowsBlk s.blk 0x4C

/-! Events and output (R53). -/

/-- Bits of EVT_PEND. -/
def evCORE : Nat := 0
def evTENANT : Nat := 1
def evMBX : Nat := 2
def evSWAP : Nat := 3
def evFELL : Nat := 4
def evSCRUB : Nat := 5
def evJNL : Nat := 6
def evFIO : Nat := 7

/-- Sets a bit of EVT_PEND. -/
def evSet (s : State) (b : Nat) : State := { s with evPend := s.evPend ||| BitVec.ofNat 8 (2 ^ b) }

/-- s with x sent out of the block. -/
def emit (s : State) (x : Out) : State := { s with outbox := s.outbox ++ [x] }

/-- Sends tenant t an event of class cls with cause bits 11:0. -/
def tenEvent (s : State) (t cls low : Nat) : State := emit s (.tenantEvent (BitVec.ofNat 8 t) (cls * 4096 + low % 4096))

/-- Sends the owner of core c an event of class cls. -/
def ownerEvent (s : State) (c cls : Nat) : State :=
  match ownerOf s c with
  | some t => tenEvent s t cls c
  | none => s

/-! The queue of the journal writer (R426, R427). -/

/-- Puts a record into the writer's queue: a FENCE record that finds it full waits for room, any other is dropped and counted. -/
def jnlPush (s : State) (ty : Nat) (payload : List Byte) : State :=
  let r : JRec := { ty := ty, payload := payload, rtime := rtimeLo s, entered := s.now }
  if s.jnl.queue.length < 16 then { s with jnl := { s.jnl with queue := s.jnl.queue ++ [r] } }
  else if ty = 2 then { s with jnl := { s.jnl with fences := s.jnl.fences ++ [r] } }
  else { s with jnlPage := bump s.jnlPage 2 1 }

/-- The four words of an error record (R414). -/
def recWords (r : ErrRec) : Word × Word × Word × Word :=
  (word (r.code * 2 ^ 24 + r.cls * 2 ^ 22 + r.page * 2 ^ 18 + r.queue * 2 ^ 15 + b2n r.esc * 2 ^ 14 + b2n r.cruise * 2 ^ 13 + r.ctx % 1024),
   word (r.seq % 256 * 2 ^ 24 + r.attempt % 16 * 2 ^ 16 + r.ringidx % 65536), r.detail, r.rtime)

/-- The 16 bytes of an error record. -/
def recBytes (r : ErrRec) : List Byte :=
  let w := recWords r
  natLe 4 w.1.toNat ++ natLe 4 w.2.1.toNat ++ natLe 4 w.2.2.1.toNat ++ natLe 4 w.2.2.2.toNat

/-- An ERROR record of the journal for core c, or 0xFFFF for the block (R426). -/
def jnlError (s : State) (c : Nat) (r : ErrRec) : State :=
  jnlPush s 4 (natLe 2 c ++ natLe 2 0 ++ recBytes r ++ natLe 24 0)

/-! Errors (R46, R414 to R416). -/

/-- PAGE_ERR and ERRPEND of a page after an error, and whether it raises an event (R46). -/
def pageErr (p : Page) (code cls tenant : Nat) : Page × Bool :=
  let fatal := cls == 2
  let p1 := if p.errCode = 0#8 then
      { p with errCode := BitVec.ofNat 8 code, errTenant := if code = 9 then BitVec.ofNat 8 tenant else 0#8 }
    else { p with errOvf := true }
  let seen := fatal || !(p.errMask.toNat.testBit (code - 1))
  ({ p1 with errpend := p.errpend || seen }, seen && (p.errint || fatal))

/-- The bit of EVT_PEND that an error of the BLK page raises: E_TENANT its own (R53), a refusal by a felled core FELL, a job swap that cannot commit SWAP (DEDUCED, log entry 180). -/
def blkEvent (code : Nat) : Nat := if code = 9 then evTENANT else if code = 0x11 then evFELL else evSWAP

/-- Records an error in the BLK page, and raises its event where R46 asks for one. -/
def blkErr (s : State) (code cls tenant : Nat) : State :=
  let (p, ev) := pageErr s.blk code cls tenant
  if ev then evSet { s with blk := p } (blkEvent code) else { s with blk := p }

/-- Records a refused tenant-stamped access in the BLK page (R55): counter 1 counts it. -/
def refuseBlk (s : State) (code tenant : Nat) : State := blkBump (blkErr s code 1 tenant) 1

/-- Puts a record behind every record of its class or a higher one (R415). -/
def fifoInsert (r : ErrRec) : List ErrRec → List ErrRec
  | [] => [r]
  | a :: l => if a.cls < r.cls then r :: a :: l else a :: fifoInsert r l

/-- Drops the newest record of the lowest class present. -/
def fifoDropLast : List ErrRec → List ErrRec
  | l => l.take (l.length - 1)

/-- The lowest class in a FIFO kept in order of class. -/
def fifoLowest (l : List ErrRec) : Nat := (l.getLast?.map (·.cls)).getD 0

/-- A record meets the FIFO (R416): the FIFO after it and whether a record was dropped. -/
def fifoEnter (r : ErrRec) (l : List ErrRec) : List ErrRec × Bool :=
  if l.length < 16 then (fifoInsert r l, false)
  else if r.cls > fifoLowest l || r.cls = 2 then (fifoInsert r (fifoDropLast l), true)
  else (l, true)

/-- A core's FIFO and ERR page after a record (R414 to R416). -/
def errEnter (k : Core) (r : ErrRec) : Core :=
  let (f, dropped) := fifoEnter r k.err.fifo
  let k1 := { k with err := { k.err with fifo := f, seq := (k.err.seq + 1) % 256,
                                         lost := if dropped then min 65535 (k.err.lost + 1) else k.err.lost } }
  let k2 := if dropped then setKReg k1 13 0x44 (kReg k1 13 0x44 ||| 0x80000000) else k1
  let k3 := if dropped && f == k.err.fifo then k2 else kBump k2 13 0
  if r.cls = 2 then
    let w := kReg k3 13 0x5C
    if w.testBit 31 then setKReg k3 13 0x5C (w - fld w 8 8 * 256 + min 255 (fld w 8 8 + 1) * 256)
    else setKReg k3 13 0x5C (0x80000000 + r.code * 65536 + r.page * 16)
  else k3

/-- An error detected by a unit or page of core c (R46, R414): the FIFO record, the page's PAGE_ERR, the event; a fatal one also enters the journal (R427). -/
def coreErr (s : State) (c : Nat) (r0 : ErrRec) : State :=
  let k := getCore s c
  let r := { r0 with seq := k.err.seq, rtime := rtimeLo s }
  let (p, ev) := pageErr (kPage k r.page) r.code r.cls 0
  let k1 := errEnter (modKPage k r.page fun _ => p) r
  let s1 := putCore s c k1
  let s2 := if ev then evSet s1 evCORE else s1
  if r.cls = 2 then jnlError s2 c r else s2

/-! Power (R440 to R446). -/

/-- k with f applied to its power control. -/
def modPwr (k : Core) (f : Pwr → Pwr) : Core := { k with pwr := f k.pwr }

/-- The wake time of a state in FCLK cycles (R441). -/
def wakeTime : PState → Nat
  | .active => 0 | .doze => 40 | .sleep => 3400 | .shut => 34000 | .felled => 0

/-- The PWR counter of the time spent in a state (R457). -/
def stateCounter : PState → Option Nat
  | .active => some 0 | .doze => some 1 | .sleep => some 2 | .shut => some 3 | .felled => none

/-- Adds the RCLK cycles since the last accounting to the counter of the present state (R457). -/
def account (k : Core) (now : Nat) : Core :=
  match stateCounter k.pwr.st with
  | some n =>
    let d := now / 17 - k.pwr.since / 17
    modPwr (kBump k 12 n d) fun p => { p with since := now }
  | none => modPwr k fun p => { p with since := now }

/-- Starts an ascent to goal (R443 to R446) with LASTWAKE cause; an entry under way to DOZE or SLEEP is reversed at once (R444). -/
def wakeTo (k : Core) (now : Nat) (goal : PState) (cause : Nat) : Core :=
  let p := k.pwr
  let p1 := match p.descending with
    | some .doze => { p with descending := none }
    | some .sleep => { p with descending := none }
    | _ => p
  let from_ := if p.descending = some .shut then PState.shut else p1.st
  if from_ = .active || from_ = .felled then { k with pwr := p1 }
  else if p1.waking.isSome then
    { k with pwr := { p1 with waking := if p1.waking = some .active then some .active else some goal } }
  else
    let n := match from_ with
      | .doze => 4 | .sleep => 5 | _ => 6
    kBump { k with pwr := { p1 with waking := some goal, deadline := now + wakeTime from_, lastWake := cause } } 12 n

/-- A wake event in any state but FELLED (R443). -/
def wake (k : Core) (now cause : Nat) : Core := if k.pwr.st = .felled then k else wakeTo k now .active cause

/-- A wake event that acts in DOZE only (R443), or on an entry to DOZE that has not completed. -/
def wakeDoze (k : Core) (now cause : Nat) : Core :=
  if k.pwr.st = .doze || k.pwr.descending = some .doze then wakeTo k now .active cause else k

/-- Starts the data branch of a core that is not ACTIVE (R440). -/
def touchData (k : Core) (now : Nat) : Core :=
  if k.pwr.st = .active || k.pwr.st = .felled then k
  else if k.pwr.dataClk then modPwr k fun p => { p with dataLast := now }
  else kBump (modPwr k fun p => { p with dataClk := true, dataLast := now }) 12 8

/-- Work has reached the core: it is not idle (R430), and a cruise step under way is to yield (R432). -/
def noteWork (k : Core) (now : Nat) : Core :=
  { k with pwr := { k.pwr with idleSince := now }, cruise := { k.cruise with work := k.cruise.work || k.cruise.running } }

/-- Something was in flight until now (R442). -/
def noteBusy (k : Core) (now : Nat) : Core :=
  { k with pwr := { k.pwr with busyUntil := now, idleSince := now } }

/-- Counts that the SEMA page holds, for comparing. -/
def semaWords (k : Core) : FMap Word := (kPage k 1).act

/-- A change of tag or semaphore count between k0 and k wakes a core in DOZE (R443). -/
def wakeOnChange (k0 k : Core) (now : Nat) : Core :=
  if k0.spd.tags = k.spd.tags && semaWords k0 = semaWords k then k else wakeDoze k now 2

/-- s with f applied to core c, waking it if a tag or a semaphore changed. -/
def modCoreW (s : State) (c : Nat) (f : Core → Core) : State :=
  modCore s c fun k => wakeOnChange k (f k) s.now

/-! Slots and tags (R188, R191 to R203). -/

/-- The tag of slot n. -/
def tagOf (k : Core) (n : Nat) : Tag := fget k.spd.tags n {}

/-- k with f applied to its scratchpad. -/
def modSpd (k : Core) (f : Spd → Spd) : Core := { k with spd := f k.spd }

/-- k with the tag of slot n set. -/
def setTag (k : Core) (n : Nat) (t : Tag) : Core := modSpd k fun d => { d with tags := fset d.tags n t }

/-- SPD_UTAG word u declares slot n untagged (R200). -/
def utagHas (u n : Nat) : Bool :=
  u.testBit 31 && fld u 0 10 ≤ fld u 16 10 && fld u 16 10 ≤ 767 && fld u 0 10 ≤ n && n ≤ fld u 16 10

/-- Slot n lies in a declared untagged range (R200). -/
def untagged (k : Core) (n : Nat) : Bool :=
  utagHas (kReg k 5 0x40) n || utagHas (kReg k 5 0x44) n || utagHas (kReg k 5 0x48) n || utagHas (kReg k 5 0x4C) n

/-- Slot n is locked for a staged image (R393). -/
def lockedSlot (k : Core) (n : Nat) : Bool := k.spd.lock.contains n

/-- Segment g is powered and zeroed (R210). -/
def segUp (k : Core) (g : Nat) : Bool := (fget k.spd.segs g {}).phase == .up

/-- The slots of n bytes from o on (R191). -/
def slotsOf (o n : Nat) : List Nat :=
  if n = 0 then [] else (List.range ((o + n - 1) / 1024 - o / 1024 + 1)).map (o / 1024 + ·)

/-- Writes the masked bytes of a gather entry to memory; words it covers take correct parity (R206). -/
def gatherApply (d : Spd) (g : Gather) : Spd :=
  let idx := onesOf 32 g.mask
  { d with mem := idx.foldl (fun m i => memSet m (g.row * 32 + i) (g.bytes[i]?.getD 0#8)) d.mem,
           bad := d.bad.filter fun w => !(w / 8 == g.row && g.mask.testBit (w % 8 * 4)) }

/-- The resident record of the array goes when a row that sel picks is written (R120). -/
def touchRows (k : Core) (sel : Nat → Bool) : Core :=
  match k.mxa with
  | some m => if m.rows.any sel then { k with mxa := none } else k
  | none => k

/-- Writes and frees the gather entries that sel picks (R206). -/
def gatherFlush (k : Core) (sel : Gather → Bool) : Core :=
  modSpd (touchRows k fun r => k.spd.gather.any fun g => sel g && g.row == r) fun d =>
    { (d.gather.filter sel).foldl gatherApply d with gather := d.gather.filter fun g => !sel g }

/-- The gather entries of rows r0 to r1 are written before the rows are read (R206, event 3; SPD counter 6). -/
def flushRows (k : Core) (r0 r1 : Nat) : Core :=
  let sel := fun g : Gather => r0 ≤ g.row && g.row ≤ r1
  kBump (gatherFlush k sel) 5 6 (k.spd.gather.filter sel).length

/-- The gather entries of a slot are written before its tag changes state (R206, event 5). -/
def flushSlot (k : Core) (n : Nat) : Core := gatherFlush k fun g => g.row / 32 == n

/-- k with the tag of slot n replaced, the slot's gather entries written first where the state changes; an EMPTY slot has no backing (R203). -/
def changeTag (k : Core) (n : Nat) (t : Tag) : Core :=
  let t1 := if t.st = .empty then { t with backed := false } else t
  if (tagOf k n).st = t1.st then setTag k n t1 else setTag (flushSlot k n) n t1

/-- The first word with wrong parity, in ascending address, among those that sel picks (R205). -/
def firstBad (k : Core) (sel : Nat → Bool) : Option Nat :=
  (k.spd.bad.filter sel).foldl (fun a w => some (match a with
    | some v => min v w
    | none => w)) none

/-- The first word with wrong parity among rows r0 to r1. -/
def badIn (k : Core) (r0 r1 : Nat) : Option Nat := firstBad k fun w => r0 * 8 ≤ w && w < r1 * 8 + 8

/-- The first word with wrong parity among the words of n bytes from o on. -/
def badWords (k : Core) (o n : Nat) : Option Nat :=
  if n = 0 then none else firstBad k fun w => o / 4 ≤ w && w ≤ (o + n - 1) / 4

/-- The bytes of n offsets from o on, gather entries included. -/
def spdBytes (k : Core) (o n : Nat) : List Byte := memRead k.spd.mem o n

/-- Writes whole bytes at o with no parity check: the words covered whole take correct parity. -/
def spdPoke (k : Core) (o : Nat) (bs : List Byte) : Core :=
  modSpd (touchRows k fun r => bs ≠ [] && o / 32 ≤ r && r ≤ (o + bs.length - 1) / 32) fun d =>
    { d with mem := memWrite d.mem o bs, bad := d.bad.filter fun w => !(o ≤ w * 4 && w * 4 + 4 ≤ o + bs.length) }

/-- A write of a path other than the gather buffer (R190, R206 events 3 and 4): the gather entries of its rows are written first; a partial word is merged after the parity of its row is checked; the failing word otherwise. -/
def spdWrite (k : Core) (o : Nat) (bs : List Byte) : Except Nat Core :=
  if bs = [] then .ok k
  else
    let r0 := o / 32
    let r1 := (o + bs.length - 1) / 32
    let headPart := o % 4 ≠ 0
    let tailPart := (o + bs.length) % 4 ≠ 0
    let rows := (if headPart then [r0] else []) ++ (if tailPart && !(headPart && r0 = r1) then [r1] else [])
    let k1 := gatherFlush (rows.foldl (fun k r => flushRows k r r) k) fun g => r0 ≤ g.row && g.row ≤ r1
    match rows.findSome? fun r => badIn k1 r r with
    | some w => .error w
    | none => .ok (kBump (spdPoke k1 o bs) 5 4 rows.length)

/-- Merges a narrow write of whole words into the gather buffer (R206): into the entry of its row, or into a free one, the oldest being written first when all eight are used. -/
def gatherWrite (k : Core) (o : Nat) (bs : List Byte) (now : Nat) : Core :=
  let row := o / 32
  let have_ := k.spd.gather.any fun g => g.row == row
  let k1 := if have_ || k.spd.gather.length < 8 then k
    else match k.spd.gather with
      | g :: _ => kBump (gatherFlush k fun e => e.row == g.row) 5 7
      | [] => k
  let add := fun g : Gather => { g with bytes := splice g.bytes (o % 32) bs, mask := g.mask ||| ((2 ^ bs.length - 1) <<< (o % 32)) }
  let k2 := if have_ then modSpd k1 fun d => { d with gather := d.gather.map fun g => if g.row == row then add g else g }
    else modSpd k1 fun d => { d with gather := d.gather ++ [add { row := row, bytes := List.replicate 32 0#8, mask := 0, since := now }] }
  gatherFlush k2 fun g => g.mask == 0xFFFFFFFF

/-- The part of a narrow write that lies in one row (R206, R257): a whole row goes straight to the banks; of a narrower part the bytes of partial words go by read-merge-write, the whole words through the gather buffer. -/
def rowStore (k : Core) (o : Nat) (bs : List Byte) (now : Nat) : Except Nat Core :=
  if bs.length = 32 then spdWrite k o bs
  else
    let h := min bs.length ((4 - o % 4) % 4)
    let m := (bs.length - h) / 4
    let whole := fun k : Core => (List.range m).foldl (fun k i => gatherWrite k (o + h + 4 * i) (slice bs (h + 4 * i) 4) now) k
    match spdWrite k o (bs.take h) with
    | .error w => .error w
    | .ok k1 =>
      match spdWrite k1 (o + h + 4 * m) (bs.drop (h + 4 * m)) with
      | .error w => .error w
      | .ok k2 => .ok (whole k2)

/-- The rows of a write, one after another; nothing is written where a partial word's row has wrong parity (R195). -/
def rowStores : Nat → Core → Nat → List Byte → Nat → Except Nat Core
  | 0, k, _, _, _ => .ok k
  | n + 1, k, o, bs, now =>
    if bs = [] then .ok k
    else
      let l := min bs.length (32 - o % 32)
      match rowStore k o (bs.take l) now with
      | .ok k1 => rowStores n k1 (o + l) (bs.drop l) now
      | .error w => .error w

/-- An arrival's bytes row by row: whole rows to the banks, narrower parts through the gather buffer, partial words by read-merge-write (R206, R257). -/
def arrivalStore (k : Core) (o : Nat) (bs : List Byte) (now : Nat) : Except Nat Core := rowStores (bs.length + 1) k o bs now

/-- SPD_ERRADDR after a parity error in word w (R205, R214). -/
def errAddr (k : Core) (w : Nat) : Core :=
  let v := kReg k 5 0x6C
  let r := w / 8 % 2048
  let g := w / 16384
  if v.testBit 31 then setKReg k 5 0x6C (v ||| 0x40000000)
  else setKReg k 5 0x6C (0x80000000 + (16 * (g % 3) + r % 16) * 2 ^ 24 + w * 4)

/-- The SPD_ERRADDR layout of a failing word, for DETAIL (R414). -/
def addrDetail (w : Nat) : Word :=
  let r := w / 8 % 2048
  let g := w / 16384
  word (0x80000000 + (16 * (g % 3) + r % 16) * 2 ^ 24 + w * 4)

/-- The SPD page of core c records E_PARITY for word w (R205). -/
def parityRecord (s : State) (c w : Nat) (r : ErrRec) : State :=
  coreErr (modCore s c fun k => kBump (errAddr k w) 5 3) c { r with code := 1, page := 5, detail := addrDetail w }

/-! Semaphores (R172 to R175). -/

/-- The count of semaphore n. -/
def semGet (k : Core) (n : Nat) : Nat := kReg k 1 (0x40 + 4 * n) % 65536

/-- k with semaphore n set. -/
def semPut (k : Core) (n v : Nat) : Core := setKReg k 1 (0x40 + 4 * n) v

/-- Adds to a semaphore, stopping at 65,535 with its SEMA_OVF bit set (R174). -/
def semAdd (k : Core) (n amt : Nat) : Core :=
  if semGet k n + amt > 65535 then
    kBump (setKReg (semPut k n 65535) 1 0xC4 (kReg k 1 0xC4 ||| 2 ^ n)) 1 2
  else semPut k n (semGet k n + amt)

/-- A signal of a completing descriptor (R164, R176): counter 1. -/
def signal (k : Core) (a : SemAmt) : Core := kBump (semAdd k a.sem a.amt) 1 1

/-! Queues of a core. -/

/-- Queue q of a core. -/
def getQ (k : Core) : QueueId → Queue
  | .mxq => k.mxq | .vxq => k.vxq | .skq => k.skq | .upq => k.upq | .gvq => k.gvq

/-- k with queue q replaced. -/
def putQ (k : Core) : QueueId → Queue → Core
  | .mxq, x => { k with mxq := x } | .vxq, x => { k with vxq := x } | .skq, x => { k with skq := x }
  | .upq, x => { k with upq := x } | .gvq, x => { k with gvq := x }

/-- k with f applied to queue q. -/
def modQ (k : Core) (q : QueueId) (f : Queue → Queue) : Core := putQ k q (f (getQ k q))

/-- The queue's index (R104). -/
def qIdx : QueueId → Nat
  | .mxq => 0 | .vxq => 1 | .skq => 2 | .upq => 3 | .gvq => 4

/-- The page of the unit that runs a queue's descriptors (R50). -/
def qUnitPage : QueueId → Nat
  | .mxq => 2 | .vxq => 3 | .skq => 6 | .upq => 4 | .gvq => 10

/-- The five queues in service order (R175). -/
def allQ : List QueueId := [.mxq, .vxq, .skq, .upq, .gvq]

/-- The register block of a queue in the CQ page (R156). -/
def qBlock (q : QueueId) : Nat := 0x60 + 0x20 * qIdx q

/-- LOG2SIZE of the queue's ring. -/
def ringLog (k : Core) (q : QueueId) : Nat := fld (kReg k 0 (qBlock q)) 0 5

/-- Descriptors in flight of a queue, loop markers apart (R163); an original whose fallback has not issued yet is still one (R186). -/
def inFlight (x : Queue) : Nat :=
  let n := (x.flights.filter fun f => !f.isLoop).length
  if n = 0 && x.fb.isSome then 1 else n

/-- k with f applied to its cruise state. -/
def modCruise (k : Core) (f : Cruise → Cruise) : Core := { k with cruise := f k.cruise }

/-- A cruise step is abandoned and every unit that it tested is returned; it will run again from its start (R432). -/
def cruiseYield (k : Core) : Core :=
  if k.cruise.running then kBump { modCruise k fun x => { x with running := false, work := false } with mxa := none } 13 8 else k

/-- Any descriptor in flight on the core. -/
def anyFlight (k : Core) : Bool := allQ.any fun q => 0 < inFlight (getQ k q)

/-- The grove runs a GVOP (GRV_STATUS.BUSY). -/
def groveBusy (k : Core) : Bool := !k.grv.port.ops.isEmpty

/-- No descriptor, stream or cruise step in flight and the grove not BUSY (R442, R446). -/
def quietUnits (k : Core) : Bool :=
  !anyFlight k && k.skd.streams.isEmpty && !k.cruise.running && !groveBusy k

/-- The core is idle as far as its queues, streams and grove go (R430). -/
def idleUnits (k : Core) : Bool :=
  (allQ.all fun q => let x := getQ k q; x.issue == x.done && x.done == x.tail) && k.skd.streams.isEmpty && !groveBusy k

/-! Injection shares (R216). -/

/-- The shares with what they have gained by now, up to 512 bytes each (R216). -/
def accrue (x : Shares) (now : Nat) : Shares :=
  let d := now - x.since
  { x with read := min 512 (x.read + 128 * d), write := min 512 (x.write + 64 * d), remote := min 512 (x.remote + 64 * d), since := now }

/-- The shares after share i served context ctx with n bytes (R216): the rotations go on behind them; the core's fetches stand behind the contexts as 1,024. -/
def shareServe (x : Shares) (i ctx n : Nat) : Shares :=
  let y := { x with share := (i + 1) % 3 }
  match i with
  | 0 => { y with read := x.read - n, lastR := ctx + 1 }
  | 1 => { y with write := x.write - n, lastW := ctx + 1 }
  | _ => { y with remote := x.remote - n, lastM := ctx + 1 }

/-! Ports (R44, R51 to R55, R424, R453). -/

/-- The latches of a port. -/
def getLatch (s : State) : Port → Latch
  | .mgmt => s.latchM | .host _ => s.latchH | .vc3 _ => s.latchV

/-- s with f applied to the latches of a port. -/
def modLatch (s : State) (p : Port) (f : Latch → Latch) : State :=
  match p with
  | .mgmt => { s with latchM := f s.latchM }
  | .host _ => { s with latchH := f s.latchH }
  | .vc3 _ => { s with latchV := f s.latchV }

/-- The data that a read returns to its port (DESIGN CHOICE, log entry 14). -/
def answerRead (s : State) (p : Port) (bs : List Byte) : State := modLatch s p fun l => { l with data := bs }

/-- The tenant stamped on an access (R54). -/
def portTenant : Port → Option Nat
  | .mgmt => none
  | .host t => some t.toNat
  | .vc3 t => some t.toNat

/-- A tenant may write core page i (R50). -/
def tenantWr (i : Nat) : Bool := i < 14 && i != 11 && i != 12

/-- The tenant rule of R55 for a core's page or scratchpad: the recorded refusal, or none. -/
def coreRefusal (s : State) (t c : Nat) (allowed : Bool) : Option Nat :=
  if (getOwner s c).felled then some 0x11
  else if ownerOf s c = some t && tenValid s t && allowed then none else some 9

/-- The next free value (DESIGN CHOICE, log entry 16). -/
def takeFree (s : State) : Word × State := (Config.freeWord s.free, { s with free := s.free + 1 })

/-- The next free choice (DESIGN CHOICE, log entry 16). -/
def takeChoice (s : State) : Nat × State := (Config.freeChoice s.free, { s with free := s.free + 1 })

end Sys2Proof.Machine
end

