-- ==== Sys2Proof/Machine/Flags.lean ====
section
/-! DEFINITION. The counts of a descriptor, its tally record and the TLY totals (R103 to R107); the status fields that registers compute from the state. -/

namespace Sys2Proof.Machine

/-- Counts added together, the largest AMAX kept (R107). -/
def Counts.add (a b : Counts) : Counts :=
  { elem := a.elem + b.elem, sat := a.sat + b.sat, flush := a.flush + b.flush, clip := a.clip + b.clip,
    nan := a.nan + b.nan, flat := a.flat + b.flat, amax := max a.amax b.amax }

/-- The tally record (R104). -/
def tallyRecord (c : Counts) (opcode q status ringIdx : Nat) (t : Word) : List Byte :=
  natLe 4 (min c.elem 0xFFFFFFFF) ++ natLe 4 c.sat ++ natLe 4 c.flush ++ natLe 4 c.clip ++ natLe 4 c.nan ++ natLe 4 c.flat ++
  natLe 4 c.amax ++ natLe 1 opcode ++ natLe 1 q ++ natLe 1 status ++ natLe 1 0 ++ natLe 4 ringIdx ++ natLe 4 t.toNat ++ natLe 24 0

/-- One running total of the TLY page plus n, stopping at 0xFFFF_FFFF (R106). -/
def tlyAdd (k : Core) (off n : Nat) : Core :=
  if n = 0 then k else setKReg k 8 off (min 0xFFFFFFFF (kReg k 8 off + n))

/-- The TLY totals after a completed descriptor (R106, R107). -/
def tlyTotals (k : Core) (c : Counts) : Core :=
  let k1 := tlyAdd (tlyAdd (tlyAdd (tlyAdd (tlyAdd (tlyAdd k 0x40 c.elem) 0x44 c.sat) 0x48 c.flush) 0x4C c.clip) 0x50 c.nan) 0x54 c.flat
  if c.amax % 2 ^ 31 > kReg k1 8 0x58 then setKReg k1 8 0x58 (c.amax % 2 ^ 31) else k1

/-- The TLY page cleared (R106). -/
def tlyClear (k : Core) : Core :=
  [0x40, 0x44, 0x48, 0x4C, 0x50, 0x54, 0x58].foldl (fun k o => setKReg k 8 o 0) k

/-! The bits of a descriptor (R139). -/

/-- OPCODE. -/
def opOf (raw : List Byte) : Nat := leAt raw 0 1
/-- FLAGS bit i. -/
def flagOf (raw : List Byte) (i : Nat) : Bool := (leAt raw 1 1).testBit i

/-- The queue runs at all: STOP is 0, SUSPEND is 0, no swap HOLD is in force (R162, item 1). -/
def mayIssue (s : State) (c : Nat) (q : QueueId) : Bool :=
  let k := getCore s c
  !(getQ k q).stop && !suspended s c && !k.hold.held

/-- The SKD_CTXSTAT.STATE code of a stream. -/
def streamCode : StreamState → Nat
  | .run => 1 | .waitslot => 2 | .halted => 3 | .aborting => 4 | .aborted => 5

/-- The PWR_STATE.STATE code. -/
def pstateCode : PState → Nat
  | .active => 0 | .doze => 1 | .sleep => 2 | .shut => 3 | .felled => 4

/-- The SPD_TAGVAL.STATE code (R214). -/
def tagCode : TagState → Nat
  | .empty => 0 | .held => 1 | .full => 2

/-- The SPD_TAGVAL.OWNER code (R214). -/
def holderCode : Holder → Nat
  | .queue q => qIdx q
  | .onchip => 5 | .remote => 6 | .none => 7

/-- SPD_TAGVAL for slot n (R214). -/
def tagVal (k : Core) (n : Nat) : Nat :=
  if n > 767 then 0
  else if untagged k n then 0x80000000
  else
    let t := tagOf k n
    let cnt := match t.st with
      | .full => t.count | .held => t.saved | .empty => 0
    b2n t.backed * 2 ^ 30 + tagCode t.st * 2 ^ 28 + cnt * 2 ^ 24 + holderCode t.owner * 2 ^ 21 +
      (if t.owner = .onchip || t.owner = .remote then t.src % 2048 else 0) * 2 ^ 10 + t.rdpin % 128

/-- CQ_qSTATE of a queue (R156): what its head waits for is computed by the caller. -/
def qStateWord (s : State) (c : Nat) (q : QueueId) (wslot wsem wfetch wflight : Bool) : Nat :=
  let k := getCore s c
  let x := getQ k q
  let code := match x.mode with
    | .run => 0 | .halted n => n | .fault n => n
  let waiting := wslot || wsem || wfetch || wflight
  let st := if suspended s c || k.hold.held then 6
    else match x.mode with
      | .halted _ => 4
      | .fault _ => 5
      | .run =>
        if x.stop && inFlight x = 0 then 3
        else if x.issue = x.tail && inFlight x = 0 then 0
        else if 0 < inFlight x || !waiting then 1 else 2
  st * 2 ^ 28 + min 4 x.loops.length * 2 ^ 25 + b2n wslot * 2 ^ 24 + b2n wsem * 2 ^ 23 + b2n wfetch * 2 ^ 22 +
    b2n wflight * 2 ^ 21 + code * 256 + min 255 x.retries

end Sys2Proof.Machine
end

