-- ==== Sys2Proof/Machine/Release.lean ====
section
/-! DEFINITION. Undoing the slot effects of descriptors, draining a core, releasing it (R60), hard errors and felling (R421 to R425). -/

namespace Sys2Proof.Machine

/-- Unpins the slots (R193). -/
def unpin (k : Core) (ns : List Nat) : Core :=
  ns.foldl (fun k n => if untagged k n then k else setTag k n { tagOf k n with rdpin := (tagOf k n).rdpin - 1 }) k

/-- Pins the slots (R193). -/
def pin (k : Core) (ns : List Nat) : Core :=
  ns.foldl (fun k n => if untagged k n then k else setTag k n { tagOf k n with rdpin := (tagOf k n).rdpin + 1 }) k

/-- A slot goes back to EMPTY, pins kept (R194). -/
def emptySlot (k : Core) (n : Nat) : Core :=
  if untagged k n then k else changeTag k n { (tagOf k n) with st := .empty, count := 0, saved := 0, owner := .none, src := 0, backed := false }

/-- HELD slots that a local writer took go back to EMPTY (R194). -/
def emptyHeld (k : Core) (ns : List Nat) : Core :=
  ns.foldl (fun k n => if (tagOf k n).st = .held then emptySlot k n else k) k

/-- In-place slots go back to FULL with their former counts (R167), no longer BACKED (R203). -/
def restoreInplace (k : Core) (ns : List Nat) : Core :=
  ns.foldl (fun k n => if untagged k n then k else
    let t := tagOf k n
    if t.st = .held then changeTag k n { t with st := .full, count := t.saved, saved := 0, owner := .none, backed := false } else k) k

/-- The slot effects of an attempt that failed are undone: HELD slots become EMPTY, in-place ones included, pins are released (R194). -/
def releaseFailed (k : Core) (f : Flight) : Core := unpin (emptyHeld k (f.held ++ f.inplace)) f.pins

/-- An accumulation in place that has written a row (R167): it cannot start again. -/
def rowWritten (f : Flight) : Bool := f.acc && f.wrote

/-- The slot effects of an abandoned descriptor are undone (R167): in-place slots go back to FULL unless a row was written. -/
def releaseAbandoned (k : Core) (f : Flight) : Core :=
  let k1 := emptyHeld k f.held
  unpin (if rowWritten f then emptyHeld k1 f.inplace else restoreInplace k1 f.inplace) f.pins

/-- Every slot that an arrival from a source holds becomes EMPTY (R196). -/
def emptyArrivals (k : Core) (sel : Tag → Bool) : Core :=
  (k.spd.tags.filter fun e => (tagOf k e.1).st == .held && sel (tagOf k e.1)).foldl (fun k e => emptySlot k e.1) k

/-- A window. -/
def getWin (k : Core) (n : Nat) : Win := fget k.wins n {}

/-- k with f applied to window n. -/
def modWin (k : Core) (n : Nat) (f : Win → Win) : Core := { k with wins := fset k.wins n (f (getWin k n)) }

/-- Slots HELD by arrivals through window n. -/
def winHeld (k : Core) (n : Nat) : Nat :=
  (k.spd.tags.filter fun e => e.2.st == .held && e.2.owner == .remote && e.2.src == n).length

/-- Closes an open window (R256): the epoch advances, its HELD slots become EMPTY, its guard begins. -/
def closeWin (k : Core) (n now : Nat) : Core :=
  let k1 := emptyArrivals k fun t => t.owner == .remote && t.src == n
  kBump (modWin k1 n fun w => { w with open_ := false, epoch := (w.epoch + 1) % 65536, guard := true, guardEnd := now + rclk 8192 }) 7 5

/-- Closes every open window of a core. -/
def closeAll (k : Core) (now : Nat) : Core :=
  (k.wins.filter fun e => e.2.open_).foldl (fun k e => closeWin k e.1 now) k

/-- The 32-byte body of a VC3 command (R264): OP, reserved bytes, job ID, 24 bytes of arguments. -/
def cmdBody (op : Nat) (job : Word) (args : List Byte) : List Byte :=
  natLe 4 op ++ natLe 4 job.toNat ++ args.take 24 ++ List.replicate (24 - args.length) 0#8

/-- OP, job ID and arguments of a body. -/
def bodyOp (b : List Byte) : Nat := leAt b 0 1
def bodyJob (b : List Byte) : Word := word (leAt b 4 4)
def bodyArg (b : List Byte) (o n : Nat) : Nat := leAt b o n

/-- DIR of a stream (R149). -/
def streamDir (st : Stream) : Nat := leAt st.raw 0x12 1

/-- The cores on this chip to which a stream sends arrivals (R231). -/
def streamDests (st : Stream) : List Nat := if st.group ≠ [] then st.group else if streamDir st = 2 then [leAt st.raw 0x20 2] else []

/-- The slots of its own core that a stream holds (R229, item 5, R230). -/
def ownHeld (st : Stream) : List Nat := if streamDir st = 0 && st.group = [] then st.held ++ st.visits.map (·.slot) else []

/-- A stream begins to abort: it asks for nothing more (R243). -/
def beginAbort (st : Stream) : Stream :=
  let code := if st.st = .halted then st.code else (st.halting.map (·.code)).getD 0
  { st with st := .aborting, code := code, trans := none, bad := none, halting := some { code := code, pos := st.pos, report := true } }

/-- Every stream of a core is aborted, to be freed when its abort ends (R60, R243, R244); one that is ABORTED is freed at once. -/
def abortStreams (k : Core) : Core :=
  let go : Stream → Stream := fun st => if st.st = .aborting then { st with freeing := true } else { beginAbort st with freeing := true }
  { k with skd := { k.skd with streams := (k.skd.streams.filter fun st => st.st ≠ .aborted).map go, refetch := [], fetches := [] } }

/-- The grove is set to the blank configuration (R384): every region's clock held, every in-flight GVOP gone. -/
def startBlank (k : Core) (now : Nat) : Core :=
  { k with grv := { k.grv with blanking := some now, port := {}, load := none, passOn := false, repair := none },
           spd := { k.spd with lock := [] } }

/-- The queues stop and every descriptor in flight is abandoned and never completes (R60, R423). -/
def dropQueues (k : Core) : Core :=
  let k1 := allQ.foldl (fun k q => ((getQ k q).flights ++ ((getQ k q).fb.map (·.orig)).toList).foldl releaseFailed k) k
  allQ.foldl (fun k q => modQ k q fun x => { x with waitOn := [], stop := true, flights := [], fb := none, loops := [], buf := [], waitRefetch := [] }) k1

/-- Drains a core for its release or its felling: queues, streams, windows, grove, in this order (R60, steps 1 to 4). -/
def drainCore (s : State) (c : Nat) : State :=
  modCore s c fun k => { startBlank (closeAll (abortStreams (dropQueues k)) s.now) s.now with mxa := none }

/-! Barriers (R269). -/

/-- BLK_TORUS of the head chip of a job. -/
def headChip (s : State) (j : Job) : Word := if j.role = 2 then j.head else torusHere s

/-- Every core of the job on this chip has arrived or is FELLED (R269, step 2). -/
def allArrived (s : State) (j : Job) : Bool := j.cores.all fun c => (getCore s c).barrier.arrived || (getOwner s c).felled

/-- Every core of the job on this chip is FELLED. -/
def allFelled (s : State) (j : Job) : Bool := j.cores.all fun c => (getOwner s c).felled

/-- This chip's arrival for gen goes out, on a member chip, or is noted, on the head chip (R269). -/
def noteArrival (s : State) (j : Job) (gen : Nat) : State :=
  let s1 := modJob s j.jobid fun j => { j with chipArrived := true }
  if j.role = 2 then emit s1 (.chipCmd j.head (cmdBody 0x22 j.jobid (natLe 2 gen)))
  else modJob s1 j.jobid fun i => { i with arrived := i.arrived ++ [(gen, torusHere s)] }

/-- PASS(gen) on this chip (R269, step 4); a chip whose cores are all FELLED arrives for the next barrier at once. -/
def barrierPass (s : State) (job : Word) (gen : Nat) : State :=
  match jobById s job with
  | none => s
  | some j =>
    let s1 := j.cores.foldl (fun s c => modCoreW s c fun k =>
      let cfg := kReg k 7 0x744
      if cfg.testBit 31 && !(getOwner s c).felled then kBump { semAdd k (fld cfg 5 5) 1 with barrier := { gen := gen, arrived := false } } 7 8 else k) s
    let s2 := modJob s1 job fun j => { j with chipArrived := false, barGen := gen, arrived := j.arrived.filter fun a => a.1 ≠ gen }
    if j.role ≠ 0 && allFelled s j then noteArrival s2 j ((gen + 1) % 65536) else s2

/-- The head chip counts an arrival for gen; with NCHIPS of them it sends PASS (R269, step 3). -/
def headArrive (s : State) (job chip : Word) (gen : Nat) : State :=
  match jobById s job with
  | none => s
  | some j =>
    if j.arrived.contains (gen, chip) then s
    else
      let s1 := modJob s job fun j => { j with arrived := j.arrived ++ [(gen, chip)] }
      if (j.arrived.filter fun a => a.1 = gen).length + 1 < j.nchips then s1
      else barrierPass (if j.role = 1 then emit s1 (.jobCmd job (cmdBody 0x23 job (natLe 2 gen))) else s1) job gen

/-- The generation that a chip arrives for: GEN + 1 of a core that has arrived; where all are FELLED, the one after the last barrier that passed. -/
def arrivalGen (s : State) (j : Job) : Nat :=
  (((j.cores.find? fun c => (getCore s c).barrier.arrived).map fun c => (getCore s c).barrier.gen).getD j.barGen + 1) % 65536

/-- This chip arrives once all its cores have (R269, step 2). -/
def chipArrives (s : State) (job : Word) : State :=
  match jobById s job with
  | none => s
  | some j =>
    if j.chipArrived || !allArrived s j then s
    else if j.role = 2 then noteArrival s j (arrivalGen s j)
    else headArrive (modJob s job fun j => { j with chipArrived := true }) job (torusHere s) (arrivalGen s j)

/-- A core goes out of the job it belonged to; the job is gone once no core is left in it but felled ones. -/
def leaveJobs (s : State) (c : Nat) : State :=
  { s with jobs := s.jobs.filterMap fun j =>
      let rest := j.cores.filter (· ≠ c)
      if !j.cores.contains c then some j else if rest.all fun d => (getOwner s d).felled then none else some { j with cores := rest } }

/-- FIO_PINCFG of pin p names core c as its owner (R371, R381). -/
def pinOwnedBy (s : State) (p c : Nat) : Bool :=
  let w := gReg s .fio (0x60 + 4 * p)
  w.testBit 31 && fld w 27 4 < 10 && c = 10 * (p / 24) + fld w 27 4

/-- Every pin that core c owns goes back to its reset state, and OWNEN is cleared (R371). -/
def dropPins (s : State) (c : Nat) : State :=
  ((List.range 96).filter fun p => pinOwnedBy s p c).foldl (fun s p =>
    { s with fioPage := setAct s.fioPage (0x60 + 4 * p) (word (setBit (gReg s .fio (0x60 + 4 * p)) 31 false)) }) s

/-- The chip's part of the barriers of every job, after a core left its job or was fenced. -/
def recheckBarriers (s : State) : State := (s.jobs.map (·.jobid)).foldl chipArrives s

/-- Begins the release of a core (R60). -/
def releaseCore (s : State) (c : Nat) : State :=
  let s1 := dropPins (drainCore (leaveJobs (modOwner s c fun o => { o with owned := false }) c) c) c
  recheckBarriers (modCore s1 c fun k => { k with releasing := some s.now })

/-- What a release leaves of a core (R60, steps 5 to 7): every page at reset but the window epochs and guards, LASTWAKE included, every slot zeroed and EMPTY; its power state and its router stay. -/
def scrubbed (k : Core) : Core :=
  { ({} : Core) with
    wins := (k.wins.filter fun e => e.2.epoch ≠ 0 || e.2.guard).map fun e => (e.1, { open_ := false, epoch := e.2.epoch, guard := e.2.guard, guardEnd := e.2.guardEnd })
    pwr := { k.pwr with lastWake := 0 }, grv := { passStart := k.grv.passStart } }

/-- Core c is no longer awaited by an END_JOB (R67). -/
def endAwait (s : State) (c : Nat) : State :=
  { s with taken := s.taken.map fun k => if leAt k.block 0 2 = 2 then { k with ending := k.ending.filter (· ≠ c) } else k }

/-- ZEROED is set at the end of a release (R60, step 7); TEN_OWN.TENANT, of which R60 says nothing, names the old tenant until then and 0 from then on (DESIGN CHOICE, log entry 160). -/
def finishRelease (s : State) (c : Nat) : State :=
  modOwner (modCore (endAwait s c) c scrubbed) c fun o => { o with zeroed := true, tenant := 0#8 }

/-! Answers of the mailbox (R66), and the loads that wait for the controller (R70, R399). -/

/-- The management processor answers a command: RESULT, REASON, STATE, then the MBX event (R66). -/
def answerMbx (s : State) (t slot : Nat) (result : Word) (reason state : Nat) : State :=
  tenEvent (emit { s with taken := s.taken.filter fun k => !(k.tenant.toNat = t && k.slot = slot) }
    (.mailbox (BitVec.ofNat 8 t) slot result reason state)) t evMBX slot

/-- A command is refused with a reason; its RESULT is not stated (DESIGN CHOICE, log entry 21). -/
def refuseMbx (s : State) (t slot reason : Nat) : State :=
  let (v, s1) := takeFree s
  answerMbx s1 t slot v reason 3

/-- The load that a taken command waits for on core c has ended with a code, 0 for success (R399): a LOAD_IMAGE is answered; a LOAD_JOB is answered after its last image, or every core of it is released and it is refused (R70). -/
def loadEndedFor (code c : Nat) (s : State) (tk : Taken) : State :=
  let t := tk.tenant.toNat
  if leAt tk.block 0 2 = 3 then answerMbx s t tk.slot (word code) (if code = 0 then 0 else 0x11) (if code = 0 then 2 else 3)
  else if code = 0 then
    let rest := tk.ending.filter (· ≠ c)
    if rest = [] then answerMbx s t tk.slot tk.job 0 2
    else { s with taken := s.taken.map fun k => if k.tenant.toNat = t && k.slot = tk.slot then { k with ending := rest } else k }
  else
    let cs := ((s.jobs.find? fun j => j.jobid == tk.job && j.tenant == tk.tenant).map (·.cores)).getD []
    answerMbx (cs.foldl (fun s c => if (getOwner s c).felled then s else releaseCore s c) s) t tk.slot (word code) 0x11 3

/-- A load on core c has ended (R399, R424). -/
def loadEnded (s : State) (c code : Nat) : State :=
  (s.taken.filter fun tk => (leAt tk.block 0 2 = 1 || leAt tk.block 0 2 = 3) && tk.ending.contains c).foldl (loadEndedFor code c) s

/-- A core is released; a load that a command awaits on it ends unfinished, with an error code that is not stated (R19; DESIGN CHOICE, log entry 21). -/
def releaseOwned (s : State) (c : Nat) : State :=
  let s1 := releaseCore s c
  if s1.taken.any fun tk => tk.ending.contains c && (leAt tk.block 0 2 = 1 || leAt tk.block 0 2 = 3) then
    let (v, s2) := takeFree s1
    loadEnded s2 c (1 + v.toNat % 18)
  else s1

/-! Hard errors and felling. -/

/-- Hard errors of a core within the window of ERR_FELLCFG (R422). -/
def hardInWindow (k : Core) (now : Nat) : Nat :=
  let w := rclk (2 ^ fld (kReg k 13 0x60) 8 4 * 100000)
  (k.err.hard.filter fun t => now - t ≤ w).length

/-- The FENCE payload (R426). -/
def fencePayload (c op cause hard : Nat) : List Byte := natLe 2 c ++ natLe 1 op ++ natLe 1 cause ++ natLe 1 (min 255 hard) ++ natLe 7 0

/-- Felling begins (R423): the fence goes up, the core drains, the FENCE record enters the journal's queue; a core already FELLED is left alone (R422); a load on it is refused (R424). -/
def fell (s : State) (c cause : Nat) : State :=
  if (getOwner s c).felled then s
  else
    let s1 := modOwner s c fun o => { o with felled := true }
    let s2 := dropPins (drainCore s1 c) c
    let s3 := modCore s2 c fun k => { k with err := { k.err with felling := true }, cruise := { k.cruise with running := false } }
    recheckBarriers (jnlPush (loadEnded (endAwait s3 c) c 0x11) 2 (fencePayload c 1 cause (hardInWindow (getCore s c) s.now)))

/-- A hard error (R421): its time is kept, it is counted and journalled, and with AUTO it fells the core once HARDMAX fall within the window (R422). -/
def hardError (s : State) (c : Nat) (r : ErrRec) : State :=
  let s1 := modCore s c fun k => kBump { k with err := { k.err with hard := (s.now :: k.err.hard).take 15, hardTotal := min 65535 (k.err.hardTotal + 1) } } 13 4
  let s2 := if r.cls = 2 then s1 else jnlError s1 c { r with seq := ((getCore s1 c).err.seq + 255) % 256, rtime := rtimeLo s1 }
  let k := getCore s2 c
  let cfg := kReg k 13 0x60
  if cfg.testBit 31 && max 1 (fld cfg 0 4) ≤ hardInWindow k s.now then fell s2 c r.code else s2

/-- The release of a core ends, once its streams have been aborted and freed (R60, R244). -/
def execCoreZeroed (c : CoreId) (s : State) : Out1 :=
  let k := getCore s c.val
  .next (if k.releasing.isSome && k.skd.streams.isEmpty then finishRelease s c.val else s)

/-- A FENCE record for core c still waits to be written. -/
def fenceWaits (s : State) (c : Nat) : Bool :=
  (s.jnl.queue ++ s.jnl.fences).any fun r => r.ty == 2 && leAt r.payload 0 2 == c

/-- Felling ends once its streams are aborted and its FENCE record has been written (R423, steps 2 to 6): OWNED clears, the core enters FELLED, and E_FELLED is reported. -/
def execFellingComplete (c : CoreId) (s : State) : Out1 :=
  let k := getCore s c.val
  .next (if k.err.felling && k.skd.streams.isEmpty && !fenceWaits s c.val then
    let t := ownerOf s c.val
    let s1 := dropPins (modOwner s c.val fun o => { o with owned := false, zeroed := false }) c.val
    let s2 := modCore s1 c.val fun k =>
      let k1 := account k s.now
      { k1 with err := { k1.err with felling := false }, releasing := none, hold := {},
                spd := {}, grv := { blank := true },
                pwr := { k1.pwr with st := .felled, waking := none, descending := none, dataClk := false } }
    let s3 := evSet (coreErr s2 c.val { code := 0x11, cls := 2, page := 13 }) evFELL
    match t with
    | some t => tenEvent s3 t evFELL c.val
    | none => s3
  else s)

end Sys2Proof.Machine
end

