-- ==== Sys2Proof/Machine/Tags.lean ====
section
/-! DEFINITION. The work of a tag command (R213): eight slots in a cycle, from the cycle after its write on. -/

namespace Sys2Proof.Machine

/-- A slot that a tag command skips: HELD, pinned or untagged (R213). -/
def tagSkips (k : Core) (n : Nat) : Bool := untagged k n || (tagOf k n).st == .held || 0 < (tagOf k n).rdpin || lockedSlot k n

/-- A tag command on one slot that it does not skip (R213). -/
def tagApply (k : Core) (op count n : Nat) : Core :=
  let t := tagOf k n
  match op with
  | 1 => changeTag k n { t with st := .empty, count := 0, backed := false }
  | 2 => changeTag k n { t with st := .full, count := count, backed := false }
  | _ => setTag k n { t with backed := false }

/-- A tag command reaches one slot (R213): it acts on it, or counts it as skipped. -/
def tagReach (op count : Nat) (k : Core) (n : Nat) : Core :=
  if tagSkips k n then kBump (modSpd k fun d => { d with skipped := d.skipped + 1 }) 5 9 else tagApply k op count n

/-- The slots that the tag command of a core reaches up to cycle t (R198, R213). -/
def tagTo (k : Core) (t : Nat) : Core :=
  match k.spd.cmd with
  | none => k
  | some m =>
    let stop := min (m.last + 1) (m.first + 8 * (t - m.since))
    let k1 := ((List.range (stop - m.next)).map (m.next + ·)).foldl (tagReach m.op m.count) k
    wakeOnChange k (modSpd k1 fun d => { d with cmd := some { m with next := max m.next stop } }) t

/-- The tag command of a core has reached the end of its range. -/
def tagDone (k : Core) : Core := modSpd k fun d => { d with cmd := none }

end Sys2Proof.Machine
end

