-- ==== Sys2Proof/Machine/Fabric.lean ====
section
/-! DEFINITION. The fabric of a grove (R348 to R357): its layout, cells and cords, routing, RAM blocks and clocks, and what its clock edges do. -/

namespace Sys2Proof.Machine

/-- k with f applied to its grove. -/
def modGrv (k : Core) (f : Grove → Grove) : Core := { k with grv := f k.grv }

/-! Frames (R383, R384). -/

/-- The blank frame (R384). -/
def blankFrame : List Byte := List.replicate 64 0#8

/-- The bytes of frame f as the configuration memory holds them. -/
def frameOf (k : Core) (f : Nat) : List Byte := fget k.grv.frames f blankFrame

/-- k with frame f written; a blank frame is not listed. -/
def setFrame (k : Core) (f : Nat) (bs : List Byte) : Core :=
  modGrv k fun g => { g with frames := if bs = blankFrame then fdel g.frames f else fset g.frames f bs }

/-- The clock region of a configuration frame (R383). -/
def frameRegion (f : Nat) : Nat := if f < 896 then f / 224 else (f - 896) / 192

/-- The frames of an image's ranges, in the order of its header (R385). -/
def targetFrames (hdr : List Byte) : List Nat :=
  (List.range (min 8 (leAt hdr 0x26 1))).flatMap fun i =>
    let a := leAt hdr (0x28 + 8 * i) 2
    (List.range (leAt hdr (0x2A + 8 * i) 2 + 1 - a)).map (a + ·)

/-! Clocks (R356, R374). -/

/-- Region n of a grove. -/
def getRegion (k : Core) (n : Nat) : Region := fget k.grv.regions n {}

/-- k with f applied to region n. -/
def modRegion (k : Core) (n : Nat) (f : Region → Region) : Core :=
  modGrv k fun g => { g with regions := fset g.regions n (f (getRegion k n)) }

/-- SRC and DIV of a GRV_CLKn word. -/
def clkSrc (w : Word) : Nat := wfld w 0 2
def clkDiv (w : Word) : Nat := wfld w 4 5

/-- The bank whose clock reaches core c, for cores 0 to 39 (R374). -/
def bankOf (c : Nat) : Option Nat := if c < 40 then some (c / 10) else none

/-- The bank clock of core c runs. -/
def bankClock (s : State) (c : Nat) : Bool :=
  match bankOf c with
  | some b => (fget s.banks b {}).clkOk
  | none => false

/-- Region n holds a target frame of a load in pass 2 (R395). -/
def affected (k : Core) (n : Nat) : Bool :=
  match k.grv.load with
  | some l => 4 ≤ l.phase && (targetFrames l.hdr).any fun f => frameRegion f = n
  | none => false

/-- Region n of a core runs, where the bank clock runs or not (R356, R357, R384, R395, R405, R440). -/
def regionRuns (bank : Bool) (k : Core) (n : Nat) : Bool :=
  let r := getRegion k n
  let powered := k.pwr.st = .active || ((k.pwr.st = .doze || k.pwr.st = .sleep) && clkSrc r.cur ≠ 0)
  !r.switching && !r.lost && !affected k n && !k.grv.halted && !k.grv.blank && k.grv.blanking.isNone && clkSrc r.cur ≠ 3 && powered && (clkSrc r.cur ≠ 2 || bank)

/-- Region n's clock is running (GRV_CLKSTAT.RUN). -/
def clkRuns (s : State) (c n : Nat) : Bool := regionRuns (bankClock s c) (getCore s c) n

/-- A setting has a rising edge in FCLK cycle t (R356): FCLK dividers and RCLK count from the common origin, a bank clock from outside. -/
def edgeAt (s : State) (c t : Nat) (w : Word) : Bool :=
  match clkSrc w with
  | 0 => (t - s.origin) % clkDiv w = 0
  | 1 => (t - s.origin) % 17 = 0
  | 2 => (bankOf c).any fun b => Config.bankEdge b t
  | _ => false

/-- The regions of core c that are clocked in cycle t. -/
def edgesAt (s : State) (c t : Nat) (k : Core) : List Nat :=
  (List.range 4).filter fun n => regionRuns (bankClock s c) k n && edgeAt s c t (getRegion k n).cur

/-! The layout (R350). -/

/-- The region of cord (u, v). -/
def cordRegion (u v : Nat) : Nat := 2 * (v / 12) + u / 16

/-- The cords of a region. -/
def regionCords (n : Nat) : List (Nat × Nat) :=
  (List.range 192).map fun i => (16 * (n % 2) + i % 16, 12 * (n / 2) + i / 16)

/-- The first of the two cord rows of RAM block k. -/
def ramRow (k : Nat) : Nat := 12 * (k / 6 / 2) + 2 * (k % 6)

/-- The cord columns beside RAM block k. -/
def ramCols (k : Nat) : List Nat := if k / 6 % 2 = 0 then [14, 15] else [16, 17]

/-- Cord (u, v) lies beside RAM block k. -/
def besideRam (u v k : Nat) : Bool := (ramCols k).contains u && (v = ramRow k || v = ramRow k + 1)

/-! Wire segments (R351). -/

/-- The cord n steps from (u, v) in a direction, if the grove reachesCord that far. -/
def cordFrom (d : Dir) (n u v : Nat) : Option (Nat × Nat) :=
  match d with
  | .north => if n ≤ v then some (u, v - n) else none
  | .south => if v + n < 24 then some (u, v + n) else none
  | .west => if n ≤ u then some (u - n, v) else none
  | .east => if u + n < 32 then some (u + n, v) else none

/-- The direction that leads back. -/
def dirBack : Dir → Dir
  | .north => .south | .south => .north | .east => .west | .west => .east

/-- Cords that a segment of a length runs; how many of them a cord starts in each direction; the cord along it that it also feeds. -/
def spanReach : Span → Nat
  | .short => 1 | .medium => 4 | .far => 12
def spanCount : Span → Nat
  | .short => 6 | .medium => 3 | .far => 1
def spanMid : Span → Option Nat
  | .short => none | .medium => some 2 | .far => some 6

/-- The directions and the lengths. -/
def allDirs : List Dir := [.north, .south, .east, .west]
def allSpans : List Span := [.short, .medium, .far]

/-- The cord in which a segment ends; none for one that is not built. -/
def wireEnd (w : Wire) : Option (Nat × Nat) := if w.n < spanCount w.span then cordFrom w.dir (spanReach w.span) w.u w.v else none

/-- The segments that pass n cords of their run before (u, v), over the lengths for which sel gives an n. -/
def wiresVia (sel : Span → Option Nat) (u v : Nat) : List Wire :=
  allDirs.flatMap fun d => allSpans.flatMap fun l =>
    match (sel l).bind fun n => cordFrom (dirBack d) n u v with
    | some (a, b) => ((List.range (spanCount l)).map fun i => ({ u := a, v := b, dir := d, span := l, n := i } : Wire)).filter fun w => (wireEnd w).isSome
    | none => []

/-- The segments that end in a cord, and those that feed it at their midpoint. -/
def wiresInto (u v : Nat) : List Wire := wiresVia (fun l => some (spanReach l)) u v
def wiresPast (u v : Nat) : List Wire := wiresVia spanMid u v

/-- A number for each segment and each flip-flop. -/
def wireKey (w : Wire) : Nat :=
  let d := match w.dir with
    | .north => 0 | .south => 1 | .east => 2 | .west => 3
  let l := match w.span with
    | .short => 0 | .medium => 1 | .far => 2
  ((w.v * 32 + w.u) * 12 + d * 3 + l) * 6 + w.n
def ffKey (u v j f : Nat) : Nat := (v * 32 + u) * 16 + j * 2 + f

/-! Multiplexers (R351, R352). -/

/-- The outputs of a cord's cells. -/
def cordOuts (u v : Nat) : List Net := (List.range 8).flatMap fun j => [.out u v j .t, .out u v j .u, .out u v j .q0, .out u v j .q1]

/-- A net reachesCord the input multiplexers of a cord: a segment that ends there or has its midpoint there, or a RAM block, the grove port or a pin beside it (R350, R351). -/
def reachesCord (u v : Nat) : Net → Bool
  | .wire w => (wiresInto u v).contains w || (wiresPast u v).contains w
  | .ram k _ _ => besideRam u v k
  | .port _ => u = 0 && v < 12
  | .pin _ => v = 0
  | .out _ _ _ _ => false

/-- Source i of a multiplexer: the one at the start of a segment selects among the outputs of its cord and the segments that end there, in this order; another among 24 nets that reach its cord. -/
def muxSource (m : Mux) (i : Nat) : Option Net :=
  let input := fun u v => if i < 24 then (Config.inputSource m i).filter (reachesCord u v) else none
  match m with
  | .wire w => (cordOuts w.u w.v ++ (wiresInto w.u w.v).map Net.wire)[i]?
  | .cell u v _ _ => input u v
  | .enable u v _ _ => input u v
  | .reset u v => input u v
  | .carry u v => input u v
  | .pad n _ => if i < 24 then (Config.inputSource m i).filter fun x => (List.range 16).any fun u => reachesCord (16 * (n / 12) + u) 0 x else none
  | .ram k _ _ => if i < 24 then (Config.inputSource m i).filter fun x => (ramCols k).any fun u => reachesCord u (ramRow k) x || reachesCord u (ramRow k + 1) x else none

/-- Sources of a multiplexer at most. -/
def muxWidth : Mux → Nat
  | .wire _ => 32 + 80
  | _ => 24

/-- The region of what a configuration bit sets; none for a bit of nothing that is built. -/
def bitRegion : CfgBit → Option Nat
  | .sel (.wire w) _ => if (wireEnd w).isSome then some (cordRegion w.u w.v) else none
  | .sel (.cell u v _ _) _ | .sel (.enable u v _ _) _ | .sel (.reset u v) _ | .sel (.carry u v) _ => some (cordRegion u v)
  | .sel (.ram k _ _) _ => some (k / 6)
  | .sel (.pad n _) _ => some (n / 12)
  | .pipe w => (wireEnd w).map fun e => cordRegion e.1 e.2
  | .ramOn k _ | .ramWidth k _ _ | .ramClk k _ _ => some (k / 6)
  | .table u v _ _ | .split u v _ | .ffU u v _ _ | .ffD u v _ _ | .ffP5 u v _ _ | .ffLine u v _ _ | .ffClear u v _ _ | .ffSet u v _ _ | .ffInit u v _ _
  | .arith u v | .chain u v | .carryOne u v | .carryIn u v | .carryOut u v => some (cordRegion u v)

/-- What the set bits of logic frame f with these bytes configure, in the frame's own region (R383). -/
def frameBits (f : Nat) (bs : List Byte) : List CfgBit :=
  if bs = blankFrame then []
  else (List.range 512).filterMap fun b =>
    if (leAt bs (b / 8) 1).testBit (b % 8) then (Config.cfgBit f b).filter fun x => bitRegion x = some (f / 224) else none

/-- A frame sets two or more select bits in one multiplexer (R352), or configures a port of RAM block 23 while the image leaves it to the history (R355): what check 8 of R394 refuses. -/
def frameBad (f : Nat) (bs : List Byte) (hist : Bool) : Bool :=
  let bits := if f < 896 then frameBits f bs else []
  (bits.any fun x => match x with
    | .sel m i => bits.any fun y => match y with
      | .sel n j => n = m && i ≠ j
      | _ => false
    | _ => false) ||
  (!hist && bits.any fun x => match x with
    | .ramOn 23 _ | .ramWidth 23 _ _ | .ramClk 23 _ _ | .sel (.ram 23 _ _) _ => true
    | _ => false)

/-- What a core's grove is configured to be. -/
def fabricBits (k : Core) : List CfgBit := (k.grv.frames.filter fun e => e.1 < 896).flatMap fun e => frameBits e.1 e.2

/-! The value of a net. -/

/-- The pins that core c owns, by their number in its bank, with their settings (R371). -/
def ownPads (s : State) (c : Nat) : List (Nat × Nat) :=
  match bankOf c with
  | some b => ((List.range 24).filter fun n => pinOwnedBy s (24 * b + n) c).map fun n => (n, gReg s .fio (0x60 + 4 * (24 * b + n)))
  | none => []

/-- What the values of the nets are computed from: the configuration, the core with its flip-flops, registers and RAM outputs, the core's number, the cycle, its pins and their settings. -/
structure Fabric where
  cfg : List CfgBit
  core : Core
  c : Nat
  t : Nat
  pads : List (Nat × Nat)

/-- The grove of core c as it is in cycle t. -/
def fabricAt (s : State) (c : Nat) (cfg : List CfgBit) (k : Core) (t : Nat) : Fabric := { cfg := cfg, core := k, c := c, t := t, pads := ownPads s c }

/-- A configuration bit is set. -/
def Fabric.on (e : Fabric) (b : CfgBit) : Bool := e.cfg.contains b

/-- The value of a multiplexer (R352): the OR of the sources that it selects, 0 where it selects none. -/
def Fabric.mux (e : Fabric) (val : Net → Bool) (m : Mux) : Bool :=
  (List.range (muxWidth m)).any fun i => e.on (.sel m i) && ((muxSource m i).map val).getD false

/-- The flip-flop f of a cell (R348): at its initial value where it has not changed. -/
def Fabric.ff (e : Fabric) (u v j f : Nat) : Bool := fget e.core.grv.ffs (ffKey u v j f) (e.on (.ffInit u v j f))

/-- The entry of a cell's table from bit base on that its first n inputs address (R348). -/
def Fabric.look (e : Fabric) (val : Net → Bool) (u v j base n : Nat) : Bool :=
  e.on (.table u v j (base + (List.range n).foldl (fun a i => a + b2n (e.mux val (.cell u v j i)) * 2 ^ i) 0))

/-- The upper and the lower half of a cell's table: in arithmetic mode the propagate and the generate term of its bit (R348, R349). -/
def Fabric.upper (e : Fabric) (val : Net → Bool) (u v j : Nat) : Bool := e.look val u v j 32 5
def Fabric.lower (e : Fabric) (val : Net → Bool) (u v j : Nat) : Bool := e.look val u v j 0 5

/-- The carry into bit j of a cord whose carry in is cin, and with j = 8 the carry out of the cord (R349). -/
def Fabric.carry (e : Fabric) (val : Net → Bool) (u v : Nat) (cin : Bool) : Nat → Bool
  | 0 => cin
  | j + 1 => e.lower val u v j || (e.upper val u v j && e.carry val u v cin j)

/-- The carry into cord (u, v) (R349): as the configuration starts its chain, or out of the cord to the west; chains end at the east edges of the regions. -/
def Fabric.carryTo (e : Fabric) (val : Net → Bool) (v : Nat) : Nat → Bool
  | 0 => e.on (.chain 0 v) && (e.on (.carryOne 0 v) || (e.on (.carryIn 0 v) && e.mux val (.carry 0 v)))
  | u + 1 =>
    if e.on (.chain (u + 1) v) then e.on (.carryOne (u + 1) v) || (e.on (.carryIn (u + 1) v) && e.mux val (.carry (u + 1) v))
    else (u + 1) % 16 ≠ 0 && e.on (.arith u v) && e.carry val u v (e.carryTo val v u) 8

/-- Cord (u, v) is the last of its chain (R349). -/
def Fabric.last (e : Fabric) (u v : Nat) : Bool := u % 16 = 15 || e.on (.chain (u + 1) v) || !e.on (.arith (u + 1) v)

/-- An output of a cell (R348, R349). -/
def Fabric.cell (e : Fabric) (val : Net → Bool) (u v j : Nat) (o : CellOut) : Bool :=
  let arith := e.on (.arith u v)
  let split := arith || e.on (.split u v j)
  let t := if arith then e.upper val u v j != e.carry val u v (e.carryTo val v u) j else if split then e.upper val u v j else e.look val u v j 0 6
  match o with
  | .t => t
  | .u => if arith && j = 7 && e.on (.carryOut u v) && e.last u v then e.carry val u v (e.carryTo val v u) 8 else if split then e.lower val u v j else t
  | .q0 => e.ff u v j 0
  | .q1 => e.ff u v j 1

/-- The end of a segment (R352, R353, R395): its pipeline register where it has one, else its multiplexer; from an affected region into another that is not it reads 0. -/
def Fabric.wire (e : Fabric) (val : Net → Bool) (w : Wire) : Bool :=
  match wireEnd w with
  | some (a, b) =>
    if affected e.core (cordRegion w.u w.v) && !affected e.core (cordRegion a b) then false
    else if e.on (.pipe w) then fget e.core.grv.regs (wireKey w) false
    else e.mux val (.wire w)
  | none => false

/-- The pad registers of a pin are in use (REGCLK of FIO_PINCFG). -/
def padClocked (w : Nat) : Bool := fld w 14 2 < 2

/-- Pin n of the core's bank as the outside drives it, in this cycle. -/
def Fabric.level (e : Fabric) (n : Nat) : Bool := (bankOf e.c).any fun b => Config.padLevel (24 * b + n) e.t

/-- What the grove sees of a pin of its bank (R373): its input register, or its level where the registers are bypassed. -/
def Fabric.pin (e : Fabric) (n : Nat) : Bool := if e.pads.any fun p => p.1 = n && padClocked p.2 then fget e.core.grv.pads (4 * n) false else e.level n

/-- The value of a net, through at most n nets; a deeper one lies on a loop. -/
def Fabric.val (e : Fabric) : Nat → Net → Bool
  | 0, x => Config.loopValue x e.t
  | n + 1, x =>
    match x with
    | .out u v j o => e.cell (e.val n) u v j o
    | .wire w => e.wire (e.val n) w
    | .ram k a i => (fget e.core.grv.ramOut (2 * k + b2n a) 0).testBit i
    | .pin p => e.pin p
    | .port i => Config.shellBit i (e.core.grv.port.inBuf.head?.getD [])

/-- More nets than a grove has. -/
def fabricDepth : Nat := 100000

/-! Clock edges. -/

/-- A flip-flop after an edge of its region's clock (R348); its reset line acts whatever its enable line is (DESIGN CHOICE, log entry 189). -/
def Fabric.ffNext (e : Fabric) (val : Net → Bool) (u v j f : Nat) : Bool :=
  let p5 := f = 1 && (e.on (.split u v j) || e.on (.arith u v)) && e.on (.ffP5 u v j f)
  let d := if e.on (.ffU u v j f) then e.cell val u v j .u
    else if e.on (.ffD u v j f) then e.mux val (.cell u v j (if p5 then 5 else 6)) else e.cell val u v j .t
  let rst := e.mux val (.reset u v)
  if rst && e.on (.ffClear u v j f) then false
  else if rst && e.on (.ffSet u v j f) then true
  else if e.mux val (.enable u v (j / 4) (b2n (e.on (.ffLine u v j f)))) then d else e.ff u v j f

/-- The flip-flops of the regions after an edge of their clocks; one at its initial value is not listed. -/
def Fabric.ffsNext (e : Fabric) (val : Net → Bool) (ns : List Nat) : FMap Bool :=
  (ns.flatMap regionCords).foldl (fun m c => (List.range 16).foldl (fun m i =>
    let x := e.ffNext val c.1 c.2 (i / 2) (i % 2)
    if x = e.on (.ffInit c.1 c.2 (i / 2) (i % 2)) then fdel m (ffKey c.1 c.2 (i / 2) (i % 2)) else fset m (ffKey c.1 c.2 (i / 2) (i % 2)) x) m) e.core.grv.ffs

/-- The pipeline registers of the segments that end in the regions, after an edge of their clocks (R353). -/
def Fabric.regsNext (e : Fabric) (val : Net → Bool) (ns : List Nat) : FMap Bool :=
  (ns.flatMap regionCords).foldl (fun m c => ((wiresInto c.1 c.2).filter fun w => e.on (.pipe w)).foldl (fun m w =>
    if e.mux val (.wire w) then fset m (wireKey w) true else fdel m (wireKey w)) m) e.core.grv.regs

/-- The region of a flip-flop's number, and of a pipeline register's: that of the cord in which its segment ends. -/
def ffRegion (n : Nat) : Nat := cordRegion (n / 16 % 32) (n / 512)
def regRegion (n : Nat) : Nat :=
  let d := match n % 72 / 18 with
    | 0 => Dir.north | 1 => .south | 2 => .east | _ => .west
  let l := match n % 18 / 6 with
    | 0 => Span.short | 1 => .medium | _ => .far
  match wireEnd { u := n / 72 % 32, v := n / 2304, dir := d, span := l, n := n % 6 } with
  | some (u, v) => cordRegion u v
  | none => 0

/-- The flip-flops of regions ns take their initial values (R397), and so do their pipeline registers and the outputs of their RAM blocks (DESIGN CHOICE, log entry 189). -/
def restart (g : Grove) (ns : List Nat) : Grove :=
  { g with ffs := g.ffs.filter fun e => !ns.contains (ffRegion e.1), regs := g.regs.filter fun e => !ns.contains (regRegion e.1),
           ramOut := g.ramOut.filter fun e => !ns.contains (e.1 / 12) }

/-- The pins whose registers are clocked in cycle t (R373): by the region that REGION names, or by the bank clock, where that runs. -/
def padEdges (s : State) (c : Nat) (ns : List Nat) (t : Nat) : List Nat :=
  ((ownPads s c).filter fun p => match fld p.2 14 2 with
    | 0 => ns.contains (fld p.2 12 2)
    | 1 => bankClock s c && (bankOf c).any fun b => Config.bankEdge b t
    | _ => false).map (·.1)

/-- The pad registers after an edge of their clock (R373): for pin n its input at 4n, its output at 4n + 1, its output enable at 4n + 2. -/
def Fabric.padsNext (e : Fabric) (val : Net → Bool) (ps : List Nat) : FMap Bool :=
  ps.foldl (fun m n => fset (fset (fset m (4 * n) (e.level n)) (4 * n + 1) (e.mux val (.pad n false))) (4 * n + 2) (e.mux val (.pad n true))) e.core.grv.pads

/-! RAM blocks (R354, R355). -/

/-- The value of n inputs of a RAM port from input i on. -/
def Fabric.ramIn (e : Fabric) (val : Net → Bool) (k : Nat) (a : Bool) (i n : Nat) : Nat :=
  (List.range n).foldl (fun x j => x + b2n (e.mux val (.ram k a (i + j))) * 2 ^ j) 0

/-- The width of a RAM port: 32, 16, 8 or 4 bits. -/
def Fabric.ramWidth (e : Fabric) (k : Nat) (a : Bool) : Nat := 32 / 2 ^ (b2n (e.on (.ramWidth k a 0)) + 2 * b2n (e.on (.ramWidth k a 1)))

/-- A port of block k is in use and clocked in this edge; block 23 has none while it holds the history. -/
def Fabric.ramTicks (e : Fabric) (ns : List Nat) (k : Nat) (a : Bool) : Bool :=
  e.on (.ramOn k a) && ns.contains (b2n (e.on (.ramClk k a 0)) + 2 * b2n (e.on (.ramClk k a 1))) && (k ≠ 23 || !e.core.grv.histAvail)

/-- The word of width w at address a of block k. -/
def ramRead (k : Core) (b w a : Nat) : Nat :=
  let bit := a % (16384 / w) * w
  fld (leAt (slice (frameOf k (896 + 32 * b + bit / 512)) (bit % 512 / 8) 4) 0 4) (bit % 8) w

/-- Block b with that word written; nothing is written into one that is read-only while the image runs (R385). -/
def ramWrite (k : Core) (b w a x : Nat) : Core :=
  let bit := a % (16384 / w) * w
  let f := 896 + 32 * b + bit / 512
  let o := bit % 512 / 8
  let old := leAt (frameOf k f) o 4
  if k.grv.romBlocks.contains b then k
  else setFrame k f (splice (frameOf k f) o ((natLe 4 (old - fld old (bit % 8) w * 2 ^ (bit % 8) + x % 2 ^ w * 2 ^ (bit % 8))).take (min 4 (64 - o))))

/-- What a port of a RAM block does in an edge: its width, its address and what it writes. -/
structure RamAct where
  b : Nat
  a : Bool
  w : Nat
  addr : Nat
  data : Option Nat

/-- The ports that act in an edge, port B of each block before port A, so that A's value stands (R354). -/
def Fabric.ramActs (e : Fabric) (val : Net → Bool) (ns : List Nat) : List RamAct :=
  (List.range 24).flatMap fun b => ([false, true].filter fun a => e.ramTicks ns b a).map fun a =>
    { b := b, a := a, w := e.ramWidth b a, addr := e.ramIn val b a 0 12, data := if e.mux val (.ram b a 44) then some (e.ramIn val b a 12 32) else none }

/-- The core after the edge's writes, and the RAM outputs: each port reads the word as it was before them or as it is after them. -/
def runRams (k : Core) (acts : List RamAct) (t : Nat) : Core :=
  let k1 := acts.foldl (fun k x => match x.data with
    | some d => ramWrite k x.b x.w x.addr d
    | none => k) k
  modGrv k1 fun g => { g with ramOut := acts.foldl (fun m x => fset m (2 * x.b + b2n x.a) (ramRead (if Config.ramNew x.b t then k1 else k) x.b x.w x.addr)) g.ramOut }

/-! Time. -/

/-- The grove of core c in cycle t, configured by cfg: everything that is clocked changes together. -/
def groveTick (s : State) (c : Nat) (cfg : List CfgBit) (k : Core) (t : Nat) : Core :=
  let ns := edgesAt s c t k
  let ps := padEdges s c ns t
  if ns = [] && ps = [] then k
  else
    let e := fabricAt s c cfg k t
    let val := e.val fabricDepth
    runRams (modGrv k fun g => { g with ffs := e.ffsNext val ns, regs := e.regsNext val ns, pads := e.padsNext val ps }) (e.ramActs val ns) t

/-- The grove of core c from cycle t to cycle u. -/
def groveTo (s : State) (c : Nat) (k : Core) (t u : Nat) : Core :=
  let cfg := fabricBits k
  if k.grv.blank || cfg = [] then k else (List.range (u - t)).foldl (fun k i => groveTick s c cfg k (t + 1 + i)) k

/-- The next cycle in which a setting has a rising edge, this one included; a bank clock's edges are not known. -/
def nextEdge (s : State) (t : Nat) (w : Word) : Nat :=
  let per := match clkSrc w with
    | 0 => clkDiv w
    | 1 => 17
    | _ => 1
  t + (per - (t - s.origin) % per) % per

end Sys2Proof.Machine
end

