-- ==== Sys2Proof/Machine/Fp.lean ====
section
/-! DEFINITION. Number formats and their arithmetic (R79 to R95): exact values, rounding, conversion with its counts, FP32 operations. -/

namespace Sys2Proof.Machine

/-- An exact value: NaN, an infinity, or ± m × 2^e. -/
inductive Val where
  | nan
  | inf (neg : Bool)
  | fin (neg : Bool) (m : Nat) (e : Int)
  deriving DecidableEq, Repr

/-- A floating-point layout (R83): mantissa bits, exponent bits, bias; the codes of the top exponent: 0 infinity and NaN, 1 NaN at mantissa all ones only, 2 all finite (R84). -/
structure Fmt where
  m : Nat
  e : Nat
  bias : Nat
  top : Nat
  deriving DecidableEq, Repr

def fFP32 : Fmt := { m := 23, e := 8, bias := 127, top := 0 }
def fBF16 : Fmt := { m := 7, e := 8, bias := 127, top := 0 }
def fFP16 : Fmt := { m := 10, e := 5, bias := 15, top := 0 }
def fE5M2 : Fmt := { m := 2, e := 5, bias := 15, top := 0 }
def fE4M3 : Fmt := { m := 3, e := 4, bias := 7, top := 1 }
def fE3M2 : Fmt := { m := 2, e := 3, bias := 3, top := 2 }
def fE2M3 : Fmt := { m := 3, e := 2, bias := 1, top := 2 }
def fE2M1 : Fmt := { m := 1, e := 2, bias := 1, top := 2 }

/-- The layout of a floating-point type code (R79). -/
def fmtOf : Nat → Option Fmt
  | 0 => some fFP32 | 1 => some fBF16 | 2 => some fFP16 | 5 => some fE4M3 | 6 => some fE5M2 | 7 => some fE3M2 | 8 => some fE2M3 | 9 => some fE2M1
  | _ => none

/-- The width in bits of a type code (R79). -/
def typeBits : Nat → Nat
  | 0 => 32 | 1 => 16 | 2 => 16 | 3 => 8 | 4 => 8 | 5 => 8 | 6 => 8 | 7 => 6 | 8 => 6 | 9 => 4 | 10 => 32
  | _ => 0

/-- A type code that is not reserved (R79). -/
def typeOk (t : Nat) : Bool := t ≤ 10

/-- An MX element type (R79). -/
def isMx (t : Nat) : Bool := 5 ≤ t && t ≤ 9

/-- An integer type (R87). -/
def isInt (t : Nat) : Bool := t = 3 || t = 4 || t = 10

/-- Bits of the exponent and mantissa together. -/
def Fmt.sbit (f : Fmt) : Nat := f.m + f.e

/-- The largest finite magnitude code (R83, R84). -/
def Fmt.maxCode (f : Fmt) : Nat :=
  match f.top with
  | 0 => (2 ^ f.e - 1) * 2 ^ f.m - 1
  | 1 => 2 ^ f.sbit - 2
  | _ => 2 ^ f.sbit - 1

/-- The exponent of the least subnormal. -/
def Fmt.qmin (f : Fmt) : Int := 1 - (f.bias : Int) - (f.m : Int)

/-- The canonical NaN (R85). -/
def Fmt.nanCode (f : Fmt) : Nat :=
  match f.top with
  | 0 => (2 ^ f.e - 1) * 2 ^ f.m + if f.m = 2 then 3 else 2 ^ (f.m - 1)
  | 1 => 2 ^ f.sbit - 1
  | _ => 0

/-- The infinity code of a format that has one. -/
def Fmt.infCode (f : Fmt) : Nat := (2 ^ f.e - 1) * 2 ^ f.m

/-- The value of a code (R83, R84). -/
def decodeFp (f : Fmt) (c : Nat) : Val :=
  let neg := c.testBit f.sbit
  let mag := c % 2 ^ f.sbit
  let ex := mag / 2 ^ f.m
  let mn := mag % 2 ^ f.m
  if f.top = 0 && ex = 2 ^ f.e - 1 then (if mn = 0 then .inf neg else .nan)
  else if f.top = 1 && mag = 2 ^ f.sbit - 1 then .nan
  else if ex = 0 then .fin neg mn f.qmin
  else .fin neg (2 ^ f.m + mn) (f.qmin + (ex : Int) - 1)

/-- A magnitude code with a sign. -/
def withSign (f : Fmt) (neg : Bool) (mag : Nat) : Nat := mag + (if neg then 2 ^ f.sbit else 0)

/-- How a value is rounded: to nearest even (R21), or stochastically with a 16-bit draw (R95). -/
inductive Rnd where
  | rne
  | sr (u : Nat)
  deriving DecidableEq, Repr

/-- n ÷ d to an integer. -/
def roundDiv (r : Rnd) (n d : Nat) : Nat :=
  let t := n / d
  let x := n % d
  match r with
  | .rne => if 2 * x > d || (2 * x = d && t % 2 = 1) then t + 1 else t
  | .sr u => if x * 65536 / d + u ≥ 65536 then t + 1 else t

/-- ⌊log2 (n ÷ d)⌋ for n > 0. -/
def log2Rat (n d : Nat) : Int :=
  let l : Int := (Nat.log2 n : Int) - (Nat.log2 d : Int)
  let lt := if l ≥ 0 then n < d * 2 ^ l.toNat else n * 2 ^ (-l).toNat < d
  if lt then l - 1 else l

/-- The magnitude code of n ÷ d rounded to a format's grid, subnormals included; it may exceed the largest finite code (R91, steps 1 and 2). -/
def roundMag (f : Fmt) (r : Rnd) (n d : Nat) : Nat :=
  if n = 0 then 0
  else
    let q := max f.qmin (log2Rat n d - f.m)
    let t := if q ≥ 0 then roundDiv r n (d * 2 ^ q.toNat) else roundDiv r (n * 2 ^ (-q).toNat) d
    t + (q - f.qmin).toNat * 2 ^ f.m

/-- A value m × 2^e as a fraction. -/
def ratOf (m : Nat) (e : Int) : Nat × Nat := if e ≥ 0 then (m * 2 ^ e.toNat, 1) else (m, 2 ^ (-e).toNat)

/-- What a conversion wrote and what it counts (R103). -/
structure Conv where
  code : Nat
  sat : Bool := false
  flush : Bool := false
  nan : Bool := false
  deriving DecidableEq, Repr

/-- A conversion of ± n ÷ d to FP32, BF16 or FP16 (R91). -/
def convRat (f : Fmt) (r : Rnd) (ftz neg : Bool) (n d : Nat) : Conv :=
  let c := roundMag f r n d
  if c > f.maxCode then { code := withSign f neg f.infCode, sat := true }
  else
    let c1 := if ftz && c < 2 ^ f.m then 0 else c
    { code := withSign f neg c1, flush := c1 = 0 && n ≠ 0 }

/-- A conversion to FP32, BF16 or FP16 (R91). -/
def convFp (f : Fmt) (r : Rnd) (ftz : Bool) : Val → Conv
  | .nan => { code := f.nanCode, nan := true }
  | .inf neg => { code := withSign f neg f.infCode }
  | .fin neg m e => let q := ratOf m e; convRat f r ftz neg q.1 q.2

/-- The range of an integer type (R87). -/
def intLo : Nat → Int
  | 3 => -128 | 4 => 0 | _ => -2147483648
def intHi : Nat → Int
  | 3 => 127 | 4 => 255 | _ => 2147483647

/-- An integer result brought into its type (R92, step 2): the code and whether it left the range. -/
def fitInt (t : Nat) (sat : Bool) (v : Int) : Conv :=
  if v < intLo t then { code := wrapN (typeBits t) (if sat then intLo t else v), sat := true }
  else if intHi t < v then { code := wrapN (typeBits t) (if sat then intHi t else v), sat := true }
  else { code := wrapN (typeBits t) v }

/-- A conversion of ± n ÷ d to an integer type with zero point z (R92). -/
def convIntRat (t : Nat) (r : Rnd) (sat : Bool) (z : Int) (neg : Bool) (n d : Nat) : Conv :=
  let i : Int := roundDiv r n d
  fitInt t sat ((if neg then -i else i) + z)

/-- A conversion to INT8, UINT8 or INT32 with zero point z (R92). -/
def convInt (t : Nat) (r : Rnd) (sat : Bool) (z : Int) : Val → Conv
  | .nan => { code := wrapN (typeBits t) (if t = 4 then z else 0), nan := true }
  | .inf neg => { code := wrapN (typeBits t) (if neg then intLo t else intHi t), sat := true }
  | .fin neg m e => let q := ratOf m e; convIntRat t r sat z neg q.1 q.2

/-- An integer as a value. -/
def valInt (v : Int) : Val := .fin (v < 0) v.natAbs 0

/-- The value of an element code of a type, integers with zero point z (R83, R87). -/
def valOf (t c : Nat) (z : Int := 0) : Val :=
  match fmtOf t with
  | some f => decodeFp f c
  | none => valInt (if t = 4 then (c % 256 : Int) - z else sext (typeBits t) c)

/-- A conversion to a type that is no MX element type (R91, R92). -/
def convTo (t : Nat) (r : Rnd) (ftz sat : Bool) (z : Int) (v : Val) : Conv :=
  match fmtOf t with
  | some f => convFp f r ftz v
  | none => convInt t r sat z v

/-- The sum of two finite values; an exact zero is +0 unless both are −0 (IEEE 754). -/
def addFin (na : Bool) (ma : Nat) (ea : Int) (nb : Bool) (mb : Nat) (eb : Int) : Val :=
  let e := min ea eb
  let a : Int := (ma * 2 ^ (ea - e).toNat : Nat)
  let b : Int := (mb * 2 ^ (eb - e).toNat : Nat)
  let s := (if na then -a else a) + (if nb then -b else b)
  if s = 0 then .fin (na && nb) 0 e else .fin (s < 0) s.natAbs e

/-- The exact sum (IEEE 754 rules for infinities, NaNs and signed zeros). -/
def Val.add : Val → Val → Val
  | .nan, _ => .nan
  | _, .nan => .nan
  | .inf a, .inf b => if a = b then .inf a else .nan
  | .inf a, .fin .. => .inf a
  | .fin .., .inf b => .inf b
  | .fin na ma ea, .fin nb mb eb => addFin na ma ea nb mb eb

/-- The negation. -/
def Val.neg : Val → Val
  | .nan => .nan
  | .inf a => .inf !a
  | .fin n m e => .fin (!n) m e

/-- The exact product. -/
def Val.mul : Val → Val → Val
  | .nan, _ => .nan
  | _, .nan => .nan
  | .inf a, .inf b => .inf (a != b)
  | .inf a, .fin n m _ => if m = 0 then .nan else .inf (a != n)
  | .fin n m _, .inf b => if m = 0 then .nan else .inf (n != b)
  | .fin na ma ea, .fin nb mb eb => .fin (na != nb) (ma * mb) (ea + eb)

/-- The magnitude. -/
def Val.abs : Val → Val
  | .nan => .nan
  | .inf _ => .inf false
  | .fin _ m e => .fin false m e

/-- The value times 2^k. -/
def Val.scale (v : Val) (k : Int) : Val :=
  match v with
  | .fin n m e => .fin n m (e + k)
  | v => v

/-- The value is zero. -/
def Val.isZero : Val → Bool
  | .fin _ m _ => m = 0
  | _ => false

/-- a < b for values that are no NaN; −0 and +0 are equal. -/
def Val.lt : Val → Val → Bool
  | .nan, _ => false
  | _, .nan => false
  | .inf a, .inf b => a && !b
  | .inf a, .fin .. => a
  | .fin .., .inf b => !b
  | .fin na ma ea, .fin nb mb eb =>
    match addFin na ma ea (!nb) mb eb with
    | .fin n m _ => n && m ≠ 0
    | _ => false

/-- The two are equal numbers. -/
def Val.eqv (a b : Val) : Bool := a ≠ .nan && b ≠ .nan && !a.lt b && !b.lt a

/-- The value rounded once to FP32 under R21, with gradual underflow. -/
def toF32 (v : Val) : Nat := (convFp fFP32 .rne false v).code

/-- The value of FP32 bits. -/
def f32 (c : Nat) : Val := decodeFp fFP32 c

/-- The value rounded to FP32, as a value. -/
def rnd32 (v : Val) : Val := f32 (toF32 v)

/-- An FP32 addition (R101). -/
def f32Add (a b : Nat) : Nat := toF32 ((f32 a).add (f32 b))

/-- An FP32 multiplication. -/
def f32Mul (a b : Nat) : Nat := toF32 ((f32 a).mul (f32 b))

/-- The FP32 bits of a rounded fraction. -/
def ratF32 (neg : Bool) (n d : Nat) : Nat := (convRat fFP32 .rne false neg n d).code

/-- The rounded quotient of two finite values, the second not zero. -/
def divFin (na : Bool) (ma : Nat) (ea : Int) (nb : Bool) (mb : Nat) (eb : Int) : Bool × Nat × Nat :=
  let e := ea - eb
  (na != nb, if e ≥ 0 then ma * 2 ^ e.toNat else ma, if e ≥ 0 then mb else mb * 2 ^ (-e).toNat)

/-- An FP32 division (IEEE 754), rounded once under R21. -/
def f32Div (a b : Nat) : Nat :=
  match f32 a, f32 b with
  | .nan, _ => fFP32.nanCode
  | _, .nan => fFP32.nanCode
  | .inf _, .inf _ => fFP32.nanCode
  | .inf x, .fin n _ _ => withSign fFP32 (x != n) fFP32.infCode
  | .fin n _ _, .inf x => withSign fFP32 (n != x) 0
  | .fin na ma ea, .fin nb mb eb =>
    if mb = 0 then (if ma = 0 then fFP32.nanCode else withSign fFP32 (na != nb) fFP32.infCode)
    else let (s, n, d) := divFin na ma ea nb mb eb; ratF32 s n d

/-- One step of a binary square root: r is the root so far of the bits above 2k, x what is left. -/
def isqrtGo : Nat → Nat → Nat → Nat
  | 0, _, r => r
  | k + 1, n, r => let c := r + 2 ^ k; isqrtGo k n (if c * c ≤ n then c else r)

/-- ⌊√n⌋. -/
def isqrt (n : Nat) : Nat := isqrtGo (Nat.log2 n / 2 + 1) n 0

/-- √(m × 2^e) as a fraction close enough to round as the root does: 64 bits and a sticky one. -/
def sqrtRat (m : Nat) (e : Int) : Nat × Nat :=
  let odd := e % 2 ≠ 0
  let m1 := if odd then 2 * m else m
  let e1 := if odd then e - 1 else e
  let r := isqrt (m1 * 2 ^ 128)
  let x := 2 * r + (if r * r = m1 * 2 ^ 128 then 0 else 1)
  let h := e1 / 2 - 65
  if h ≥ 0 then (x * 2 ^ h.toNat, 1) else (x, 2 ^ (-h).toNat)

/-- An FP32 square root, rounded once under R21; of a negative number, NaN; of −0, −0. -/
def f32Sqrt (a : Nat) : Nat :=
  match f32 a with
  | .nan => fFP32.nanCode
  | .inf n => if n then fFP32.nanCode else fFP32.infCode
  | .fin n m e => if m = 0 then a else if n then fFP32.nanCode else let q := sqrtRat m e; ratF32 false q.1 q.2

/-- Element i of a packed row (R89). -/
def elemAt (t : Nat) (row : List Byte) (i : Nat) : Nat :=
  match typeBits t with
  | 6 => fld (leAt row (i / 4 * 3) 3) (6 * (i % 4)) 6
  | 4 => fld (leAt row (i / 2) 1) (4 * (i % 2)) 4
  | n => leAt row (i * (n / 8)) (n / 8)

/-- The bytes of n packed elements of a type (R89). -/
def rowBytes (t n : Nat) : Nat := ceilDiv (n * typeBits t) 8

/-- Elements packed in order from the first (R89). -/
def packRow (t : Nat) (cs : List Nat) : List Byte :=
  match typeBits t with
  | 6 => natLe (ceilDiv (cs.length * 6) 8) (cs.foldr (fun c a => c % 64 + 64 * a) 0)
  | 4 => natLe (ceilDiv cs.length 2) (cs.foldr (fun c a => c % 16 + 16 * a) 0)
  | n => cs.flatMap fun c => natLe (n / 8) c

/-- Elements of an FP6 or FP4 row come in fours or twos (R89). -/
def rowLegal (t n : Nat) : Bool :=
  match typeBits t with
  | 6 => n % 4 = 0
  | 4 => n % 2 = 0
  | _ => true

/-- One element's counts (R103). -/
def Conv.counts (c : Conv) : Counts := { elem := 1, sat := b2n c.sat, flush := b2n c.flush, nan := b2n c.nan }

/-- The magnitude bits that AMAX keeps for a value before its conversion (R103). -/
def amaxBits (v : Val) : Nat :=
  match v with
  | .nan => 0
  | v => toF32 v.abs

end Sys2Proof.Machine
end

