-- ==== Sys2Proof/Machine/Operands.lean ====
section
/-! DEFINITION. The operands of a descriptor: its fields, its loop advances (R155, R181), its extents (R143, R182), its waits and signals (R139, R140), the regions and slots it reaches (R191, R458). -/

namespace Sys2Proof.Machine

/-- Error codes (R413). -/
def ePARITY : Nat := 0x01
def eRESIDUE : Nat := 0x02
def eDESC_CRC : Nat := 0x03
def eSHAPE_OVER : Nat := 0x04
def ePAGE_FAULT : Nat := 0x05
def eWINDOW_CLOSED : Nat := 0x06
def eSTALL_CYCLE : Nat := 0x07
def eTAG_PROTOCOL : Nat := 0x08
def eTENANT : Nat := 0x09
def eCONFIG_AUTH : Nat := 0x0A
def eCONFIG_REGION : Nat := 0x0B
def eCONFIG_IDENTITY : Nat := 0x0C
def eSCRUB_MISMATCH : Nat := 0x0D
def eSEGMENT_OFF : Nat := 0x0E
def eCONTEXT_EXHAUSTED : Nat := 0x0F
def eLOOP_NEST : Nat := 0x10
def eFELLED : Nat := 0x11
def eIO_STORM : Nat := 0x12

/-- The family of an opcode (R138). -/
inductive Family where
  | control | matrix | vector | stream | fill | copy | update | grove | none
  deriving DecidableEq, Repr

/-- R138's table. -/
def familyOf (op : Nat) : Family :=
  if op ≤ 2 then .control
  else if op = 0x10 || op = 0x11 then .matrix
  else if 0x20 ≤ op && op ≤ 0x27 then .vector
  else if op = 0x30 then .stream
  else if op = 0x31 then .fill
  else if op = 0x32 then .copy
  else if op = 0x40 then .update
  else if op = 0x50 then .grove
  else .none

/-- The queue may run the opcode (R138). -/
def opAllowed (q : QueueId) (op : Nat) : Bool :=
  match familyOf op, q with
  | .control, _ => true
  | .matrix, .mxq => true
  | .vector, .vxq => true
  | .stream, .skq => true
  | .fill, .skq => true
  | .copy, .skq => true
  | .update, .upq => true
  | .grove, .gvq => true
  | _, _ => false

/-- How an advanced field wraps or is bounded (R142, R155). -/
inductive FieldKind where
  | offset | mem | index | plain | trec
  deriving DecidableEq, Repr

/-- The field that a selector names for an opcode: its byte offset and its kind (R155). -/
def advField (op field : Nat) : Option (Nat × FieldKind) :=
  if field = 7 then (if familyOf op = .control || familyOf op = .none then none else some (0x0C, .trec))
  else match familyOf op with
    | .matrix => some (0x10 + 3 * field, .offset)
    | .vector => match field with
      | 0 => some (0x14, .offset) | 1 => some (0x17, .offset) | 2 => some (0x1A, .offset) | 3 => some (0x1D, .offset)
      | 4 => some (0x2C, .index) | _ => none
    | .stream => match field with
      | 0 => some (0x1C, .offset) | 1 => some (0x14, .mem) | _ => none
    | .fill => if field = 0 then some (0x10, .offset) else none
    | .copy => match field with
      | 0 => some (0x14, .offset) | 1 => some (0x10, .offset) | _ => none
    | .update => match field with
      | 0 => some (0x14, .offset) | 1 => some (0x17, .offset) | 2 => some (0x1A, .offset) | 3 => some (0x1D, .offset)
      | 4 => some (0x20, .offset) | 5 => some (0x26, .offset) | _ => none
    | .grove => match field with
      | 0 => some (0x14, .offset) | 1 => some (0x17, .offset) | 2 => some (0x1A, .offset) | 3 => some (0x28, .plain) | _ => none
    | _ => none

/-- The sum of the additions that the active loops make to one field of the entry at ring index idx (R181). -/
def advSum (loops : List LoopFrame) (idx field : Nat) : Int :=
  loops.foldl (fun t l =>
    let pos := (idx + 65536 * 2 - l.start - 1) % 65536
    l.advs.foldl (fun t a => if a.pos = pos && a.field = field then t + a.stride * l.iter else t) t) 0

/-- raw with one field advanced; an offset that leaves the scratchpad is written as an illegal value (R142). -/
def advApply (raw : List Byte) (off : Nat) (kind : FieldKind) (d : Int) : List Byte :=
  match kind with
  | .offset =>
    let v := (leAt raw off 3 : Int) + d
    splice raw off (natLe 3 (if d = 0 then leAt raw off 3 else if v < 0 || v > 0xBFFFF then 0xFFFFFF else v.toNat))
  | .trec =>
    let w := leAt raw off 4
    let v := (fld w 0 20 : Int) + d
    splice raw off (natLe 4 (if d = 0 then w else if v < 0 || v > 0xBFFFF then w - fld w 0 27 + 0x7FFFFFF else w - fld w 0 20 + v.toNat))
  | .mem =>
    let w := leAt raw off 8
    splice raw off (natLe 8 (w - fld w 0 44 + wrapN 44 ((fld w 0 44 : Int) + d)))
  | .index => splice raw off (natLe 6 (wrapN 48 ((leAt raw off 6 : Int) + d)))
  | .plain => splice raw off (natLe 4 (wrapN 32 ((leAt raw off 4 : Int) + d)))

/-- The entry's bytes with every advance of its enclosing loops added (R181). -/
def effective (loops : List LoopFrame) (idx : Nat) (raw : List Byte) : List Byte :=
  (List.range 8).foldl (fun r f =>
    match advField (opOf raw) f with
    | some (off, kind) => advApply r off kind (advSum loops idx f)
    | none => r) raw

/-! Extents (R143, R182). -/

/-- An extent field is legal (R143). -/
def extLegal (e : Nat) : Bool := !(e.testBit 15) || (fld e 4 4 = 0 && fld e 8 3 ≤ 4)

/-- The LEVEL of an extent field names a loop that encloses the descriptor (R143). -/
def extNested (loops : List LoopFrame) (e : Nat) : Bool := !(e.testBit 15) || fld e 8 3 ≤ loops.length

/-- SHP register n and its planned maximum. -/
def shp (k : Core) (n : Nat) : Nat := kReg k 0 (0x120 + 4 * n)
def shpMax (k : Core) (n : Nat) : Nat := kReg k 0 (0x160 + 4 * n)

/-- The register of an extent field is within its planned maximum (R182). -/
def extPlanned (k : Core) (e : Nat) : Bool := !(e.testBit 15) || shp k (fld e 0 4) ≤ shpMax k (fld e 0 4)

/-- The effective extent (R143). -/
def extValue (k : Core) (loops : List LoopFrame) (e : Nat) : Nat :=
  if e.testBit 15 then
    let lvl := fld e 8 3
    let i := if lvl = 0 then 0 else ((loops[lvl - 1]?).map (·.iter)).getD 0
    let tl := fld e 11 4
    let v := shp k (fld e 0 4) - i * 2 ^ tl
    if tl = 0 then v else min v (2 ^ tl)
  else fld e 0 15

/-- The checks of R182, items 1 to 3, on the extent fields at the given offsets; the effective extents. -/
def checkExts (k : Core) (loops : List LoopFrame) (raw : List Byte) (offs : List Nat) : Except Nat (List Nat) :=
  let es := offs.map fun o => leAt raw o 2
  if !(es.all extLegal) then .error eDESC_CRC
  else if !(es.all (extNested loops)) then .error eLOOP_NEST
  else if !(es.all (extPlanned k)) then .error eSHAPE_OVER
  else .ok (es.map (extValue k loops))

/-! The common header (R139 to R142). -/

/-- A WAIT or SIG field. -/
def semAmt (raw : List Byte) (off : Nat) : SemAmt :=
  let v := leAt raw off 2
  { sem := fld v 0 5, amt := fld v 5 11 }

/-- The waits with a count. -/
def waitsOf (raw : List Byte) : List SemAmt := [semAmt raw 2, semAmt raw 4].filter fun a => a.amt ≠ 0

/-- The signals with a count. -/
def sigsOf (raw : List Byte) : List SemAmt := [semAmt raw 6, semAmt raw 8].filter fun a => a.amt ≠ 0

/-- OCNT (R141). -/
def ocntOf (raw : List Byte) : Nat := fld (leAt raw 0xC 4) 28 4

/-- TREC, when TRECEN is 1 (R141). -/
def trecOf (raw : List Byte) : Option Nat :=
  let w := leAt raw 0xC 4
  if w.testBit 27 then some (fld w 0 20) else none

/-- An offset field is legal (R142). -/
def offLegal (o : Nat) : Bool := o ≤ 0xBFFFF

/-- n bytes of raw from o on are 0. -/
def zeroAt (raw : List Byte) (o n : Nat) : Bool := leAt raw o n == 0

/-- The header rules of R139 to R142 that hold for every opcode; outs says whether the descriptor has output slots. -/
def headerLegal (raw : List Byte) (outs : Bool) : Bool :=
  let w := leAt raw 0xC 4
  let a := semAmt raw 2
  let b := semAmt raw 4
  !(flagOf raw 7) && !(a.amt ≠ 0 && b.amt ≠ 0 && a.sem = b.sem) && fld w 20 7 = 0 &&
  (!(w.testBit 27) || (offLegal (fld w 0 20) && fld w 0 6 = 0)) &&
  (!outs || 1 ≤ fld w 28 4) &&
  (!(flagOf raw 2) || familyOf (opOf raw) = .vector) &&
  (!(flagOf raw 3) || opOf raw = 0x10 || opOf raw = 0x11 || opOf raw = 0x24)

/-! Regions and slots. -/

/-- The region lies within the scratchpad (R458). -/
def inSpd (r : Region8) : Bool := r.len = 0 || r.off + r.len ≤ 0xC0000

/-- The slots of regions, each once, in rising order. -/
def slotsOfAll (rs : List Region8) : List Nat :=
  (List.range 768).filter fun n => rs.any fun r => r.len ≠ 0 && r.off / 1024 ≤ n && n ≤ (r.off + r.len - 1) / 1024

/-- Rows of len bytes, one every stride bytes. -/
def rowsRegion (off rows stride len : Nat) : List Region8 :=
  if stride = len then [{ off := off, len := rows * len }]
  else (List.range rows).map fun r => { off := off + r * stride, len := len }

/-- A region touches a segment that is off or still powering up (R211). -/
def touchesOff (k : Core) (rs : List Region8) : Bool :=
  rs.any fun r => r.len ≠ 0 && (List.range ((r.off + r.len - 1) / 65536 + 1 - r.off / 65536)).any fun i => !segUp k (r.off / 65536 + i)

/-- The first word with wrong parity among regions. -/
def badInRegions (k : Core) (rs : List Region8) : Option Nat := rs.findSome? fun r => badWords k r.off r.len

/-- Why an issued descriptor fails: code, DETAIL, detecting page. -/
structure Fail where
  code : Nat
  detail : Word := 0#32
  page : Nat := 0
  deriving DecidableEq, Repr

/-- Bytes that a descriptor writes, with the FCLK cycle, counted from the first after its operands are loaded, in which it writes them. -/
structure Wr where
  step : Nat
  off : Nat
  bytes : List Byte
  deriving DecidableEq, Repr

/-- What a descriptor's work makes: its writes, and what it leaves to the completion: its counts, its register writes (for VRED; as page, offset and value), pushes, counters and scale-file entries. -/
structure Work where
  writes : List Wr := []
  counts : Counts := {}
  regs : List RegWrite := []
  hist : List HistPush := []
  clipInfo : Option (Nat × Nat) := none
  clipFires : Bool := false
  posts : List (Nat × Nat × Nat) := []
  bumps : List (Nat × Nat × Nat) := []
  file : List (Nat × ScaleEnt) := []
  deriving DecidableEq, Repr

/-- What a descriptor asks of the scratchpad before its issue window opens, and what follows: the regions it reads and writes, whether its outputs accumulate in place, the regions of each operand that it consumes, whether it is a null completion and what registers that writes, whether its window stays shut for another reason, the first check of R182 that fails, and the work that its flight takes on when the window opens in the given FCLK cycle. -/
structure Plan where
  ins : List Region8 := []
  outs : List Region8 := []
  inplace : Bool := false
  consume : List (List Region8) := []
  null : Bool := false
  nullRegs : List RegWrite := []
  nullPosts : List (Nat × Nat × Nat) := []
  holds : Bool := false
  bad : Option Fail := none
  setup : Core → Nat → Flight → Flight := fun _ _ f => f

/-- The first failure of a list of checks, in their order (R182). -/
def firstFail : List (Bool × Nat) → Option Fail
  | [] => none
  | (bad, code) :: l => if bad then some { code := code } else firstFail l

/-! Slot conditions (R162, R193, R194). -/

/-- A slot may be taken from EMPTY by a local writer (R194). -/
def mayTake (k : Core) (n : Nat) : Bool := untagged k n || ((tagOf k n).st == .empty && (tagOf k n).rdpin == 0)

/-- A slot may be taken in place (R194). -/
def mayTakeInplace (k : Core) (n : Nat) : Bool := untagged k n || ((tagOf k n).st == .full && (tagOf k n).rdpin == 0)

/-- A slot may be read (R194). -/
def mayRead (k : Core) (n : Nat) : Bool := untagged k n || (tagOf k n).st == .full

/-- The slot condition of a head for one slot: 0 to be read, 1 to be taken, 2 to be taken in place (R162, item 5). -/
def slotMet (k : Core) (w : Nat × Nat) : Bool :=
  match w.2 with
  | 0 => mayRead k w.1
  | 1 => mayTake k w.1
  | _ => mayTakeInplace k w.1

/-- The tally record as a region (R104). -/
def trecRegion (raw : List Byte) : List Region8 :=
  match trecOf raw with
  | some o => [{ off := o, len := 64 }]
  | none => []

/-- The regions lie within the scratchpad (R458). -/
def regionsIn (raw : List Byte) (ins outs : List Region8) : Bool := (ins ++ outs ++ trecRegion raw).all inSpd

/-- Flushes the gather entries of the rows that regions cover, since they are read (R206, event 3). -/
def flushRegions (k : Core) (rs : List Region8) : Core :=
  rs.foldl (fun k r => if r.len = 0 then k else flushRows k (r.off / 32) ((r.off + r.len - 1) / 32)) k

/-- The bytes at o with what the gather buffer holds for them. -/
def spdPeek (k : Core) (o n : Nat) : List Byte := spdBytes (flushRegions k [{ off := o, len := n }]) o n

/-- A core whose scratchpad holds the given bytes and nothing else: what a unit's work is computed from. -/
def onImage (k : Core) (img : Memory) : Core := modSpd k fun d => { d with mem := img, bad := [], gather := [] }

/-- img with the bytes of a region as they stand in the scratchpad. -/
def grab (mem : Memory) (img : Memory) (r : Region8) : Memory := memWrite img r.off (memRead mem r.off r.len)

/-- A core with the values that a table read in the issue window needs: the slots are ready and the words good. -/
def tableReady (k : Core) (off len : Nat) : Bool := (slotsOf off len).all (mayRead k) && (badWords (flushRegions k [{ off := off, len := len }]) off len).isNone

/-- A plan that stands before a table that it needs can be read (R116): it waits for the table's slots and for the outputs that p knows already, and where they are ready the table's words have wrong parity. -/
def tablePlan (k : Core) (off len : Nat) (p : Plan) : Plan :=
  { ins := [{ off := off, len := len }], outs := p.outs, inplace := p.inplace,
    bad := some { code := ePARITY, page := 5, detail := addrDetail ((badWords (flushRegions k [{ off := off, len := len }]) off len).getD 0) } }

/-! The head of a queue (R156, R160, R162, R163, R177). -/

/-- The in-flight limit of a queue (R163); GVQ never more than the overlay's descriptor credits, and 0 from the quiesce of a load to its release (R395, R397). -/
def limitOf (k : Core) : QueueId → Nat
  | .mxq => 2 | .vxq => 2 | .skq => 64 | .upq => 1
  | .gvq => if k.grv.load.any (fun l => 3 ≤ l.phase) then 0 else min 4 (max 1 (fld k.grv.engine.toNat 19 3))

/-- Distance between ring indices, modulo 65,536 (R157). -/
def ringDist (a b : Nat) : Nat := (a + 65536 - b) % 65536

/-- The entry fetched for a ring index. -/
def fetchedAt (x : Queue) (idx : Nat) : Option Fetched := x.buf.find? fun e => e.idx == idx

/-- Ring index idx lies in the body of an active loop. -/
def inActiveBody (x : Queue) (idx : Nat) : Bool :=
  x.loops.any fun l => let d := ringDist idx l.start; 1 ≤ d && d ≤ l.len

/-- The head entry, fetched with a good CRC (R162, item 2). -/
def headOf (x : Queue) : Option Fetched :=
  if x.issue = x.tail then none
  else match fetchedAt x x.issue with
    | some e => if e.ok then some e else none
    | none => none

/-- The descriptor's work has failed. -/
def Flight.isFailed (f : Flight) : Bool := match f.work with
  | .failed .. => true
  | _ => false

/-- Some issued descriptor of the queue has failed and awaits its handling (R166). -/
def hasFailed (x : Queue) : Bool := x.flights.any Flight.isFailed

/-- A clip test has fired and the fallback is under way (R186). -/
def clipPending (x : Queue) : Bool := x.fb.isSome || x.flights.any (·.clipFires)

/-- The descriptor's waits are taken on this issue (R140, R166). -/
def takesWaits (x : Queue) (raw : List Byte) : Bool :=
  x.skipWaits = 0 && !(flagOf raw 4 && match x.loops with
    | l :: _ => l.iter ≠ 0
    | [] => false)

/-- Both waits can be met (R173). -/
def waitsMet (k : Core) (ws : List SemAmt) : Bool := ws.all fun a => a.amt ≤ semGet k a.sem

/-- The last iteration of the innermost enclosing loop; true outside loops. -/
def lastIter (loops : List LoopFrame) : Bool :=
  match loops with
  | l :: _ => l.iter + 1 = l.count
  | [] => true

/-- The body entries of a LOOP at ring index i, in order, where all are fetched (R162, item 2). -/
def loopBody (x : Queue) (i len : Nat) : Option (List Fetched) :=
  let es := (List.range len).filterMap fun j => fetchedAt x ((i + 1 + j) % 65536)
  if es.length = len && len < ringDist x.tail i && es.all (·.ok) then some es else none

/-- BODYLEN of a LOOP as far as its body can be fetched: 0 for one that is 0 or above 32 (R180). -/
def bodyLen (raw : List Byte) : Nat := let n := leAt raw 0x11 1; if n ≤ 32 then n else 0

/-- What the head of queue q waits for: slots, semaphores, fetch, flight (R156, R162). -/
def headWaits (k : Core) (q : QueueId) : Bool × Bool × Bool × Bool :=
  let x := getQ k q
  let full := limitOf k q ≤ inFlight x
  if x.issue = x.tail then (false, false, false, full)
  else match fetchedAt x x.issue with
  | none => (false, false, true, full)
  | some e =>
    (x.waitOn.any fun w => !slotMet k w, takesWaits x e.raw && !waitsMet k (waitsOf e.raw),
     opOf e.raw = 1 && (loopBody x x.issue (bodyLen e.raw)).isNone, full)

/-- A queue waits on slots, on semaphores (R156). -/
def waitsSlot (k : Core) : Bool := allQ.any fun q => (headWaits k q).1
def waitsSem (k : Core) : Bool := allQ.any fun q => (headWaits k q).2.1

/-! Work on an image. -/

/-- The cells of b laid over a. -/
def overlay (a b : Memory) : Memory := b.foldl (fun m c => memSet m c.1 c.2) a

/-- A list cut into pieces of n. -/
def chunks {α : Type} (n : Nat) : Nat → List α → List (List α)
  | 0, _ => []
  | f + 1, l => if l.isEmpty then [] else l.take n :: chunks n f (l.drop n)

/-- The place of an event among those of its cycle: an array serves its drain before its accumulation reads, then its load lines, then its feeder (R125). -/
def Act.rank : Act → Nat
  | .begin => 0 | .loaded => 1 | .pass .. => 2 | .write => 3 | .step _ => 4 | .line _ => 5 | .read _ => 6 | .finish => 7

/-- Puts an event behind those of its cycle and its rank. -/
def insertEv (e : Ev) : List Ev → List Ev
  | [] => [e]
  | a :: l => if e.cyc < a.cyc || (e.cyc = a.cyc && e.act.rank < a.act.rank) then e :: a :: l else a :: insertEv e l

/-- Events in the order of their cycles and ranks. -/
def sortEvs (l : List Ev) : List Ev := l.foldl (fun m e => insertEv e m) []

/-- A write event for each cycle in which a unit's work writes. -/
def writeEvs (base : Nat) (w : Work) : List Ev := (dedup (w.writes.map (·.step))).map fun t => { cyc := base + t, act := .write }

/-- A write in pieces of per bytes, one a cycle. -/
def piecesOf (step off per : Nat) (bytes : List Byte) : List Wr :=
  let cs := chunks per (bytes.length + 1) bytes
  (List.range cs.length).map fun i => { step := step + i, off := off + per * i, bytes := cs.getD i [] }

end Sys2Proof.Machine
end

