-- ==== Sys2Proof/Machine/Matrix.lean ====
section
/-! DEFINITION. The matrix array (R108 to R135, R144 to R146, R275, R292 to R294): MXMUL and MXCONV. -/

namespace Sys2Proof.Machine

/-! The body of a matrix descriptor (R144). -/

def mxXoff (raw : List Byte) : Nat := leAt raw 0x10 3
def mxXsc (raw : List Byte) : Nat := leAt raw 0x13 3
def mxWoff (raw : List Byte) : Nat := leAt raw 0x16 3
def mxWsc (raw : List Byte) : Nat := leAt raw 0x19 3
def mxYoff (raw : List Byte) : Nat := leAt raw 0x1C 3
def mxAcco (raw : List Byte) : Nat := leAt raw 0x1F 3
def mxAux (raw : List Byte) : Nat := leAt raw 0x22 3
def mxRs (raw : List Byte) : Nat := leAt raw 0x25 3
def mxXstr (raw : List Byte) : Nat := leAt raw 0x28 2
def mxWstr (raw : List Byte) : Nat := leAt raw 0x2A 2
def mxYstr (raw : List Byte) : Nat := leAt raw 0x2C 2
def mxSt (raw : List Byte) : Nat := fld (leAt raw 0x34 2) 12 4
def mxWt (raw : List Byte) : Nat := fld (leAt raw 0x34 2) 8 4
def mxOt (raw : List Byte) : Nat := fld (leAt raw 0x34 2) 4 4
def mxGrp (raw : List Byte) : Nat := fld (leAt raw 0x34 2) 2 2
def mxShape (raw : List Byte) : Nat := fld (leAt raw 0x34 2) 0 2
/-- Bit b of byte 0x36: 7 ACCSKIP0, 6 CACC, 5 CW, 4 CX, 3 REUSE, 2 ACC, 1 OLAYOUT, 0 AXIS. -/
def mxBit (raw : List Byte) (b : Nat) : Bool := (leAt raw 0x36 1).testBit b

/-- The mode that the operand types select; none for a pair that R96 does not list. -/
def mxKind (raw : List Byte) : Option MxKind :=
  let s := mxSt raw
  let w := mxWt raw
  if s = w && (s = 1 || s = 2) then some .f16
  else if (s = 3 || s = 4) && w = 3 then some .int
  else if isMx s && isMx w then some .mx
  else none

/-- The group size of a code (R80), 0 for none. -/
def grpSize : Nat → Nat
  | 1 => 32 | 2 => 64 | 3 => 128 | _ => 0

/-- 4-bit mode: both operands FP4E2M1 (R96). -/
def mxFour (raw : List Byte) : Bool := mxSt raw = 9 && mxWt raw = 9

/-- I and J of one problem (R114). -/
def mxIJ (raw : List Byte) : Nat × Nat :=
  let wide := mxKind raw = some .f16
  match mxShape raw with
  | 0 => if wide then (32, 32) else if mxFour raw then (128, 64) else (64, 64)
  | 1 => if wide then (8, 128) else if mxFour raw then (32, 256) else (16, 256)
  | 2 => if wide then (16, 16) else if mxFour raw then (64, 32) else (32, 32)
  | _ => if wide then (8, 8) else if mxFour raw then (32, 16) else (16, 16)

/-- Problems of a shape (R114). -/
def mxProbs (raw : List Byte) : Nat := match mxShape raw with
  | 2 => 4 | 3 => 16 | _ => 1

/-- The output goes through the rescale path (R293). -/
def mxRescaled (raw : List Byte) : Bool := mxOt raw = 3 || mxOt raw = 4

/-- The reduction unit's length (R97, R111). -/
def mxUnit (raw : List Byte) : Nat :=
  let int := mxKind raw = some .int
  if mxBit raw 0 then (if int then 16 else 8)
  else if mxKind raw = some .f16 then 8
  else if mxGrp raw ≠ 0 then grpSize (mxGrp raw) else 16

/-- The block's fields (R132). -/
def convOf (b : List Byte) : Conv2 :=
  { ih := leAt b 0 2, iw := leAt b 2 2, c := leAt b 4 2, ow := leAt b 6 2, kh := leAt b 8 1, kw := leAt b 9 1, sh := leAt b 10 1, sw := leAt b 11 1,
    dh := leAt b 12 1, dw := leAt b 13 1, pt := leAt b 14 1, pl := leAt b 15 1, p0 := leAt b 16 4, kb := leAt b 20 4 }

/-- The unit length along the reduction index k, of which KB is a multiple (R97, R132): k runs down the tile, whatever the direction of the pass. -/
def convUnit (raw : List Byte) : Nat :=
  if mxKind raw = some .f16 then 8 else if mxGrp raw ≠ 0 then grpSize (mxGrp raw) else 16

/-- lo ≤ v ≤ hi. -/
def within (lo v hi : Nat) : Bool := lo ≤ v && v ≤ hi

/-- The block is legal (R132). -/
def convLegal (raw b : List Byte) : Bool :=
  let v := convOf b
  let g := grpSize (mxGrp raw)
  1 ≤ v.ih && 1 ≤ v.iw && 1 ≤ v.c && 1 ≤ v.ow && within 1 v.kh 16 && within 1 v.kw 16 && within 1 v.sh 8 && within 1 v.sw 8 && within 1 v.dh 8 &&
  within 1 v.dw 8 && v.pt ≤ 15 && v.pl ≤ 15 && v.kb % convUnit raw = 0 && zeroAt b 0x18 8 &&
  (g = 0 || v.c % g = 0) && (typeBits (mxSt raw) ≠ 6 || v.c % 4 = 0) && (typeBits (mxSt raw) ≠ 4 || v.c % 2 = 0)

/-- The fields of the descriptor itself are legal (R81, R82, R96, R97, R112, R123, R126, R140 to R146, R184, R275, R292). -/
def mxLegal (raw : List Byte) : Bool :=
  let conv := opOf raw = 0x11
  let (i, j) := mxIJ raw
  let g := grpSize (mxGrp raw)
  let s := mxSt raw
  let w := mxWt raw
  let o := mxOt raw
  headerLegal raw true && zeroAt raw 0x37 5 &&
  [mxXoff raw, mxXsc raw, mxWoff raw, mxWsc raw, mxYoff raw, mxAcco raw, mxAux raw, mxRs raw].all offLegal &&
  (match mxKind raw with
   | none => false
   | some .int => o = 10 || mxRescaled raw
   | some _ => o ≤ 2) &&
  (if mxKind raw = some .mx then g ≠ 0 || ((s = 5 || s = 6) && (w = 5 || w = 6)) else g = 0) &&
  g ≤ i && (!(mxBit raw 0) || g ≤ j) &&
  (!conv || mxShape raw = 0) &&
  (mxAux raw = 0 || conv || 2 ≤ mxShape raw) && mxAux raw % 32 = 0 &&
  (mxRs raw = 0 || mxRescaled raw) && mxRs raw % 32 = 0 &&
  !(mxBit raw 2 && mxRescaled raw) &&
  (!(mxBit raw 1) || (mxYoff raw % 32 = 0 && mxYstr raw % 32 = 0)) &&
  (g = 0 || ((conv || mxXstr raw * 8 % (typeBits s * g) = 0) && mxWstr raw * 8 % (typeBits w * g) = 0)) &&
  (s ≠ 3 || mxXsc raw = 0) &&
  (!(flagOf raw 3) || (mxKind raw ≠ some .f16 && !(mxBit raw 2 && mxShape raw < 2 && mxAcco raw = mxYoff raw)))

/-- Bytes of the problem table or convolution block (R115, R132). -/
def mxTable (raw : List Byte) : Nat := if opOf raw = 0x11 then 32 else if 2 ≤ mxShape raw then 32 * mxProbs raw else 0

/-- An extent written as a constant is within its range (R129). -/
def constWithin (e hi : Nat) : Bool := e.testBit 15 || fld e 0 15 ≤ hi

/-- Entry p of a problem table (R115). -/
def probAt (t : List Byte) (p : Nat) : Prob :=
  let a := 32 * p
  { xoff := leAt t a 4, xsc := leAt t (a + 4) 4, woff := leAt t (a + 8) 4, wsc := leAt t (a + 12) 4, yoff := leAt t (a + 16) 4,
    acco := leAt t (a + 20) 4, iv := leAt t (a + 24) 1, jv := leAt t (a + 25) 1, nv := leAt t (a + 26) 2 }

/-- Entry p of a problem table runs. -/
def probActive (t : List Byte) (p : Nat) : Bool := leAt t (32 * p + 28) 1 = 1

/-- Entry p of a problem table is legal, its NV apart (R115, R123, R275). -/
def probLegal (raw t : List Byte) (p : Nat) : Bool :=
  let q := probAt t p
  let (i, j) := mxIJ raw
  [q.xoff, q.xsc, q.woff, q.wsc, q.yoff, q.acco].all offLegal && leAt t (32 * p + 28) 1 < 2 && zeroAt t (32 * p + 29) 3 &&
  within 1 q.iv i && within 1 q.jv j && 1 ≤ q.nv &&
  (!(probActive t p) || ((mxSt raw ≠ 3 || q.xsc = 0) && (!(mxBit raw 1) || q.yoff % 32 = 0)))

/-- ACC in force: ACCSKIP0 clears it on iteration 0 of the innermost enclosing loop (R145). -/
def mxAcc (raw : List Byte) (loops : List LoopFrame) : Bool :=
  mxBit raw 2 && !(mxBit raw 7 && match loops with
    | l :: _ => l.iter = 0
    | [] => false)

/-! Regions (R109, R110, R115, R116, R123, R130, R131, R146, R275). -/

/-- SCSTRIDE of an operand (R146). -/
def scStride (stride t g : Nat) : Nat := if g = 0 then 0 else stride * 8 / (typeBits t * g)

/-- The reduction depth in valid elements: IV in the column direction, JV in the row direction. -/
def mxDepth (raw : List Byte) (p : Prob) : Nat := if mxBit raw 0 then p.jv else p.iv

/-- The valid outputs of a step: JV in the column direction, IV in the row direction (R131). -/
def mxOuts (raw : List Byte) (p : Prob) : Nat := if mxBit raw 0 then p.iv else p.jv

/-- The pixel of tile element (i, j), as the number of its first element after XOFF; none outside the input (R132, R133). -/
def pixelAt (v : Conv2) (i j : Nat) : Option Nat :=
  let k := v.kb + i
  let a := k / v.c / v.kw
  let b := k / v.c % v.kw
  let pos := v.p0 + j
  let h : Int := (pos / v.ow * v.sh + a * v.dh : Nat) - (v.pt : Int)
  let w : Int := (pos % v.ow * v.sw + b * v.dw : Nat) - (v.pl : Int)
  if 0 ≤ h && h < v.ih && 0 ≤ w && w < v.iw then some ((h.toNat * v.iw + w.toNat) * v.c + k % v.c) else none

/-- The runs of operand row j from element i on: first element and length within one tap (R134). -/
def convRuns (v : Conv2) (iv : Nat) : Nat → Nat → List (Nat × Nat)
  | 0, _ => []
  | n + 1, i =>
    if iv ≤ i then []
    else let len := min (v.c - (v.kb + i) % v.c) (iv - i); (i, len) :: convRuns v iv n (i + len)

/-- The bytes of n elements of a packed tensor from element e on. -/
def elemRegion (off t e n : Nat) : Region8 :=
  let a := e * typeBits t / 8
  { off := off + a, len := ceilDiv ((e + n) * typeBits t) 8 - a }

/-- Row j of a stationary operand with its scales. -/
def rowRegions (raw : List Byte) (p : Prob) (j : Nat) : List Region8 :=
  let t := mxSt raw
  let g := grpSize (mxGrp raw)
  { off := p.xoff + j * mxXstr raw, len := rowBytes t p.iv } ::
    (if g = 0 then [] else [{ off := p.xsc + j * scStride (mxXstr raw) t g, len := ceilDiv p.iv g }])

/-- A run of a gathered row with its scales; nothing for one at a pixel outside the input (R134). -/
def runRegions (raw : List Byte) (v : Conv2) (p : Prob) (j : Nat) (r : Nat × Nat) : List Region8 :=
  let g := grpSize (mxGrp raw)
  match pixelAt v r.1 j with
  | some e => elemRegion p.xoff (mxSt raw) e r.2 :: (if g = 0 then [] else [{ off := p.xsc + e / g, len := ceilDiv r.2 g }])
  | none => []

/-- Operand rows of one problem that a load line takes (R117). -/
def rowsPerLine (raw : List Byte) : Nat :=
  let len := match mxShape raw with
    | 0 => 64 | 2 => 32 | _ => 16
  if mxXstr raw = (mxIJ raw).1 * typeBits (mxSt raw) / 8 then 64 / len else 1

/-- The load lines of one problem, none for one that is not active, with what each reads (R117, R130, R134). -/
def probLines (raw : List Byte) (v : Option Conv2) (p : Option Prob) : List (List Region8) :=
  let j := (mxIJ raw).2
  match v, p with
  | some v, some p =>
    ((List.range p.jv).flatMap fun i => (convRuns v p.iv (p.iv + 1) 0).map (runRegions raw v p i)) ++ List.replicate (j - p.jv) []
  | _, p =>
    (List.range (ceilDiv j (rowsPerLine raw))).map fun l =>
      match p with
      | some p => (((List.range (rowsPerLine raw)).map (l * rowsPerLine raw + ·)).filter (· < p.jv)).flatMap (rowRegions raw p)
      | none => []

/-- The zero points of a UINT8 stationary operand (R275). -/
def zpRegions (raw : List Byte) (p : Option Prob) : List Region8 :=
  match p with
  | some p => if mxSt raw = 4 then [{ off := p.xsc, len := p.iv }] else []
  | none => []

/-- The load lines of a pass; the zero points come with the first line of their problem. -/
def mxLines (raw : List Byte) (v : Option Conv2) (ps : List (Option Prob)) : List (List Region8) :=
  ps.flatMap fun p => match probLines raw v p with
    | l :: ls => (zpRegions raw p ++ l) :: ls
    | [] => []

/-- What step n reads of the streamed operand and its scales (R110). -/
def streamAt (raw : List Byte) (ps : List Prob) (n : Nat) : List Region8 :=
  let t := mxWt raw
  let g := grpSize (mxGrp raw)
  (ps.filter fun p => n < p.nv).flatMap fun p =>
    { off := p.woff + n * mxWstr raw, len := rowBytes t (mxDepth raw p) } ::
    (if g = 0 then [] else [{ off := p.wsc + n * scStride (mxWstr raw) t g, len := ceilDiv (mxDepth raw p) g }])

/-- The size of an output element in bytes. -/
def mxOsize (raw : List Byte) : Nat := typeBits (mxOt raw) / 8

/-- The output region of a problem at base, which is also the shape of its accumulation source (R123, R126). -/
def mxOutput (raw : List Byte) (p : Prob) (base : Nat) : List Region8 :=
  if mxBit raw 1 then (List.range (mxOuts raw p)).map fun q => { off := base + q * mxYstr raw, len := p.nv * mxOsize raw }
  else (List.range p.nv).map fun n => { off := base + n * mxYstr raw, len := mxOuts raw p * mxOsize raw }

/-- What step n accumulates onto (R126). -/
def accAt (raw : List Byte) (ps : List Prob) (n : Nat) : List Region8 :=
  (ps.filter fun p => n < p.nv).flatMap fun p =>
    if mxBit raw 1 then (List.range (mxOuts raw p)).map fun q => { off := p.acco + q * mxYstr raw + n * mxOsize raw, len := mxOsize raw }
    else [{ off := p.acco + n * mxYstr raw, len := mxOuts raw p * mxOsize raw }]

/-- Two runs of bytes meet. -/
def meets (a b : Region8) : Bool := 0 < a.len && 0 < b.len && a.off < b.off + b.len && b.off < a.off + a.len

/-! Arithmetic. -/

/-- An element of an operand with its scale code; 127, a scale of 1, where it has none. -/
structure Cel where
  v : Val
  s : Nat := 127
  deriving DecidableEq, Repr

/-- Exact zero. -/
def val0 : Val := .fin false 0 0

/-- The fixed tree over eight FP32 values, missing ones +0 (R100). -/
def tree8 (l : List Val) : Val :=
  let g := fun i => l.getD i val0
  let add := fun a b : Val => rnd32 (a.add b)
  add (add (add (g 0) (g 1)) (add (g 2) (g 3))) (add (add (g 4) (g 5)) (add (g 6) (g 7)))

/-- The result of a floating-point unit (R98 to R100, R111): a pair is a stationary and a streamed element. -/
def unitF (kind : MxKind) (row : Bool) (ps : List (Cel × Cel)) : Val :=
  if kind = .f16 then tree8 (ps.map fun p => rnd32 (p.1.v.mul p.2.v))
  else if ps.any fun p => p.1.s = 255 || p.2.s = 255 then .nan
  else match ps.foldl (fun a p => a.add (p.1.v.mul p.2.v)) val0 with
    | .fin n m e =>
      if row then tree8 (ps.map fun p => rnd32 ((p.1.v.mul p.2.v).scale (p.1.s + p.2.s - 254 : Int)))
      else if m = 0 then val0
      else match ps.head? with
        | some p => rnd32 ((Val.fin n m e).scale (p.1.s + p.2.s - 254 : Int))
        | none => val0
    | v => v

/-- The integer that a value with exponent 0 is. -/
def valToInt : Val → Int
  | .fin n m _ => if n then -(m : Int) else m
  | _ => 0

/-- The result of an integer unit (R100). -/
def unitI (ps : List (Cel × Cel)) : Int := ps.foldl (fun a p => a + valToInt p.1.v * valToInt p.2.v) 0

/-- An INT32 addition that saturates or wraps (R101). -/
def addI (sat : Bool) (a b : Int) : Int :=
  let v := a + b
  if sat then max (-2147483648) (min 2147483647 v) else sext 32 (wrapN 32 v)

/-- The units of a line of pairs that are not wholly kerf fill (R130); kerf fill in them is zero. -/
def unitsOf (u : Nat) (ps : List (Option Cel × Cel)) : List (List (Cel × Cel)) :=
  ((chunks u (ps.length + 1) ps).filter fun c => c.any fun p => p.1.isSome).map fun c => c.map fun p => (p.1.getD { v := val0 }, p.2)

/-- The chain of R101 in floating point; a line wholly in kerf fill adds nothing. -/
def chainF (start : Option Val) (us : List Val) : Val :=
  match start, us with
  | some a, us => us.foldl (fun a u => rnd32 (a.add u)) a
  | none, u :: us => us.foldl (fun a u => rnd32 (a.add u)) u
  | none, [] => val0

/-- The chain of R101 in integers. -/
def chainI (sat : Bool) (start : Option Int) (us : List Int) : Int :=
  match start, us with
  | some a, us => us.foldl (addI sat) a
  | none, u :: us => us.foldl (addI sat) u
  | none, [] => 0

/-! A pass. -/

/-- Stationary element (i, j); none for kerf fill (R109, R132, R146, R275). -/
def statAt (k : Core) (a : Pass) (p : Prob) (row : List Byte) (i j : Nat) : Option Cel :=
  let t := mxSt a.raw
  let g := grpSize (mxGrp a.raw)
  let z : Int := if t = 4 then (leNat (spdBytes k (p.xsc + i) 1) : Int) else 0
  match a.conv with
  | none => some { v := valOf t (elemAt t row i) z, s := if g = 0 then 127 else leNat (spdBytes k (p.xsc + j * scStride (mxXstr a.raw) t g + i / g) 1) }
  | some v =>
    match pixelAt v i j with
    | none => none
    | some e =>
      let b := typeBits t
      let bytes := spdBytes k (p.xoff + e * b / 8) 3
      let code := (leNat bytes >>> (e * b % 8)) % 2 ^ b
      some { v := valOf t code z, s := if g = 0 then 127 else leNat (spdBytes k (p.xsc + e / g) 1) }

/-- The tile by operand rows (R109). -/
def tileOf (k : Core) (a : Pass) (p : Prob) : List (List (Option Cel)) :=
  (List.range p.jv).map fun j =>
    let row := spdBytes k (p.xoff + j * mxXstr a.raw) (rowBytes (mxSt a.raw) p.iv)
    (List.range p.iv).map fun i => statAt k a p row i j

/-- Streamed column n (R110). -/
def columnOf (k : Core) (a : Pass) (p : Prob) (n : Nat) : List Cel :=
  let t := mxWt a.raw
  let g := grpSize (mxGrp a.raw)
  let d := mxDepth a.raw p
  let row := spdBytes k (p.woff + n * mxWstr a.raw) (rowBytes t d)
  let sc := spdBytes k (p.wsc + n * scStride (mxWstr a.raw) t g) (if g = 0 then 0 else ceilDiv d g)
  (List.range d).map fun i => { v := valOf t (elemAt t row i), s := if g = 0 then 127 else leAt sc (i / g) 1 }

/-- The lines that are reduced: operand rows in the column direction, tile rows in the row direction. -/
def linesOf (a : Pass) (p : Prob) (tile : List (List (Option Cel))) : List (List (Option Cel)) :=
  if mxBit a.raw 0 then (List.range p.iv).map fun i => tile.map fun r => (r[i]?).getD none else tile

/-- Where the output of step n and index q lies from a base (R123). -/
def outAddr (raw : List Byte) (base n q : Nat) : Nat :=
  if mxBit raw 1 then base + q * mxYstr raw + n * mxOsize raw else base + n * mxYstr raw + q * mxOsize raw

/-- Entry e of the rescale block: MULT, SHIFT, ZP (R292). -/
def rsEntry (k : Core) (off e : Nat) : Int × Nat × Nat :=
  let b := spdBytes k (off + 0x20 + 8 * e) 8
  (sext 32 (leAt b 0 4), min 62 (leAt b 4 1), leAt b 5 1)

/-- The rescale path on acc (R293): the code, as a quantising conversion, and AMAX. -/
def rescale (t : Nat) (sat : Bool) (acc : Int) (e : Int × Nat × Nat) : Nat × Counts :=
  let p := acc * e.1
  let m := roundDiv .rne p.natAbs (2 ^ e.2.1)
  let y : Int := if p < 0 then -(m : Int) else m
  let c := fitInt t sat (y + if t = 4 then (e.2.2 : Int) else 0)
  (c.code, { elem := 1, clip := b2n c.sat, amax := amaxBits (valInt m) })

/-- One output element: its code and its counts (R101, R103, R126, R293). -/
def outElem (k : Core) (a : Pass) (p : Prob) (line : List (Option Cel)) (col : List Cel) (n q : Nat) : Nat × Counts :=
  let raw := a.raw
  let t := mxOt raw
  let ps := line.zip col
  let us := unitsOf (mxUnit raw) ps
  let old := leNat (spdBytes k (outAddr raw p.acco n q) (mxOsize raw))
  if a.kind = .int then
    let acc := chainI (flagOf raw 1) (if a.acc then some (sext 32 old) else none) (us.map unitI)
    if mxRescaled raw then
      rescale t (flagOf raw 1) acc (rsEntry k (mxRs raw) (match a.rsMode with
        | 0 => 0 | 1 => q | _ => n))
    else (wrapN 32 acc, { elem := 1, amax := amaxBits (valInt acc) })
  else
    let acc := chainF (if a.acc then some (valOf t old) else none) (us.map (unitF a.kind (mxBit raw 0)))
    let c := convTo t .rne (flagOf raw 0) (flagOf raw 1) 0 acc
    (c.code, { c.counts with amax := amaxBits acc })

/-- The outputs of a problem: for each step, for each output index, code and counts. -/
def probOutputs (k : Core) (a : Pass) (p : Prob) : List (List (Nat × Counts)) :=
  let lines := linesOf a p (tileOf k a p)
  (List.range p.nv).map fun n =>
    let col := columnOf k a p n
    (List.range lines.length).map fun q => outElem k a p (lines.getD q []) col n q

/-- s of R121 by its formula, on the streamed bytes; for an 8-bit pass whose streamed operand is FP6 or FP4 the table's row would be larger in places (DESIGN CHOICE, log entry 161). -/
def mxS (raw : List Byte) : Nat :=
  let (i, j) := mxIJ raw
  let depth := if mxBit raw 0 then j else i
  let outs := if mxBit raw 0 then i else j
  max 1 (max (ceilDiv (mxProbs raw * depth * typeBits (mxWt raw)) 512) (ceilDiv (mxProbs raw * outs * mxOsize raw) 256))

/-- w of R122. -/
def mxW (raw : List Byte) : Nat :=
  let (i, j) := mxIJ raw
  let outs := if mxBit raw 0 then i else j
  if mxBit raw 1 then ceilDiv (mxProbs raw * outs) 8 else ceilDiv (mxProbs raw * outs * mxOsize raw) 256

/-- The pipeline latency (R122). -/
def mxLat (raw : List Byte) : Nat := if mxKind raw = some .f16 then 18 else 14

/-- The writes of problem number p in the order of its drain, each with the FCLK cycle, counted from the entry of step 0, in which it is made (R122, R123): 256 bytes of results a cycle, or eight rows. -/
def probWrites (raw : List Byte) (p : Prob) (num : Nat) (outs : List (List (Nat × Counts))) : List Wr :=
  let s := mxS raw
  let sz := mxOsize raw
  let (i, j) := mxIJ raw
  let most := if mxBit raw 0 then i else j
  let lat := mxLat raw
  if mxBit raw 1 then
    let per := 32 / sz
    (List.range (ceilDiv p.nv per)).flatMap fun g => (List.range (mxOuts raw p)).map fun q =>
      let ns := (List.range (min per (p.nv - g * per))).map (g * per + ·)
      { step := (min (g * per + per) p.nv - 1) * s + lat + (num * most + q) / 8, off := outAddr raw p.yoff (g * per) q,
        bytes := ns.flatMap fun n => natLe sz ((((outs.getD n []))[q]?.map (·.1)).getD 0) }
  else (List.range p.nv).flatMap fun n =>
    piecesOf (n * s + lat + num * most * sz / 256) (p.yoff + n * mxYstr raw) 256 ((outs.getD n []).flatMap fun c => natLe sz c.1)

/-- Products of step n with both factors non-zero (R128). -/
def liveProducts (k : Core) (a : Pass) (p : Prob) (n : Nat) : Nat :=
  let lines := linesOf a p (tileOf k a p)
  let col := columnOf k a p n
  lines.foldl (fun t l => t + ((l.zip col).filter fun x => (match x.1 with
      | some c => !c.v.isZero
      | none => false) && !x.2.v.isZero).length) 0

/-- MXA counter 6 and its remainder after step n of a pass whose operands img holds (R128, R137). -/
def countGated (k : Core) (a : Pass) (img : Memory) (n : Nat) : Core :=
  if (kReg k 2 0x40).testBit 0 then k
  else
    let (i, j) := mxIJ a.raw
    let live := (a.probs.filter fun p => n < p.nv).foldl (fun t p => t + liveProducts (onImage k img) a p n) 0
    let g := k.gatedRem + (mxProbs a.raw * i * j - live)
    kBump { k with gatedRem := g % 4096 } 2 6 (g / 4096)

/-- The record that a load of this pass makes (R119, R120). -/
def residentOf (raw blk : List Byte) (iv jv : Nat) (stat : List Region8) : Resident :=
  let tab : List Region8 := if blk = [] then [] else [{ off := mxAux raw, len := blk.length }]
  let rows := dedup ((stat ++ tab).flatMap fun r => if r.len = 0 then [] else (List.range ((r.off + r.len - 1) / 32 - r.off / 32 + 1)).map (r.off / 32 + ·))
  { stype := mxSt raw, grp := mxGrp raw, shape := mxShape raw, xoff := mxXoff raw, xstride := mxXstr raw, xscoff := mxXsc raw,
    iv := iv, jv := jv, aux := mxAux raw, opcode := opOf raw, blockBytes := blk, rows := rows }

/-- REUSE is honoured (R119); AXIS is no part of the record. -/
def reuseOk (k : Core) (r : Resident) : Bool :=
  match k.mxa with
  | some m => { m with rows := [], tile := [] } = { r with rows := [], tile := [] } && !(kReg k 2 0x40).testBit 1
  | none => false

/-- The first FCLK cycle in which the array is free for the next load (R124). -/
def arrayFree (k : Core) : Nat := k.mxq.flights.foldl (fun t f => max t f.busyTo) 0

/-- The clip test of a descriptor with count t among n elements against CLIPTHR as sampled (R302). -/
def clipFires (raw : List Byte) (thr t n : Nat) : Bool := flagOf raw 3 && thr.testBit 31 && fld thr 0 16 * n < t * 65536

/-- The work of a pass on the bytes that k holds: every output with its counts (R101, R103, R122, R123, R303). -/
def mxWork (k : Core) (a : Pass) (thr : Nat) : Work :=
  let raw := a.raw
  let outs := a.probs.map fun p => (p, probOutputs k a p)
  let counts := outs.foldl (fun t o => o.2.foldl (fun t l => l.foldl (fun t c => t.add c.2) t) t) ({} : Counts)
  let t := if mxRescaled raw then counts.clip else counts.sat + counts.nan
  { writes := (List.range outs.length).flatMap fun i => match outs[i]? with
      | some o => probWrites raw o.1 i o.2
      | none => [],
    counts := counts, clipInfo := some (t, counts.elem), clipFires := clipFires raw thr t counts.elem }

/-- Entries of its rescale block that a pass uses under MODE 0 or 1 (R292). -/
def passEnts (a : Pass) : Nat := if a.rsMode = 0 then 1 else a.probs.foldl (fun t p => max t (mxOuts a.raw p)) 0

/-- The cycles that a pass waits for its rescale block beyond its issue window and a load of l cycles (R294). -/
def rsDelay (a : Pass) (l : Nat) : Nat :=
  if mxRescaled a.raw && a.rsMode < 2 then ceilDiv (32 + 8 * passEnts a) 32 - 16 - l else 0

/-- What a pass reads of its rescale block in the cycles from its issue window on (R294): the header, with every entry under MODE 0 and 1. -/
def rsReads (a : Pass) : List (List Region8) :=
  if !mxRescaled a.raw then []
  else
    let n := if a.rsMode < 2 then 32 + 8 * passEnts a else 32
    (List.range (ceilDiv n 32)).map fun i => [{ off := mxRs a.raw + 32 * i, len := min 32 (n - 32 * i) }]

/-- The entry of the rescale block that step n reads as it enters (R294). -/
def rsAt (raw : List Byte) (rsMode n : Nat) : List Region8 :=
  if mxRescaled raw && rsMode = 2 then [{ off := mxRs raw + 0x20 + 8 * n, len := 8 }] else []

/-- From the entry of step 0 to the completion of a pass (R122). -/
def passLen (a : Pass) : Nat := (a.nv - 1) * mxS a.raw + mxLat a.raw + mxW a.raw

/-- The work of a pass as it stands when its window opens in cycle t (R122, R125): the feeder fills in the window; the pass begins when its window has closed and the array is free. -/
def mxSetup (a : Pass) (r : Resident) (lines : List (List Region8)) (k : Core) (t : Nat) (f : Flight) : Flight :=
  let raw := a.raw
  let s := mxS raw
  let start := max (t + 16) (arrayFree k)
  let feed := fun n => streamAt raw a.probs n
  let rs := rsReads a
  let early : List Ev := (List.range (min 16 a.nv)).map fun n => { cyc := t + n, act := .read (feed n) }
  let block : List Ev := (List.range rs.length).map fun i => { cyc := t + i, act := .read (rs.getD i []) }
  let late : List Ev := (List.range (a.nv - 16)).map fun i => { cyc := i * s, act := .read (feed (16 + i)) }
  let steps : List Ev := (List.range a.nv).map fun n => { cyc := n * s, act := .step ((if a.acc then accAt raw a.probs n else []) ++ rsAt raw a.rsMode n) }
  { f with run := .mx a r, start := start, stepLen := s, lines := lines, ends := start,
           todo := sortEvs (early ++ block ++ [{ cyc := start, act := .begin }]),
           tail := sortEvs (late ++ steps ++ writeEvs 0 (mxWork (onImage k []) a 0) ++ [{ cyc := passLen a, act := .finish }]) }

/-- The plan of a pass, its tables being read (R116, R126, R129, R182, R183, R292, R458); own says whether the checks that need no table hold. -/
def mxFinish (k : Core) (raw blk hdr : List Byte) (kind : MxKind) (loops : List LoopFrame) (own : Bool) : Plan :=
  let es := [0x2E, 0x30, 0x32].map fun o => leAt raw o 2
  let vs := es.map (extValue k loops)
  let (i, j) := mxIJ raw
  let iv := vs.getD 0 0
  let jv := vs.getD 1 0
  let nv := vs.getD 2 0
  let null := iv = 0 || jv = 0 || nv = 0
  let conv := opOf raw = 0x11
  let packed := 2 ≤ mxShape raw && !conv
  let v := if conv then some (convOf blk) else none
  let single : Prob := { xoff := mxXoff raw, xsc := mxXsc raw, woff := mxWoff raw, wsc := mxWsc raw, yoff := mxYoff raw, acco := mxAcco raw,
                         iv := max 1 iv, jv := max 1 jv, nv := max 1 nv }
  let all := if packed then (List.range (mxProbs raw)).map fun p => if probActive blk p then some (probAt blk p) else none else [some single]
  let probs := all.filterMap id
  let acc := mxAcc raw loops
  let acs := if acc then probs.flatMap fun p => mxOutput raw p p.acco else []
  let outs := probs.flatMap fun p => mxOutput raw p p.yoff
  let inplace := acc && acs = outs
  let sep := if inplace then [] else acs
  let lines := mxLines raw v all
  let stat := lines.flatten
  let strm := (List.range (probs.foldl (fun t p => max t p.nv) 0)).flatMap (streamAt raw probs)
  let rsMode := leAt hdr 0 1
  let most := probs.foldl (fun t p => max t (mxOuts raw p)) 0
  let ents := match rsMode with
    | 0 => 1 | 1 => most | _ => max 1 nv
  let need := match rsMode with
    | 0 => 1 | 1 => if iv = 0 || jv = 0 then 0 else most | _ => nv
  let rs : List Region8 := if mxRescaled raw then [{ off := mxRs raw, len := 0x20 + 8 * ents }] else []
  let tab : List Region8 := if blk = [] then [] else [{ off := mxAux raw, len := blk.length }]
  let ins := stat ++ strm ++ sep ++ tab ++ rs
  let tables := if conv then convLegal raw blk
    else !packed || (List.range (mxProbs raw)).all fun p => probLegal raw blk p && (nv = 0 || (probAt blk p).nv ≤ nv)
  let rules := (!mxRescaled raw || rsMode ≤ 2) && !(sep.any fun a => outs.any (meets a)) &&
    !(packed && flagOf raw 3 && mxBit raw 2 && (probs.all fun p => p.acco = p.yoff))
  let beyond := (if tab = [] && mxTable raw ≠ 0 then [({ off := mxAux raw, len := mxTable raw } : Region8)] else [])
  let pass : Pass := { raw := raw, kind := kind, probs := probs, conv := v, acc := acc, rsMode := rsMode, nv := nv }
  { ins := ins, outs := outs, inplace := inplace, null := null,
    consume := (if mxBit raw 4 then [stat] else []) ++ (if mxBit raw 5 then [strm] else []) ++ (if mxBit raw 6 then [sep] else []),
    bad := firstFail [(!own || !rules || (beyond = [] && !tables), eDESC_CRC), (!es.all (extNested loops), eLOOP_NEST), (!es.all (extPlanned k), eSHAPE_OVER),
                      (i < iv || j < jv || 32767 < nv, eSHAPE_OVER), (mxRescaled raw && leAt hdr 2 2 < need, eSHAPE_OVER),
                      (!regionsIn raw (ins ++ beyond) outs, eSHAPE_OVER)],
    setup := mxSetup pass (residentOf raw blk iv jv stat) lines }

/-- The plan of an MXMUL or MXCONV (R116, R182): the table and the header of the rescale block are read first, where the descriptor is legal that far and they lie in the scratchpad. -/
def mxPlan (k : Core) (loops : List LoopFrame) (raw : List Byte) (_ : Fetched) : Plan :=
  let (i, j) := mxIJ raw
  let es := [0x2E, 0x30, 0x32].map fun o => leAt raw o 2
  let own := mxLegal raw && es.all extLegal && constWithin (es.getD 0 0) i && constWithin (es.getD 1 0) j
  let len := if own && mxAux raw + mxTable raw ≤ 0xC0000 then mxTable raw else 0
  let rsLen := if own && mxRescaled raw && mxRs raw + 32 ≤ 0xC0000 then 32 else 0
  let p := mxFinish k raw (spdPeek k (mxAux raw) len) (spdPeek k (mxRs raw) rsLen) ((mxKind raw).getD .f16) loops own
  if !tableReady k (mxAux raw) len then tablePlan k (mxAux raw) len (if opOf raw = 0x11 then p else {})
  else if !tableReady k (mxRs raw) rsLen then tablePlan k (mxRs raw) rsLen p
  else p

end Sys2Proof.Machine
end

