-- ==== Sys2Proof/Machine/Lanes.lean ====
section
/-! DEFINITION. What the vector descriptors share: the generator (R322 to R325), the elementary operations (R311), the reductions (R312), the fields of the body (R147), operand reads. -/

namespace Sys2Proof.Machine

/-! The generator. -/

/-- One step of the generator (R322). -/
def lfsrStep (s : Nat) : Nat :=
  let b := xor (xor (s.testBit 127) (s.testBit 125)) (xor (s.testBit 100) (s.testBit 98))
  s * 2 % 2 ^ 128 + b2n b

/-- n steps. -/
def lfsrSteps : Nat → Nat → Nat
  | 0, s => s
  | n + 1, s => lfsrSteps n (lfsrStep s)

/-- The output function (R322). -/
def lfsrOut (s : Nat) : Nat :=
  let a := (s % 2 ^ 32) ^^^ ((s >>> 64) % 2 ^ 32)
  let x := a * 5 % 2 ^ 32
  (x * 128 % 2 ^ 32 + x / 2 ^ 25) * 9 % 2 ^ 32

/-- A polynomial over GF(2) times x, modulo x¹²⁸ + x²⁹ + x²⁷ + x² + 1: the polynomial that the step satisfies as an operator on states (its feedback takes bits 127, 125, 100, 98). -/
def gfX (a : Nat) : Nat := if a.testBit 127 then (a * 2 - 2 ^ 128) ^^^ 0x28000005 else a * 2

/-- The product of two such polynomials, from the n low bits of b. -/
def gfMul (a b : Nat) : Nat → Nat
  | 0 => 0
  | n + 1 => (if b.testBit 0 then a else 0) ^^^ gfMul (gfX a) (b / 2) n

/-- g raised to the number that the n low bits of e hold. -/
def gfPow (g e : Nat) : Nat → Nat
  | 0 => 1
  | n + 1 =>
    let r := gfPow (gfMul g g 128) (e / 2) n
    if e.testBit 0 then gfMul g r 128 else r

/-- x to the power 2⁴⁰: the jump over one element's steps (R323). -/
def gfJump : Nat := (List.range 40).foldl (fun g _ => gfMul g g 128) 2

/-- The polynomial a in the step operator, applied to state s, from its bits n - 1 to 0. -/
def gfApply (a s : Nat) : Nat → Nat → Nat
  | 0, r => r
  | n + 1, r => gfApply a s n (lfsrStep r ^^^ (if a.testBit n then s else 0))

/-- S_i, 2⁴⁰ × i steps from S_0 (R323). -/
def startState (seed i : Nat) : Nat :=
  let s0 := if seed % 2 ^ 128 = 0 then 1 else seed % 2 ^ 128
  gfApply (gfPow gfJump (i % 2 ^ 48) 48) s0 128 0

/-- Draw n of the element with logical index i (R322, R323). -/
def drawOf (seed i n : Nat) : Nat := lfsrOut (lfsrSteps (32 * (n + 1)) (startState seed i))

/-! Elementary operations (R311). -/

/-- Fixed-point one: 320 fraction bits. -/
def fxOne : Nat := 2 ^ 320

/-- The series of atanh z for z ≤ 1/3 in fixed point: n terms from power p = z^(2j+1) on. -/
def atanhGo : Nat → Nat → Nat → Nat → Nat
  | 0, _, _, _ => 0
  | n + 1, j, p, z2 => p / (2 * j + 1) + atanhGo n (j + 1) (p * z2 / fxOne) z2

/-- ln y for a fixed-point y in [1, 2). -/
def fxLn (y : Nat) : Nat :=
  let z := (y - fxOne) * fxOne / (y + fxOne)
  2 * atanhGo 110 0 z (z * z / fxOne)

/-- ln 2 in fixed point. -/
def fxLn2 : Nat := 2 * atanhGo 110 0 (fxOne / 3) (fxOne / 9)

/-- The series of e^r in fixed point: n terms from term t = r^i ÷ i! on. -/
def expGo : Nat → Nat → Nat → Nat → Nat
  | 0, _, _, _ => 0
  | n + 1, i, t, r => t + expGo n (i + 1) (t * r / fxOne / (i + 1)) r

/-- exp of an FP32 value, rounded once (R311; PRESUMED, log entry 31). -/
def vExp : Val → Val
  | .nan => .nan
  | .inf n => if n then val0 else .inf false
  | .fin n m e =>
    if m = 0 then .fin false 1 0
    else if (Val.fin false 104 0).lt (.fin false m e) then (if n then val0 else .inf false)
    else
      let q := ratOf m e
      let x : Int := (q.1 * fxOne / q.2 : Nat)
      let y := if n then -x else x
      let k := y / fxLn2
      rnd32 (.fin false (expGo 80 0 fxOne (y - k * fxLn2).toNat) (k - 320))

/-- ln of an FP32 value, rounded once (R311; PRESUMED, log entry 31). -/
def vLn : Val → Val
  | .nan => .nan
  | .inf n => if n then .nan else .inf false
  | .fin n m e =>
    if m = 0 then .inf true
    else if n then .nan
    else
      let l := Nat.log2 m
      let v : Int := (e + l) * (fxLn2 : Int) + (fxLn (m * fxOne / 2 ^ l) : Int)
      if v = 0 then val0 else rnd32 (.fin (v < 0) v.natAbs (-320))

/-- An addition, multiplication, fused multiply-add (R311). -/
def vAdd (a b : Val) : Val := rnd32 (a.add b)
def vSub (a b : Val) : Val := rnd32 (a.add b.neg)
def vMul (a b : Val) : Val := rnd32 (a.mul b)
def vFma (a b c : Val) : Val := rnd32 ((a.mul b).add c)

/-- A division, square root, reciprocal (R311). -/
def vDiv (a b : Val) : Val := f32 (f32Div (toF32 a) (toF32 b))
def vSqrt (a : Val) : Val := f32 (f32Sqrt (toF32 a))
def vRecip (a : Val) : Val := vDiv (.fin false 1 0) a

/-- A reciprocal square root, rounded once (R311): 1 ÷ √(m × 2^e) from its first bits and a sticky one. -/
def vRsqrt : Val → Val
  | .nan => .nan
  | .inf n => if n then .nan else val0
  | .fin n m e =>
    if m = 0 then .inf n
    else if n then .nan
    else
      let odd := e % 2 ≠ 0
      let m1 := if odd then 2 * m else m
      let e1 := if odd then e - 1 else e
      let r := isqrt (2 ^ 320 / m1)
      rnd32 (.fin false (2 * r + if r * r * m1 = 2 ^ 320 then 0 else 1) (-161 - e1 / 2))

/-- The larger; NaN if either is NaN; +0 over −0 (R313, R314). -/
def vMax (a b : Val) : Val :=
  match a, b with
  | .nan, _ => .nan
  | _, .nan => .nan
  | a, b => if a.lt b then b else if b.lt a then a else match a with
    | .fin true 0 _ => b
    | _ => a

/-- The smaller; NaN if either is NaN; −0 over +0 (R313, R314). -/
def vMin (a b : Val) : Val :=
  match a, b with
  | .nan, _ => .nan
  | _, .nan => .nan
  | a, b => if a.lt b then a else if b.lt a then b else match a with
    | .fin true 0 _ => a
    | _ => b

/-! Reductions (R312). -/

/-- Combines two values of which either may be absent. -/
def combine (op : Val → Val → Val) : Option Val → Option Val → Option Val
  | some a, some b => some (op a b)
  | some a, none => some a
  | none, b => b

/-- One level of a segment's tree. -/
def treeLevel (op : Val → Val → Val) : List (Option Val) → List (Option Val)
  | a :: b :: l => combine op a b :: treeLevel op l
  | l => l

/-- The tree of one segment: six levels. -/
def segTree (op : Val → Val → Val) (l : List (Option Val)) : Option Val :=
  ((List.range 6).foldl (fun l _ => treeLevel op l) l).head?.getD none

/-- A line reduced: the trees of its segments, chained in ascending order. -/
def reduceLine (op : Val → Val → Val) (l : List (Option Val)) : Option Val :=
  (chunks 64 (l.length + 1) l).foldl (fun a s => combine op a (segTree op s)) none

/-- The sum of a line; +0 for an absent one. -/
def lineSum (l : List Val) : Val := (reduceLine vAdd (l.map some)).getD val0

/-! The body of a vector descriptor (R147). -/

def vVop (raw : List Byte) : Nat := leAt raw 0x10 1
def vAt (raw : List Byte) : Nat := fld (leAt raw 0x11 1) 4 4
def vBt (raw : List Byte) : Nat := fld (leAt raw 0x11 1) 0 4
def vOt (raw : List Byte) : Nat := fld (leAt raw 0x12 1) 4 4
def vAgrp (raw : List Byte) : Nat := fld (leAt raw 0x12 1) 2 2
def vOgrp (raw : List Byte) : Nat := fld (leAt raw 0x12 1) 0 2
/-- Bit b of byte 0x13: 6 BROW, 5 RNG, 4 REDAXIS, 1 CB, 0 CA. -/
def vBit (raw : List Byte) (b : Nat) : Bool := (leAt raw 0x13 1).testBit b
def vAoff (raw : List Byte) : Nat := leAt raw 0x14 3
def vBoff (raw : List Byte) : Nat := leAt raw 0x17 3
def vOoff (raw : List Byte) : Nat := leAt raw 0x1A 3
def vSc (raw : List Byte) : Nat := leAt raw 0x1D 3
def vAstr (raw : List Byte) : Nat := leAt raw 0x20 2
def vOstr (raw : List Byte) : Nat := leAt raw 0x22 2
def vImm (raw : List Byte) : Nat := leAt raw 0x28 4
def vAux (raw : List Byte) : Nat := leAt raw 0x38 4
def vReg (raw : List Byte) : Nat := leAt raw 0x36 2

/-- SR is 1. -/
def vSr (raw : List Byte) : Bool := flagOf raw 2

/-- The logical index of element (r, c) (R147, R323). -/
def logIdx (raw : List Byte) (r c : Nat) : Nat := wrapN 48 ((leAt raw 0x2C 6 : Int) + r * sext 32 (leAt raw 0x32 4) + c)

/-- The fields that every vector descriptor must have legal (R81, R142, R147, R148). -/
def vBase (raw : List Byte) (outs : Bool) : Bool :=
  headerLegal raw outs && !vBit raw 7 && !vBit raw 3 && !vBit raw 2 &&
  [vAoff raw, vBoff raw, vOoff raw, vSc raw].all offLegal && typeOk (vAt raw) && typeOk (vBt raw) && typeOk (vOt raw) &&
  (if opOf raw = 0x21 then fld (vReg raw) 0 3 = 0 else vReg raw = 0) && extLegal (leAt raw 0x24 2) && extLegal (leAt raw 0x26 2)

/-- The effective ROWS and COLS (R143). -/
def vRows (k : Core) (loops : List LoopFrame) (raw : List Byte) : Nat := extValue k loops (leAt raw 0x24 2)
def vCols (k : Core) (loops : List LoopFrame) (raw : List Byte) : Nat := extValue k loops (leAt raw 0x26 2)

/-- Items 2 to 4 of R182 on ROWS and COLS. -/
def vExtChecks (k : Core) (loops : List LoopFrame) (raw : List Byte) : List (Bool × Nat) :=
  let es := [leAt raw 0x24 2, leAt raw 0x26 2]
  [(!es.all (extNested loops), eLOOP_NEST), (!es.all (extPlanned k), eSHAPE_OVER), (es.any fun e => 32767 < extValue k loops e, eSHAPE_OVER)]

/-- The rounding of an element's conversion: draw 1 of its logical index under SR (R95, R323). -/
def vRnd (raw : List Byte) (seed r c : Nat) : Rnd := if vSr raw then .sr (drawOf seed (logIdx raw r c) 1 % 65536) else .rne

/-- An element converted to OTYPE, with its counts (R103, R310). -/
def vOut (raw : List Byte) (seed r c : Nat) (v : Val) : Nat × Counts :=
  let x := convTo (vOt raw) (vRnd raw seed r c) (flagOf raw 0) (flagOf raw 1) 0 v
  (x.code, { x.counts with amax := amaxBits v })

/-- The codes of a packed row of n elements. -/
def rowCodes (k : Core) (t off n : Nat) : List Nat :=
  let b := spdBytes k off (rowBytes t n)
  (List.range n).map (elemAt t b)

/-- A row of n elements widened to FP32 (R90, R310). -/
def rowVals (k : Core) (t off n : Nat) : List Val := (rowCodes k t off n).map fun c => rnd32 (valOf t c)

/-- The counts of a list of elements together. -/
def sumCounts (l : List (Nat × Counts)) : Counts := l.foldl (fun t c => t.add c.2) {}

/-- The seed in the active set of the VEC page. -/
def seedOf (k : Core) : Nat := (List.range 4).foldl (fun a i => a + kReg k 3 (0x40 + 4 * i) * 2 ^ (32 * i)) 0

/-- The descriptor uses the generator (R324). -/
def usesSeed (raw : List Byte) : Bool := familyOf (opOf raw) = .vector && (vBit raw 5 || vSr raw)

/-- Elements e to e + n - 1 of a packed row at off, as far as it has cols of them. -/
def segRegion (off t e n cols : Nat) : List Region8 := if cols ≤ e then [] else [elemRegion off t e (min n (cols - e))]

/-- The work of a vector unit that takes n cycles after its issue window of 8 (R163, R309): what cycle i reads and draws, the writes of its work, its end. -/
def vTimeline (t n : Nat) (draws : Nat → Nat) (regs : Nat → List Region8) (w : Work) (f : Flight) : Flight :=
  let base := t + 8
  { f with start := base, ends := base + n,
           todo := sortEvs ((List.range n).map (fun i => ({ cyc := base + i, act := .pass (draws i) (regs i) } : Ev)) ++ writeEvs base w ++ [{ cyc := base + n, act := .finish }]) }

end Sys2Proof.Machine
end

