-- ==== Sys2Proof/Machine/Quant.lean ====
section
/-! DEFINITION. Quantisation (R273 to R307): VQUANT, VDEQUANT, the scale file, the history slots. -/

namespace Sys2Proof.Machine

/-! Fields (R284, R285). -/

def qBurl (raw : List Byte) : Bool := (vImm raw).testBit 18
def qHpush (raw : List Byte) : Bool := (vImm raw).testBit 17
def qSrwr (raw : List Byte) : Bool := (vImm raw).testBit 16
def qHslot (raw : List Byte) : Nat := fld (vImm raw) 12 4
def qGaxis (raw : List Byte) : Bool := (vImm raw).testBit 11
def qChaxis (raw : List Byte) : Bool := (vImm raw).testBit 10
def qSrbase (raw : List Byte) : Nat := fld (vImm raw) 0 10
def qCap (raw : List Byte) : Nat := fld (vAux raw) 20 12 + 1
def qBurlOff (raw : List Byte) : Nat := fld (vAux raw) 0 20

/-- The modes of R284. -/
inductive QMode2 where
  | qmx | qmxs | qmxd | qint | qintc | qintd | rescale | srload | dmx | dint | dintt
  deriving DecidableEq, Repr

/-- The mode of a descriptor; none for an illegal VOP. -/
def qMode (raw : List Byte) : Option QMode2 :=
  if opOf raw = 0x24 then
    match vVop raw with
    | 0 => some .qmx | 1 => some .qmxs | 2 => some .qmxd | 3 => some .qint | 4 => some .qintc | 5 => some .qintd
    | 6 => some .rescale | 7 => some .srload
    | _ => none
  else match vVop raw with
    | 0 => some .dmx | 1 => some .dint | 2 => some .dintt
    | _ => none

/-- The output is of an MX type. -/
def QMode2.toMx : QMode2 → Bool
  | .qmx => true | .qmxs => true | .qmxd => true
  | _ => false

/-- The mode quantises per channel. -/
def QMode2.perChannel : QMode2 → Bool
  | .qint => true | .qintc => true | .qintd => true
  | _ => false

/-- The mode dequantises. -/
def QMode2.deq : QMode2 → Bool
  | .dmx => true | .dint => true | .dintt => true
  | _ => false

/-- The mode reads the scale file (R280). -/
def QMode2.readsFile : QMode2 → Bool
  | .qint => true | .dint => true
  | _ => false

/-- The descriptor writes the scale file (R280). -/
def writesFile (raw : List Byte) : Bool :=
  opOf raw = 0x24 && (vVop raw = 7 || ((vVop raw = 4 || vVop raw = 5) && qSrwr raw))

/-- The descriptor reads the scale file (R280). -/
def readsFile (raw : List Byte) : Bool :=
  (opOf raw = 0x24 || opOf raw = 0x25) && match qMode raw with
    | some m => m.readsFile
    | none => false

/-- A floating-point type of the vector unit. -/
def isFp3 (t : Nat) : Bool := t ≤ 2

/-- An 8-bit integer type. -/
def isQ8 (t : Nat) : Bool := t = 3 || t = 4

/-- The types of a mode (R284, R81). -/
def qTypes (raw : List Byte) (m : QMode2) : Bool :=
  let a := vAt raw
  let o := vOt raw
  match m with
  | .qmx => isFp3 a && isMx o
  | .qmxs => isFp3 a && isMx o
  | .qmxd => isFp3 a && isMx o
  | .qint => isFp3 a && isQ8 o
  | .qintc => isFp3 a && isQ8 o
  | .qintd => isFp3 a && o = 3
  | .rescale => a = 10 && isQ8 o
  | .srload => true
  | .dmx => isMx a && isFp3 o
  | .dint => isQ8 a && isFp3 o
  | .dintt => isQ8 a && isFp3 o

/-- The fields of SRLOAD (R291). -/
def srloadLegal (raw : List Byte) : Bool :=
  vAt raw = 0 && vBt raw = 0 && vOt raw = 0 && vAgrp raw = 0 && vOgrp raw = 0 && vBoff raw = 0 && vOoff raw = 0 && vSc raw = 0 &&
  vAstr raw = 0 && vOstr raw = 0 && !vBit raw 1 && !vBit raw 6 && vAux raw = 0 && vImm raw / 1024 = 0 && leAt raw 0x26 2 = 1

/-- The stride that places the scale bytes, and the group and type it goes by: OSTRIDE of an MX output, ASTRIDE of an MX input (R146, R287). -/
def qScale (raw : List Byte) (m : QMode2) : Nat × Nat × Nat :=
  if m.toMx then (vOstr raw, vOt raw, grpSize (vOgrp raw)) else (vAstr raw, vAt raw, grpSize (vAgrp raw))

/-- The fields that do not depend on the extents (R81, R284, R285, R286, R287, R292). -/
def qLegal (k : Core) (raw : List Byte) (m : QMode2) : Bool :=
  let b := vBoff raw = 0 && vBt raw = 0 && !vBit raw 1 && !vBit raw 6
  let bOk := match m with
    | .qmxs => vBt raw = 0 && !vBit raw 6
    | .rescale => vBt raw = 0 && !vBit raw 6 && vBoff raw % 32 = 0
    | _ => b
  let (st, t, g) := qScale raw m
  vBase raw (m ≠ .srload || (trecOf raw).isSome) && !vBit raw 5 && !vBit raw 4 && vImm raw / 2 ^ 19 = 0 && bOk && qTypes raw m &&
  ((vAgrp raw ≠ 0) == isMx (vAt raw)) && ((vOgrp raw ≠ 0) == isMx (vOt raw)) &&
  (m ≠ .srload || srloadLegal raw) &&
  (!m.deq || (!qHpush raw && !qSrwr raw && qHslot raw = 0 && !qGaxis raw && vAux raw / 2 ^ 20 = 0)) &&
  (if qBurl raw then qBurlOff raw % 32 = 0 && offLegal (qBurlOff raw) && typeBits (vOt raw) ≠ 6 && m ≠ .rescale && m ≠ .srload else qBurlOff raw = 0) &&
  (k.grv.histAvail || !(qHpush raw || m = .qmxd || m = .qintd)) &&
  (!qGaxis raw || m.toMx) &&
  (g = 0 || st * 8 % (typeBits t * g) = 0)

/-! Values. -/

/-- An entry is valid (R282): SCALE is finite, positive and normal. -/
def ScaleEnt.valid (e : ScaleEnt) : Bool := 0x800000 ≤ e.scale.toNat && e.scale.toNat < 0x7F800000

/-- The zero point that an entry has for an 8-bit type (R274, R279). -/
def zpFor (t : Nat) (e : ScaleEnt) : Int := if t = 4 then e.zp.toNat else 0

/-- An entry of a channel table (R283). -/
def entryOf (b : List Byte) : ScaleEnt :=
  { scale := word (leAt b 0 4), zp := BitVec.ofNat 8 (leAt b 4 1), flat := nbit (leAt b 5 1) 0, flatv := word (leAt b 8 4) }

/-- The 16 bytes of an entry (R283). -/
def entryBytes (e : ScaleEnt) : List Byte :=
  natLe 4 e.scale.toNat ++ natLe 1 e.zp.toNat ++ natLe 1 (b2n e.flat) ++ natLe 2 0 ++ natLe 4 e.flatv.toNat ++ natLe 4 0

/-- A bank of the scale file. -/
def fileBank (k : Core) (b : Nat) : FMap ScaleEnt := if b = 0 then k.qnt.bankA else k.qnt.bankB

/-- The entry of a bank. -/
def fileEntry (k : Core) (b i : Nat) : ScaleEnt := fget (fileBank k b) i {}

/-- What quantising one element gives: its code, its counts, whether it is an outlier for the burl list, the code it is clipped to. -/
structure QElem where
  code : Nat
  counts : Counts
  outlier : Bool := false
  deriving DecidableEq, Repr

/-- The quotient of two finite values as a sign, numerator and denominator; the second is not zero. -/
def quot (a b : Val) : Bool × Nat × Nat :=
  match a, b with
  | .fin na ma ea, .fin nb mb eb => divFin na ma ea nb mb eb
  | _, _ => (false, 0, 1)

/-- Whether v is finite. -/
def Val.isFin : Val → Bool
  | .fin .. => true
  | _ => false

/-- The sign of a value. -/
def Val.sign : Val → Bool
  | .fin n _ _ => n
  | .inf n => n
  | .nan => false

/-- An element quantised to INT8 or UINT8 with an entry (R273, R277, R278, R282, R288). -/
def quantInt (t : Nat) (burl sat : Bool) (r : Rnd) (e : ScaleEnt) (x : Val) : QElem :=
  let z := zpFor t e
  let base : Counts := { elem := 1, amax := amaxBits x }
  let lo : Int := if t = 4 then 0 else if burl then -127 else -128
  let hi : Int := if t = 4 then (if burl then 254 else 255) else 127
  if !e.valid then { code := wrapN 8 z, counts := { base with nan := 1 } }
  else if x = .nan then { code := wrapN 8 z, counts := { base with nan := 1 } }
  else if e.flat && x.eqv (f32 e.flatv.toNat) then { code := wrapN 8 z, counts := base }
  else if !x.isFin then { code := wrapN 8 (if x.sign then lo else hi), counts := { base with clip := 1 }, outlier := true }
  else
    let (n, a, d) := quot x (f32 e.scale.toNat)
    let i : Int := roundDiv r a d
    let v := (if n then -i else i) + z
    if v < lo then { code := wrapN 8 (if sat then lo else v), counts := { base with clip := 1 }, outlier := true }
    else if hi < v then { code := wrapN 8 (if sat then hi else v), counts := { base with clip := 1 }, outlier := true }
    else { code := wrapN 8 v, counts := base }

/-- emax of an MX element type (R93). -/
def emaxOf : Nat → Int
  | 5 => 8 | 6 => 15 | 7 => 4 | _ => 2

/-- floor(log2) of a finite non-zero value. -/
def log2Val : Val → Int
  | .fin _ m e => (Nat.log2 m : Int) + e
  | _ => 0

/-- The scale code for a largest magnitude (R93, R288). -/
def scaleCode (t : Nat) (a : Val) : Nat :=
  if a.isZero then 0x7F else (max 0 (min 0xFE (log2Val a - emaxOf t + 127))).toNat

/-- The largest magnitude among the finite values of a group, zero if none. -/
def maxFin (l : List Val) : Val := l.foldl (fun a v => if v.isFin && a.lt v.abs then v.abs else a) val0

/-- The scale code of a group (R93, R288): 0xFF with a NaN in it, else the supplied or derived code, else the computed one. -/
def groupCode (t : Nat) (given : Option Nat) (l : List Val) : Nat :=
  if l.any (· == .nan) then 0xFF else given.getD (scaleCode t (maxFin l))

/-- An element quantised to an MX type under its group's code (R93, R277, R278). -/
def quantMx (t : Nat) (burl : Bool) (r : Rnd) (code : Nat) (x : Val) : QElem :=
  let f := (fmtOf t).getD fE4M3
  let base : Counts := { elem := 1, amax := amaxBits x }
  let plus := fun c : Nat => if burl && t = 9 && c = 8 then 0 else c
  if code = 0xFF then { code := f.nanCode, counts := { base with nan := 1 } }
  else match x with
    | .nan => { code := f.nanCode, counts := { base with nan := 1 } }
    | .inf n => { code := withSign f n (if f.top = 0 then f.infCode else f.maxCode), counts := { base with clip := 1 }, outlier := true }
    | .fin n m e =>
      let q := ratOf m (e - ((code : Int) - 127))
      let c := roundMag f r q.1 q.2
      if c > f.maxCode then { code := withSign f n f.maxCode, counts := { base with clip := 1 }, outlier := true }
      else { code := plus (withSign f n c), counts := { base with flush := b2n (c = 0 && m ≠ 0) } }

/-- The smaller scale that calibration allows, 2⁻¹²⁵ (R289). -/
def minScale : Nat := 0x01000000

/-- max(s, 2⁻¹²⁵) on positive FP32 bits, an infinity replaced by the largest finite value (R289). -/
def calScale (s : Nat) : Nat := max minScale (min s 0x7F7FFFFF)

/-- The entry that calibration forms from the finite elements of a channel (R289). -/
def calibrate (t : Nat) (burl : Bool) (xs : List Val) : ScaleEnt :=
  match xs.filter Val.isFin with
  | [] => { scale := 0x00800000#32, flat := true }
  | x :: l =>
    let lo := l.foldl (fun a v => if v.lt a then v else a) x
    let hi := l.foldl (fun a v => if a.lt v then v else a) x
    if !(lo.lt hi) then { scale := 0x00800000#32, flat := true, flatv := word (toF32 lo) }
    else if t = 3 then
      let a := if lo.abs.lt hi.abs then hi.abs else lo.abs
      let (_, n, d) := quot a (.fin false 127 0)
      { scale := word (calScale (ratF32 false n d)) }
    else
      let top : Nat := if burl then 254 else 255
      let dif := f32 (min (toF32 (hi.add lo.neg)) 0x7F7FFFFF)
      let (_, n, d) := quot dif (.fin false top 0)
      let s := calScale (ratF32 false n d)
      let (g, a, b) := quot lo.neg (f32 s)
      let i := roundDiv .rne a b
      { scale := word s, zp := BitVec.ofNat 8 (if g then 0 else min top i) }

/-- HAMAX of a history slot; none when it is empty (R295). -/
def hamax (k : Core) (h : Nat) : Option Nat :=
  match fget k.qnt.hist h [] with
  | [] => none
  | v :: l => some (l.foldl (fun a w => max a w.toNat) v.toNat)

/-- The entry of QINTD for HAMAX (R288). -/
def histEntry (h : Nat) : ScaleEnt :=
  let (_, n, d) := quot (f32 h) (.fin false 127 0)
  { scale := word (max minScale (ratF32 false n d)) }

/-! Regions. -/

/-- Channels of a descriptor (R286). -/
def channels (raw : List Byte) (rows cols : Nat) : Nat := if vVop raw = 7 && opOf raw = 0x24 || qChaxis raw then rows else cols

/-- Scale bytes of n lines of len elements from base on (R146, R287). -/
def scaleRegion (raw : List Byte) (m : QMode2) (base n len : Nat) : List Region8 :=
  let (st, t, g) := qScale raw m
  (List.range n).map fun i => { off := base + i * scStride st t g, len := ceilDiv len g }

/-- The scales that a descriptor reads, and those of its B operand. -/
def qScaleIns (raw : List Byte) (m : QMode2) (rows cols rsLen : Nat) : List Region8 × List Region8 :=
  match m with
  | .qmxs => ([], if qGaxis raw then scaleRegion raw m (vBoff raw) cols rows else scaleRegion raw m (vBoff raw) rows cols)
  | .rescale => ([], [{ off := vBoff raw, len := rsLen }])
  | .dmx => (scaleRegion raw m (vSc raw) rows cols, [])
  | .dintt => ([{ off := vSc raw, len := 16 * channels raw rows cols }], [])
  | _ => ([], [])

/-- The A operand's regions. -/
def qA (raw : List Byte) (m : QMode2) (rows cols : Nat) : List Region8 :=
  if m = .srload then [{ off := vAoff raw, len := 16 * rows }] else rowsRegion (vAoff raw) rows (vAstr raw) (rowBytes (vAt raw) cols)

/-- The outputs: elements, scales, channel table, burl list. -/
def qOuts (raw : List Byte) (m : QMode2) (rows cols : Nat) : List Region8 :=
  let (l, n) := if qGaxis raw then (cols, rows) else (rows, cols)
  (if m = .srload then [] else rowsRegion (vOoff raw) l (vOstr raw) (rowBytes (vOt raw) n)) ++
  (if m.toMx then scaleRegion raw m (vSc raw) l n else if m.perChannel then [{ off := vSc raw, len := 16 * channels raw rows cols }] else []) ++
  (if qBurl raw && !m.deq then [{ off := qBurlOff raw, len := 32 + 8 * qCap raw }] else [])

/-! Work. -/

/-- What a quantise accumulates: the burl entries so far (index and BF16 value), how many, those lost. -/
structure Burl where
  ents : List (Nat × Nat) := []
  n : Nat := 0
  lost : Nat := 0
  deriving DecidableEq, Repr

/-- An element meets the burl list (R300): an outlier takes the escape code and an entry while there is room, else it is clipped. -/
def burlStep (raw : List Byte) (idx : Nat) (x : Val) (q : QElem) (b : Burl) : Nat × Counts × Burl :=
  if !(qBurl raw && q.outlier) then (q.code, q.counts, b)
  else if b.n < qCap raw then
    (match vOt raw with
     | 3 => 0x80 | 9 => 0x8 | _ => 0xFF, { q.counts with clip := 0 },
     { b with ents := (idx, (convFp fBF16 .rne false x).code) :: b.ents, n := b.n + 1 })
  else (q.code, q.counts, { b with lost := b.lost + 1 })

/-- A row of quantised elements in output order; idx is the first one's. -/
def burlRow (raw : List Byte) : Nat → List (Val × QElem) → Burl → List (Nat × Counts) × Burl
  | _, [], b => ([], b)
  | idx, (x, q) :: l, b =>
    let (c, n, b1) := burlStep raw idx x q b
    let (r, b2) := burlRow raw (idx + 1) l b1
    ((c, n) :: r, b2)

/-- All rows in output order. -/
def burlRows (raw : List Byte) (width : Nat) : Nat → List (List (Val × QElem)) → Burl → List (List (Nat × Counts)) × Burl
  | _, [], b => ([], b)
  | i, l :: ls, b =>
    let (r, b1) := burlRow raw (i * width) l b
    let (rs, b2) := burlRows raw width (i + 1) ls b1
    (r :: rs, b2)

/-- The bytes of a burl list (R299). -/
def burlBytes (raw : List Byte) (b : Burl) : List Byte :=
  natLe 2 b.n ++ natLe 2 (qCap raw) ++ natLe 4 b.lost ++ natLe 24 0 ++
  b.ents.reverse.flatMap fun e => natLe 4 e.1 ++ natLe 2 e.2 ++ natLe 2 0

/-- FCLK cycles of a row of n elements (R291). -/
def qRowTime (m : QMode2) (n : Nat) : Nat := if m = .qintc then ceilDiv n 32 else ceilDiv n 64

/-- FCLK cycles of a descriptor (R291). -/
def qTime (m : QMode2) (rows cols : Nat) : Nat := if m = .srload then ceilDiv rows 4 else rows * qRowTime m cols

/-- The entries of the channels of a per-channel quantise, and how many are flat or were calibrated (R288, R289). -/
def qEntries (k : Core) (raw : List Byte) (m : QMode2) (bank rows cols : Nat) (vals : List (List Val)) : List ScaleEnt × Nat :=
  let n := channels raw rows cols
  let line := fun ch : Nat => if qChaxis raw then vals.getD ch [] else vals.map fun r => r.getD ch val0
  let cal := fun _ : Unit => (List.range n).map fun ch => calibrate (vOt raw) (qBurl raw) (line ch)
  match m with
  | .qint => ((List.range n).map fun ch => fileEntry k bank (qSrbase raw + ch), 0)
  | .qintd =>
    match hamax k (qHslot raw) with
    | some h => (List.replicate n (histEntry h), 0)
    | none => let es := cal (); (es, (es.filter (·.flat)).length)
  | _ => let es := cal (); (es, (es.filter (·.flat)).length)

/-- Whether a mode that takes its scales from a history slot found it empty. -/
def histMiss (k : Core) (raw : List Byte) (m : QMode2) : Bool := (m = .qmxd || m = .qintd) && (hamax k (qHslot raw)).isNone

/-- The work of a quantise to elements, given the quantised rows in output order and the writes that come with them. -/
def qFinish (k : Core) (raw : List Byte) (m : QMode2) (rows cols : Nat) (qs : List (List (Val × QElem))) (tables : List Wr) (flats : Nat) (file : List (Nat × ScaleEnt)) (bad : Nat) : Work :=
  let width := if qGaxis raw then rows else cols
  let (out, b) := burlRows raw width 0 qs {}
  let counts := { sumCounts out.flatten with flat := flats }
  let per := qRowTime m cols
  let last := qTime m rows cols - 1
  let row := fun i : Nat => if qGaxis raw then last else (i + 1) * per - 1
  let ws := (List.range out.length).map fun i => { step := row i, off := vOoff raw + i * vOstr raw, bytes := packRow (vOt raw) ((out.getD i []).map (·.1)) : Wr }
  { writes := ws ++ tables ++ (if qBurl raw then [{ step := last, off := qBurlOff raw, bytes := burlBytes raw b }] else []),
    counts := counts, file := file,
    hist := if qHpush raw then [{ slot := qHslot raw, val := word counts.amax }] else [],
    clipInfo := some (counts.clip, counts.elem), clipFires := clipFires raw (kReg k 9 0x40) counts.clip counts.elem,
    bumps := [(9, 1, b.n), (9, 2, b.lost), (9, 4, b2n (histMiss k raw m)), (9, 7, flats), (9, 9, bad)] }

/-- A quantise to an MX type (R287, R288). -/
def quantMxWork (k : Core) (raw : List Byte) (m : QMode2) (seed rows cols : Nat) : Work :=
  let t := vOt raw
  let g := grpSize (vOgrp raw)
  let vals := (List.range rows).map fun r => rowVals k (vAt raw) (vAoff raw + r * vAstr raw) cols
  let gax := qGaxis raw
  let lines := if gax then (List.range cols).map fun c => vals.map fun r => r.getD c val0 else vals
  let st := scStride (vOstr raw) t g
  let given := fun i j : Nat => match m with
    | .qmxs => some (leNat (spdBytes k (vBoff raw + i * st + j) 1))
    | .qmxd => (hamax k (qHslot raw)).map fun h => scaleCode t (f32 h)
    | _ => none
  let qs := (List.range lines.length).map fun i =>
    let gs := chunks g ((lines.getD i []).length + 1) (lines.getD i [])
    (List.range gs.length).map fun j =>
      let l := gs.getD j []
      let code := groupCode t (given i j) l
      (code, (List.range l.length).map fun n =>
        let x := l.getD n val0
        let p := j * g + n
        let (r, c) := if gax then (p, i) else (i, p)
        (x, quantMx t (qBurl raw) (vRnd raw seed r c) code x))
  let per := qRowTime m cols
  let tab := (List.range qs.length).map fun i =>
    { step := if gax then qTime m rows cols - 1 else (i + 1) * per - 1, off := vSc raw + i * st, bytes := (qs.getD i []).flatMap fun x => natLe 1 x.1 : Wr }
  qFinish k raw m rows cols (qs.map fun l => l.flatMap (·.2)) tab 0 [] 0

/-- A quantise per channel (R288, R289). -/
def quantIntWork (k : Core) (raw : List Byte) (m : QMode2) (seed bank rows cols : Nat) : Work :=
  let vals := (List.range rows).map fun r => rowVals k (vAt raw) (vAoff raw + r * vAstr raw) cols
  let (es, flats) := qEntries k raw m bank rows cols vals
  let qs := (List.range rows).map fun r => (List.range cols).map fun c =>
    let x := (vals.getD r []).getD c val0
    (x, quantInt (vOt raw) (qBurl raw) (flagOf raw 1) (vRnd raw seed r c) (es.getD (if qChaxis raw then r else c) {}) x)
  let file := if writesFile raw then (List.range es.length).map fun i => (qSrbase raw + i, es.getD i {}) else []
  qFinish k raw m rows cols qs [{ step := qTime m rows cols - 1, off := vSc raw, bytes := es.flatMap entryBytes }] flats file
    (if m = .qint then (es.filter fun e => !e.valid).length else 0)

/-- RESCALE (R293). -/
def rescaleWork (k : Core) (raw : List Byte) (mode rows cols : Nat) : Work :=
  let out := (List.range rows).map fun r =>
    let cs := rowCodes k 10 (vAoff raw + r * vAstr raw) cols
    (List.range cols).map fun c =>
      let x := rescale (vOt raw) (flagOf raw 1) (sext 32 (cs.getD c 0)) (rsEntry k (vBoff raw) (match mode with
        | 0 => 0 | 1 => c | _ => r))
      (val0, ({ code := x.1, counts := x.2 } : QElem))
  qFinish k raw .rescale rows cols out [] 0 [] 0

/-- SRLOAD (R291). -/
def srloadWork (k : Core) (raw : List Byte) (rows : Nat) : Work :=
  { file := (List.range rows).map fun i => (qSrbase raw + i, entryOf (spdBytes k (vAoff raw + 16 * i) 16)), clipInfo := some (0, 0) }

/-- The escape code of a quantised type (R278); none for the FP6 types. -/
def escapeOf : Nat → Option Nat
  | 3 => some 0x80 | 4 => some 0xFF | 5 => some 0xFF | 6 => some 0xFF | 9 => some 0x8 | _ => none

/-- The value that a code stands for (R290). -/
def deqVal (k : Core) (raw : List Byte) (m : QMode2) (bank r c code : Nat) : Val :=
  let t := vAt raw
  match m with
  | .dmx =>
    let g := grpSize (vAgrp raw)
    let s := leNat (spdBytes k (vSc raw + r * scStride (vAstr raw) t g + c / g) 1)
    if s = 0xFF then .nan else (valOf t code).scale ((s : Int) - 127)
  | _ =>
    let ch := if qChaxis raw then r else c
    let e := if m = .dint then fileEntry k bank (qSrbase raw + ch) else entryOf (spdBytes k (vSc raw + 16 * ch) 16)
    let z := zpFor t e
    if !e.valid then .nan
    else if e.flat && code = wrapN 8 z then f32 e.flatv.toNat
    else (valOf t code z).mul (f32 e.scale.toNat)

/-- The elements of a dequantise in ascending index, escapes matched with the burl entries in order (R301): the outputs and the escapes without an entry. -/
def deqGo (k : Core) (raw : List Byte) (m : QMode2) (bank seed cols : Nat) : List (Nat × Nat) → List (Nat × Nat) → List (Nat × Counts) × Nat
  | [], _ => ([], 0)
  | (idx, code) :: l, ents =>
    let r := idx / cols
    let c := idx % cols
    if qBurl raw && escapeOf (vAt raw) = some code then
      match ents with
      | (i, v) :: es =>
        if i = idx then let (o, n) := deqGo k raw m bank seed cols l es; (vOut raw seed r c (valOf 1 v) :: o, n)
        else let (o, n) := deqGo k raw m bank seed cols l ents; (vOut raw seed r c .nan :: o, n + 1)
      | [] => let (o, n) := deqGo k raw m bank seed cols l []; (vOut raw seed r c .nan :: o, n + 1)
    else let (o, n) := deqGo k raw m bank seed cols l ents; (vOut raw seed r c (deqVal k raw m bank r c code) :: o, n)

/-- VDEQUANT (R290, R301). -/
def deqWork (k : Core) (raw : List Byte) (m : QMode2) (seed bank cap rows cols : Nat) : Work :=
  let t := vAt raw
  let codes := (List.range rows).flatMap fun r => let cs := rowCodes k t (vAoff raw + r * vAstr raw) cols; (List.range cols).map fun c => (r * cols + c, cs.getD c 0)
  let ents := if qBurl raw then
      (List.range (min cap (leNat (spdBytes k (qBurlOff raw) 2)))).map fun e =>
        let b := spdBytes k (qBurlOff raw + 32 + 8 * e) 8
        (leAt b 0 4, leAt b 4 2)
    else []
  let (out, miss) := deqGo k raw m bank seed cols codes ents
  let per := qRowTime m cols
  let ch := if m = .dint then (List.range (channels raw rows cols)).map fun i => fileEntry k bank (qSrbase raw + i)
    else if m = .dintt then (List.range (channels raw rows cols)).map fun i => entryOf (spdBytes k (vSc raw + 16 * i) 16) else []
  { writes := (List.range rows).map fun r => { step := (r + 1) * per - 1, off := vOoff raw + r * vOstr raw, bytes := packRow (vOt raw) (((out.drop (r * cols)).take cols).map (·.1)) },
    counts := sumCounts out,
    bumps := [(9, 9, (ch.filter fun e => !e.valid).length), (9, 10, miss)] }

/-- The work of a mode. -/
def qWork (k : Core) (raw : List Byte) (m : QMode2) (seed bank rsMode cap rows cols : Nat) : Work :=
  match m with
  | .qmx => quantMxWork k raw m seed rows cols
  | .qmxs => quantMxWork k raw m seed rows cols
  | .qmxd => quantMxWork k raw m seed rows cols
  | .qint => quantIntWork k raw m seed bank rows cols
  | .qintc => quantIntWork k raw m seed bank rows cols
  | .qintd => quantIntWork k raw m seed bank rows cols
  | .rescale => rescaleWork k raw rsMode rows cols
  | .srload => srloadWork k raw rows
  | .dmx => deqWork k raw m seed bank cap rows cols
  | .dint => deqWork k raw m seed bank cap rows cols
  | .dintt => deqWork k raw m seed bank cap rows cols

/-- Elements that a mode takes in a cycle (R291). -/
def qLane (m : QMode2) : Nat := if m = .qintc then 32 else 64

/-- What a descriptor reads in cycle i (R291): a segment of a row of A, the scales of its row as the row begins, its tables at the beginning; the entries of the scale-file load four at a time. -/
def qReads (raw : List Byte) (m : QMode2) (rows cols : Nat) (tables : List Region8) (i : Nat) : List Region8 :=
  let per := qRowTime m cols
  let r := i / per
  let g := i % per
  let rowScale := fun base => if g = 0 then scaleRegion raw m base (r + 1) cols |>.drop r else []
  if m = .srload then [{ off := vAoff raw + 64 * i, len := 16 * min 4 (rows - 4 * i) }]
  else (if i = 0 then tables else []) ++ segRegion (vAoff raw + r * vAstr raw) (vAt raw) (qLane m * g) (qLane m) cols ++
    (match m with
     | .qmxs => if qGaxis raw then [] else rowScale (vBoff raw)
     | .dmx => rowScale (vSc raw)
     | _ => [])

/-- The descriptor samples or pushes the history (R295, R296). -/
def usesHist (raw : List Byte) : Bool := opOf raw = 0x24 && (qHpush raw || vVop raw = 2 || vVop raw = 5)

/-- The image of a load changes HIST (R395). -/
def histChanges (k : Core) (l : Load) : Bool := (leAt l.hdr 0x68 4).testBit 22 ≠ k.grv.engine.toNat.testBit 22

/-- A descriptor that reads the scale file does not open its window while an earlier one that writes it is in flight (R280), nor one that uses the history while a load is about to change it (R297, R395): but the fallback of one that does and is in flight goes on, since the load waits for it (DEDUCED, log entry 191). -/
def qHolds (k : Core) (raw : List Byte) : Bool :=
  (readsFile raw && k.vxq.flights.any fun f => writesFile f.raw && f.bank.isSome) ||
  (usesHist raw && !(k.vxq.fb.any fun b => usesHist b.orig.raw) && k.grv.load.any fun l => 3 ≤ l.phase && histChanges k l)

/-- The plan once the header of the rescale block or the burl list is read: h holds it (R182, R183, R286, R287, R292, R299, R458). -/
def qFinishPlan (k : Core) (loops : List LoopFrame) (raw : List Byte) (m : QMode2) (own : Bool) (h : List Byte) : Plan :=
  let rows := vRows k loops raw
  let cols := vCols k loops raw
  let rn := max 1 rows
  let cn := max 1 cols
  let rsMode := if m = .rescale then leAt h 0 1 else 0
  let need := fun r c => match rsMode with
    | 0 => 1 | 1 => c | _ => r
  let cap := if m.deq then leAt h 2 2 else 0
  let (si, b) := qScaleIns raw m rn cn (32 + 8 * need rn cn)
  let a := qA raw m rn cn
  let burl := fun n : Nat => if qBurl raw && m.deq then [({ off := qBurlOff raw, len := 32 + 8 * n } : Region8)] else []
  let ins := a ++ b ++ si ++ burl cap
  let outs := qOuts raw m rn cn
  let t := if m.toMx then vOt raw else vAt raw
  let rules := !((m.toMx || m = .dmx) && !rowLegal t (if qGaxis raw then rows else cols)) && rsMode ≤ 2
  let useFile := m.readsFile || writesFile raw
  let tables := (match m with
    | .qmxs => if qGaxis raw then b else []
    | .rescale => b
    | .dintt => si
    | _ => []) ++ burl (min cap (leAt h 0 2))
  { ins := ins, outs := outs, null := rows = 0 || cols = 0, holds := qHolds k raw,
    consume := (if vBit raw 0 then [a] else []) ++ (if vBit raw 1 then [b] else []),
    bad := firstFail ([(!own || !rules, eDESC_CRC)] ++ vExtChecks k loops raw ++
      ([(1024 < qSrbase raw + channels raw rows cols, eSHAPE_OVER), (m = .rescale && leAt h 2 2 < need rows cols, eSHAPE_OVER),
        (!regionsIn raw ins outs, eSHAPE_OVER)] : List (Bool × Nat))),
    setup := fun k t f =>
      let seed := f.seed.getD 0
      let bank := k.qnt.active
      let draws := fun i => if vSr raw && m ≠ .rescale && m ≠ .srload then min (qLane m) (cols - i % qRowTime m cols * qLane m) else 0
      vTimeline t (qTime m rows cols) draws (qReads raw m rows cols tables) (qWork (onImage k []) raw m seed bank rsMode cap rows cols)
        { f with run := .quant seed bank rsMode cap rows cols, bank := if useFile then some bank else none, hmax := hamax k (qHslot raw) } }

/-- The plan of a VQUANT or VDEQUANT: the header of its rescale block or burl list is read first, where the descriptor is legal that far and it lies in the scratchpad. -/
def qPlan (k : Core) (loops : List LoopFrame) (raw : List Byte) (_ : Fetched) : Plan :=
  let m := (qMode raw).getD .qmx
  let own := (qMode raw).isSome && qLegal k raw m
  let off := if m = .rescale then vBoff raw else qBurlOff raw
  let len := if own && (m = .rescale || (qBurl raw && m.deq)) && off + 32 ≤ 0xC0000 then 32 else 0
  let p := qFinishPlan k loops raw m own (spdPeek k off len)
  if tableReady k off len then p else tablePlan k off len p

/-! The scale file through the registers (R281). -/

/-- The bank that QNT_SRSEL shows. -/
def selBank (k : Core) : Nat := if (kReg k 9 0x4C).testBit 31 then 1 - k.qnt.active else k.qnt.active

/-- A descriptor in flight reads or writes bank b (R281), an original that waits for its fallback too (R186). -/
def bankBusy (k : Core) (b : Nat) : Bool := (k.vxq.flights.any fun f => f.bank == some b) || k.vxq.fb.any fun x => x.orig.bank == some b

/-- k with entry i of bank b replaced. -/
def setEntry (k : Core) (b i : Nat) (e : ScaleEnt) : Core :=
  if b = 0 then { k with qnt := { k.qnt with bankA := fset k.qnt.bankA i e } } else { k with qnt := { k.qnt with bankB := fset k.qnt.bankB i e } }

/-- QNT_SRSEL.INDEX advances after an access to QNT_SRZP with INC (R306). -/
def srAdvance (k : Core) : Core :=
  let w := kReg k 9 0x4C
  if w.testBit 30 then setKReg k 9 0x4C (w - fld w 0 10 + (fld w 0 10 + 1) % 1024) else k

/-- A port write to the selected entry (R281). -/
def filePoke (k : Core) (r : ScaleReg) (v : Nat) : Core :=
  let b := selBank k
  let i := fld (kReg k 9 0x4C) 0 10
  if bankBusy k b then kBump (setKReg k 9 0x44 (kReg k 9 0x44 ||| 8)) 9 8
  else
    let e := fileEntry k b i
    setEntry k b i (match r with
      | .srscale => { e with scale := word v }
      | .srflatv => { e with flatv := word v }
      | .srzp => { e with zp := BitVec.ofNat 8 v, flat := v.testBit 8 })

/-- The register that a scale-file write names. -/
def srOff : ScaleReg → Nat
  | .srscale => 0x50 | .srflatv => 0x54 | .srzp => 0x58

/-- A write of QNT_SRSCALE, QNT_SRFLATV or QNT_SRZP; the last one advances INDEX (R281, R306). -/
def scaleFilePut (k : Core) (r : ScaleReg) (v : Nat) : Core :=
  let k1 := filePoke k r v
  if r = .srzp then srAdvance k1 else k1

/-- QNT_SRZP of the selected entry (R306). -/
def srzpWord (k : Core) : Nat :=
  let e := fileEntry k (selBank k) (fld (kReg k 9 0x4C) 0 10)
  b2n e.flat * 256 + e.zp.toNat

/-! The history slots (R295 to R297). -/

/-- k with history slot h empty. -/
def emptyHist (k : Core) (h : Nat) : Core := { k with qnt := { k.qnt with hist := fdel k.qnt.hist h } }

/-- A write of LEN: 0 and values above 16 are taken as 16; a change empties the slot (R296, R306). -/
def histLen (k : Core) (h len : Nat) : Core :=
  let n := if len = 0 || 16 < len then 16 else len
  let off := 0x64 + 4 * h
  if fld (kReg k 9 off) 0 5 = n then k else setKReg (emptyHist k h) 9 off n

end Sys2Proof.Machine
end

