-- ==== Sys2Proof/Machine/Vector.lean ====
section
/-! DEFINITION. The vector descriptors other than quantisation (R308 to R330): VELT, VRED, VSOFTMAX, VNORM, VSAMPLE, VRAND. -/

namespace Sys2Proof.Machine

/-- A type of R310. -/
def vType (t : Nat) : Bool := t ≤ 4 || t = 10

/-- How a descriptor's B operand lies: unused, rows of elements, state records of 16 bytes (R317), sample records of 8 bytes (R328). -/
inductive BUse where
  | none | rows | state | records
  deriving DecidableEq, Repr

/-- The fields that R310 rules. -/
def vGeneral (raw : List Byte) (useA : Bool) (useB : BUse) (useSc : Bool) : Bool :=
  let op := opOf raw
  vBase raw true && vAgrp raw = 0 && vOgrp raw = 0 && vType (vOt raw) &&
  (if useA then vType (vAt raw) else vAt raw = 0 && vAoff raw = 0 && !vBit raw 0) &&
  (if useB = .none then vBt raw = 0 && vBoff raw = 0 && !vBit raw 1 else vType (vBt raw)) &&
  (useSc || vSc raw = 0) && (op = 0x21 || !vBit raw 4) && (vBit raw 5 == (op = 0x26 || op = 0x27)) &&
  (!vSr raw || !(op = 0x21 || op = 0x26 || op = 0x27))

/-- The A operand's rows. -/
def vA (raw : List Byte) (rows cols : Nat) : List Region8 := rowsRegion (vAoff raw) rows (vAstr raw) (rowBytes (vAt raw) cols)

/-- The B operand (R147, R317, R328). -/
def vB (raw : List Byte) (u : BUse) (rows cols : Nat) : List Region8 :=
  match u with
  | .none => []
  | .rows => rowsRegion (vBoff raw) (if vBit raw 6 then 1 else rows) (vAstr raw) (rowBytes (vBt raw) cols)
  | .state => [{ off := vBoff raw, len := 16 * rows }]
  | .records => rowsRegion (vBoff raw) (if vBit raw 6 then 1 else rows) (vAstr raw) 8

/-- Where B's row r starts. -/
def vBrow (raw : List Byte) (r : Nat) : Nat := vBoff raw + (if vBit raw 6 then 0 else r) * vAstr raw

/-- A row of A, of B. -/
def aRow (k : Core) (raw : List Byte) (r cols : Nat) : List Val := rowVals k (vAt raw) (vAoff raw + r * vAstr raw) cols
def bRow (k : Core) (raw : List Byte) (r cols : Nat) : List Val := rowVals k (vBt raw) (vBrow raw r) cols

/-- The writes of output rows: row r in the step that ends its last pass (R309). -/
def rowWrites (raw : List Byte) (passes per rows : Nat) (out : List (List (Nat × Counts))) : List Wr :=
  (List.range rows).map fun r =>
    { step := (passes - 1) * rows * per + (r + 1) * per - 1, off := vOoff raw + r * vOstr raw, bytes := packRow (vOt raw) ((out.getD r []).map (·.1)) }

/-- What a vector opcode asks: its use of A, B and SCOFF, its own field rules, its passes and the cycles of a segment (R309), its further regions, the check of its extents, its outputs, what a null completion writes, its draws for an element, its work. -/
structure VOp where
  useA : Bool := true
  useB : BUse := .none
  useSc : Bool := false
  ok : Bool
  passes : Nat := 1
  slow : Nat := 1
  fits : Nat → Nat → Bool := fun _ _ => true
  ins : Nat → Nat → List Region8 := fun _ _ => []
  outs : Nat → Nat → List Region8
  nullRegs : List RegWrite := []
  draws : Nat := 0
  work : Core → Nat → Nat → Nat → Work

/-- The output rows of OTYPE at OOFF. -/
def vOutRows (raw : List Byte) (rows cols : Nat) : List Region8 := rowsRegion (vOoff raw) rows (vOstr raw) (rowBytes (vOt raw) cols)

/-- What a vector descriptor reads in cycle i of its passes (R309): a segment of a row of A and of B; its tables at the beginning. -/
def vReads (d : VOp) (raw : List Byte) (rows cols i : Nat) : List Region8 :=
  let per := ceilDiv cols 64
  let j := i / d.slow
  let r := j % (rows * per) / per
  let g := j % per
  let b := match d.useB with
    | .none => []
    | .rows => segRegion (vBrow raw r) (vBt raw) (64 * g) 64 cols
    | .state => if g = 0 then [{ off := vBoff raw + 16 * r, len := 16 }] else []
    | .records => if g = 0 then [{ off := vBrow raw r, len := 8 }] else []
  if i % d.slow ≠ 0 then []
  else (if i = 0 then d.ins rows cols else []) ++ (if d.useA then segRegion (vAoff raw + r * vAstr raw) (vAt raw) (64 * g) 64 cols else []) ++ b

/-- The draws that cycle i makes: in the last pass, those of the segment's elements. -/
def vDraws (d : VOp) (raw : List Byte) (rows cols i : Nat) : Nat :=
  let per := ceilDiv cols 64
  let j := i / d.slow
  if i % d.slow ≠ 0 || j / (rows * per) + 1 ≠ d.passes then 0
  else min 64 (cols - j % per * 64) * (d.draws + if vSr raw then 1 else 0)

/-- What an opcode of the vector family, quantisation apart, asks of its fields and operands. -/
abbrev VDesc := List Byte → VOp

/-- The plan of a vector descriptor (R182, R183, R309, R310, R318, R458); a null one's regions are checked with each zero extent as 1, as R183 gives its slots (DEDUCED, log entry 162). -/
def vPlan (desc : VDesc) (k : Core) (loops : List LoopFrame) (raw : List Byte) (_ : Fetched) : Plan :=
  let d := desc raw
  let rows := vRows k loops raw
  let cols := vCols k loops raw
  let rn := max 1 rows
  let cn := max 1 cols
  let a := if d.useA then vA raw rn cn else []
  let b := vB raw d.useB rn cn
  let ins := a ++ b ++ d.ins rn cn
  let outs := d.outs rn cn
  { ins := ins, outs := outs, null := rows = 0 || cols = 0, nullRegs := d.nullRegs,
    consume := (if vBit raw 0 then [a] else []) ++ (if vBit raw 1 then [b] else []),
    bad := firstFail ([(!d.ok || !vGeneral raw d.useA d.useB d.useSc, eDESC_CRC)] ++ vExtChecks k loops raw ++
      [(!d.fits rows cols, eSHAPE_OVER), (!regionsIn raw ins outs, eSHAPE_OVER)]),
    setup := fun k t f =>
      let seed := f.seed.getD 0
      vTimeline t (d.passes * rows * ceilDiv cols 64 * d.slow) (vDraws d raw rows cols) (vReads d raw rows cols) (d.work (onImage k []) seed rows cols)
        { f with run := .vec seed rows cols } }

/-! VELT (R313). -/

/-- The VOPs that read B. -/
def veltB (v : Nat) : Bool := 1 ≤ v && v ≤ 6

/-- SILU (R313). -/
def vSilu : Val → Val
  | .inf n => if n then .fin true 0 0 else .inf false
  | a => vMul a (vRecip (vAdd (.fin false 1 0) (vExp a.neg)))

/-- One output value (R313). -/
def veltVal (v imm aux : Nat) (a b : Val) : Val :=
  match v with
  | 0 => a
  | 1 => vAdd a b
  | 2 => vSub a b
  | 3 => vMul a b
  | 4 => vMax a b
  | 5 => vMin a b
  | 6 => vFma a (f32 imm) b
  | 7 => vFma a (f32 imm) (f32 aux)
  | 8 => vExp a
  | 9 => vLn a
  | 10 => vRecip a
  | 11 => vSqrt a
  | 12 => vRsqrt a
  | 13 => if a = .nan then .nan else if val0.lt a then a else val0
  | 14 => vSilu a
  | _ => a.abs

/-- VELT's work. -/
def veltWork (raw : List Byte) (k : Core) (seed rows cols : Nat) : Work :=
  let v := vVop raw
  let out := (List.range rows).map fun r =>
    let a := aRow k raw r cols
    let b := if veltB v then bRow k raw r cols else []
    (List.range cols).map fun c => vOut raw seed r c (veltVal v (vImm raw) (vAux raw) (a.getD c val0) (b.getD c val0))
  { writes := rowWrites raw 1 (ceilDiv cols 64) rows out, counts := sumCounts out.flatten }

/-- VELT's fields. -/
def veltOp (raw : List Byte) : VOp :=
  let v := vVop raw
  { useB := if veltB v then .rows else .none,
    ok := v ≤ 15 && (v = 6 || v = 7 || vImm raw = 0) && (v = 7 || vAux raw = 0),
    outs := vOutRows raw, work := veltWork raw }

/-! VRED (R314). -/

/-- The result of a line (R314). -/
def redVal (v : Nat) (l : List Val) : Val :=
  match v with
  | 0 => lineSum l
  | 1 => lineSum (l.map fun x => vMul x x)
  | 2 => ((reduceLine vMax (l.map some)).getD val0)
  | 3 => ((reduceLine vMin (l.map some)).getD val0)
  | 4 => ((reduceLine vMax (l.map fun x => some x.abs)).getD val0)
  | _ => valInt ((l.filter fun x => !x.isZero).length : Nat)

/-- A result rounded to a non-negative integer: NaN and negative values give 0, +∞ a value above every bound (R148). -/
def regInt : Val → Nat
  | .nan => 0
  | .inf n => if n then 0 else 2 ^ 64
  | .fin n m e => if n then 0 else let q := ratOf m e; roundDiv .rne q.1 q.2

/-- The register writes of REGDEST (R148). -/
def regDest (raw : List Byte) (v : Val) : List RegWrite :=
  let w := vReg raw
  let n := regInt v
  (if w.testBit 15 then [{ shp := true, idx := fld w 11 4, val := min n 0xFFFFFFFF }] else []) ++
  (if w.testBit 10 then [{ shp := false, idx := fld w 7 3, val := min (ceilDiv n (2 ^ fld w 3 4)) 65535 }] else [])

/-- VRED's work. -/
def vredWork (raw : List Byte) (k : Core) (seed rows cols : Nat) : Work :=
  let a := (List.range rows).map fun r => aRow k raw r cols
  let lines := if vBit raw 4 then (List.range cols).map fun c => a.map fun r => r.getD c val0 else a
  let vals := lines.map fun l => rnd32 (redVal (vVop raw) l)
  let out := vals.map fun v => vOut raw seed 0 0 v
  { writes := [{ step := rows * ceilDiv cols 64 - 1, off := vOoff raw, bytes := packRow (vOt raw) (out.map (·.1)) }],
    counts := sumCounts out, regs := regDest raw (vals.headD val0) }

/-- VRED's fields. -/
def vredOp (raw : List Byte) : VOp :=
  { ok := vVop raw ≤ 5 && vOstr raw = 0,
    outs := fun r c => [{ off := vOoff raw, len := rowBytes (vOt raw) (if vBit raw 4 then c else r) }],
    nullRegs := regDest raw val0, work := vredWork raw }

/-! VNORM (R316). -/

/-- μ and ρ of a row (R316). -/
def normStats (layer : Bool) (eps n : Val) (x : List Val) : Val × Val :=
  if layer then
    let mu := vDiv (lineSum x) n
    let d := x.map fun v => vSub v mu
    (mu, vRsqrt (vAdd (vDiv (lineSum (d.map fun v => vMul v v)) n) eps))
  else (val0, vRsqrt (vAdd (vDiv (lineSum (x.map fun v => vMul v v)) n) eps))

/-- VNORM's work. -/
def vnormWork (raw : List Byte) (k : Core) (seed rows cols : Nat) : Work :=
  let layer := vVop raw = 0
  let passes := if layer then 3 else 2
  let per := ceilDiv cols 64
  let g := bRow k raw 0 cols
  let bt := if layer then rowVals k (vBt raw) (vSc raw) cols else []
  let rs := (List.range rows).map fun r =>
    let x := aRow k raw r cols
    let st := normStats layer (f32 (vImm raw)) (valInt cols) x
    (st, (List.range cols).map fun c =>
      let y := if layer then vFma (vMul (vSub (x.getD c val0) st.1) st.2) (g.getD c val0) (bt.getD c val0)
        else vMul (vMul (x.getD c val0) st.2) (g.getD c val0)
      vOut raw seed r c y)
  let out := rs.map (·.2)
  let stat := if (vAux raw).testBit 31 then
      [{ step := passes * rows * per - 1, off := fld (vAux raw) 0 20, bytes := rs.flatMap fun x => natLe 4 (toF32 x.1.1) ++ natLe 4 (toF32 x.1.2) : Wr }]
    else []
  { writes := rowWrites raw passes per rows out ++ stat, counts := sumCounts out.flatten }

/-- VNORM's fields. -/
def vnormOp (raw : List Byte) : VOp :=
  let layer := vVop raw = 0
  let aux := vAux raw
  { useB := .rows, useSc := layer,
    ok := vVop raw ≤ 1 && vBit raw 6 && fld aux 20 11 = 0 && (!aux.testBit 31 || (fld aux 0 20 % 32 = 0 && offLegal (fld aux 0 20))),
    passes := if layer then 3 else 2,
    ins := fun _ c => if layer then [{ off := vSc raw, len := rowBytes (vBt raw) c }] else [],
    outs := fun r c => vOutRows raw r c ++ (if aux.testBit 31 then [{ off := fld aux 0 20, len := 8 * r }] else []),
    work := vnormWork raw }

/-! VSOFTMAX (R317 to R320). -/

/-- Element (r, c) with score x is masked (R318). -/
def masked (raw : List Byte) (r c : Nat) (x : Val) : Bool :=
  ((vImm raw).testBit 30 && fld (vImm raw) 0 21 + r < fld (vAux raw) 0 21 + c) || x == .inf true

/-- The old state of a row: MAX, SUM, ALPHA (R317, R319). -/
def oldState (raw : List Byte) (k : Core) (r : Nat) : Val × Val × Val :=
  if opOf raw = 0x22 && vVop raw = 0 && (vImm raw).testBit 31 then (.inf true, val0, val0)
  else
    let b := spdBytes k (vBoff raw + 16 * r) 16
    (f32 (leAt b 0 4), f32 (leAt b 4 4), f32 (leAt b 8 4))

/-- One row of STEP (R319): P with its counts, the new state, whether it is a NaN row, whether the tile masks it completely. -/
def stepRow (raw : List Byte) (k : Core) (seed r cols : Nat) : List (Nat × Counts) × (Val × Val × Val) × Bool × Bool :=
  let x := aRow k raw r cols
  let (mo, lo, ao) := oldState raw k r
  let mk := (List.range cols).map fun c => masked raw r c (x.getD c val0)
  if (x.any fun v => v == .nan || v == .inf false) || mo = .nan || lo = .nan || ao = .nan then
    ((List.range cols).map fun c => vOut raw seed r c .nan, (.nan, .nan, .nan), true, false)
  else
    let t := reduceLine vMax ((List.range cols).map fun c => if mk.getD c false then none else some (x.getD c val0))
    let m := vMax mo (t.getD (.inf true))
    let al := if m = .inf true then Val.fin false 1 0 else vExp (vSub mo m)
    let p := (List.range cols).map fun c => vOut raw seed r c (if mk.getD c false || m = .inf true then val0 else vExp (vSub (x.getD c val0) m))
    let sm := lineSum (p.map fun c => valOf (vOt raw) c.1)
    (p, (m, vAdd (vMul lo al) sm, al), false, mk.all id)

/-- STEP (R319). -/
def stepWork (raw : List Byte) (k : Core) (seed rows cols : Nat) : Work :=
  let per := ceilDiv cols 64
  let rs := (List.range rows).map fun r => stepRow raw k seed r cols
  let out := rs.map (·.1)
  { writes := rowWrites raw 2 per rows out ++
      (List.range rows).map fun r =>
        let st := ((rs[r]?.map fun x => x.2.1)).getD (val0, val0, val0)
        { step := rows * per + (r + 1) * per - 1, off := vSc raw + 16 * r,
          bytes := natLe 4 (toF32 st.1) ++ natLe 4 (toF32 st.2.1) ++ natLe 4 (toF32 st.2.2) ++ natLe 4 0 },
    counts := sumCounts out.flatten,
    bumps := [(3, 3, (rs.filter fun x => x.2.2.1).length), (3, 4, (rs.filter fun x => x.2.2.2).length)] }

/-- RESCALE and FINAL (R320). -/
def softWork (raw : List Byte) (k : Core) (seed rows cols : Nat) : Work :=
  let final := vVop raw = 2
  let rs := (List.range rows).map fun r =>
    let b := spdBytes k (vBoff raw + 16 * r) 16
    let x := aRow k raw r cols
    let zero := final && leAt b 4 4 = 0
    (zero, (List.range cols).map fun c =>
      vOut raw seed r c (if zero then val0 else if final then vDiv (x.getD c val0) (f32 (leAt b 4 4)) else vMul (x.getD c val0) (f32 (leAt b 8 4))))
  let out := rs.map (·.2)
  { writes := rowWrites raw 1 (ceilDiv cols 64) rows out, counts := sumCounts out.flatten,
    bumps := [(3, 5, (rs.filter (·.1)).length)] }

/-- VSOFTMAX's fields. -/
def vsoftOp (raw : List Byte) : VOp :=
  let imm := vImm raw
  let aux := vAux raw
  if vVop raw = 0 then
    { useB := if imm.testBit 31 then .none else .state, useSc := true,
      ok := vOt raw ≤ 2 && fld imm 21 9 = 0 && aux / 2 ^ 21 = 0, passes := 2,
      fits := fun r c => fld imm 0 21 + r - 1 ≤ 2097151 && fld aux 0 21 + c - 1 ≤ 2097151,
      outs := fun r c => vOutRows raw r c ++ [{ off := vSc raw, len := 16 * r }],
      work := stepWork raw }
  else
    { useB := .state, ok := vVop raw ≤ 2 && vOt raw ≤ 2 && imm = 0 && aux = 0, outs := vOutRows raw, work := softWork raw }

/-! VRAND (R327). -/

/-- One output value with draw d (R327). -/
def randVal (raw : List Byte) (d : Nat) (a : Val) : Val :=
  let bern := d % 65536 < fld (vImm raw) 0 16
  match vVop raw with
  | 0 => if bern then .fin false 1 0 else val0
  | 1 => if bern then vMul a (f32 (vAux raw)) else val0
  | _ => vFma (.fin false (d / 256) (-24)) (f32 (vImm raw)) (f32 (vAux raw))

/-- VRAND's work; AMAX of a BITS element takes its draw as a signed INT32 (DESIGN CHOICE, log entry 163). -/
def vrandWork (raw : List Byte) (k : Core) (seed rows cols : Nat) : Work :=
  let out := (List.range rows).map fun r =>
    let a := if vVop raw = 1 then aRow k raw r cols else []
    (List.range cols).map fun c =>
      let d := drawOf seed (logIdx raw r c) 0
      if vVop raw = 3 then (d, { elem := 1, amax := amaxBits (valInt (sext 32 d)) : Counts })
      else vOut raw seed r c (randVal raw d (a.getD c val0))
  { writes := rowWrites raw 1 (ceilDiv cols 64) rows out, counts := sumCounts out.flatten }

/-- VRAND's fields. -/
def vrandOp (raw : List Byte) : VOp :=
  let v := vVop raw
  { useA := v = 1,
    ok := v ≤ 3 && (v = 2 || vImm raw / 65536 = 0) && (v ≠ 3 || (vImm raw = 0 && vOt raw = 10)) && (v = 1 || v = 2 || vAux raw = 0),
    outs := vOutRows raw, draws := 1, work := vrandWork raw }

/-! VSAMPLE (R328). -/

/-- Element (r, c)'s candidate value (R328). -/
def sampleVal (raw : List Byte) (seed r c : Nat) (a : Val) : Val :=
  let v := vMul a (f32 (vAux raw))
  if (vImm raw).testBit 30 then v
  else
    let u : Val := .fin false (2 * (drawOf seed (logIdx raw r c) 0 / 512) + 1) (-24)
    vAdd v (vLn (vLn u).neg).neg

/-- The best of a row after the columns from c on (R328): value and index. -/
def sampleGo (raw : List Byte) (c : Nat) : List Val → Val × Nat → Val × Nat
  | [], b => b
  | v :: l, b => sampleGo raw (c + 1) l (if b.1.lt v then (v, fld (vImm raw) 0 24 + c) else b)

/-- VSAMPLE's work. -/
def vsampleWork (raw : List Byte) (k : Core) (seed rows cols : Nat) : Work :=
  let passes := if (vImm raw).testBit 30 then 1 else 2
  let per := passes * ceilDiv cols 64
  let rs := (List.range rows).map fun r =>
    let a := aRow k raw r cols
    let vs := (List.range cols).map fun c => sampleVal raw seed r c (a.getD c val0)
    let old := if (vImm raw).testBit 31 then (Val.inf true, 0xFFFFFFFF)
      else let b := spdBytes k (vBrow raw r) 8; (f32 (leAt b 0 4), leAt b 4 4)
    let best := sampleGo raw 0 vs old
    (best, { elem := 1, nan := (vs.filter (· == .nan)).length, amax := amaxBits best.1 : Counts })
  { writes := (List.range rows).map fun r =>
      let b := ((rs[r]?).map (·.1)).getD (val0, 0)
      { step := (r + 1) * per - 1, off := vOoff raw + r * vOstr raw, bytes := natLe 4 (toF32 b.1) ++ natLe 4 b.2 },
    counts := rs.foldl (fun t x => t.add x.2) {},
    bumps := [(3, 6, (rs.filter fun x => x.1.2 = 0xFFFFFFFF).length)] }

/-- VSAMPLE's fields. -/
def vsampleOp (raw : List Byte) : VOp :=
  let imm := vImm raw
  { useB := if imm.testBit 31 then .none else .records,
    ok := vVop raw = 0 && vOt raw = 10 && fld imm 24 6 = 0,
    slow := if imm.testBit 30 then 1 else 2,
    outs := fun r _ => rowsRegion (vOoff raw) r (vOstr raw) 8,
    draws := if imm.testBit 30 then 0 else 1, work := vsampleWork raw }

/-- The operands and work of an opcode of the vector family, quantisation apart (R138). -/
def vDesc (op : Nat) : VDesc :=
  match op with
  | 0x20 => veltOp | 0x21 => vredOp | 0x22 => vsoftOp | 0x23 => vnormOp | 0x26 => vsampleOp | _ => vrandOp

end Sys2Proof.Machine
end

