-- ==== Sys2Proof/Machine/Update.lean ====
section
/-! DEFINITION. The update unit (R331 to R347): UPSTEP. -/

namespace Sys2Proof.Machine

/-! The body (R150). -/

def uAlg (raw : List Byte) : Nat := leAt raw 0x10 1
def uGt (raw : List Byte) : Nat := fld (leAt raw 0x11 1) 4 4
def uMt (raw : List Byte) : Nat := fld (leAt raw 0x11 1) 0 4
def uNorms (raw : List Byte) : Bool := (leAt raw 0x12 1).testBit 1
def uCg (raw : List Byte) : Bool := (leAt raw 0x12 1).testBit 0
def uHi (raw : List Byte) : Nat := leAt raw 0x14 3
def uLo (raw : List Byte) : Nat := leAt raw 0x17 3
def uG (raw : List Byte) : Nat := leAt raw 0x1A 3
def uM1 (raw : List Byte) : Nat := leAt raw 0x1D 3
def uM2 (raw : List Byte) : Nat := leAt raw 0x20 3
def uHyp (raw : List Byte) : Nat := leAt raw 0x23 3
def uNorm (raw : List Byte) : Nat := leAt raw 0x26 3

/-- The first LAMB phase. -/
def uFirst (raw : List Byte) : Bool := uAlg raw = 3 && !uNorms raw
/-- The second LAMB phase. -/
def uSecond (raw : List Byte) : Bool := uAlg raw = 3 && uNorms raw

/-- The fields of the descriptor itself are legal (R142, R150, R335, R336). -/
def uLegal (raw : List Byte) : Bool :=
  let alg := uAlg raw
  headerLegal raw true && !flagOf raw 1 && !flagOf raw 2 && alg ≤ 3 && uGt raw ≤ 2 && uMt raw ≤ 1 && fld (leAt raw 0x12 1) 2 6 = 0 &&
  zeroAt raw 0x13 1 && zeroAt raw 0x29 1 && zeroAt raw 0x2C 16 && extLegal (leAt raw 0x2A 2) &&
  [uHi raw, uLo raw, uG raw, uM1 raw, uM2 raw, uHyp raw, uNorm raw].all offLegal &&
  [uHi raw, uLo raw, uG raw, uM1 raw, uM2 raw].all (· % 32 = 0) && uHyp raw % 64 = 0 && uNorm raw % 16 = 0 &&
  (!uNorms raw || alg = 3) && ((uNorm raw ≠ 0) == uNorms raw) &&
  (match alg with
   | 0 => uM2 raw = 0
   | 3 => uGt raw = 0 && (if uNorms raw then uM1 raw = 0 && uM2 raw = 0 else uM1 raw ≠ 0 && uM2 raw ≠ 0 && !uCg raw)
   | _ => uM1 raw ≠ 0 && uM2 raw ≠ 0)

/-- The hyper-parameter block (R337). -/
structure Hyper where
  lr : Val
  b1 : Val
  b2 : Val
  o1 : Val
  o2 : Val
  eps : Val
  wd : Val
  bc1 : Val
  bc2 : Val
  gs : Val
  tmax : Val
  flags : Nat
  deriving DecidableEq, Repr

/-- The block's fields. -/
def hyperOf (b : List Byte) : Hyper :=
  let v := fun o => f32 (leAt b o 4)
  { lr := v 0, b1 := v 4, b2 := v 8, o1 := v 0xC, o2 := v 0x10, eps := v 0x14, wd := v 0x18, bc1 := v 0x1C, bc2 := v 0x20, gs := v 0x24,
    tmax := v 0x28, flags := leAt b 0x2C 4 }

/-- WHOLE, SKIPNF, NESTEROV. -/
def Hyper.whole (h : Hyper) : Bool := h.flags.testBit 3
def Hyper.skipnf (h : Hyper) : Bool := h.flags.testBit 1
def Hyper.nesterov (h : Hyper) : Bool := h.flags.testBit 0

/-- The block is legal, and LOOFF agrees with WHOLE (R333, R335). -/
def hyperLegal (raw b : List Byte) : Bool := zeroAt b 0x2D 3 && zeroAt b 0x30 16 && ((uLo raw = 0) == (hyperOf b).whole)

/-! Regions (R336). -/

/-- An array of n elements of size sz; none where it is absent. -/
def uArr (off n sz : Nat) : List Region8 := if off = 0 then [] else [{ off := off, len := n * sz }]

/-- The masters. -/
def uMasters (raw : List Byte) (whole : Bool) (n : Nat) : List Region8 :=
  { off := uHi raw, len := n * (if whole then 4 else 2) } :: (if whole then [] else uArr (uLo raw) n 2)

/-- The gradient. -/
def uGrad (raw : List Byte) (n : Nat) : List Region8 := [{ off := uG raw, len := n * (typeBits (uGt raw) / 8) }]

/-- The moments. -/
def uMoments (raw : List Byte) (n : Nat) : List Region8 := uArr (uM1 raw) n (typeBits (uMt raw) / 8) ++ uArr (uM2 raw) n (typeBits (uMt raw) / 8)

/-- The regions taken in place. -/
def uOuts (raw : List Byte) (whole : Bool) (n : Nat) : List Region8 :=
  if uFirst raw then uGrad raw n ++ uMoments raw n else uMasters raw whole n ++ uMoments raw n

/-- The regions only read. -/
def uIns (raw : List Byte) (whole : Bool) (n : Nat) : List Region8 :=
  (if uFirst raw then uMasters raw whole n else uGrad raw n) ++ [{ off := uHyp raw, len := 64 }] ++ uArr (uNorm raw) 16 1

/-- No two of the regions share a slot (R335). -/
def slotsApart : List Region8 → Bool
  | [] => true
  | r :: l => (slotsOf r.off r.len).all (fun n => !(slotsOfAll l).contains n) && slotsApart l

/-! Arithmetic (R339). -/

/-- A value about to be written: rounded once, and whether a finite exact result became infinite. -/
structure UVal where
  v : Val
  ovf : Bool := false
  deriving DecidableEq, Repr

/-- a × b + c rounded once. -/
def uFma (a b c : Val) : UVal :=
  let x := (a.mul b).add c
  let r := rnd32 x
  { v := r, ovf := x.isFin && !r.isFin && r ≠ .nan }

/-- The trust ratio (R340): τ, whether TMAX clamped it, whether a norm was +0. -/
def trust (h : Hyper) (b : List Byte) : Val × Bool × Bool :=
  let w := leAt b 0 4
  let r := leAt b 4 4
  let bad := fun v : Val => match v with
    | .fin n m _ => n && m ≠ 0
    | _ => true
  let zero := w = 0 || r = 0
  let t := if zero then Val.fin false 1 0 else if bad (f32 w) || bad (f32 r) then .nan else vSqrt (vDiv (f32 w) (f32 r))
  if toF32 h.tmax = 0 then (t, false, zero) else (vMin t h.tmax, h.tmax.lt t, zero)

/-- What a parameter becomes: the master, the moments, r, and whether it was skipped (R339, R341). -/
structure UPar where
  w : UVal
  m : UVal
  v : UVal
  r : UVal
  skip : Bool := false
  deriving DecidableEq, Repr

/-- v ÷ bias-corrected root: u of R339. -/
def adamU (h : Hyper) (m v : Val) : Val := vDiv (vMul m h.bc1) (vAdd (vSqrt (vMul v h.bc2)) h.eps)

/-- One parameter (R339, R341): mom says whether a momentum array is present; a is LR × τ of the second LAMB phase. -/
def uParam (alg : Nat) (second mom : Bool) (h : Hyper) (a : Val) (tauNan : Bool) (w g m v : Val) : UPar :=
  let keep : UPar := { w := { v := w }, m := { v := m }, v := { v := v }, r := { v := g }, skip := true }
  if second then
    if h.skipnf && tauNan then keep else { keep with w := uFma a.neg g w, skip := false }
  else
    let x := vMul h.gs g
    if h.skipnf && !x.isFin then keep
    else
      let x1 := if alg ≤ 1 && !h.wd.isZero then vFma h.wd w x else x
      if alg = 0 then
        if mom then
          let m1 := uFma h.b1 m (vMul h.o1 x1)
          let d := if h.nesterov then vFma h.b1 m1.v x1 else m1.v
          { keep with w := uFma h.lr.neg d w, m := m1, skip := false }
        else { keep with w := uFma h.lr.neg x1 w, skip := false }
      else
        let m1 := uFma h.b1 m (vMul h.o1 x1)
        let v1 := uFma h.b2 v (vMul h.o2 (vMul x1 x1))
        let u := adamU h m1.v v1.v
        if alg = 1 then { keep with w := uFma h.lr.neg u w, m := m1, v := v1, skip := false }
        else
          let r := uFma h.wd w u
          if alg = 2 then { keep with w := uFma h.lr.neg r.v w, m := m1, v := v1, skip := false }
          else { keep with m := m1, v := v1, r := r, skip := false }

/-! Work. -/

/-- The new codes of a parameter and its counts (R342). -/
structure UOut where
  w : Nat
  m : Nat
  v : Nat
  r : Nat
  counts : Counts
  skipped : Bool
  deriving DecidableEq, Repr

/-- An element of an array, as code and value; zero of an absent one. -/
def uElem (k : Core) (t off p : Nat) : Nat × Val :=
  if off = 0 then (0, val0) else let c := leNat (spdBytes k (off + p * (typeBits t / 8)) (typeBits t / 8)); (c, valOf t c)

/-- The master of parameter p (R331, R333). -/
def uMaster (k : Core) (raw : List Byte) (whole : Bool) (p : Nat) : Nat :=
  if whole then leNat (spdBytes k (uHi raw + 4 * p) 4)
  else leNat (spdBytes k (uHi raw + 2 * p) 2) * 65536 + leNat (spdBytes k (uLo raw + 2 * p) 2)

/-- Parameter p stepped: its new codes, converted under FTZ, and its counts. -/
def uStepAt (k : Core) (raw : List Byte) (h : Hyper) (a : Val) (tauNan : Bool) (p : Nat) : UOut :=
  let wc := uMaster k raw h.whole p
  let gc := let c := leNat (spdBytes k (uG raw + p * (typeBits (uGt raw) / 8)) (typeBits (uGt raw) / 8)); (c, valOf (uGt raw) c)
  let m := uElem k (uMt raw) (uM1 raw) p
  let v := uElem k (uMt raw) (uM2 raw) p
  let o := uParam (uAlg raw) (uSecond raw) (uM1 raw ≠ 0) h a tauNan (f32 wc) gc.2 m.2 v.2
  if o.skip then
    { w := wc, m := m.1, v := v.1, r := gc.1, skipped := true,
      counts := { elem := 1, nan := 1, amax := if uFirst raw then 0 else amaxBits (f32 wc) } }
  else
    let ftz := flagOf raw 0
    let cw := convFp fFP32 .rne ftz o.w.v
    let cr := convFp fFP32 .rne ftz o.r.v
    let cm := convTo (uMt raw) .rne ftz false 0 o.m.v
    let cv := convTo (uMt raw) .rne ftz false 0 o.v.v
    let first := uFirst raw
    let hasW := !first
    let hasM := uM1 raw ≠ 0
    let hasV := uM2 raw ≠ 0
    let ovf := (hasW && o.w.ovf) || (first && o.r.ovf) || (hasM && (o.m.ovf || cm.sat)) || (hasV && (o.v.ovf || cv.sat))
    let flush := (hasW && cw.flush) || (first && cr.flush) || (hasM && cm.flush) || (hasV && cv.flush)
    { w := cw.code, m := cm.code, v := cv.code, r := cr.code, skipped := false,
      counts := { elem := 1, sat := b2n ovf, flush := b2n flush, nan := b2n (hasW && o.w.v == .nan),
                  amax := amaxBits (f32 (if first then cr.code else cw.code)) } }

/-- The writes of group n of 16 parameters, in step t (R344). -/
def uGroup (raw : List Byte) (whole : Bool) (t n : Nat) (os : List UOut) : List Wr :=
  let p := 16 * n
  let ms := typeBits (uMt raw) / 8
  (if uFirst raw then [{ step := t, off := uG raw + 4 * p, bytes := os.flatMap fun o => natLe 4 o.r }]
   else if whole then [{ step := t, off := uHi raw + 4 * p, bytes := os.flatMap fun o => natLe 4 o.w }]
   else [{ step := t, off := uHi raw + 2 * p, bytes := os.flatMap fun o => natLe 2 (o.w / 65536) },
         { step := t, off := uLo raw + 2 * p, bytes := os.flatMap fun o => natLe 2 (o.w % 65536) }]) ++
  (if uM1 raw = 0 then [] else [{ step := t, off := uM1 raw + ms * p, bytes := os.flatMap fun o => natLe ms o.m }]) ++
  (if uM2 raw = 0 then [] else [{ step := t, off := uM2 raw + ms * p, bytes := os.flatMap fun o => natLe ms o.v }])

/-- UPD_STATUS after an UPSTEP; clamp says what the second LAMB phase leaves in TAUCLAMP (R346). -/
def uStatus (k : Core) (raw : List Byte) (clamp : Option Bool) : Nat :=
  let c := match clamp with
    | some b => b
    | none => (kReg k 4 0x48).testBit 30
  b2n c * 2 ^ 30 + uAlg raw * 2 ^ 24 + b2n (uNorms raw) * 2 ^ 23

/-- λ of R344. -/
def uTail (raw : List Byte) : Nat := if uAlg raw = 0 then 12 else if uSecond raw then 14 else 30

/-- The work of an UPSTEP of n groups. -/
def uWork (k : Core) (raw : List Byte) (n : Nat) : Work :=
  let h := hyperOf (spdBytes k (uHyp raw) 64)
  let (t, clamp, zero) := if uSecond raw then trust h (spdBytes k (uNorm raw) 16) else (val0, false, false)
  let a := vMul h.lr t
  let gs := (List.range n).map fun i => (List.range 16).map fun j => uStepAt k raw h a (t == .nan) (16 * i + j)
  let all := gs.flatten
  { writes := (List.range n).flatMap fun i => uGroup raw h.whole (i + uTail raw) i (gs.getD i []),
    counts := all.foldl (fun c o => c.add o.counts) {},
    posts := (4, 0x48, uStatus k raw (if uSecond raw then some clamp else none)) :: (if uSecond raw then [(4, 0x4C, toF32 t)] else []),
    bumps := [(4, 2, n), (4, 3, (all.filter (·.skipped)).length), (4, 5, b2n clamp), (4, 6, b2n (uSecond raw && zero))] }

/-- What group i of an UPSTEP reads (R336, R344). -/
def uReads (raw : List Byte) (whole : Bool) (i : Nat) : List Region8 :=
  let arr := fun off sz => if off = 0 then [] else [({ off := off + 16 * i * sz, len := 16 * sz } : Region8)]
  let ms := typeBits (uMt raw) / 8
  arr (uHi raw) (if whole then 4 else 2) ++ (if whole then [] else arr (uLo raw) 2) ++
  [{ off := uG raw + 16 * i * (typeBits (uGt raw) / 8), len := 16 * (typeBits (uGt raw) / 8) }] ++ arr (uM1 raw) ms ++ arr (uM2 raw) ms

/-- The work of an UPSTEP of n groups with hyper-parameter block h as it stands when its window opens in cycle t: the two blocks are read in the window, then a group a cycle (R344). -/
def uSetup (raw h : List Byte) (n : Nat) (k : Core) (t : Nat) (f : Flight) : Flight :=
  let whole := (hyperOf h).whole
  let base := t + 8
  let blocks : List Region8 := { off := uHyp raw, len := 64 } :: uArr (uNorm raw) 16 1
  { f with run := .upd n, start := base, ends := base + n + uTail raw,
           todo := sortEvs ({ cyc := t, act := .read blocks } :: (List.range n).map (fun i => ({ cyc := base + i, act := .pass 0 (uReads raw whole i) } : Ev)) ++
             writeEvs base (uWork (onImage k (memWrite [] (uHyp raw) h)) raw n) ++
             [{ cyc := base + n + uTail raw, act := .finish }]) }

/-- The plan of an UPSTEP with its hyper-parameter block h (R182, R183, R335, R336, R344, R458); LOOFF is 0 exactly under WHOLE (R333); UPD_STATUS of a null completion as of one that runs. -/
def uFinish (k : Core) (loops : List LoopFrame) (raw h : List Byte) (own : Bool) : Plan :=
  let e := leAt raw 0x2A 2
  let n := extValue k loops e
  let np := 16 * max 1 n
  let whole := uLo raw = 0
  let ins := uIns raw whole np
  let outs := uOuts raw whole np
  { ins := ins, outs := outs, inplace := true, null := n = 0, nullPosts := [(4, 0x48, uStatus k raw none)],
    consume := if uCg raw then [uGrad raw np] else [],
    bad := firstFail [(!own || (h ≠ [] && !hyperLegal raw h) || !slotsApart (ins ++ outs), eDESC_CRC), (!extNested loops e, eLOOP_NEST), (!extPlanned k e, eSHAPE_OVER),
                      (32767 < n, eSHAPE_OVER), (!regionsIn raw ins outs, eSHAPE_OVER)],
    setup := uSetup raw h n }

/-- The plan of an UPSTEP: its hyper-parameter block is read first, where the descriptor is legal that far and the block lies in the scratchpad. -/
def uPlan (k : Core) (loops : List LoopFrame) (raw : List Byte) (_ : Fetched) : Plan :=
  let own := uLegal raw
  let len := if own && uHyp raw + 64 ≤ 0xC0000 then 64 else 0
  let p := uFinish k loops raw (spdPeek k (uHyp raw) len) own
  if tableReady k (uHyp raw) len then p else tablePlan k (uHyp raw) len p

end Sys2Proof.Machine
end

