-- ==== Sys2Proof/Machine/Fill.lean ====
section
/-! DEFINITION. Fill and copy at the memory (R151, R207, R208): MVFILL and MVCOPY. -/

namespace Sys2Proof.Machine

/-- The work of a fill of n rows: 16 rows a cycle (R207). -/
def fillWork (raw : List Byte) (n : Nat) : Work :=
  { writes := piecesOf 0 (leAt raw 0x10 3) 512 (List.replicate (8 * n) (slice raw 0x18 4)).flatten, counts := { elem := 8 * n } }

/-- The work of a copy of n rows: 128 bytes a cycle (R208). -/
def copyWork (k : Core) (raw : List Byte) (n : Nat) : Work :=
  { writes := piecesOf 0 (leAt raw 0x14 3) 128 (spdBytes k (leAt raw 0x10 3) (32 * n)), counts := { elem := 8 * n } }

/-- The work of a fill or a copy of n rows. -/
def moveWork (k : Core) (raw : List Byte) (n : Nat) : Work := if opOf raw = 0x31 then fillWork raw n else copyWork k raw n

/-- A fill or a copy as it stands when its window opens in cycle t (R163, R207, R208). -/
def moveSetup (raw : List Byte) (n : Nat) (k : Core) (t : Nat) (f : Flight) : Flight :=
  let copy := opOf raw = 0x32
  let len := ceilDiv n (if copy then 4 else 16)
  let reads := fun i => if copy then [({ off := leAt raw 0x10 3 + 128 * i, len := 32 * min 4 (n - 4 * i) } : Region8)] else []
  vTimeline t len (fun _ => 0) reads (moveWork (onImage k []) raw n) { f with run := .move n }

/-- The plan of an MVFILL (R207). -/
def mvfillPlan (k : Core) (loops : List LoopFrame) (raw : List Byte) (_ : Fetched) : Plan :=
  let dst := leAt raw 0x10 3
  let e := leAt raw 0x14 2
  let n := extValue k loops e
  let out : Region8 := { off := dst, len := 32 * max 1 n }
  let own := headerLegal raw true && offLegal dst && dst % 32 = 0 && zeroAt raw 0x13 1 && zeroAt raw 0x16 2 && zeroAt raw 0x1C 32 && extLegal e
  { outs := [out], null := n = 0,
    bad := firstFail [(!own, eDESC_CRC), (!extNested loops e, eLOOP_NEST), (!extPlanned k e, eSHAPE_OVER), (!regionsIn raw [] [out], eSHAPE_OVER)],
    setup := moveSetup raw n }

/-- The plan of an MVCOPY (R208): its source and destination share no slot, tagged or not. -/
def mvcopyPlan (k : Core) (loops : List LoopFrame) (raw : List Byte) (_ : Fetched) : Plan :=
  let src := leAt raw 0x10 3
  let dst := leAt raw 0x14 3
  let e := leAt raw 0x18 2
  let n := extValue k loops e
  let a : Region8 := { off := src, len := 32 * max 1 n }
  let b : Region8 := { off := dst, len := 32 * max 1 n }
  let own := headerLegal raw true && offLegal src && offLegal dst && src % 32 = 0 && dst % 32 = 0 && leAt raw 0x13 1 < 2 && zeroAt raw 0x17 1 &&
    zeroAt raw 0x1A 34 && extLegal e && !((slotsOfAll [a]).any fun x => (slotsOfAll [b]).contains x)
  { ins := [a], outs := [b], null := n = 0, consume := if (leAt raw 0x13 1).testBit 0 then [[a]] else [],
    bad := firstFail [(!own, eDESC_CRC), (!extNested loops e, eLOOP_NEST), (!extPlanned k e, eSHAPE_OVER), (!regionsIn raw [a] [b], eSHAPE_OVER)],
    setup := moveSetup raw n }

end Sys2Proof.Machine
end

