-- ==== Sys2Proof/Machine/Beats.lean ====
section
/-! DEFINITION. The beats of the grove port (R359 to R362): operands, results, the OUT buffer; the built-in operators of the soft vector engine (R369). -/

namespace Sys2Proof.Machine

/-- k with f applied to its grove port. -/
def modPort (k : Core) (f : GrovePort → GrovePort) : Core := modGrv k fun g => { g with port := f g.port }

/-! The body of a GVOP (R151). -/

def gvSlot (raw : List Byte) : Nat := leAt raw 0x10 1
def gvA (raw : List Byte) : Nat := fld (leAt raw 0x11 1) 4 4
def gvB (raw : List Byte) : Nat := fld (leAt raw 0x11 1) 0 4
def gvO (raw : List Byte) : Nat := fld (leAt raw 0x12 1) 4 4
def gvCA (raw : List Byte) : Bool := (leAt raw 0x13 1).testBit 0
def gvCB (raw : List Byte) : Bool := (leAt raw 0x13 1).testBit 1
def gvAoff (raw : List Byte) : Nat := leAt raw 0x14 3
def gvBoff (raw : List Byte) : Nat := leAt raw 0x17 3
def gvOoff (raw : List Byte) : Nat := leAt raw 0x1A 3
def gvAstride (raw : List Byte) : Nat := leAt raw 0x1E 2
def gvOstride (raw : List Byte) : Nat := leAt raw 0x20 2
/-- ARGi, as an FP32 value. -/
def gvArg (raw : List Byte) (i : Nat) : Val := f32 (leAt raw (0x28 + 4 * i) 4)

/-- B is present: one of its fields is not 0, as a vector descriptor without B has them 0 (DESIGN CHOICE, log entry 33). -/
def gvHasB (raw : List Byte) : Bool := gvB raw ≠ 0 || gvBoff raw ≠ 0 || gvCB raw

/-- The declaration of slot n (R365, R379). -/
def slotDecl (k : Core) (n : Nat) : SlotDecl := fget k.grv.decls n {}

/-- The rows of the output of a GVOP (R359). -/
def gvOutRegion (raw : List Byte) (rows cols : Nat) : List Region8 := rowsRegion (gvOoff raw) rows (gvOstride raw) (rowBytes (gvO raw) cols)

/-! Operand beats (R359). -/

/-- Elements per beat of an operand width. -/
def beatElems (bits : Nat) : Nat :=
  match bits with
  | 32 => 64 | 16 => 128 | 8 => 256 | 6 => 320 | _ => 512

/-- Elements per beat of a GVOP's operands: with B half as many, and the smaller of the two. -/
def gvIn (raw : List Byte) : Nat :=
  let a := beatElems (typeBits (gvA raw))
  if gvHasB raw then min (a / 2) (beatElems (typeBits (gvB raw)) / 2) else a

/-- Operand beats of a row. -/
def gvPerRow (raw : List Byte) (cols : Nat) : Nat := ceilDiv cols (gvIn raw)

/-- The elements of operand beat i: their row, the first of them and how many. -/
def beatRange (raw : List Byte) (cols i : Nat) : Nat × Nat × Nat :=
  let e := gvIn raw
  let j := i % gvPerRow raw cols
  (i / gvPerRow raw cols, j * e, min e (cols - j * e))

/-- The regions of A and B that operand beat i carries. -/
def beatRegions (raw : List Byte) (cols i : Nat) : Region8 × List Region8 :=
  let (r, c, n) := beatRange raw cols i
  let at_ := fun off t => ({ off := off + r * gvAstride raw + c * typeBits t / 8, len := rowBytes t n } : Region8)
  (at_ (gvAoff raw) (gvA raw), if gvHasB raw then [at_ (gvBoff raw) (gvB raw)] else [])

/-- Bytes padded with zeros to n lanes. -/
def padTo (n : Nat) (bs : List Byte) : List Byte := bs ++ List.replicate (n - bs.length) 0#8

/-- Operand beat i as 64 lanes: lanes 0 to 31 A and 32 to 63 B where there is a B. -/
def gvBeat (k : Core) (raw : List Byte) (cols i : Nat) : List Byte :=
  let (a, b) := beatRegions raw cols i
  let bytes := fun r : Region8 => spdBytes k r.off r.len
  match b with
  | [] => padTo 256 (bytes a)
  | b :: _ => padTo 128 (bytes a) ++ padTo 128 (bytes b)

/-! The built-in operators (R369). -/

/-- The operator that the image's soft vector engine has in a slot (R368); none in a grove without an engine. -/
def operatorOf (k : Core) (slot : Nat) : Option Operator :=
  if k.grv.engine.toNat.testBit 31 then Config.slotOperator slot (k.grv.frames.filter fun e => e.1 < 896) else none

/-- The result of an operator in FP32; a minimum or a maximum without B is taken with ARG0 (DEDUCED, log entry 190). -/
def operate (raw : List Byte) (a b : Val) : Operator → Val
  | .eadd => vAdd a (if gvHasB raw then b else gvArg raw 0)
  | .emul => vMul a (if gvHasB raw then b else gvArg raw 0)
  | .efma => if gvHasB raw then vFma a b (gvArg raw 0) else vFma a (gvArg raw 0) (gvArg raw 1)
  | .emin => vMin a (if gvHasB raw then b else gvArg raw 0)
  | .emax => vMax a (if gvHasB raw then b else gvArg raw 0)
  | .ecvt => a
  | .ediv => vDiv a b
  | .esqrt => vSqrt a

/-- Element (r, c) of an operand, widened to FP32 (R90): t is its type, base the byte of a beat at which its lanes begin; none before its beat has been sent. -/
def sentElem (o : PortOp) (t base r c : Nat) : Option Val :=
  (o.beats[r * gvPerRow o.raw o.cols + c / gvIn o.raw]?).map fun b => rnd32 (valOf t (elemAt t (b.drop base) (c % gvIn o.raw)))

/-- Output element (r, c) of a built-in operator, with its counts (R91, R92, R103). -/
def operElem (o : PortOp) (op : Operator) (r c : Nat) : Option (Nat × Counts) :=
  match sentElem o (gvA o.raw) 0 r c, if gvHasB o.raw then sentElem o (gvB o.raw) 128 r c else some val0 with
  | some a, some b =>
    let v := operate o.raw a b op
    let x := convTo (gvO o.raw) .rne (flagOf o.raw 0) (flagOf o.raw 1) 0 v
    some (x.code, { x.counts with amax := amaxBits v })
  | _, _ => none

/-- The next result beat of a built-in operator: its number of elements, its bytes and their counts; none before its operands have been sent. -/
def operBeat (o : PortOp) (op : Operator) : Option (Nat × List Byte × Counts) :=
  let n := min (beatElems (typeBits (gvO o.raw))) (o.cols - o.col)
  let es := (List.range n).filterMap fun i => operElem o op o.row (o.col + i)
  if o.row < o.rows && es.length = n then some (n, packRow (gvO o.raw) (es.map (·.1)), sumCounts es) else none

/-! The OUT channel (R360 to R362). -/

/-- The GVOP with a tag. -/
def portOp (k : Core) (tag : Nat) : Option PortOp := k.grv.port.ops.find? fun o => o.tag = tag

/-- k with f applied to the GVOP of a tag. -/
def modOp (k : Core) (tag : Nat) (f : PortOp → PortOp) : Core :=
  modPort k fun g => { g with ops := g.ops.map fun o => if o.tag = tag then f o else o }

/-- k with f applied to the flight of the GVOP of a tag. -/
def modTagged (k : Core) (tag : Nat) (f : Flight → Flight) : Core :=
  modQ k .gvq fun x => { x with flights := x.flights.map fun g => if g.work = .running && !g.null && g.tag = tag then f g else g }

/-- A GVOP fails with a code that the port detects. -/
def failTagged (k : Core) (tag code : Nat) (detail : Word) (page : Nat) : Core := modTagged k tag fun f => { f with work := .failed code detail page }

/-- An OUT beat is discarded whole and counted (R360, R361, R363). -/
def discardBeat (k : Core) : Core := kBump k 10 9

/-- A scatter write is naturally aligned, and each of its bytes lies in the output region (R361). -/
def scatterOk (o : PortOp) (w : ScatterWrite) : Bool :=
  let n := w.data.length
  n ≠ 0 && (gvOoff o.raw + w.off) % n = 0 &&
  (List.range n).all fun i => (List.range o.rows).any fun r => r * gvOstride o.raw ≤ w.off + i && w.off + i < r * gvOstride o.raw + rowBytes (gvO o.raw) o.cols

/-- The writes of a SCATTER beat pass through the gather buffer (R361); one outside the region fails the GVOP. -/
def scatterWrites (k : Core) (o : PortOp) (now : Nat) : List ScatterWrite → Core
  | [] => k
  | w :: ws =>
    if scatterOk o w then
      let k1 := (List.range (w.data.length / 4)).foldl (fun k i => gatherWrite k (gvOoff o.raw + w.off + 4 * i) (slice w.data (4 * i) 4) now) k
      scatterWrites (kBump (modOp k1 o.tag fun o => { o with elems := o.elems + 1 }) 10 3) o now ws
    else failTagged k o.tag eSHAPE_OVER 0#32 10

/-- A beat of the buffer is written in the cycle at which it is due, or discarded where its tag is aborted or gone. -/
def writeEntry (k : Core) (e : OutEntry) : Core :=
  match portOp k e.tag with
  | some o =>
    if o.aborting then discardBeat k
    else match e.body with
    | .result off bytes n =>
      match spdWrite k off bytes with
      | .ok k1 => kBump (modOp k1 e.tag fun o => { o with elems := o.elems + n }) 10 2
      | .error w => failTagged k e.tag ePARITY (addrDetail w) 5
    | .scatter ws => scatterWrites k o e.due ws
  | none => discardBeat k

/-- The beats of the OUT buffer that are written up to cycle t, each of which returns its credit (R360). -/
def drainOut (k : Core) (t : Nat) : Core :=
  (k.grv.port.outBuf.filter fun e => e.due ≤ t).foldl (fun k e => modPort (writeEntry k e) fun g => { g with outBuf := g.outBuf.drop 1, outFree := g.outFree + 1 }) k

/-- The cycle in which a beat that enters the OUT buffer now has been written: 128 bytes a cycle, a scatter write a cycle, after the beats before it. -/
def outDue (g : GrovePort) (now : Nat) (b : OutWrite) : Nat :=
  let cost := match b with
    | .result _ bytes _ => max 1 (ceilDiv bytes.length 128)
    | .scatter ws => max 1 ws.length
  ((g.outBuf.getLast?.map (·.due)).getD now) + cost

/-- A beat enters the OUT buffer with a credit. -/
def acceptOut (k : Core) (tag now : Nat) (b : OutWrite) : Core :=
  modPort k fun g => { g with outBuf := g.outBuf ++ [{ tag := tag, body := b, due := outDue g now b }], outFree := g.outFree - 1 }

/-- A result beat of n elements for op o stands in its output, at its row and column, or is discarded where it would leave its row or the rows (R360). -/
def acceptResult (k : Core) (o : PortOp) (n : Nat) (rowEnd : Bool) (bs : List Byte) (now : Nat) : Core :=
  if o.rows ≤ o.row || o.cols ≤ o.col || o.cols < o.col + n then discardBeat k
  else
    let off := gvOoff o.raw + o.row * gvOstride o.raw + o.col * typeBits (gvO o.raw) / 8
    acceptOut (modOp k o.tag fun o => { o with row := if rowEnd then o.row + 1 else o.row, col := if rowEnd then 0 else o.col + n }) o.tag now
      (.result off (bs.take (rowBytes (gvO o.raw) n)) n)

/-- The next result beat of a built-in operator stands in its output, counted (R369). -/
def acceptOper (k : Core) (o : PortOp) (op : Operator) (now : Nat) : Core :=
  match operBeat o op with
  | some (n, bs, cs) => acceptResult (modOp k o.tag fun o => { o with counts := o.counts.add cs }) o n (o.col + n = o.cols) bs now
  | none => k

/-- A beat of the OUT channel for op o (R359 to R361, R365): what a built-in operator sends is its result; another's beat is the command's. -/
def acceptBeat (k : Core) (o : PortOp) (beat : OutBeat) (now : Nat) : Core :=
  match operatorOf k (gvSlot o.raw), beat with
  | some op, _ => acceptOper k o op now
  | none, .result e _ bs =>
    let p := beatElems (typeBits (gvO o.raw))
    acceptResult k o (if e then min p (o.cols - o.col) else p) e bs now
  | none, .scatter ws => if (slotDecl k (gvSlot o.raw)).info.toNat.testBit 29 then acceptOut k o.tag now (.scatter ws) else discardBeat k

end Sys2Proof.Machine
end

