-- ==== Sys2Proof/Machine/Time.lean ====
section
/-! DEFINITION. Time (R12): what the units of a core do in the FCLK cycles that pass (R117 to R125, R207, R208, R309, R344), and the counters of cycles (R176, R215, R250). -/

namespace Sys2Proof.Machine

/-! The work of a descriptor on the bytes that it has read. -/

/-- k with the bytes that a vector descriptor has read and the values that it sampled: what its work is computed from. -/
def sampledCore (k : Core) (f : Flight) : Core :=
  let c := setKReg (onImage k f.img) 9 0x40 f.thr
  { c with qnt := { c.qnt with hist := match f.hmax with
      | some v => [(qHslot f.raw, [word v])]
      | none => [] } }

/-- The work of a descriptor in flight. -/
def workOf (k : Core) (f : Flight) : Work :=
  match f.run with
  | .none => {}
  | .mx a _ => mxWork (onImage k f.img) a f.thr
  | .vec seed rows cols => (vDesc (opOf f.raw) f.raw).work (sampledCore k f) seed rows cols
  | .quant seed bank rsMode cap rows cols => qWork (sampledCore k f) f.raw ((qMode f.raw).getD .qmx) seed bank rsMode cap rows cols
  | .upd n => uWork (onImage k f.img) f.raw n
  | .move n => moveWork (onImage k f.img) f.raw n

/-! One event of a descriptor's work. -/

/-- k with flight i of queue q replaced. -/
def putFlight (k : Core) (q : QueueId) (i : Nat) (f : Flight) : Core := modQ k q fun x => { x with flights := modNth (fun _ => f) x.flights i }

/-- Flight f, number i of queue q, fails for word w (R135, R205, R309): what it has not written stays unwritten; a pass that fails ends the resident record (R120). -/
def failWork (k : Core) (q : QueueId) (i : Nat) (f : Flight) (w : Nat) : Core :=
  let k1 := if q = .mxq then { k with mxa := none } else k
  putFlight k1 q i { f with work := .failed ePARITY (addrDetail w) 5, todo := [], tail := [], lines := [] }

/-- Flight f reads the regions (R205, R206): their bytes enter its image, or it fails. -/
def readInto (k : Core) (q : QueueId) (i : Nat) (f : Flight) (rs : List Region8) : Core :=
  let k1 := flushRegions k rs
  match badInRegions k1 rs with
  | some w => failWork k1 q i f w
  | none => putFlight k1 q i { f with img := rs.foldl (grab k1.spd.mem) f.img }

/-- Writes in their order; the word that stops them (R190). -/
def applyWrs : Core → List Wr → Except (Nat × Core) Core
  | k, [] => .ok k
  | k, w :: ws =>
    match spdWrite k w.off w.bytes with
    | .ok k1 => applyWrs k1 ws
    | .error b => .error (b, k)

/-- Flight f makes the writes of cycle t. -/
def writeWork (k : Core) (q : QueueId) (i : Nat) (f : Flight) (t : Nat) : Core :=
  match applyWrs k ((workOf k f).writes.filter fun w => f.start + f.load + w.step = t) with
  | .ok k1 => putFlight k1 q i { f with wrote := true }
  | .error (w, k1) => failWork k1 q i f w

/-- The work of flight f is done: what it leaves to its completion. -/
def finishWork (k : Core) (q : QueueId) (i : Nat) (f : Flight) : Core :=
  let g := { f with work := .finished, todo := [] }
  if f.run = .none then putFlight k q i g
  else
    let w := workOf k f
    putFlight k q i { g with counts := w.counts, regs := w.regs, hist := w.hist, clipInfo := w.clipInfo, clipFires := w.clipFires && !f.fallback,
                             posts := w.posts, bumps := w.bumps, file := w.file }

/-- Cycle 0 of a pass (R119, R120, R122, R294): REUSE is judged against the record as it stands now (DEDUCED, log entry 164); a load that begins ends the record. -/
def beginPass (k : Core) (i : Nat) (f : Flight) (a : Pass) (r : Resident) : Core :=
  let want := mxBit f.raw 3
  let ok := want && reuseOk k r
  let l := if ok then 0 else f.lines.length
  let delay := rsDelay a l
  let base := f.start + l + delay
  let k1 := if want then kBump k 2 (if ok then 3 else 4) else k
  let k2 := kBump (if ok then k1 else { k1 with mxa := none }) 2 2 delay
  let loads : List Ev := if ok then [] else
    (List.range l).map (fun n => ({ cyc := f.start + n, act := .line (f.lines.getD n []) } : Ev)) ++ [{ cyc := f.start + l, act := .loaded }]
  let tile := match k.mxa with
    | some m => if ok then m.tile else []
    | none => []
  putFlight k2 .mxq i { f with load := l + delay, busyTo := base + a.nv * f.stepLen, ends := base + passLen a, lines := [], tail := [],
                               img := overlay f.img tile, todo := sortEvs (f.todo ++ loads ++ f.tail.map fun e => { e with cyc := base + e.cyc }) }

/-- The record of flight f's tile is valid (R119): the bytes that its load brought. -/
def loadedTile (k : Core) (f : Flight) (r : Resident) : Core :=
  { k with mxa := some { r with tile := f.img.filter fun c => r.rows.contains (c.1 / 32) } }

/-- A step of a pass enters (R122): what it accumulates onto is read, the cycles and the gated products are counted (R128; counter 1 counts every cycle of the step, DEDUCED, log entry 165). -/
def enterStep (k : Core) (i : Nat) (f : Flight) (t : Nat) (rs : List Region8) : Core :=
  let k1 := readInto (kBump k 2 1 f.stepLen) .mxq i f rs
  match f.run with
  | .mx a _ => countGated k1 a f.img ((t - f.start - f.load) / f.stepLen)
  | _ => k1

/-- A cycle of a unit's passes is counted, with its draws (R330, R347). -/
def countPass (k : Core) (q : QueueId) (draws : Nat) : Core :=
  match q with
  | .vxq => let n := k.drawRem + draws; kBump (kBump { k with drawRem := n % 64 } 3 1) 3 2 (n / 64)
  | .upq => kBump k 4 1
  | _ => k

/-- The first event of flight f, number i of queue q. -/
def runEv (k : Core) (q : QueueId) (i : Nat) (f0 : Flight) (e : Ev) : Core :=
  let f := { f0 with todo := f0.todo.drop 1 }
  match e.act, f.run with
  | .begin, .mx a r => beginPass k i f a r
  | .loaded, .mx _ r => putFlight (loadedTile k f r) q i f
  | .line rs, _ => readInto (kBump k 2 2) q i f rs
  | .step rs, _ => enterStep k i f e.cyc rs
  | .read rs, _ => readInto k q i f rs
  | .pass d rs, _ => readInto (countPass k q d) q i f rs
  | .write, _ => writeWork k q i f e.cyc
  | .finish, _ => finishWork k q i f
  | _, _ => putFlight k q i f

/-! The order of events. -/

/-- The queues in the order in which the banks serve their units (R35). -/
def unitOrder : List QueueId := [.mxq, .vxq, .upq, .gvq, .skq]

/-- The flights of a queue that work: those before the first that has failed, since the later ones are about to be abandoned (R166). -/
def working (x : Queue) : List Flight := x.flights.takeWhile fun f => !f.isFailed

/-- The earlier of two events, the first where both come in one cycle. -/
def sooner (a b : Option (QueueId × Nat × Flight × Ev)) : Option (QueueId × Nat × Flight × Ev) :=
  match a, b with
  | some x, some y => if y.2.2.2.cyc < x.2.2.2.cyc then some y else some x
  | none, b => b
  | a, none => a

/-- The next event of flights numbered from i on. -/
def nextOf (q : QueueId) : Nat → List Flight → Option (QueueId × Nat × Flight × Ev)
  | _, [] => none
  | i, f :: fs => sooner (f.todo.head?.map fun e => (q, i, f, e)) (nextOf q (i + 1) fs)

/-- The next event of a core. -/
def nextEv (k : Core) : Option (QueueId × Nat × Flight × Ev) := unitOrder.foldl (fun b q => sooner b (nextOf q 0 (working (getQ k q)))) none

/-- Events still to come on a core, at most. -/
def evsLeft (k : Core) : Nat :=
  unitOrder.foldl (fun n q => (getQ k q).flights.foldl (fun n f => n + f.todo.length + f.lines.length + f.tail.length + 1) n) 0

/-- The events of a core up to cycle t. -/
def runUntil : Nat → Core → Nat → Core
  | 0, k, _ => k
  | n + 1, k, t =>
    match nextEv k with
    | some (q, i, f, e) => if e.cyc ≤ t then runUntil n (runEv k q i f e) t else k
    | none => k

/-! Pipeline holds (R35, R125). -/

/-- f one cycle later. -/
def Flight.later (f : Flight) : Flight :=
  { f with todo := f.todo.map fun e => { e with cyc := e.cyc + 1 }, ends := f.ends + 1, busyTo := f.busyTo + 1, start := f.start + 1 }

/-- A pass is streaming: a step has entered and another is to come. -/
def Flight.streams (f : Flight) (t : Nat) : Bool :=
  f.start + f.load ≤ t && f.lines = [] && f.todo.any fun e => match e.act with
    | .step _ => true
    | _ => false

/-- An access of the array is refused: the streaming pass makes it up from its buffers, and holds for a cycle where they are used up (R125; the slack as a count of steps, DESIGN CHOICE, log entry 166). -/
def refuseArray (k : Core) (t : Nat) : Core :=
  match k.mxq.flights.find? fun f => f.streams t with
  | none => k
  | some f =>
    if 0 < f.slack then modQ k .mxq fun x => { x with flights := x.flights.map fun g => if g.streams t then { g with slack := g.slack - 1 } else g }
    else kBump (modQ k .mxq fun x => { x with flights := x.flights.map Flight.later }) 2 5

/-- One cycle of the aged requests (R35): at each bank the first of them in the order of the units is served; one that is not the array's takes the bank from the array. -/
def serveAged (k : Core) (t : Nat) : Core :=
  k.bankAged.foldl (fun k b =>
    match (List.range 7).find? fun u => b.2.testBit u with
    | some u => let k1 := { k with bankAged := fset k.bankAged b.1 (b.2 - 2 ^ u) }; if u = 0 then k1 else refuseArray k1 t
    | none => { k with bankAged := fdel k.bankAged b.1 }) k

/-- The aged requests of the cycles after t up to u; no bank has more than seven (R35). -/
def serveBanks (k : Core) (t u : Nat) : Core := (List.range (min 8 (u - t))).foldl (fun k i => serveAged k (t + 1 + i)) k

/-! Time passes. -/

/-- The counters of cycles on a core for the cycles from t to u: queues that wait on semaphores (R176) or on slots (R215), streams in WAITSLOT, a read that the READ share cannot pay for (R250). -/
def countCycles (k : Core) (t u : Nat) : Core :=
  let n := u - t
  let k1 := if waitsSem k then kBump k 1 3 n else k
  let k2 := if waitsSlot k then kBump k1 5 0 n else k1
  let k3 := if k.skd.streams.any fun st => st.st = .waitslot then kBump k2 6 6 n else k2
  match k.skd.starved with
  | some need => kBump k3 6 15 (min n (ceilDiv (need - (accrue k.skd.shares t).read) 128))
  | none => k3

/-- A core from cycle t to cycle u: what its tag command does in the cycles before u is done (R198), and its OUT beats that are due by then are written (R360). -/
def coreTo (k : Core) (t u : Nat) : Core :=
  let k1 := tagTo (serveBanks (countCycles k t u) t u) (u - 1)
  drainOut (runUntil (evsLeft k1) k1 u) u

/-- s at cycle t at the earliest: every event of the units and every clock edge of the groves up to then has happened (DESIGN CHOICE, log entry 3). -/
def atLeast (s : State) (t : Nat) : State :=
  if s.now < t then { s with now := t, cores := s.cores.map fun e => (e.1, groveTo s e.1 (coreTo e.2 s.now t) s.now t) } else s

/-- s when the work of flight i of queue q has ended, as far as it is known: a pass knows its end once it has begun (R122). -/
def untilEnd (s : State) (c : Nat) (q : QueueId) : State :=
  let go := fun s : State => atLeast s (((getQ (getCore s c) q).flights.head?.map (·.ends)).getD 0)
  go (go s)

/-! The order of events within a cycle. -/

/-- s in the cycle in which an event of rank r of a core can still happen: an event of a later rank that has happened in this cycle puts it into the next one (R8, R175, R198, R315); arrivals and issue takes come after the tag command of the cycle. -/
def inOrder (s : State) (c r : Nat) : State :=
  let late := fun s : State => match fget? (getCore s c).order 0 with
    | some (t, m) => t = s.now && r < m
    | none => false
  let s1 := if late s then atLeast s (s.now + 1) else s
  let s2 := if 8 < r then modCore s1 c fun k => tagTo k s1.now else s1
  if r = 0 then s2 else modCore s2 c fun k => { k with order := fset k.order 0 (s1.now, r) }

/-- Ranks of the events of a cycle (R175, R198, R315): a register write to the CQ or SEMA page, SEMA_ADD, completions, failures and releases, tag commands, arrivals, issue takes; completions and issue takes in the order of the queues, aged ones first. -/
def rankWrite : Nat := 0
def rankAdd : Nat := 1
def rankDone (q : QueueId) : Nat := 2 + qIdx q
def rankFail : Nat := 7
def rankTagCmd : Nat := 8
def rankArrival : Nat := 9
def rankIssue (k : Core) (q : QueueId) : Nat := (if (getQ k q).aged then 10 else 20) + qIdx q

end Sys2Proof.Machine
end

