-- ==== Sys2Proof/Machine/Issue.lean ====
section
/-! DEFINITION. Issue (R162, R163), loops (R177 to R181), completion (R164, R165), failure and abandonment (R166 to R171), fallbacks (R185, R186): the operations that every descriptor command shares. -/

namespace Sys2Proof.Machine

/-- Takes the counts (R173, R176). -/
def takeWaits (k : Core) (ws : List SemAmt) : Core :=
  ws.foldl (fun k a => kBump (semPut k a.sem (semGet k a.sem - a.amt)) 1 0) k

/-- Queue r, which has been refused for 16 cycles, can open its window now (R162, R175). -/
def agedReady (k : Core) (r : QueueId) : Bool :=
  let x := getQ k r
  x.aged && x.mode == .run && !x.stop && inFlight x < limitOf k r && (x.waitOn.all fun w => slotMet k w) &&
    match headOf x with
    | some e => waitsMet k (waitsOf e.raw)
    | none => false

/-- Queue q leaves the counts ws to an aged queue that goes first and could not have its own any more (R175): two aged ones stand in the order of the queues. -/
def yieldsToAged (k : Core) (q : QueueId) (ws : List SemAmt) : Bool :=
  let k1 := takeWaits k ws
  allQ.any fun r => r ≠ q && agedReady k r && (!(getQ k q).aged || qIdx r < qIdx q) &&
    match headOf (getQ k r) with
    | some e => !waitsMet k1 (waitsOf e.raw)
    | none => false

/-- Items 1 to 3 of R162 with the core ACTIVE (R443): the head's entry where all hold. -/
def readyHead (s : State) (c : Nat) (q : QueueId) : Option Fetched :=
  let k := getCore s c
  let x := getQ k q
  if k.pwr.st ≠ .active || (getOwner s c).felled || !mayIssue s c q || x.mode ≠ .run || hasFailed x || clipPending x || x.waitRefetch ≠ [] then none
  else if limitOf k q ≤ inFlight x then none
  else headOf x

/-- Item 4 of R162: the head's waits can be taken now (R173, R175). -/
def semsReady (k : Core) (q : QueueId) (e : Fetched) : Bool :=
  !takesWaits (getQ k q) e.raw || (waitsMet k (waitsOf e.raw) && !yieldsToAged k q (waitsOf e.raw))

/-- Loops and ISSUE after the entry before ring index next has issued: bodies that end iterate or are left, outermost last; the signals of the loops that end (R177, R179). -/
def advance : List LoopFrame → Nat → List LoopFrame × Nat × List SemAmt
  | [], next => ([], next, [])
  | l :: ls, next =>
    if ringDist next l.start = l.len + 1 then
      if l.iter + 1 < l.count then ({ l with iter := l.iter + 1 } :: ls, (l.start + 1) % 65536, [])
      else
        let (ls', n', sg) := advance ls next
        (ls', n', l.sigs ++ sg)
    else (l :: ls, next, [])

/-- The signals that take effect at this descriptor's completion (SIGLAST, R139). -/
def ownSigs (loops : List LoopFrame) (raw : List Byte) : List SemAmt :=
  if flagOf raw 5 && !lastIter loops then [] else sigsOf raw

/-- A wait on a slot that counts for the wait group (R246): the slot is tagged, and FULL or HELD by a local OWNER. -/
def groupSlot (k : Core) (n : Nat) : Bool :=
  !untagged k n && match (tagOf k n).st, (tagOf k n).owner with
    | .full, _ => true
    | .held, .queue _ => true
    | _, _ => false

/-- A queue whose head belongs to the wait group (R246). -/
def queueWaits (k : Core) (x : Queue) : Bool := x.mode == .run && !x.stop && x.waitOn.any fun w => !slotMet k w && groupSlot k w.1

/-- The wait group has no member (R246). -/
def groupEmpty (k : Core) : Bool :=
  (k.skd.streams.all fun st => st.st != .waitslot) && allQ.all fun q => !queueWaits k (getQ k q)

/-- A member of the wait group advances (R246). -/
def groupAdvance (k : Core) (now : Nat) : Core := { k with skd := { k.skd with stallSince := now } }

/-- The head of a queue waits for slots (R162, item 5); the first member of a wait group starts its count (R246). -/
def waitForSlots (k : Core) (q : QueueId) (ws : List (Nat × Nat)) (now : Nat) : Core :=
  let k1 := modQ k q fun x => { x with waitOn := ws }
  if groupEmpty k && !groupEmpty k1 then groupAdvance k1 now else k1

/-- The heads of other queues whose waits were met before q took its counts, and are not any more, begin to be refused in this cycle (R175). -/
def markRefused (k0 k : Core) (q : QueueId) (now : Nat) : Core :=
  allQ.foldl (fun k r => if r = q then k else modQ k r fun x =>
    match headOf x with
    | some e => if takesWaits x e.raw && waitsMet k0 (waitsOf e.raw) && !waitsMet k (waitsOf e.raw) && x.refused.isNone then { x with refused := some now } else x
    | none => x) k

/-- The issue window of a descriptor in FCLK cycles (R163). -/
def windowOf (q : QueueId) (raw : List Byte) : Nat :=
  if !opAllowed q (opOf raw) then 4 else match familyOf (opOf raw) with
    | .control => 4
    | .matrix => 16
    | _ => 8

/-- Opens an issue window: takes the waits unless take is false, moves ISSUE, past a body of skip entries too (R178), and the loops, adds the flight; the marker of a LOOP signals once its body is skipped, else the loop does when it ends (R162, R164, R165, R179). -/
def openWindow (k : Core) (q : QueueId) (e : Fetched) (f0 : Flight) (take : Bool) (skip now : Nat) : Core :=
  let x := getQ k q
  let k0 := if x.waitOn = [] then k else groupAdvance k now
  let k1 := if take && takesWaits x e.raw then markRefused k0 (takeWaits k0 (waitsOf e.raw)) q now else k0
  let (ls, next, sg) := advance x.loops ((x.issue + 1 + skip) % 65536)
  let own := ownSigs x.loops e.raw
  let f := { f0 with idx := x.issue, loops := x.loops, attempt := x.retries + 1, opened := now, waited := take || x.skipWaits ≠ 0,
                     sigs := if f0.isLoop then [] else own, endSigs := if skip = 0 then sg else own ++ sg,
                     doneTo := if ls = [] then some next else none }
  noteBusy (putQ k1 q { x with issue := next, loops := ls, flights := x.flights ++ [f], skipWaits := x.skipWaits - 1, seeds := x.seeds.drop 1,
                               aged := false, refused := none, retries := 0, stoppedSeen := false, waitOn := [], winEnd := now + windowOf q f0.raw }) now

/-- The error record of a descriptor. -/
def flightRec (q : QueueId) (f : Flight) (code cls page : Nat) (detail : Word) (esc : Bool) : ErrRec :=
  { code := code, cls := cls, page := page, queue := qIdx q, esc := esc, attempt := min 8 f.attempt, ringidx := f.idx, detail := detail,
    ctx := if opOf f.raw = 0x30 then fld (leAt f.raw 0x10 2) 0 10 else 0 }

/-- A flight that failed in its issue window, with no slot taken. -/
def deadFlight (raw : List Byte) (e : Fail) : Flight :=
  { idx := 0, raw := raw, work := .failed e.code e.detail e.page }

/-- The page that detects an issue failure: the tag logic for a segment, the queue front end for CRC, legality and nesting, else the unit's own (R414). -/
def failPage (q : QueueId) (code : Nat) : Nat :=
  if code = eSEGMENT_OFF || code = ePARITY then 5 else if code = eDESC_CRC || code = eLOOP_NEST then 0 else qUnitPage q

/-- Opens the window of queue q's head in the first cycle in which it may (R163, R175): in the order of the queues within a cycle, once the queue's last window has closed; a cruise step has returned the units by then (R432, log entry 207). -/
def openHead (s : State) (c : Nat) (q : QueueId) (e : Fetched) (take : Bool) (skip : Nat) (prep : Core → Nat → Core × Flight) : State :=
  let s1 := inOrder (atLeast s (getQ (getCore s c) q).winEnd) c (rankIssue (getCore s c) q)
  let (k, f) := prep (cruiseYield (getCore s1 c)) s1.now
  putCore s1 c (openWindow k q e f take skip s1.now)

/-- Issues the head of a control queue or of an illegal descriptor with no slots. -/
def issueDead (s : State) (c : Nat) (q : QueueId) (e : Fetched) (raw : List Byte) (err : Fail) : State :=
  openHead s c q e true 0 fun k _ => (k, deadFlight raw err)

/-- Takes the slots for queue q (R194). -/
def takeSlots (k : Core) (q : QueueId) (ns : List Nat) : Core :=
  ns.foldl (fun k n => if untagged k n then k else
    changeTag k n { (tagOf k n) with st := .held, owner := .queue q, saved := 0, count := 0, src := 0 }) k

/-- Takes the slots in place, saving their counts (R194). -/
def takeInplace (k : Core) (q : QueueId) (ns : List Nat) : Core :=
  ns.foldl (fun k n => if untagged k n then k else
    changeTag k n { (tagOf k n) with st := .held, owner := .queue q, saved := (tagOf k n).count, count := 0 }) k

/-- The tagged ones of slots. -/
def taggedOf (k : Core) (ns : List Nat) : List Nat := ns.filter fun n => !untagged k n

/-- Slot n lies in an enabled guard range of the update unit (R334). -/
def guarded (k : Core) (n : Nat) : Bool :=
  [0x40, 0x44].any fun o => let w := kReg k 4 o; w.testBit 31 && fld w 0 10 ≤ fld w 16 10 && fld w 16 10 ≤ 767 && fld w 0 10 ≤ n && n ≤ fld w 16 10

/-- A descriptor of MXQ, VXQ or GVQ that names a byte of a guarded slot is refused (R334). -/
def guardHit (k : Core) (q : QueueId) (rs : List Region8) : Bool := (q = .mxq || q = .vxq || q = .gvq) && (slotsOfAll rs).any (guarded k)

/-- A descriptor would write a slot that is locked for a staged image (R393). -/
def writesLocked (k : Core) (rs : List Region8) : Bool := (slotsOfAll rs).any (lockedSlot k)

/-- The slots that a plan reads, takes and takes in place, and the tagged ones that it both reads and writes (R191): those make it illegal, and it waits for none of them (DEDUCED, log entry 167). -/
structure SlotUse where
  ins : List Nat
  outs : List Nat
  acc : List Nat
  both : List Nat
  deriving DecidableEq, Repr

/-- The slots of a plan. -/
def slotUse (k : Core) (p : Plan) (raw : List Byte) : SlotUse :=
  let acc := if p.inplace then slotsOfAll p.outs else []
  let outs := (slotsOfAll (p.outs ++ trecRegion raw)).filter fun n => !acc.contains n
  let ins := slotsOfAll p.ins
  let both := taggedOf k (ins.filter fun n => outs.contains n || acc.contains n)
  let rest := fun l : List Nat => l.filter fun n => !both.contains n
  { ins := rest ins, outs := rest outs, acc := rest acc, both := both }

/-- What fails in the issue window of a descriptor whose slots are ready (R182, R191, R334, R393), with the page that detects it. -/
def windowFail (k : Core) (q : QueueId) (p : Plan) (u : SlotUse) (raw : List Byte) : Option Fail :=
  let outs := p.outs ++ trecRegion raw
  if u.both ≠ [] then some { code := eDESC_CRC }
  else match p.bad with
    | some e => some { e with page := failPage q e.code }
    | none =>
      if guardHit k q (p.ins ++ outs) then some { code := eTAG_PROTOCOL, page := 4 }
      else if writesLocked k outs then some { code := eTAG_PROTOCOL, page := 5 }
      else none

/-- The seed that a vector descriptor takes: the one of its first issue window where it reissues (R324). -/
def seedFor (k : Core) (raw : List Byte) : Option Nat :=
  if usesSeed raw then some ((k.vxq.seeds.head?.getD none).getD (seedOf k)) else none

/-- The slots that a completing descriptor consumes (R164): none where CONSLAST holds them back. -/
def consumed (k : Core) (loops : List LoopFrame) (raw : List Byte) (p : Plan) : List Nat :=
  if flagOf raw 6 && !lastIter loops then [] else taggedOf k (slotsOfAll p.consume.flatten)

/-- What the flight of a plan does from cycle t on: it fails in its window, ends with it when it is null (R183), or begins its unit's work. -/
def startWork (k : Core) (q : QueueId) (p : Plan) (fail : Option Fail) (t : Nat) (f : Flight) : Flight :=
  match fail with
  | some e => { f with work := .failed e.code e.detail e.page }
  | none =>
    let e := t + windowOf q f.raw
    if p.null then { f with null := true, regs := p.nullRegs, posts := p.nullPosts, clipInfo := if flagOf f.raw 3 || familyOf (opOf f.raw) = .matrix || opOf f.raw = 0x24 then some (0, 0) else none,
                            ends := e, todo := [{ cyc := e, act := .finish }] }
    else p.setup k t f

/-- Opens the issue window of the head for its plan, where its slot conditions hold (R162, item 5); where they do not, it waits. A segment that is off fails it before its semaphores are looked at (R211); an accumulation in place that fails so loses its slots (R127). -/
def issuePlan (s : State) (c : Nat) (q : QueueId) (e : Fetched) (raw : List Byte) (p : Plan) : State :=
  let k := getCore s c
  let u := slotUse k p raw
  if touchesOff k (p.ins ++ p.outs ++ trecRegion raw) then
    openHead s c q e false 0 fun k _ =>
      let acc := taggedOf k (u.acc.filter (mayTakeInplace k))
      (takeInplace k q acc, { deadFlight raw { code := eSEGMENT_OFF, page := 5 } with inplace := acc, acc := p.inplace, seed := seedFor k raw })
  else if !semsReady k q e || p.holds then s
  else if !(u.ins.all (mayRead k)) || !(u.outs.all (mayTake k)) || !(u.acc.all (mayTakeInplace k)) then
    modCore s c fun k => waitForSlots k q (u.ins.map (·, 0) ++ u.outs.map (·, 1) ++ u.acc.map (·, 2)) s.now
  else
    openHead s c q e true 0 fun k t =>
      let fail := windowFail k q p u raw
      let f : Flight :=
        { idx := 0, raw := raw, ctx := e.ctx.getD [], pins := taggedOf k u.ins, held := taggedOf k u.outs, inplace := taggedOf k u.acc, acc := p.inplace,
          consume := consumed k (getQ k q).loops e.raw p, ocnt := ocntOf raw, tally := trecOf raw, seed := seedFor k raw, thr := kReg k 9 0x40 }
      let k1 := pin (takeInplace (takeSlots k q u.outs) q u.acc) u.ins
      let k2 := match fail with
        | some e => if e.code = eTAG_PROTOCOL && e.page = 4 then kBump k1 4 4 else k1
        | none => k1
      (k2, startWork k q p fail t f)

/-- A fallback agrees with its original as R185 and R304 ask: family, no FBV, outputs, extents, and for a quantise the VOP's group, SCOFF and AUX. -/
def fallbackLegal (orig fb : List Byte) : Bool :=
  let same := fun o n => leAt orig o n == leAt fb o n
  let vop := fun r => leAt r 0x10 1
  let grp := fun v : Nat => if v ≤ 2 then 1 else if v ≤ 5 then 2 else if v = 6 then 3 else 4
  familyOf (opOf orig) = familyOf (opOf fb) && !(flagOf fb 3) && same 0xC 4 &&
  (if familyOf (opOf orig) = .matrix then
    same 0x1C 3 && same 0x2C 2 && same 0x2E 6 && fld (leAt orig 0x34 2) 4 4 = fld (leAt fb 0x34 2) 4 4 &&
    fld (leAt orig 0x36 1) 1 1 = fld (leAt fb 0x36 1) 1 1
  else opOf fb = 0x24 && same 0x1A 3 && same 0x22 2 && same 0x24 4 && same 0x1D 3 && same 0x38 4 &&
    fld (leAt orig 0x12 1) 4 4 = fld (leAt fb 0x12 1) 4 4 && grp (vop orig) = grp (vop fb) && grp (vop orig) ≠ 4 &&
    (grp (vop orig) ≠ 2 || fld (leAt orig 0x28 4) 10 1 = fld (leAt fb 0x28 4) 10 1))

/-- The bytes of a fallback as it runs: with its original's advances, and its WAIT and SIG fields, which are ignored, as 0 (R185). -/
def fallbackRaw (b : Fallback) (ent : List Byte) : List Byte := splice (effective b.orig.loops b.orig.idx ent) 2 (List.replicate 8 0#8)

/-- The fallback under way issues if its opcode is op (R186, items 3, 4 and 6): its plan is checked, its inputs must be FULL, it writes into the original's HELD slots; one that is no descriptor of the original's kind is illegal. -/
def issueFallback (s : State) (c : Nat) (q : QueueId) (op : Nat) (b : Fallback) (plan : Core → List LoopFrame → List Byte → Fetched → Plan) : State :=
  let k := getCore s c
  let x := getQ k q
  match b.entry with
  | none => s
  | some ent =>
    if opOf ent ≠ op || x.flights ≠ [] || x.mode ≠ .run || k.pwr.st ≠ .active || (getOwner s c).felled || !mayIssue s c q || x.waitRefetch ≠ [] then s
    else
      let raw := fallbackRaw b ent
      let base : Flight := { idx := b.orig.idx, raw := raw, loops := b.orig.loops, attempt := b.tries + 1, fallback := true, tally := b.orig.tally,
                             ocnt := b.orig.ocnt, doneTo := b.orig.doneTo, held := b.orig.held, thr := b.orig.thr,
                             seed := if usesSeed raw then some (b.orig.seed.getD (seedOf k)) else b.orig.seed }
      let go := fun (prep : Core → Nat → Core × Flight) =>
        let s1 := inOrder (atLeast s x.winEnd) c (rankIssue k q)
        let (k1, f) := prep (getCore s1 c) s1.now
        putCore s1 c (noteBusy (modQ k1 q fun x => { x with flights := [{ f with opened := s1.now }], winEnd := s1.now + windowOf q raw }) s1.now)
      let fails := fun (k : Core) (e : Fail) => (k, { base with work := .failed e.code e.detail e.page })
      if !fallbackLegal b.orig.raw raw then go fun k _ => fails k { code := eDESC_CRC }
      else
        let p := plan k b.orig.loops raw { idx := b.orig.idx, raw := ent, ok := true }
        let ins := slotsOfAll p.ins
        let both := taggedOf k (ins.filter fun n => b.orig.held.contains n)
        if touchesOff k (p.ins ++ p.outs ++ trecRegion raw) then go fun k _ => fails k { code := eSEGMENT_OFF, page := 5 }
        else if p.holds || !((ins.filter fun n => !both.contains n).all (mayRead k)) then s
        else go fun k t =>
          let u : SlotUse := { ins := ins, outs := [], acc := [], both := both }
          let fail := windowFail k q p u raw
          let f := { base with pins := taggedOf k (ins.filter fun n => !both.contains n), acc := p.inplace, consume := consumed k b.orig.loops b.orig.raw p }
          (pin k f.pins, startWork k q p fail t f)

/-- Issues the head of queue q, or its fallback, if its opcode is op (R162, R182). -/
def issueOp (s : State) (c : Nat) (q : QueueId) (op : Nat) (plan : Core → List LoopFrame → List Byte → Fetched → Plan) : State :=
  match (getQ (getCore s c) q).fb with
  | some b => issueFallback s c q op b plan
  | none =>
  match readyHead s c q with
  | none => s
  | some e =>
    if opOf e.raw ≠ op then s
    else
      let k := getCore s c
      let x := getQ k q
      let raw := effective x.loops x.issue e.raw
      issuePlan s c q e raw (plan k x.loops raw e)

/-! Completion. -/

/-- Output slots become FULL with the consumer count (R164, item 1). -/
def fillSlots (k : Core) (ns : List Nat) (cnt : Nat) : Core :=
  ns.foldl (fun k n => if untagged k n then k else
    changeTag k n { (tagOf k n) with st := .full, count := cnt, saved := 0, owner := .none, src := 0, backed := false }) k

/-- One consuming read (R164, R194, R199): the core and whether it makes the slot underflow. A slot underflows once in a cycle, whatever its surplus, since the decrements of the cycle are added together. -/
def consumeSlot (k : Core) (n now : Nat) : Core × Bool :=
  if untagged k n then (k, false)
  else
    let t := tagOf k n
    if t.st = .full && 0 < t.count then
      if t.count = 1 then (changeTag k n { t with st := .empty, count := 0 }, false) else (setTag k n { t with count := t.count - 1 }, false)
    else
      let k1 := changeTag k n { t with st := .empty, count := 0, underAt := some now }
      if t.underAt = some now then (k1, false) else (kBump k1 5 2, true)

/-- The consuming reads of a descriptor: the core and how many slots underflow. -/
def consumeAll (k : Core) (ns : List Nat) (now : Nat) : Core × Nat :=
  ns.foldl (fun (a : Core × Nat) n => let r := consumeSlot a.1 n now; (r.1, a.2 + b2n r.2)) (k, 0)

/-- A register write of VRED or SETREG (R148, R153). -/
def putReg (k : Core) (r : RegWrite) : Core :=
  if r.shp then setKReg k 0 (0x120 + 4 * r.idx) r.val else setKReg k 0 (0x100 + 4 * r.idx) r.val

/-- A value enters a history slot (R296): the oldest beyond LEN is dropped; an infinity is counted and not pushed. -/
def pushHist (k : Core) (h : HistPush) : Core :=
  if h.val.toNat % 2 ^ 31 ≥ 0x7F800000 then kBump k 9 6
  else
    let len := min 16 (max 1 (fld (kReg k 9 (0x64 + 4 * h.slot)) 0 5))
    kBump { k with qnt := { k.qnt with hist := fset k.qnt.hist h.slot ((h.val :: fget k.qnt.hist h.slot []).take len) } } 9 5

/-- QNT_LASTCLIP after a descriptor that completed or fired its test (R298): info is its test count and ELEMS, none for one that R303 gives no test count. -/
def lastClip (k : Core) (info : Option (Nat × Nat)) (fired : Bool) : Core :=
  match info with
  | some (t, n) => setKReg k 9 0x48 (b2n fired * 2 ^ 31 + (if n = 0 then 0 else min 131071 (t * 65536 / n)))
  | none => k

/-- The loop markers at the front of a queue retire with nothing left to do (R165). -/
def popMarkers : Nat → Core → QueueId → Core
  | 0, k, _ => k
  | n + 1, k, q =>
    let x := getQ k q
    match x.flights with
    | f :: fs =>
      if f.isLoop && f.work = .finished then
        let k1 := f.endSigs.foldl signal k
        popMarkers n (modQ k1 q fun x => { x with flights := fs, done := f.doneTo.getD x.done }) q
      else k
    | [] => k

/-- Entries of the buffer before DONE will not be read again. -/
def trimBuf (k : Core) (q : QueueId) : Core :=
  modQ k q fun x => { x with buf := x.buf.filter fun e => ringDist e.idx x.done < ringDist x.tail x.done }

/-- The counters of the unit that completes a descriptor (R137, R307, R330, R347, R380). -/
def unitDone (k : Core) (q : QueueId) (raw : List Byte) : Core :=
  let op := opOf raw
  let k1 := match q with
    | .mxq => kBump k 2 0
    | .vxq => kBump k 3 0
    | _ => if op = 0x40 then kBump k 4 0 else if op = 0x50 then kBump k 10 0 else if op = 0x30 then kBump k 6 0 else k
  let quant := (op = 0x24 && leAt raw 0x10 1 ≠ 7) || (familyOf op = .matrix && (fld (leAt raw 0x34 2) 4 4 = 3 || fld (leAt raw 0x34 2) 4 4 = 4))
  if quant then kBump k1 9 0 else k1

/-- The scale-file entries that a completing descriptor writes, into the bank that was active when it issued (R280). -/
def putFile (k : Core) (f : Flight) : Core :=
  if f.bank.getD k.qnt.active = 0 then { k with qnt := { k.qnt with bankA := f.file.foldl (fun m e => fset m e.1 e.2) k.qnt.bankA } }
  else { k with qnt := { k.qnt with bankB := f.file.foldl (fun m e => fset m e.1 e.2) k.qnt.bankB } }

/-- The tally record of a completing descriptor, in the memory (R104, R105); of a fallback, the record names its own OPCODE, which may differ from its original's (DESIGN CHOICE, log entry 169). -/
def writeTally (k : Core) (q : QueueId) (f : Flight) (now : Word) : Core :=
  match f.tally with
  | none => k
  | some o =>
    match spdWrite k o (tallyRecord f.counts (opOf f.raw) (qIdx q) (if f.fallback then 0x40 else 0) f.idx now) with
    | .ok k1 => k1
    | .error _ => k

/-- What a completion writes beside its slots and its record (R107, R148, R153, R280, R296, R298). -/
def completionWrites (k : Core) (f : Flight) : Core :=
  let k1 := f.hist.foldl pushHist (lastClip (tlyTotals k f.counts) f.clipInfo false)
  let k2 := f.bumps.foldl (fun k b => kBump k b.1 b.2.1 b.2.2) (f.posts.foldl (fun k r => setKReg k r.1 r.2.1 r.2.2) (putFile k1 f))
  f.regs.foldl putReg k2

/-- The tag of a GVOP that completes is free again (R363). -/
def freeOp (k : Core) (f : Flight) : Core :=
  if opOf f.raw = 0x50 && !f.null then modPort k fun g => { g with ops := g.ops.filter fun o => o.tag ≠ f.tag } else k

/-- The counters of a completion (R187). -/
def completionCounts (k : Core) (q : QueueId) (f : Flight) : Core :=
  let k1 := if f.fallback then kBump (kBump k 0 0) 0 3 else kBump k 0 0
  unitDone (if f.null then kBump k1 0 4 else k1) q f.raw

/-- One E_TAG_PROTOCOL record for each slot that underflowed (R199). -/
def underflows (s : State) (c : Nat) : Nat → State
  | 0 => s
  | n + 1 => underflows (coreErr s c { code := eTAG_PROTOCOL, cls := 1, page := 5 }) c n

/-- The effects of a completion in the order of R164; orig is the original of a fallback, whose consuming reads take effect beside the fallback's own (R186, item 5, R305). -/
def completeFlight (s : State) (c : Nat) (q : QueueId) (f : Flight) (orig : Option Flight) : State :=
  let k := getCore s c
  let g := orig.getD f
  let k1 := unpin (fillSlots k (f.held ++ f.inplace) f.ocnt) (f.pins ++ (orig.map (·.pins)).getD [])
  let (k2, under) := consumeAll k1 (f.consume ++ (orig.map (·.consume)).getD []) s.now
  let k3 := (g.sigs ++ g.endSigs).foldl signal (completionWrites (writeTally k2 q f (rtimeLo s)) f)
  let k4 := modQ k3 q fun x => { x with flights := x.flights.drop 1, done := g.doneTo.getD x.done, fb := none,
                                        refetched := if x.waitRefetch = [] && x.skipWaits = 0 then [] else x.refetched }
  let k5 := trimBuf (popMarkers 33 (completionCounts (freeOp k4 f) q f) q) q
  underflows (putCore s c (wakeOnChange k (noteBusy k5 s.now) s.now)) c under

/-- The oldest descriptor completes, in the first cycle in which it may, if no clip test of it fires (R164, R175, R186). -/
def completeOldest (s : State) (c : Nat) (q : QueueId) (null : Bool) : State :=
  let s1 := untilEnd s c q
  let x := getQ (getCore s1 c) q
  match x.flights with
  | f :: _ =>
    if f.work = .finished && !f.clipFires && f.null = null && !f.isLoop then
      completeFlight (inOrder s1 c (rankDone q)) c q f (if f.fallback then x.fb.map (·.orig) else none)
    else s1
  | [] => s1

/-! Failure. -/

/-- The queue halts at ring index idx (R169): CODE, counters, the event to the tenant (R418). -/
def haltQueue (s : State) (c : Nat) (q : QueueId) (code : Nat) : State :=
  let s1 := modCore s c fun k => kBump (kBump (modQ k q fun x => { x with mode := .halted code }) 0 8) 13 3
  ownerEvent s1 c evCORE

/-- The slot of the failing word that a DETAIL names. -/
def detailSlot (detail : Word) : Nat := fld detail.toNat 2 18 * 4 / 1024

/-- The reads of a failed attempt that need a refetch: BACKED input slots that hold the failing word (R418). -/
def refetchSlot (k : Core) (f : Flight) (code : Nat) (detail : Word) : Option Nat :=
  if code = ePARITY && f.pins.contains (detailSlot detail) && (tagOf k (detailSlot detail)).backed then some (detailSlot detail) else none

/-- The codes that are not retried (R168, R413). -/
def noRetry (code : Nat) : Bool :=
  code == eSHAPE_OVER || code == eTAG_PROTOCOL || code == eTENANT || code == eCONTEXT_EXHAUSTED || code == eLOOP_NEST || code == eSTALL_CYCLE ||
  code == eSCRUB_MISMATCH

/-- Sends ABORT for the grove tags of the flights that fs names, answered or not (R363). -/
def abortTags (s : State) (c : Nat) (fs : List Flight) : State :=
  let tags := (fs.filter fun f => opOf f.raw = 0x50 && !f.null).map (·.tag)
  let hit := (getCore s c).grv.port.ops.filter fun o => tags.contains o.tag && !o.aborting
  let s1 := hit.foldl (fun s o => emit s (.groveAbort c o.tag)) s
  modCore s1 c fun k => { k with grv := { k.grv with port := { k.grv.port with
    ops := k.grv.port.ops.map fun o => if tags.contains o.tag then { o with aborting := true } else o } } }

/-- The contexts of abandoned SKSTREAM descriptors are aborted, to be freed when their aborts end (R167, R243; DEDUCED, log entry 170). -/
def abandonStreams (k : Core) (fs : List Flight) : Core :=
  let ctxs := (fs.filter fun f => opOf f.raw = 0x30).map fun f => fld (leAt f.raw 0x10 2) 0 10
  { k with skd := { k.skd with streams := k.skd.streams.map fun st => if ctxs.contains st.ctx then { beginAbort st with freeing := true } else st } }

/-- How a failed attempt is handled (R166 to R168, R418): its code, DETAIL and page; whether it escalates; whether that is a hard error; the BACKED slot to be refetched first; the abandoned accumulations whose rows are written. -/
structure Verdict where
  code : Nat
  detail : Word
  page : Nat
  escalate : Bool
  hard : Bool
  slot : Option Nat
  chains : List Flight
  deriving DecidableEq, Repr

/-- The verdict on flight f, which failed, with the later ones of its queue (R127, R166 to R168, R345, R418, R421). -/
def verdict (k : Core) (x : Queue) (f : Flight) (later : List Flight) (code : Nat) (detail : Word) (page : Nat) : Verdict :=
  let slot := refetchSlot k f code detail
  let again := slot.any fun n => x.refetched.contains n
  let spent := fld (kReg k 13 0x40) 0 3 < f.attempt
  let chains := later.filter rowWritten
  { code := code, detail := detail, page := page, slot := slot, chains := chains,
    escalate := f.dead || f.acc || noRetry code || spent || (code = ePARITY && (slot.isNone || again)) || chains ≠ [],
    hard := (code = eRESIDUE && spent) || (code = ePARITY && again) }

/-- The queue after a failed attempt that is to be made again, or that halts it (R166, R169): ISSUE and the loops go back to it, and the ones after it reissue without their waits and with their seeds (R324). An illegal entry is dropped, to be fetched again (R168). -/
def queueAfter (x : Queue) (f : Flight) (before later : List Flight) (v : Verdict) : Queue :=
  { x with waitOn := [], flights := before, issue := f.idx, loops := f.loops, retries := f.attempt, fb := none,
           skipWaits := b2n f.waited + later.length + x.skipWaits, seeds := (f :: later).map (·.seed) ++ x.seeds,
           buf := if v.code = eDESC_CRC && !f.fallback then x.buf.filter fun e => e.idx ≠ f.idx else x.buf,
           waitRefetch := if v.escalate then [] else v.slot.toList,
           refetched := if v.escalate then x.refetched else v.slot.toList ++ x.refetched }

/-- The fallback after a failed attempt that is to be made again (R186, item 6): the original's slots stay HELD; an illegal entry is fetched again (R168). -/
def fallbackAfter (b : Fallback) (f : Flight) (code : Nat) : Fallback :=
  { b with tries := b.tries + 1, orig := { b.orig with seed := f.seed }, entry := if code = eDESC_CRC then none else b.entry }

/-- The slot effects and the queue after flight f fails. -/
def afterFailure (k : Core) (q : QueueId) (f : Flight) (before later : List Flight) (v : Verdict) : Core :=
  let x := getQ k q
  let k1 := later.foldl releaseAbandoned k
  match x.fb with
  | some b =>
    if f.fallback && !v.escalate then
      modQ (unpin k1 f.pins) q fun x => { x with flights := [], fb := some (fallbackAfter b f v.code), waitRefetch := v.slot.toList, refetched := v.slot.toList ++ x.refetched }
    else modQ (unpin (emptyHeld (releaseFailed k1 f) b.orig.held) b.orig.pins) q fun x => queueAfter x f before later v
  | none => modQ (releaseFailed k1 f) q fun x => queueAfter x f before later v

/-- The counters of a failed attempt (R187, R250, R420) and the refetch that it asks for. -/
def failureCounts (k : Core) (v : Verdict) (abandoned : Nat) : Core :=
  let k1 := kBump k 0 6 abandoned
  if v.escalate then k1
  else
    let k2 := kBump (if v.code = eDESC_CRC then kBump k1 0 2 else k1) 13 1
    match v.slot with
    | some n => if k2.skd.refetch.contains n then k2 else kBump (kBump { k2 with skd := { k2.skd with refetch := k2.skd.refetch ++ [n] } } 6 13) 13 2
    | none => k2

/-- Handles the oldest failed descriptor of a queue (R166 to R169, R418): later issued descriptors are abandoned, then it is retried in place or the queue halts. -/
def failOldest (s0 : State) (c : Nat) (q : QueueId) : State :=
  let s := if hasFailed (getQ (getCore s0 c) q) then inOrder s0 c rankFail else s0
  let k := getCore s c
  let x := getQ k q
  let before := working x
  match x.flights.drop before.length with
  | [] => s
  | f :: later =>
    match f.work with
    | .failed code detail page =>
      let v := verdict k x f later code detail page
      let k1 := abandonStreams (failureCounts (afterFailure k q f before later v) v later.length) later
      let s1 := abortTags (putCore s c (wakeOnChange k (noteBusy k1 s.now) s.now)) c (f :: later)
      let r := flightRec q f code (if code = eSCRUB_MISMATCH then 2 else 1) page detail v.escalate
      let s2 := coreErr (if code = ePARITY && !f.dead then modCore s1 c fun k => kBump (errAddr k (fld detail.toNat 2 18)) 5 3 else s1) c r
      let s3 := v.chains.foldl (fun s g => coreErr s c (flightRec q g code 1 page 0#32 true)) s2
      let s4 := if v.escalate then haltQueue s3 c q code else s3
      if v.escalate && v.hard then hardError s4 c r else s4
    | _ => s

/-- The head's entry where items 1 to 4 of R162 hold: what a control descriptor, or one whose opcode its queue does not run, waits for (R163). -/
def readyControl (s : State) (c : Nat) (q : QueueId) : Option Fetched :=
  match readyHead s c q with
  | some e => if semsReady (getCore s c) q e then some e else none
  | none => none

/-- The entry that keeps the head from issuing because its CRC never held (R168): the head itself, or an entry of the body of a LOOP at the head. -/
def badEntry (x : Queue) : Option Fetched :=
  if x.issue = x.tail then none
  else match fetchedAt x x.issue with
    | none => none
    | some e =>
      if !e.ok then some e
      else if opOf e.raw ≠ 1 then none
      else (((List.range (bodyLen e.raw)).filterMap fun j => fetchedAt x ((x.issue + 1 + j) % 65536))).find? fun e => !e.ok

/-- An entry whose CRC never held halts the queue once the head needs it and nothing is in flight (R168, R169). -/
def settleHead (s : State) (c : Nat) (q : QueueId) : State :=
  let x := getQ (getCore s c) q
  match x.mode, badEntry x with
  | .run, some b => if inFlight x = 0 then haltQueue (modCore s c fun k => modQ k q fun x => { x with buf := x.buf.filter fun g => g.idx ≠ b.idx }) c q eDESC_CRC else s
  | _, _ => s

end Sys2Proof.Machine
end

