-- ==== Sys2Proof/Machine/Ports.lean ====
section
/-! DEFINITION. Accesses through the ports: the order of writes to a page (R8), and who may access a page or a scratchpad (R44, R49, R51, R55, R424, R453). -/

namespace Sys2Proof.Machine

/-- The place of a port among the writes to one page in one RCLK cycle (R8). -/
def portRank : Port → Nat
  | .mgmt => 0 | .host _ => 1 | .vc3 _ => 2

/-- The number of a page, for the order of its writes. -/
def pageKey : PageRef → Nat
  | .blk => 0 | .evt => 1 | .jnl => 2 | .fio => 3 | .ten u => 4 + u.val | .core c i => 16 + 14 * c.val + i.val

/-- A later port has written the page in this RCLK cycle already (R8). -/
def portLate (s : State) (p : Port) (pg : PageRef) : Bool :=
  match fget? s.pageOrder (pageKey pg) with
  | some (t, m) => t = rtime s && portRank p < m
  | none => false

/-- s in the RCLK cycle in which a write of port p to a page can take effect: the next one where a later port has written it in this one (R8). -/
def portOrder (s : State) (p : Port) (pg : PageRef) : State :=
  let s1 := if portLate s p pg then atLeast s (s.origin + rclk (rtime s + 1)) else s
  if portRank p = 0 then s1 else { s1 with pageOrder := fset s1.pageOrder (pageKey pg) (rtime s1, portRank p) }

/-- An access of port p to a register of a page, in the cycle in which it comes: whether it takes effect, and the state after a refusal is recorded (R44, R49, R55, R424, R453). -/
def pageAccess (s : State) (p : Port) (pg : PageRef) (off : Nat) (wr : Bool) : State × Bool :=
  if s.boot.step < 2 then (s, false)
  else if !offExists pg off then (blkBump s 0, false)
  else match pg with
    | .core c i =>
      if s.boot.step < 5 then (blkBump s 0, false)
      else match portTenant p with
        | some t =>
          match coreRefusal s t c.val (!wr || tenantWr i.val) with
          | some code => (refuseBlk s code t, false)
          | none => (s, true)
        | none => (s, !(getOwner s c.val).felled || i.val == 13)
    | .blk =>
      match portTenant p with
      | some t =>
        if tenValid s t && (!wr || off == 0x58) then (s, true) else (refuseBlk s 9 t, false)
      | none => (s, true)
    | _ =>
      match portTenant p with
      | some t => (refuseBlk s 9 t, false)
      | none => (s, true)

/-- An access of port p to a register of a page: a write takes its place among those of its RCLK cycle first. -/
def pageGate (s : State) (p : Port) (pg : PageRef) (off : Nat) (wr : Bool) : State × Bool :=
  pageAccess (if wr then portOrder s p pg else s) p pg off wr

/-- An access of port p to a scratchpad (R51, R55, R424, R453). -/
def spdGate (s : State) (p : Port) (c : Nat) : State × Bool :=
  if s.boot.step < 2 then (s, false)
  else if s.boot.step < 5 then (blkBump s 0, false)
  else match portTenant p with
    | some t =>
      match coreRefusal s t c true with
      | some code => (refuseBlk s code t, false)
      | none => (s, true)
    | none => (s, !(getOwner s c).felled)

/-- f where the gate lets the access through, the refusal's record where not. -/
def gated (g : State × Bool) (f : State → State) : State := if g.2 then f g.1 else g.1

/-- A write of port p to register off of core page i, with effect f; a write to the CQ page wakes a core in DOZE (R443). -/
def coreWrite (s : State) (p : Port) (c : CoreId) (i : Fin 14) (off : Nat) (f : State → State) : State :=
  gated (pageGate s p (.core c i) off true) fun s => if i.val = 0 then modCore (f s) c.val fun k => wakeDoze k s.now 2 else f s

end Sys2Proof.Machine
end

