-- ==== Sys2Proof/Machine/Queues.lean ====
section
/-! DEFINITION. The commands of the queues: doorbells, fetch, control descriptors, completion, failure, control actions, semaphores. -/

namespace Sys2Proof.Machine

/-- A doorbell value takes effect under R158. -/
def tailOk (k : Core) (q : QueueId) (t : Nat) : Bool :=
  let x := getQ k q
  ringDist t x.done ≤ 2 ^ ringLog k q && ringDist x.issue x.done ≤ ringDist t x.done

/-- The effect of a doorbell on a core (R62, R158, R443): TAIL, the wake, or CQ counter 1. -/
def ringBell (k : Core) (q : QueueId) (t now : Nat) : Core :=
  if tailOk k q t then wake (noteWork (modQ k q fun x => { x with tail := t }) now) now 1
  else kBump k 0 1

/-- A write to a queue doorbell (R61, R62): to a core FELLED it records E_FELLED in the BLK page. -/
def bellWrite (s : State) (p : Port) (c : CoreId) (q : QueueId) (t : Nat) : State :=
  if p = .mgmt && s.boot.step ≥ 5 && (getOwner s c.val).felled then blkErr s eFELLED 1 0
  else coreWrite s p c 0 (0x40 + 4 * qIdx q) fun s => modCore s c.val fun k => ringBell k q t s.now

/-- A write to a queue doorbell (R61, R62). -/
def execDoorbell (p : Port) (c : CoreId) (q : QueueId) (tail : BitVec 16) (s : State) : Out1 := .next (bellWrite s p c q tail.toNat)

/-! What a queue fetches (R157, R160, R184, R219, R221, R234, R305). -/

/-- A 44-bit address in two registers of a page, its low word masked to what lies above bit n. -/
def baseOf (k : Core) (i lo n : Nat) : Nat := kReg k i lo / 2 ^ n * 2 ^ n + fld (kReg k i (lo + 4)) 0 12 * 2 ^ 32

/-- The virtual address of ring index i (R157). -/
def ringAddr (k : Core) (q : QueueId) (i : Nat) : Nat := baseOf k 0 (qBlock q) 6 + i % 2 ^ ringLog k q * 64

/-- The virtual address of a descriptor's fallback entry (R139, R184). -/
def fallbackAddr (k : Core) (q : QueueId) (raw : List Byte) : Nat := baseOf k 0 (qBlock q + 8) 6 + leAt raw 0x0A 2 * 64

/-- The virtual address of context n (R219). -/
def ctxAddr (k : Core) (n : Nat) : Nat := baseOf k 6 0x40 12 + n * 128

/-- The virtual address of multicast group g (R234). -/
def groupAddr (k : Core) (g : Nat) : Nat := baseOf k 6 0x48 12 + g * 256

/-- LOG2SIZE of a queue's ring lies within 4 to 16 (R156). -/
def ringSizeOk (k : Core) (q : QueueId) : Bool := 4 ≤ ringLog k q && ringLog k q ≤ 16

/-- The next ring index to fetch: the first from ISSUE on that is exposed and not in the buffer (R160). -/
def nextFetch (x : Queue) : Option Nat :=
  ((List.range (ringDist x.tail x.issue)).map fun i => (x.issue + i) % 65536).find? fun i => (fetchedAt x i).isNone

/-- There is room for index i: fewer than 16 entries before it that have not issued, outside loop bodies, or i lies in an active body or in the body of a LOOP at the head (R160, R162, R180). -/
def fetchRoom (x : Queue) (i : Nat) : Bool :=
  inActiveBody x i ||
  (x.buf.filter fun e => ringDist e.idx x.issue < ringDist i x.issue && !inActiveBody x e.idx).length < 16 ||
  match headOf x with
  | some e => opOf e.raw = 1 && ringDist i x.issue ≤ bodyLen e.raw
  | none => false

/-- An SKSTREAM names a context, or a group, that its table does not hold (R248). -/
def beyondTables (k : Core) (raw : List Byte) : Bool :=
  fld (kReg k 6 0x54) 0 11 ≤ fld (leAt raw 0x10 2) 0 10 || ((leAt raw 0x13 1).testBit 3 && fld (kReg k 6 0x54) 16 9 ≤ leAt raw 0x20 2)

/-- What entry e asks for beside itself: the context of an SKSTREAM and then its group (R221, R234), the fallback of a descriptor with FBV = 1 (R305). -/
def companionOf (k : Core) (q : QueueId) (e : Fetched) : Option FetchKind :=
  if !e.ok then none
  else if q = .skq && opOf e.raw = 0x30 then
    if beyondTables k e.raw then none
    else if e.ctx.isNone then some (.context e.idx)
    else if e.group.isNone && (leAt e.raw 0x13 1).testBit 3 then some (.group e.idx)
    else none
  else if (q = .mxq || q = .vxq) && flagOf e.raw 3 && e.fb.isNone then some (.early e.idx)
  else none

/-- What queue q asks memory for next: the fallback of a test that fired, what belongs to an entry that is there, the next entry (R160, R186, R305). -/
def nextWant (k : Core) (q : QueueId) : Option FetchKind :=
  let x := getQ k q
  if x.mode ≠ .run then none
  else match x.fb with
  | some b => if b.entry.isNone then some (.fallback b.orig.idx) else none
  | none =>
    match x.buf.findSome? (companionOf k q) with
    | some w => some w
    | none =>
      match nextFetch x with
      | some i => if fetchRoom x i && ringSizeOk k q then some (.entry i) else none
      | none => none

/-- The bytes of the entry at ring index i, as fetched. -/
def rawAt (x : Queue) (i : Nat) : List Byte := ((fetchedAt x i).map (·.raw)).getD []

/-- The virtual address and length of what queue q asks for. -/
def wantAddr (k : Core) (q : QueueId) : FetchKind → Nat × Nat
  | .entry i => (ringAddr k q i, 64)
  | .context i => (ctxAddr k (fld (leAt (rawAt (getQ k q) i) 0x10 2) 0 10), 128)
  | .group i => (groupAddr k (leAt (rawAt (getQ k q) i) 0x20 2), 256)
  | .early i => (fallbackAddr k q (rawAt (getQ k q) i), 64)
  | .fallback _ => (fallbackAddr k q (((getQ k q).fb.map (·.orig.raw)).getD []), 64)
  | _ => (0, 0)

/-- A fetch belongs to a queue, not to a refetch of a BACKED slot or to an image. -/
def FetchKind.ofQueue : FetchKind → Bool
  | .entry _ | .context _ | .group _ | .early _ | .fallback _ => true
  | _ => false

/-- The fetches of queue q under way go: what they return is not wanted any more. -/
def dropFetches (k : Core) (q : QueueId) : Core :=
  { k with skd := { k.skd with fetches := k.skd.fetches.filter fun f => !(f.q == q && f.kind.ofQueue) } }

/-- The CRC of a descriptor holds (R139). -/
def descCrcOk (raw : List Byte) : Bool := leAt raw 0x3C 4 == crc32c (raw.take 0x3C)

/-- k with f applied to the entry at ring index i of queue q. -/
def modEntry (k : Core) (q : QueueId) (i : Nat) (f : Fetched → Fetched) : Core :=
  modQ k q fun x => { x with buf := x.buf.map fun e => if e.idx = i then f e else e }

/-- The record of a CRC that failed at attempt n for ring index i (R168). -/
def crcRec (q : QueueId) (n i : Nat) (esc : Bool) : ErrRec :=
  { code := eDESC_CRC, cls := 1, page := 0, queue := qIdx q, attempt := min 8 n, ringidx := i, esc := esc }

/-- An entry returns from memory (R160, R168): good, it enters the buffer; bad, it is fetched again up to RETRYMAX times, then kept as bad. -/
def storeFetch (s : State) (c : Nat) (q : QueueId) (i : Nat) (d : List Byte) : State :=
  let k := getCore s c
  if descCrcOk d then
    modCore s c fun k => modQ k q fun x => { x with buf := x.buf ++ [{ idx := i, raw := d, ok := true }], fetchTries := 0 }
  else
    let n := (getQ k q).fetchTries + 1
    let more := n ≤ fld (kReg k 13 0x40) 0 3
    let s1 := coreErr s c (crcRec q n i !more)
    if more then modCore s1 c fun k => kBump (modQ k q fun x => { x with fetchTries := n }) 0 2
    else settleHead (modCore s1 c fun k => modQ k q fun x => { x with fetchTries := 0, buf := x.buf ++ [{ idx := i, raw := d, ok := false }] }) c q

/-- The original's slots go back as its fallback escalates (R186, items 3 and 6): its outputs EMPTY, its inputs released; ISSUE and the loops stand at it. -/
def giveUpFallback (k : Core) (q : QueueId) (b : Fallback) : Core :=
  modQ (unpin (emptyHeld k b.orig.held) b.orig.pins) q fun x =>
    { x with fb := none, issue := b.orig.idx, loops := b.orig.loops, skipWaits := x.skipWaits + 1, seeds := b.orig.seed :: x.seeds }

/-- The fallback entry returns (R186, item 3): a bad one is fetched again up to RETRYMAX times, then the queue halts at the original. -/
def storeFallback (s : State) (c : Nat) (q : QueueId) (b : Fallback) (d : List Byte) : State :=
  if descCrcOk d then modCore s c fun k => modQ k q fun x => { x with fb := some { b with entry := some d, fetchTries := 0 } }
  else
    let n := b.fetchTries + 1
    let more := n ≤ fld (kReg (getCore s c) 13 0x40) 0 3
    let s1 := coreErr s c (crcRec q n b.orig.idx !more)
    if more then modCore s1 c fun k => kBump (modQ k q fun x => { x with fb := some { b with fetchTries := n } }) 0 2
    else haltQueue (modCoreW s1 c fun k => giveUpFallback k q b) c q eDESC_CRC

/-- A fetch meets a translation fault (R161). -/
def fetchFault (s : State) (c : Nat) (q : QueueId) (i : Nat) : State :=
  coreErr (modCore s c fun k => modQ k q fun x => { x with mode := .fault ePAGE_FAULT }) c
    { code := ePAGE_FAULT, cls := 1, page := 0, queue := qIdx q, ringidx := i }

/-- What a fetch of queue q returned takes effect (R160, R161, R168, R221, R234, R305); none for a translation fault. -/
def takeFetch (s : State) (c : Nat) (q : QueueId) (kind : FetchKind) (d : Option (List Byte)) : State :=
  match kind, d with
  | .entry i, some d => storeFetch s c q i d
  | .context i, some d => modCore s c fun k => modEntry k q i fun e => { e with ctx := some d }
  | .group i, some d => modCore s c fun k => modEntry k q i fun e => { e with group := some d }
  | .early i, d => modCore s c fun k => modEntry k q i fun e => { e with fb := some (d.getD []) }
  | .fallback _, some d =>
    match (getQ (getCore s c) q).fb with
    | some b => storeFallback s c q b d
    | none => s
  | .entry i, none => fetchFault s c q i
  | .context i, none => fetchFault s c q i
  | .group i, none => fetchFault s c q i
  | .fallback i, none => fetchFault s c q i
  | _, _ => s

/-- What a fetch brought, once it is back. -/
def Fetch.result (f : Fetch) : Option (Option (List Byte)) :=
  match f.stage with
  | .here d => some (some d)
  | .faulted _ => some none
  | _ => none

/-- A queue's fetch returns (R160, R161, R221, R305); one that the queue does not want any more is discarded; a ring whose LOG2SIZE is not 4 to 16 halts the queue at its next fetch (R156). -/
def execDescriptorFetch (c : CoreId) (q : QueueId) (_r : Unit) (s : State) : Out1 :=
  let k := getCore s c.val
  let x := getQ k q
  .next (if x.mode ≠ .run || (getOwner s c.val).felled then s
    else match k.skd.fetches.find? fun f => f.q == q && f.kind.ofQueue && f.result.isSome with
    | some f =>
      let s1 := modCore s c.val fun k => { k with skd := { k.skd with fetches := k.skd.fetches.filter fun g => g.n ≠ f.n } }
      if nextWant k q = some f.kind then takeFetch s1 c.val q f.kind (f.result.getD none) else s1
    | none =>
      match x.fb, nextFetch x with
      | none, some i =>
        if fetchRoom x i && !ringSizeOk k q then haltQueue (coreErr s c.val (crcRec q 0 i true)) c.val q eDESC_CRC else s
      | _, _ => s)

/-! Control descriptors (R152 to R155, R177 to R181). -/

/-- A NOP is legal: an all-zero body, OUT 0 (R141, R152). -/
def nopLegal (raw : List Byte) : Bool := headerLegal raw false && zeroAt raw 0xC 4 && zeroAt raw 0x10 44

/-- A control descriptor that is legal issues and, when it is the oldest of its queue, completes at the end of its window (R152, R153, R163, R164). -/
def issueControl (s : State) (c : Nat) (q : QueueId) (e : Fetched) (regs : List RegWrite) : State :=
  let s1 := openHead s c q e true 0 fun k t => (k, { idx := 0, raw := e.raw, regs := regs, ends := t + 4, todo := [{ cyc := t + 4, act := .finish }] })
  if (getQ (getCore s1 c) q).flights.length = 1 then completeOldest s1 c q false else s1

/-- A fallback that is no data descriptor, which makes it illegal (R185). -/
def issueStray (s : State) (c : Nat) (q : QueueId) (sel : Nat → Bool) (b : Fallback) : State :=
  match b.entry with
  | some d => if sel (opOf d) then issueFallback s c q (opOf d) b fun _ _ _ _ => {} else s
  | none => s

/-- Issues the head, where its opcode is op, by f; with a fallback under way, that one if its opcode is op. -/
def controlOp (s : State) (c : Nat) (q : QueueId) (op : Nat) (f : Fetched → State) : State :=
  match (getQ (getCore s c) q).fb with
  | some b => issueStray s c q (fun o => o = op) b
  | none =>
    match readyControl s c q with
    | some e => if opOf e.raw = op then f e else s
    | none => s

/-- NOP (R152). -/
def execNop (c : CoreId) (q : QueueId) (s : State) : Out1 :=
  .next (controlOp s c.val q 0 fun e =>
    if nopLegal e.raw then issueControl s c.val q e [] else issueDead s c.val q e e.raw { code := eDESC_CRC })

/-- The register writes of a SETREG, in entry order; none where an entry is illegal (R153). -/
def setregWrites (raw : List Byte) : Option (List RegWrite) :=
  (List.range 4).foldr (fun i acc =>
    let o := 0x10 + 8 * i
    let kind := leAt raw o 1
    let idx := leAt raw (o + 1) 1
    let v := leAt raw (o + 4) 4
    match acc with
    | none => none
    | some l =>
      if !zeroAt raw (o + 2) 2 then none
      else match kind with
        | 0 => some l
        | 1 => if idx < 8 && v < 65536 then some ({ shp := false, idx := idx, val := v } :: l) else none
        | 2 => if idx < 16 then some ({ shp := true, idx := idx, val := v } :: l) else none
        | _ => none) (some [])

/-- SETREG (R153). -/
def execSetreg (c : CoreId) (q : QueueId) (s : State) : Out1 :=
  .next (controlOp s c.val q 2 fun e =>
    match setregWrites e.raw, headerLegal e.raw false && zeroAt e.raw 0xC 4 && zeroAt e.raw 0x30 12 with
    | some ws, true => issueControl s c.val q e ws
    | _, _ => issueDead s c.val q e e.raw { code := eDESC_CRC })

/-- The advances of a LOOP that are not entirely 0 (R154). -/
def loopAdvs (raw : List Byte) : List Adv :=
  (List.range 10).filterMap fun i =>
    let w := leAt raw (0x14 + 4 * i) 4
    if w = 0 then none else some { pos := fld w 27 5, field := fld w 24 3, stride := sext 20 w }

/-- A LOOP's structure is good (R180): advances within the body, nested bodies within it, nesting and buffer within their limits. -/
def loopStructOk (x : Queue) (i len : Nat) (advs : List Adv) (body : List Fetched) : Bool :=
  advs.all (fun a => a.pos < len) &&
  body.all (fun e => opOf e.raw ≠ 1 || ringDist e.idx i + leAt e.raw 0x11 1 ≤ len) &&
  x.loops.length < 4 &&
  (match x.loops.getLast? with
   | some o => ringDist i o.start + len ≤ o.len
   | none => len ≤ 32)

/-- Every advance names a field of the opcode it targets (R155). -/
def loopAdvsOk (i : Nat) (advs : List Adv) (body : List Fetched) : Bool :=
  advs.all fun a => match body.find? fun e => ringDist e.idx i = a.pos + 1 with
    | some e => (advField (opOf e.raw) a.field).isSome
    | none => false

/-- A LOOP's own fields are legal (R154, R179, R181). -/
def loopLegal (raw : List Byte) : Bool :=
  headerLegal raw false && zeroAt raw 0xC 4 && fld (leAt raw 0x10 1) 3 4 = 0 && !(flagOf raw 3) &&
  (List.range 10).all fun i => fld (leAt raw (0x14 + 4 * i) 4) 20 4 = 0

/-- The count a LOOP latches (R177). -/
def loopCount (k : Core) (raw : List Byte) : Nat :=
  let b := leAt raw 0x10 1
  if b.testBit 7 then leAt raw 0x12 2 else kReg k 0 (0x100 + 4 * fld b 0 3) % 65536

/-- A LOOP whose checks passed starts its body, or skips it when its count is 0 and ends with its window (R177, R178). -/
def startLoop (s : State) (c : Nat) (q : QueueId) (e : Fetched) : State :=
  let x := getQ (getCore s c) q
  let len := bodyLen e.raw
  let n := loopCount (getCore s c) e.raw
  let l : LoopFrame := { start := x.issue, len := len, count := n, iter := 0, advs := loopAdvs e.raw, sigs := ownSigs x.loops e.raw }
  let f : Flight := { idx := 0, raw := e.raw, isLoop := true, work := .finished }
  let s1 := openHead s c q e true (if n = 0 then len else 0) fun k _ => (k, f)
  let s2 := if n = 0 then modCore (atLeast s1 (getQ (getCore s1 c) q).winEnd) c fun k => kBump k 0 5
    else modCore s1 c fun k => modQ k q fun y => { y with loops := l :: y.loops, flights := y.flights.map fun g => if g.isLoop && g.idx = x.issue then { g with doneTo := none } else g }
  modCore s2 c fun k => wakeOnChange k (trimBuf (popMarkers 33 k q) q) s2.now

/-- The window of a LOOP whose body is there (R154, R177 to R181). -/
def issueLoop (s : State) (c : Nat) (q : QueueId) (e : Fetched) : State :=
  let x := getQ (getCore s c) q
  let len := bodyLen e.raw
  match loopBody x x.issue len with
  | none => s
  | some body =>
    let advs := loopAdvs e.raw
    if !loopLegal e.raw then issueDead s c q e e.raw { code := eDESC_CRC }
    else if len = 0 || !loopStructOk x x.issue len advs body then issueDead s c q e e.raw { code := eLOOP_NEST }
    else if !loopAdvsOk x.issue advs body then issueDead s c q e e.raw { code := eDESC_CRC }
    else startLoop s c q e

/-- LOOP (R154, R177 to R181). -/
def execLoop (c : CoreId) (q : QueueId) (s : State) : Out1 := .next (controlOp s c.val q 1 (issueLoop s c.val q))

/-- A descriptor with an unlisted opcode, or one that its queue does not run, fails in its 4-cycle window (R138, R163). -/
def execIllegalOpcode (c : CoreId) (q : QueueId) (s : State) : Out1 :=
  .next (match (getQ (getCore s c.val) q).fb with
    | some b => issueStray s c.val q (fun o => !opAllowed q o) b
    | none =>
      match readyControl s c.val q with
      | some e => if opAllowed q (opOf e.raw) then s else issueDead s c.val q e e.raw { code := eDESC_CRC }
      | none => s)

/-! Completion and failure. -/

/-- The oldest descriptor completes (R164). -/
def execDescriptorComplete (c : CoreId) (q : QueueId) (s : State) : Out1 :=
  .next (settleHead (completeOldest s c.val q false) c.val q)

/-- The oldest descriptor makes its null completion (R183). -/
def execNullCompletion (c : CoreId) (q : QueueId) (s : State) : Out1 :=
  .next (settleHead (completeOldest s c.val q true) c.val q)

/-- An issued descriptor fails (R166). -/
def execDescriptorFail (c : CoreId) (q : QueueId) (s : State) : Out1 := .next (settleHead (failOldest s c.val q) c.val q)

/-- The queue once the clip test of its oldest descriptor has fired (R186): that one waits for its fallback, the later ones reissue. -/
def queueFired (x : Queue) (f : Flight) (later : List Flight) : Queue :=
  let (ls, next, _) := advance f.loops ((f.idx + 1) % 65536)
  { x with waitOn := [], flights := [], issue := next, loops := ls, skipWaits := x.skipWaits + later.length, seeds := later.map (·.seed) ++ x.seeds,
           fb := some { orig := { f with clipFires := false }, entry := none, tries := 0 } }

/-- An accumulation in place behind a descriptor whose test fired had written a row (R167, R186, item 2): the queue halts at that descriptor, with records for both; what code it gives is not stated (DESIGN CHOICE, log entry 171). -/
def fireEscalates (s : State) (c : Nat) (q : QueueId) (b : Fallback) (chains : List Flight) : State :=
  let (v, s1) := takeChoice s
  let code := 1 + v % 18
  let s2 := modCoreW s1 c fun k => giveUpFallback k q b
  let s3 := (b.orig :: chains).foldl (fun s g => coreErr s c (flightRec q g code 1 (qUnitPage q) 0#32 true)) s2
  haltQueue s3 c q code

/-- The clip test fires on the oldest descriptor (R186, R305): it does not complete, later ones are abandoned, the fallback is called for; an entry that came with the descriptor is taken, else it is fetched. -/
def clipFire (s : State) (c : Nat) (q : QueueId) (f : Flight) (later : List Flight) : State :=
  let k := getCore s c
  let k1 := modQ (later.foldl releaseAbandoned k) q fun x => queueFired x f later
  let k2 := kBump (lastClip (kBump k1 0 6 later.length) f.clipInfo true) 9 3
  let s1 := putCore s c (wakeOnChange k k2 s.now)
  let early := ((fetchedAt (getQ k q) f.idx).bind (·.fb)).getD []
  match (getQ k2 q).fb with
  | none => s1
  | some b =>
    let chains := later.filter rowWritten
    if chains ≠ [] then fireEscalates s1 c q b chains
    else if early = [] then s1
    else storeFallback s1 c q b early

/-- The clip test fires on the oldest descriptor, once its work is done (R186, R302). -/
def execClipTestFire (c : CoreId) (q : QueueId) (s : State) : Out1 :=
  let s1 := untilEnd s c.val q
  .next (match (getQ (getCore s1 c.val) q).flights with
    | f :: later => if f.clipFires && f.work = .finished && !f.fallback then clipFire (inOrder s1 c.val (rankDone q)) c.val q f later else s1
    | [] => s1)

/-! Control actions (R170, R171). -/

/-- STOP written 1 (R170). -/
def setStop (k : Core) (q : QueueId) (b : Bool) : Core :=
  modQ k q fun x => { x with stop := b, stoppedSeen := if b then x.stoppedSeen else false }

/-- A write to CQ_qCTL with effect f, ahead of the other events of its cycle (R38, R315). -/
def ctlWrite (s : State) (p : Port) (c : CoreId) (q : QueueId) (f : Core → Core) : State :=
  coreWrite s p c 0 (qBlock q + 0x18) fun s => modCoreW (inOrder s c.val rankWrite) c.val f

/-- CQ_qCTL.STOP is written 1 (R170). -/
def execQueueStop (p : Port) (c : CoreId) (q : QueueId) (s : State) : Out1 := .next (ctlWrite s p c q fun k => setStop k q true)

/-- A stopped queue reads STOPPED once nothing is in flight (R170). -/
def execQueueStopped (c : CoreId) (q : QueueId) (s : State) : Out1 :=
  .next (modCore s c.val fun k => modQ k q fun x => if x.stop && inFlight x = 0 then { x with stoppedSeen := true } else x)

/-- Entries outside active loop bodies that have not issued are discarded (R160). -/
def discardAhead (x : Queue) : Queue :=
  { x with buf := x.buf.filter fun e => inActiveBody x e.idx || ringDist x.tail x.issue ≤ ringDist e.idx x.issue }

/-- RESUME (R171): a halted queue reissues its head with a fresh retry count and no waits, a faulted one fetches again; elsewhere it is ignored and counted. -/
def queueResume (k : Core) (q : QueueId) : Core :=
  match (getQ k q).mode with
  | .halted _ => modQ k q fun x => { x with mode := .run, retries := 0, refetched := [], waitRefetch := [], fetchTries := 0 }
  | .fault _ => modQ k q fun x => { x with mode := .run, fetchTries := 0 }
  | .run => kBump k 0 7

/-- RESUME written to CQ_qCTL (R171). -/
def execQueueResume (p : Port) (c : CoreId) (q : QueueId) (s : State) : Out1 := .next (ctlWrite s p c q fun k => queueResume k q)

/-- The entry at the head is a LOOP with a body that its BODYLEN gives within 1 to 32: SKIP steps past it with that body. -/
def skipLen (x : Queue) : Nat :=
  match fetchedAt x x.issue with
  | some e => if opOf e.raw = 1 then bodyLen e.raw else 0
  | none => 0

/-- SKIP (R171): the halted descriptor retires without effect within its loop iteration, a LOOP with its body (DEDUCED, log entry 172); loops that end with it signal. -/
def queueSkip (k : Core) (q : QueueId) : Core :=
  let x := getQ k q
  match x.mode with
  | .halted _ =>
    let (ls, next, sg) := advance x.loops ((x.issue + 1 + skipLen x) % 65536)
    let f : Flight := { idx := x.issue, raw := [], isLoop := true, work := .finished, loops := x.loops, endSigs := sg,
                        doneTo := if ls = [] then some next else none }
    let y := { discardAhead x with
      waitOn := [], mode := .run, issue := next, loops := ls, retries := 0, skipWaits := x.skipWaits - 1, seeds := x.seeds.drop 1,
      refetched := [], waitRefetch := [], fetchTries := 0, flights := x.flights ++ [f] }
    let k1 := putQ (dropFetches k q) q y
    trimBuf (popMarkers 33 k1 q) q
  | _ => kBump k 0 7

/-- SKIP written to CQ_qCTL (R171). -/
def execQueueSkip (p : Port) (c : CoreId) (q : QueueId) (s : State) : Out1 := .next (settleHead (ctlWrite s p c q fun k => queueSkip k q) c.val q)

/-- What FLUSH discards of descriptors still in flight: they never complete (R171; DEDUCED, log entry 173). -/
def dropFlights (k : Core) (q : QueueId) : Core :=
  let x := getQ k q
  (x.flights ++ (x.fb.map (·.orig)).toList).foldl releaseFailed (abandonStreams k x.flights)

/-- FLUSH acts in HALTED, FAULT, and STOPPED with nothing in flight (R171). -/
def flushOk (x : Queue) : Bool :=
  match x.mode with
  | .run => x.stop && inFlight x = 0
  | _ => true

/-- FLUSH (R171): ISSUE and DONE become TAIL, all loop state goes; in HALTED, FAULT, and STOPPED with nothing in flight. -/
def queueFlush (k : Core) (q : QueueId) : Core :=
  let x := getQ k q
  if flushOk x then
    putQ (dropFetches (dropFlights k q) q) q
      { x with waitOn := [], issue := x.tail, done := x.tail, loops := [], buf := [], retries := 0, skipWaits := 0, seeds := [], mode := .run,
               refetched := [], waitRefetch := [], fetchTries := 0, flights := [], fb := none }
  else kBump k 0 7

/-- FLUSH of a queue, with the ABORTs that its GVOPs in flight ask for (R171, R363). -/
def flushQueue (s : State) (c : Nat) (q : QueueId) : State :=
  let x := getQ (getCore s c) q
  let s1 := modCoreW s c fun k => queueFlush k q
  if flushOk x then abortTags s1 c x.flights else s1

/-- FLUSH written to CQ_qCTL (R171). -/
def execQueueFlush (p : Port) (c : CoreId) (q : QueueId) (s : State) : Out1 :=
  .next (coreWrite s p c 0 (qBlock q + 0x18) fun s => flushQueue (inOrder s c.val rankWrite) c.val q)

/-- A write to SEMA_ADD (R174, R175). -/
def execSemaAdd (p : Port) (c : CoreId) (sem : SemId) (amount : BitVec 16) (s : State) : Out1 :=
  .next (coreWrite s p c 1 0xC0 fun s => modCoreW (inOrder s c.val rankAdd) c.val fun k => semAdd k sem.val amount.toNat)

/-- The 16th cycle in which an earlier queue took the counts that the head's waits needed (R175): from the next one on the queue goes first. -/
def execQueueWaitAged (c : CoreId) (q : QueueId) (s : State) : Out1 :=
  .next (match (getQ (getCore s c.val) q).refused with
    | some t => modCore (atLeast s (t + 16)) c.val fun k => modQ k q fun x => if x.refused = some t then { x with aged := true } else x
    | none => s)

/-- A bank request that has lost for 16 cycles goes first at its bank in the next one (R35): two aged requests keep the unit order. -/
def execBankRequestAged (c : CoreId) (bank : Fin 48) (unit : Fin 7) (s : State) : Out1 :=
  .next (modCore s c.val fun k => { k with bankAged := fset k.bankAged bank.val (fget k.bankAged bank.val 0 ||| 2 ^ unit.val) })

/-- A residue mismatch fails the array pass n of MXQ at step stepNo (R135): the steps already written by then stay written. -/
def execResidueMismatch (c : CoreId) (n stepNo : Nat) (tree : BitVec 8) (s : State) : Out1 :=
  let at_ := fun s : State => (getCore s c.val).mxq.flights[n]?
  let s1 := atLeast s (((at_ s).map (·.start)).getD 0)
  .next (match at_ s1 with
    | some f =>
      match f.run with
      | .mx a _ =>
        let s2 := if stepNo < a.nv then atLeast s1 (f.start + f.load + stepNo * f.stepLen) else s1
        match at_ s2 with
        | some g =>
          if stepNo < a.nv && g.opened = f.opened && g.lines = [] && !g.isFailed then
            modCore s2 c.val fun k =>
              let k1 := kBump { k with mxa := none } 2 7
              putFlight k1 .mxq n { g with work := .failed eRESIDUE (word tree.toNat) 2, clipFires := false, todo := [], tail := [], lines := [] }
          else s2
        | none => s2
      | _ => s1
    | none => s1)

end Sys2Proof.Machine
end

