-- ==== Sys2Proof/Machine/Units.lean ====
section
/-! DEFINITION. The commands of the units: the matrix, vector, update and local descriptors (R138), the scale file and the history slots (R281, R296), the TLY totals (R107). -/

namespace Sys2Proof.Machine

/-! Descriptors. -/

/-- MXMUL (R96 to R137). -/
def execMxmul (c : CoreId) (s : State) : Out1 := .next (issueOp s c.val .mxq 0x10 mxPlan)

/-- MXCONV (R132). -/
def execMxconv (c : CoreId) (s : State) : Out1 := .next (issueOp s c.val .mxq 0x11 mxPlan)

/-- VELT (R311). -/
def execVelt (c : CoreId) (s : State) : Out1 := .next (issueOp s c.val .vxq 0x20 (vPlan (vDesc 0x20)))

/-- VRED (R312). -/
def execVred (c : CoreId) (s : State) : Out1 := .next (issueOp s c.val .vxq 0x21 (vPlan (vDesc 0x21)))

/-- VSOFTMAX (R316 to R320). -/
def execVsoftmax (c : CoreId) (s : State) : Out1 := .next (issueOp s c.val .vxq 0x22 (vPlan (vDesc 0x22)))

/-- VNORM (R314). -/
def execVnorm (c : CoreId) (s : State) : Out1 := .next (issueOp s c.val .vxq 0x23 (vPlan (vDesc 0x23)))

/-- VSAMPLE (R327, R328). -/
def execVsample (c : CoreId) (s : State) : Out1 := .next (issueOp s c.val .vxq 0x26 (vPlan (vDesc 0x26)))

/-- VRAND (R326). -/
def execVrand (c : CoreId) (s : State) : Out1 := .next (issueOp s c.val .vxq 0x27 (vPlan (vDesc 0x27)))

/-- VQUANT (R147, R284 to R298). -/
def execVquant (c : CoreId) (s : State) : Out1 := .next (issueOp s c.val .vxq 0x24 qPlan)

/-- VDEQUANT (R147, R286 to R294). -/
def execVdequant (c : CoreId) (s : State) : Out1 := .next (issueOp s c.val .vxq 0x25 qPlan)

/-- UPSTEP (R331 to R347). -/
def execUpstep (c : CoreId) (s : State) : Out1 := .next (issueOp s c.val .upq 0x40 uPlan)

/-- MVFILL (R149, R207). -/
def execMvfill (c : CoreId) (s : State) : Out1 := .next (issueOp s c.val .skq 0x31 mvfillPlan)

/-- MVCOPY (R149, R208). -/
def execMvcopy (c : CoreId) (s : State) : Out1 := .next (issueOp s c.val .skq 0x32 mvcopyPlan)

/-! The scale file, the history slots and the totals through the registers. -/

/-- TLY_CTRL.CLR clears the six totals and TLY_AMAX (R106, R107). -/
def execTlyClr (p : Port) (c : CoreId) (s : State) : Out1 :=
  .next (coreWrite s p c 8 0x5C fun s => modCore s c.val tlyClear)

/-- A port writes the scale file (R281). -/
def execScaleFileWrite (p : Port) (c : CoreId) (r : ScaleReg) (v : Word) (s : State) : Out1 :=
  .next (coreWrite s p c 9 (srOff r) fun s => modCore s c.val fun k => scaleFilePut k r v.toNat)

/-- QNT_SRZP is read: the selected entry's FLAT and ZP, then INDEX advances under INC (R306). -/
def execSrzpAccess (p : Port) (c : CoreId) (s : State) : Out1 :=
  .next (gated (pageGate s p (.core c 9) 0x58 false) fun s =>
    answerRead (modCore s c.val srAdvance) p (natLe 4 (srzpWord (getCore s c.val))))

/-- CLR of QNT_HISTCFGh empties the slot (R296). -/
def execHistClr (p : Port) (c : CoreId) (h : Fin 16) (s : State) : Out1 :=
  .next (coreWrite s p c 9 (0x64 + 4 * h.val) fun s => modCore s c.val fun k => emptyHist k h.val)

/-- QNT_HISTCFGh.LEN is written (R296). -/
def execHistLenWrite (p : Port) (c : CoreId) (h : Fin 16) (len : BitVec 5) (s : State) : Out1 :=
  .next (coreWrite s p c 9 (0x64 + 4 * h.val) fun s => modCore s c.val fun k => histLen k h.val len.toNat)

end Sys2Proof.Machine
end

