-- ==== Sys2Proof/Machine/Mesh.lean ====
section
/-! DEFINITION. The mesh (R23 to R31, R235, R252): routes, buffers and links, the arbitration of the virtual channels, multicast trees, parity checks and resends (R411), delivery in order (R27). -/

namespace Sys2Proof.Machine

/-- Where a core stands: column and row (R15, R23). -/
def coreXY (c : Nat) : Nat × Nat := (c % 40, c / 40)

/-- The first attachment row of a landing port within its edge (R30). -/
def landRow (p : Nat) : Nat := ([1, 4, 7, 11, 16, 20, 23, 26])[p % 8]?.getD 0

/-- The attachment router of a torus port code (R251). -/
def torusXY (p : Nat) : Nat × Nat := (([7, 2, 17, 12, 27, 22, 37, 32])[p]?.getD 0, 29)

/-- The router at which a node is attached (R30). -/
def nodeXY : Node → Nat × Nat
  | .core c => coreXY c
  | .land p k => (if p < 8 then 0 else 39, landRow p + k)
  | .torus p => torusXY p
  | .root => (0, 0)

/-- Which of a landing port's three routers is nearest in y, the lower y on a tie (R31). -/
def nearestRouter (p y : Nat) : Nat :=
  let r := landRow p
  if y ≤ r then 0 else if y = r + 1 then 1 else 2

/-- From a to b in unit steps, a excluded. -/
def stepsTo (a b : Nat) : List Nat :=
  if a ≤ b then (List.range (b - a)).map (a + 1 + ·) else (List.range (a - b)).map (a - 1 - ·)

/-- The routers of a unicast flit: along X, then along Y (R27). -/
def routeOf (a b : Nat × Nat) : List (Nat × Nat) :=
  a :: ((stepsTo a.1 b.1).map fun x => (x, a.2)) ++ (stepsTo a.2 b.2).map fun y => (b.1, y)

/-- The router port by which a flit reaches r: 0 north, 1 south, 2 east, 3 west, 4 local (R414). -/
def portInto (f : Flit) (r : Nat × Nat) : Nat :=
  match f.here with
  | some h => if h.1 < r.1 then 3 else if r.1 < h.1 then 2 else if h.2 < r.2 then 0 else 1
  | none =>
    match f.src with
    | .core _ => 4
    | .land p _ => if p < 8 then 3 else 2
    | .torus _ => 1
    | .root => 0

/-- The core whose router stands at r. -/
def coreAt (r : Nat × Nat) : Nat := r.2 * 40 + r.1

/-! Multicast (R235). -/

/-- The members beyond router r in each direction that a multicast flit takes from it: along the row to the columns of its members, and along their columns. -/
def treeBranches (r : Nat × Nat) (ms : List Nat) : List (List Nat × (Nat × Nat)) :=
  let go := fun (sel : Nat × Nat → Bool) n => (ms.filter fun m => sel (coreXY m), n)
  [go (fun a => r.1 < a.1) (r.1 + 1, r.2), go (fun a => a.1 < r.1) (r.1 - 1, r.2),
   go (fun a => a.1 = r.1 && r.2 < a.2) (r.1, r.2 + 1), go (fun a => a.1 = r.1 && a.2 < r.2) (r.1, r.2 - 1)].filter fun b => b.1 ≠ []

/-- A multicast flit at its router, bound for the first of the directions it is still to take. -/
def aimTree (f : Flit) : Flit :=
  match f.here with
  | some r => { f with route := ((treeBranches r f.tree).head?.map (·.2)).toList }
  | none => f

/-- Puts a flit into the mesh, behind those that wait at its source. -/
def send (s : State) (f : Flit) : State :=
  { s with mesh := s.mesh ++ [{ f with id := s.nextFlit, route := routeOf (nodeXY f.src) (nodeXY f.dst) }], nextFlit := s.nextFlit + 1 }

/-- Puts a multicast flit into the mesh: one flit at its root, whatever the number of members (R235). -/
def sendTree (s : State) (f : Flit) (ms : List Nat) : State :=
  { s with mesh := s.mesh ++ [{ f with id := s.nextFlit, dst := f.src, tree := ms, route := [nodeXY f.src] }], nextFlit := s.nextFlit + 1 }

/-- The flit with that number. -/
def findFlit (s : State) (id : Nat) : Option Flit := s.mesh.find? fun f => f.id == id

/-- s with f applied to flit id. -/
def modFlit (s : State) (id : Nat) (f : Flit → Flit) : State :=
  { s with mesh := s.mesh.map fun x => if x.id == id then f x else x }

/-- A flit leaves router r. -/
def leaveRouter (s : State) (r : Option (Nat × Nat)) : State :=
  match r with
  | some r => modCore s (coreAt r) fun k => modPwr k fun p => { p with meshLast := s.now }
  | none => s

/-! Buffers, links and arbitration (R25, R26, R252). -/

/-- Two flits wait in the same buffer: at one router behind one port, or at one source, on the same channel. -/
def sameBuffer (f g : Flit) : Bool := f.here == g.here && f.vc == g.vc && (if f.here.isSome then f.inPort == g.inPort else f.src == g.src)

/-- Flit f is the first of its buffer that has a link to take. -/
def headOfBuffer (s : State) (f : Flit) : Bool :=
  ((s.mesh.find? fun g => sameBuffer f g && g.route ≠ []).map (·.id)) == some f.id

/-- Flits that a router port holds for a channel: two for VC3 (R252). -/
def bufferSize (vc : Nat) : Nat := if vc = 3 then 2 else 1 + Config.vcDepth

/-- Router r has a free buffer behind port p for channel vc. -/
def hasCredit (s : State) (r : Nat × Nat) (p vc : Nat) : Bool :=
  (s.mesh.filter fun g => g.here == some r && g.inPort == p && g.vc == vc && g.route ≠ []).length < bufferSize vc

/-- The number of the link into router r by port p. -/
def linkKey (r : Nat × Nat) (p : Nat) : Nat := coreAt r * 5 + p

/-- Flit f could take the link into router r by port p now. -/
def linkReady (s : State) (r : Nat × Nat) (p : Nat) (f : Flit) : Bool :=
  f.route.head? == some r && portInto f r == p && !f.resend && headOfBuffer s f && hasCredit s r p f.vc

/-- The channels that go before vc on a link whose last flit of VC0 to VC2 was on channel last: VC3 before all, the others in rotation (R26, R252). -/
def beforeVc (last vc : Nat) : List Nat :=
  if vc = 3 then [] else 3 :: (([(last + 1) % 3, (last + 2) % 3, last % 3]).takeWhile fun v => v ≠ vc)

/-- Flit f has its turn on the link into router r by port p: it is ready, and no ready flit of a channel that goes first waits for the link. -/
def hasTurn (s : State) (r : Nat × Nat) (p : Nat) (f : Flit) : Bool :=
  let last := ((fget? s.links (linkKey r p)).map (·.2)).getD 2
  linkReady s r p f && (beforeVc last f.vc).all fun v => !(s.mesh.any fun g => g.vc == v && linkReady s r p g)

/-- The link into router r by port p carries a flit of channel vc, in the next cycle where it has carried one in this (R25). -/
def useLink (s : State) (r : Nat × Nat) (p vc : Nat) : State :=
  let e := (fget? s.links (linkKey r p)).getD (0, 2)
  let s1 := if (fget? s.links (linkKey r p)).isSome && e.1 = s.now then atLeast s (s.now + 1) else s
  { s1 with links := fset s1.links (linkKey r p) (s1.now, if vc = 3 then e.2 else vc) }

/-! Hops (R28, R411). -/

/-- Flit f enters router r by port p, as the last of its buffer; its branch runs (R440). -/
def enterRouter (s : State) (f : Flit) (r : Nat × Nat) (p : Nat) (rest : List (Nat × Nat)) : State :=
  let s1 := { s with mesh := (s.mesh.filter fun g => g.id ≠ f.id) ++ [{ f with here := some r, inPort := p, route := rest, fails := 0 }] }
  modCore s1 (coreAt r) fun k => modPwr k fun p => { p with meshClk := true }

/-- A flit bound for a torus port leaves the chip at its last router (R251). -/
def leaveChip (s : State) (f : Flit) (r : Nat × Nat) : State :=
  let s1 := leaveRouter { s with mesh := s.mesh.filter fun g => g.id ≠ f.id } (some r)
  match f.dst, f.hdr, f.cmd with
  | .torus p, some h, _ => emit s1 (.torus p h f.data)
  | .torus p, none, some w => emit s1 (.torusCmd p w f.data)
  | _, _, _ => s1

/-- A unicast flit takes its next link. -/
def hopUnicast (s : State) (f : Flit) (r : Nat × Nat) (p : Nat) (rest : List (Nat × Nat)) : State :=
  let s1 := enterRouter s f r p rest
  match f.dst, rest with
  | .torus _, [] => leaveChip s1 f r
  | _, _ => s1

/-- What remains of a multicast flit at the router it leaves, once ms go on: nothing, or a flit aimed at its next direction. -/
def remainTree (s : State) (f : Flit) (ms : List Nat) : State :=
  let rest := f.tree.filter fun m => !ms.contains m
  if rest = [] then { s with mesh := s.mesh.filter fun g => g.id ≠ f.id } else modFlit s f.id fun f => aimTree { f with tree := rest }

/-- A multicast flit takes its next link (R235): a copy with the members beyond it enters the router; a member there has its copy. -/
def hopTree (s : State) (f : Flit) (r : Nat × Nat) (p : Nat) : State :=
  let ms := match f.here with
    | some h => ((treeBranches h f.tree).head?.map (·.1)).getD []
    | none => f.tree
  let s1 := remainTree s f ms
  let onward := ms.filter fun m => coreXY m ≠ r
  let copy : Flit := { f with here := some r, inPort := p, fails := 0 }
  let s2 := if ms.length = onward.length then s1 else
    { s1 with mesh := s1.mesh ++ [{ copy with id := s1.nextFlit, dst := .core (coreAt r), tree := [], route := [] }], nextFlit := s1.nextFlit + 1 }
  let s3 := if onward = [] then s2 else
    { s2 with mesh := s2.mesh ++ [aimTree { copy with id := s2.nextFlit, tree := onward }], nextFlit := s2.nextFlit + 1 }
  modCore s3 (coreAt r) fun k => modPwr k fun p => { p with meshClk := true }

/-- A flit arrives at the next router of its path (R26, R28, R411), where it has its turn: with good parity it moves on; with bad parity it stays to be resent. A failed link passes nothing. -/
def execFlitArrival (id : Nat) (parityOk : Bool) (s : State) : Out1 :=
  .next (match findFlit s id with
    | some f =>
      match f.route with
      | r :: rest =>
        let p := portInto f r
        if s.failedLinks.contains (r, p) || !hasTurn s r p f then s
        else
          let s1 := useLink s r p f.vc
          if !parityOk then modFlit s1 id fun f => { f with fails := f.fails + 1, resend := true }
          else
            let s2 := leaveRouter s1 f.here
            if f.tree = [] then hopUnicast s2 f r p rest else hopTree s2 f r p
      | [] => s
    | none => s)

/-- The sending end resends a flit whose parity failed fewer than eight times in a row (R411); the receiving router's core counts it. -/
def execFlitResend (id : Nat) (s : State) : Out1 :=
  .next (match findFlit s id with
    | some f =>
      match f.route with
      | r :: _ =>
        if f.resend && f.fails < 8 then modCore (modFlit s id fun f => { f with resend := false }) (coreAt r) fun k => kBump k 13 5 else s
      | [] => s
    | none => s)

/-- A flit that failed its check eight times in a row fails the link (R411): a fatal E_PARITY with the router port, an ERROR record, and no more traffic. -/
def execLinkFail (id : Nat) (s : State) : Out1 :=
  .next (match findFlit s id with
    | some f =>
      match f.route with
      | r :: _ =>
        if 8 ≤ f.fails && !s.failedLinks.contains (r, portInto f r) then
          coreErr { s with failedLinks := s.failedLinks ++ [(r, portInto f r)] } (coreAt r)
            { code := ePARITY, cls := 2, page := 13, detail := word (portInto f r) }
        else s
      | [] => s
    | none => s)

/-- Takes a flit that has reached its destination, the first of those from its source on its channel (R27). -/
def takeFlit (s : State) (id : Nat) : Option (Flit × State) :=
  match findFlit s id with
  | some f =>
    let first := s.mesh.find? fun g => g.src = f.src && g.dst = f.dst && g.vc = f.vc && g.route = []
    if f.route = [] && (first.map (·.id)) = some id then
      some (f, leaveRouter { s with mesh := s.mesh.filter fun g => g.id ≠ id } f.here)
    else none
  | none => none

/-- The router branch stops 16 FCLK cycles after the last flit leaves (R440). -/
def execMeshBranchStop (c : CoreId) (s : State) : Out1 :=
  let p := (getCore s c.val).pwr
  .next (if p.meshClk && !(s.mesh.any fun f => f.here = some (coreXY c.val)) then
    modCore (atLeast s (p.meshLast + 16)) c.val fun k => modPwr k fun p => { p with meshClk := false }
  else s)

/-- The data branch stops 64 FCLK cycles after the last event that started it (R440). -/
def execDataBranchStop (c : CoreId) (s : State) : Out1 :=
  let p := (getCore s c.val).pwr
  .next (if p.dataClk then modCore (atLeast s (p.dataLast + 64)) c.val fun k => modPwr k fun p => { p with dataClk := false } else s)

end Sys2Proof.Machine
end

