-- ==== Sys2Proof/Machine/Spad.lean ====
section
/-! DEFINITION. The scratchpad's commands: port accesses (R51), arrivals (R195), segments (R209 to R211), tag commands (R213), untagged ranges (R202). -/

namespace Sys2Proof.Machine

/-! Port accesses (R51). -/

/-- The access is 4, 8 or 16 bytes wide, naturally aligned, and inside the scratchpad (R51). -/
def portShape (off width : Nat) : Bool := (width == 4 || width == 8 || width == 16) && off % width == 0 && off + width ≤ 0xC0000

/-- A write that passed its checks (R51, R206, R211, R393): ignored in a segment that is off or a locked slot, else merged into the gather buffer. -/
def portStore (s : State) (c off : Nat) (data : List Byte) : State :=
  modCore s c fun k =>
    let k1 := noteWork (touchData k s.now) s.now
    if !segUp k1 (off / 65536) || lockedSlot k1 (off / 1024) then k1 else gatherWrite k1 off data s.now

/-- A port write to a scratchpad (R51). -/
def execScratchpadPortWrite (p : Port) (c : CoreId) (off : BitVec 20) (data : List Byte) (s : State) : Out1 :=
  .next (if s.boot.step < 2 then s
    else if !portShape off.toNat data.length then blkBump s 0
    else gated (spdGate s p c.val) fun s => portStore s c.val off.toNat data)

/-- A port read of a scratchpad (R51, R205): 0 with E_SEGMENT_OFF from a segment that is off, else the bytes as stored, gather entries of the row written first; a parity mismatch is recorded. -/
def execScratchpadPortRead (p : Port) (c : CoreId) (off : BitVec 20) (width : Nat) (s : State) : Out1 :=
  let o := off.toNat
  .next (if s.boot.step < 2 then s
    else if !portShape o width then answerRead (blkBump s 0) p (List.replicate width 0#8)
    else
      let g := spdGate s p c.val
      if !g.2 then answerRead g.1 p (List.replicate width 0#8)
      else
        let s1 := modCore g.1 c.val fun k => noteWork (touchData k s.now) s.now
        if !segUp (getCore s1 c.val) (o / 65536) then
          answerRead (coreErr s1 c.val { code := eSEGMENT_OFF, cls := 1, page := 5 }) p (List.replicate width 0#8)
        else
          let s2 := modCore s1 c.val fun k => flushRows k (o / 32) ((o + width - 1) / 32)
          let k := getCore s2 c.val
          let s3 := answerRead s2 p (spdBytes k o width)
          match badWords k o width with
          | some w => parityRecord s3 c.val w { code := ePARITY, cls := 1, page := 5 }
          | none => s3)

/-! Arrivals (R195). -/

/-- An arrival as its destination sees it: offset, bytes (none for a marker), flags, count, and its source. -/
structure Arr where
  off : Nat
  data : List Byte
  start : Bool
  fin : Bool
  ocnt : Nat
  owner : Holder
  src : Nat
  chip : Word
  core : Nat
  ctx : Nat
  deriving DecidableEq, Repr

/-- The tag rule of R195 lets the arrival in, and its slot is not locked (R393). -/
def arrTagOk (k : Core) (a : Arr) : Bool :=
  let n := a.off / 1024
  let t := tagOf k n
  !lockedSlot k n &&
    (untagged k n || if a.start then t.st == .empty && t.rdpin == 0 else t.st == .held && t.owner == a.owner && t.src == a.src)

/-- The tag of the arrival's slot after it is accepted (R195). -/
def arrTag (k : Core) (a : Arr) : Core :=
  let n := a.off / 1024
  if untagged k n then k
  else
    let t := tagOf k n
    if a.fin then changeTag k n { t with st := .full, count := a.ocnt, saved := 0, owner := .none, src := 0, backed := false }
    else if a.start then
      changeTag k n { t with st := .held, count := 0, saved := 0, owner := a.owner, src := a.src, fromChip := a.chip, fromCore := a.core, fromCtx := a.ctx }
    else k

/-- An on-chip arrival: the core with it applied, or the code of its refusal and the failing word of a parity error (R195, R211, R222). -/
def applyArrival (k : Core) (a : Arr) (now : Nat) : Except (Nat × Option Nat) Core :=
  if 0xC0000 < a.off + a.data.length || 0xBFFFF < a.off then .error (eSHAPE_OVER, none)
  else if !segUp k (a.off / 65536) then .error (eSEGMENT_OFF, none)
  else match arrivalStore k a.off a.data now with
    | .error w => .error (ePARITY, some w)
    | .ok k1 => if arrTagOk k a then .ok (arrTag k1 a) else .error (eTAG_PROTOCOL, none)

/-- What a refused arrival leaves on the receiving core (R190, R195, R215): a segment that is off is no refusal of R195. -/
def arrRefusal (s : State) (c code : Nat) (w : Option Nat) : State :=
  let counted := modCore s c fun k => kBump k 5 1
  match w with
  | some w => parityRecord counted c w { code := ePARITY, cls := 1, page := 5 }
  | none => if code = eTAG_PROTOCOL then coreErr counted c { code := eTAG_PROTOCOL, cls := 1, page := 5 } else s

/-- The answer to a flit: an acknowledgement, or a NACK with its code, back to the flit's source on channel vc. -/
def answerFlit (s : State) (f : Flit) (vc code : Nat) : State :=
  send s { id := 0, vc := vc, src := f.dst, dst := .core f.core, route := [], kind := if code = 0 then .ack else .nack,
           core := f.core, ctx := f.ctx, seq := f.seq, code := code, addr := f.addr }

/-- An on-chip arrival write or SLOTEND marker reaches its core (R195, R424, R440). -/
def execArrivalWrite (id : Nat) (s : State) : Out1 :=
  .next (match takeFlit s id with
    | some (f, s1) =>
      match f.kind, f.dst with
      | .arrival, .core c | .marker, .core c =>
        if f.hdr.isSome then s
        else if (getOwner s1 c).felled then answerFlit s1 f 1 eFELLED
        else
          let s2 := inOrder (modCore s1 c fun k => noteWork (touchData k s.now) s.now) c rankArrival
          let k := getCore s2 c
          let a : Arr := { off := f.off, data := f.data, start := f.start, fin := f.kind = .marker, ocnt := f.ocnt,
                           owner := .onchip, src := f.core, chip := torusHere s, core := f.core, ctx := f.ctx }
          match applyArrival k a s2.now with
          | .ok k1 => answerFlit (putCore s2 c (wakeOnChange k k1 s2.now)) f 1 0
          | .error (code, w) => answerFlit (arrRefusal s2 c code w) f 1 code
      | _, _ => s
    | none => s)

/-! Untagged ranges (R200, R202). -/

/-- A descriptor in flight has no tag effect any more on the slots that sel picks (R202). -/
def Flight.without (sel : Nat → Bool) (f : Flight) : Flight :=
  let rest := fun l : List Nat => l.filter fun n => !sel n
  { f with pins := rest f.pins, held := rest f.held, inplace := rest f.inplace, consume := rest f.consume }

/-- A stream has no tag effect any more on the slots of its own core that ns lists (R202). -/
def Stream.without (ns : List Nat) (st : Stream) : Stream :=
  let own := streamDir st = 0 && st.group = []
  { st with held := st.held.filter (fun n => !ns.contains n), loose := st.loose ++ ns,
            visits := if own then st.visits.filter fun v => !ns.contains v.slot else st.visits }

/-- Slots that become untagged lose their tags, slots that become tagged start EMPTY (R202): k0 before the change of the ranges, k after it. -/
def retag (k0 k : Core) : Core :=
  let changed := (List.range 768).filter fun n => untagged k0 n ≠ untagged k n
  if changed = [] then k
  else
    let sel := fun n => changed.contains n
    let k1 := modSpd (changed.foldl flushSlot k) fun d => { d with tags := d.tags.filter fun e => !sel e.1 }
    let k2 := allQ.foldl (fun k q => modQ k q fun x =>
      { x with flights := x.flights.map (Flight.without sel), fb := x.fb.map fun b => { b with orig := b.orig.without sel } }) k1
    { k2 with skd := { k2.skd with streams := k2.skd.streams.map (Stream.without changed) } }

/-- A write to SPD_UTAGn (R202). -/
def execSpdUtagWrite (p : Port) (c : CoreId) (n : Fin 4) (v : Word) (s : State) : Out1 :=
  .next (coreWrite s p c 5 (0x40 + 4 * n.val) fun s => modCoreW s c.val fun k => retag k (setKReg k 5 (0x40 + 4 * n.val) (v &&& 0x83FF03FF#32).toNat))

/-! The gather buffer (R206). -/

/-- The oldest gather entry is written 64 FCLK cycles after its allocation, unless it has gone by then (R206, event 2). -/
def execGatherTimeout (c : CoreId) (s : State) : Out1 :=
  .next (match (getCore s c.val).spd.gather with
    | g :: _ => modCore (atLeast s (g.since + 64)) c.val fun k =>
      if k.spd.gather.any fun e => e.row == g.row && e.since == g.since then kBump (gatherFlush k fun e => e.row == g.row) 5 5 else k
    | [] => s)

/-- SPD_CTL.GBFLUSH writes every gather entry (R206, event 6). -/
def execGbflush (p : Port) (c : CoreId) (s : State) : Out1 :=
  .next (coreWrite s p c 5 0x68 fun s => modCore s c.val fun k => gatherFlush k fun _ => true)

/-! Segments (R209 to R211). -/

/-- The ON and ALLOW fields of SPD_SEGPWR. -/
def segOn (k : Core) (g : Nat) : Bool := (kReg k 5 0x50).testBit g
def segAllowed (k : Core) (g : Nat) : Bool := (kReg k 5 0x50).testBit (16 + g)

/-- k with ON bit g set to b. -/
def setOn (k : Core) (g : Nat) (b : Bool) : Core := setKReg k 5 0x50 (setBit (kReg k 5 0x50) g b)

/-- k with segment g in a phase since now. -/
def setSeg (k : Core) (g : Nat) (ph : SegPhase) (now : Nat) : Core :=
  modSpd k fun d => { d with segs := fset d.segs g { phase := ph, since := now } }

/-- A slot of segment g is HELD or pinned (R209). -/
def segBusy (k : Core) (g : Nat) : Bool :=
  k.spd.tags.any fun e => e.1 / 64 == g && !untagged k e.1 && (e.2.st == .held || 0 < e.2.rdpin)

/-- A segment loses its contents and its tags; its gather entries are discarded (R206, event 7, R209). -/
def dropSegment (k : Core) (g now : Nat) : Core :=
  setSeg (modSpd (touchRows k fun r => r / 2048 = g) fun d =>
    { d with mem := memZero d.mem (g * 65536) 65536, bad := d.bad.filter fun w => w / 16384 ≠ g,
             tags := d.tags.filter fun e => e.1 / 64 ≠ g, gather := d.gather.filter fun e => e.row / 2048 ≠ g }) g .off now

/-- Clearing ON bit g (R209): refused when a slot is HELD or pinned. -/
def segOffBit (k : Core) (g now : Nat) : Core :=
  if !segOn k g then k
  else if segBusy k g then kBump (setKReg k 5 0x54 (kReg k 5 0x54 ||| 2 ^ (16 + g))) 5 8
  else dropSegment (setOn k g false) g now

/-- Setting ON bit g (R210): the ramp begins unless the segment is already powered or a tenant may not power it. -/
def segOnBit (k : Core) (g now : Nat) (tenant : Bool) : Core :=
  if segOn k g || (tenant && !segAllowed k g) then k
  else setSeg (setOn k g true) g .ramping now

/-- A write of SPD_SEGPWR as a whole (R209, R210, R214): ON bit by bit, ALLOW from the management port only. -/
def segPwrWrite (k : Core) (v now : Nat) (tenant : Bool) : Core :=
  let k0 := if tenant then k else setKReg k 5 0x50 (fld (kReg k 5 0x50) 0 12 + fld v 16 12 * 65536)
  (List.range 12).foldl (fun k g => if v.testBit g then segOnBit k g now tenant else segOffBit k g now) k0

/-- Clearing an ON bit powers a segment off, or is refused (R209). -/
def execSegmentPowerOff (p : Port) (c : CoreId) (seg : Fin 12) (s : State) : Out1 :=
  .next (coreWrite s p c 5 0x50 fun s => modCoreW s c.val fun k => segOffBit k seg.val s.now)

/-- Setting an ON bit starts a segment's supply ramp (R210). -/
def execSegmentPowerOn (p : Port) (c : CoreId) (seg : Fin 12) (s : State) : Out1 :=
  .next (coreWrite s p c 5 0x50 fun s => modCore s c.val fun k => segOnBit k seg.val s.now (portTenant p).isSome)

/-- The supply has settled 3,400 FCLK cycles after the ramp began, and zeroing begins (R210). -/
def execSegmentSettled (c : CoreId) (seg : Fin 12) (s : State) : Out1 :=
  let g := fget (getCore s c.val).spd.segs seg.val {}
  .next (if g.phase = .ramping then
    let s1 := atLeast s (g.since + 3400)
    modCore s1 c.val fun k => setSeg k seg.val .zeroing s1.now
  else s)

/-- Zeroing ends after 128 row writes at least, and the segment is UP with zeros and EMPTY slots (R210, R212). -/
def execSegmentUp (c : CoreId) (seg : Fin 12) (s : State) : Out1 :=
  let g := fget (getCore s c.val).spd.segs seg.val {}
  .next (if g.phase = .zeroing then
    let s1 := atLeast s (g.since + 128)
    modCore s1 c.val fun k => setSeg (dropSegment k seg.val s1.now) seg.val .up s1.now
  else s)

/-! Tag commands (R213). -/

/-- A tag command begins, or is ignored and counted (R213). -/
def tagCommand (k : Core) (op count first last now : Nat) : Core :=
  if k.spd.cmd.isSome || last < first || 767 < last || op = 0 || 3 < op || (op = 2 && count = 0) then kBump k 5 9
  else modSpd k fun d => { d with cmd := some { op := op, count := count, first := first, last := last, since := now, next := first }, skipped := 0 }

/-- SPD_TAGCMD written (R213). -/
def startTagCmd (s : State) (c op count first last : Nat) : State := modCore s c fun k => tagCommand k op count first last s.now

/-- SPD_TAGCMD OP 1 (R213). -/
def execTagcmdSetEmpty (p : Port) (c : CoreId) (first last : BitVec 10) (s : State) : Out1 :=
  .next (coreWrite s p c 5 0x60 fun s => startTagCmd s c.val 1 0 first.toNat last.toNat)

/-- SPD_TAGCMD OP 2 (R213). -/
def execTagcmdSetFull (p : Port) (c : CoreId) (first last : BitVec 10) (count : BitVec 4) (s : State) : Out1 :=
  .next (coreWrite s p c 5 0x60 fun s => startTagCmd s c.val 2 count.toNat first.toNat last.toNat)

/-- SPD_TAGCMD OP 3 (R213). -/
def execTagcmdClearBacked (p : Port) (c : CoreId) (first last : BitVec 10) (s : State) : Out1 :=
  .next (coreWrite s p c 5 0x60 fun s => startTagCmd s c.val 3 0 first.toNat last.toNat)

/-- A tag command ends in the cycle in which it reaches the end of its range, at eight slots per FCLK cycle (R213). -/
def execTagcmdDone (c : CoreId) (s : State) : Out1 :=
  .next (match (getCore s c.val).spd.cmd with
    | some m =>
      let s1 := inOrder (atLeast s (m.since + (m.last + 8 - m.first) / 8)) c.val rankTagCmd
      modCore s1 c.val fun k => tagDone (tagTo k s1.now)
    | none => s)

end Sys2Proof.Machine
end

