-- ==== Sys2Proof/Machine/Walk.lean ====
section
/-! DEFINITION. Stream contexts and multicast groups (R220, R221, R234), the walk of a stream (R222 to R228): points, addresses, slots. -/

namespace Sys2Proof.Machine

/-! The fields of a context (R220). -/

def xTdims (b : List Byte) : Nat := fld (leAt b 0 1) 0 3
def xOorder (b : List Byte) : Nat := fld (leAt b 1 1) 6 2
def xIorder (b : List Byte) : Nat := fld (leAt b 1 1) 4 2
def xElem (b : List Byte) : Nat := fld (leAt b 1 1) 2 2
def xHint (b : List Byte) : Nat := fld (leAt b 1 1) 0 2
def xPacked (b : List Byte) : Bool := (leAt b 2 1).testBit 7
def xGate (b : List Byte) : Bool := (leAt b 2 1).testBit 6
def xGateCons (b : List Byte) : Bool := (leAt b 2 1).testBit 5
def xPull (b : List Byte) : Bool := (leAt b 2 1).testBit 4
def xMap (b : List Byte) (l : Nat) : Nat := fld (leAt b 4 3) (3 * l) 3
def xRun (b : List Byte) : Nat := leAt b 8 3
def xGateOff (b : List Byte) : Nat := leAt b 0xB 3
def xRing (b : List Byte) : Nat := leAt b 0xE 2
def xPullCore (b : List Byte) : Nat := leAt b 0x10 2
def xCount (b : List Byte) (d : Nat) : Nat := leAt b (0x18 + 12 * d) 3
def xMs (b : List Byte) (d : Nat) : Int := sext 48 (leAt b (0x18 + 12 * d + 3) 6)
def xSs (b : List Byte) (d : Nat) : Int := sext 24 (leAt b (0x18 + 12 * d + 9) 3)

/-! The fields of an SKSTREAM (R149). -/

def skCtx (raw : List Byte) : Nat := leAt raw 0x10 2
def skDir (raw : List Byte) : Nat := leAt raw 0x12 1
def skMcast (raw : List Byte) : Bool := (leAt raw 0x13 1).testBit 3
def skXpose (raw : List Byte) : Bool := (leAt raw 0x13 1).testBit 2
def skBacked (raw : List Byte) : Bool := (leAt raw 0x13 1).testBit 1
def skCsrc (raw : List Byte) : Bool := (leAt raw 0x13 1).testBit 0
def skMem (raw : List Byte) : Nat := leAt raw 0x14 8
def skSp (raw : List Byte) : Nat := leAt raw 0x1C 3
def skDest (raw : List Byte) : Nat := leAt raw 0x20 2
def skWindow (raw : List Byte) : Nat := leAt raw 0x22 1
def skSel (raw : List Byte) : Nat := leAt raw 0x23 1
def skMin (raw : List Byte) : Nat := leAt raw 0x26 2

/-- The descriptor is legal (R149, R222, R223, R229). -/
def skLegal (raw : List Byte) : Bool :=
  headerLegal raw (skDir raw ≠ 1 || (trecOf raw).isSome) && skCtx raw < 1024 && skDir raw ≤ 3 && fld (leAt raw 0x13 1) 4 4 = 0 &&
  (!skMcast raw || skDir raw = 0 || skDir raw = 2) && skMem raw < 2 ^ 44 && (skDir raw < 2 || skMem raw < 2 ^ 20) &&
  offLegal (skSp raw) && zeroAt raw 0x1F 1 && skWindow raw < 64 && (skSel raw ≤ 5 || skSel raw = 7) && skMin raw ≤ 768 && zeroAt raw 0x28 20

/-- LOOPMAP entries lo to lo + n - 1 permute the dimensions lo to lo + n - 1 (R221). -/
def mapPermutes (b : List Byte) (lo n : Nat) : Bool :=
  (List.range n).all fun d => (List.range n).any fun l => xMap b (lo + l) = lo + d

/-- The context is legal for the descriptor (R221, R227). -/
def ctxLegal (b raw : List Byte) : Bool :=
  let t := xTdims b
  leAt b 0x7C 4 = crc32c (b.take 0x60) && 1 ≤ t && t ≤ 6 && xElem b ≠ 3 && xHint b ≠ 3 &&
  1 ≤ xRun b && xRun b ≤ 1048575 && ((List.range 6).all fun d => xCount b d ≠ 0) &&
  fld (leAt b 0 1) 3 5 = 0 && fld (leAt b 2 1) 0 4 = 0 && zeroAt b 3 1 && fld (leAt b 4 3) 18 6 = 0 && zeroAt b 7 1 && zeroAt b 0x12 6 &&
  (xIorder b ≠ 3 || mapPermutes b 0 t) && (xOorder b ≠ 3 || mapPermutes b t (6 - t)) &&
  xIorder b ≠ 2 && (xOorder b ≠ 2 || 2 ≤ 6 - t) &&
  (!xPacked b || (1 ≤ xRing b && xRing b ≤ 768 && !skXpose raw)) &&
  (!skXpose raw || (skDir raw ≤ 1 && 1 ≤ xElem b && xRun b = 32 * xElem b && xCount b 0 = 32)) &&
  (!xGate b || offLegal (xGateOff b)) &&
  (!xPull b || (skDir raw = 0 && !skMcast raw &&
    (if (xPullCore b).testBit 15 then fld (xPullCore b) 6 9 = 0 else xPullCore b ≤ 1199)))

/-- The members of a multicast group (R234). -/
def groupMembers (g : List Byte) : List Nat := (List.range (leAt g 0 1)).map fun i => leAt g (4 + 2 * i) 2

/-- The group is legal (R234). -/
def groupLegal (g : List Byte) : Bool :=
  let n := leAt g 0 1
  leAt g 0xFC 4 = crc32c (g.take 0xFC) && 1 ≤ n && n ≤ 64 && zeroAt g 1 3 && zeroAt g 0x84 120 &&
  (groupMembers g).all (· ≤ 1199) && (dedup (groupMembers g)).length = n &&
  ((List.range (64 - n)).all fun i => leAt g (4 + 2 * (n + i)) 2 = 0)

/-! Order of the walk (R225, R226). -/

/-- Positions on the Hilbert curve (R226): s the side so far, d the distance left. -/
def hilbertGo : Nat → Nat → Nat → Nat → Nat → Nat → Nat × Nat
  | 0, _, _, _, x, y => (x, y)
  | f + 1, n, s, d, x, y =>
    if s ≥ n then (x, y)
    else
      let rx := d / 2 % 2
      let ry := (d + rx) % 2
      let (x1, y1) := if ry = 0 then (if rx = 1 then (s - 1 - y, s - 1 - x) else (y, x)) else (x, y)
      hilbertGo f n (s * 2) (d / 4) (x1 + s * rx) (y1 + s * ry)

/-- The smallest power of two no smaller than a, from s on. -/
def pow2From : Nat → Nat → Nat → Nat
  | 0, s, _ => s
  | f + 1, s, a => if a ≤ s then s else pow2From f (s * 2) a

/-- The r-th point of the Hilbert order within cx × cy, points outside being skipped (R226): candidates from d on. -/
def hilbertNth : Nat → Nat → Nat → Nat → Nat → Nat → Nat × Nat
  | 0, _, _, _, _, _ => (0, 0)
  | f + 1, n, cx, cy, d, r =>
    let p := hilbertGo 24 n 1 d 0 0
    if p.1 < cx && p.2 < cy then (if r = 0 then p else hilbertNth f n cx cy (d + 1) (r - 1)) else hilbertNth f n cx cy (d + 1) r

/-- The pair of indices of the r-th point of a Hilbert pair with these counts. -/
def hilbertPair (cx cy r : Nat) : Nat × Nat :=
  let n := pow2From 24 1 (max cx cy)
  hilbertNth (n * n) n cx cy 0 r

/-- The dimensions of a group of n from lo on, innermost first (R225). -/
def groupOrder (b : List Byte) (ord lo n : Nat) : List Nat :=
  let row := (List.range n).map (lo + ·)
  match ord with
  | 1 => match row with
    | a :: c :: r => c :: a :: r
    | r => r
  | 3 => (List.range n).map fun l => xMap b (lo + l)
  | _ => row

/-- The digits of q in the mixed radix of the dimensions' counts, and what is left. -/
def digits (cs : List Nat) : List Nat → Nat → FMap Nat × Nat
  | [], q => ([], q)
  | d :: ds, q =>
    let n := max 1 (cs[d]?.getD 1)
    let r := digits cs ds (q / n)
    (fset r.1 d (q % n), r.2)

/-- The indices of point q of the walk, by dimension (R225 to R227); a transposed walk takes D0 innermost. -/
def pointOf (b : List Byte) (cs : List Nat) (xpose : Bool) (q : Nat) : List Nat :=
  let t := xTdims b
  let tile0 := groupOrder b (xIorder b) 0 t
  let tile := if xpose then 0 :: tile0.filter (· ≠ 0) else tile0
  let (ti, q1) := digits cs tile q
  let outer := groupOrder b (xOorder b) t (6 - t)
  let all := if xOorder b = 2 then
      let cx := max 1 (cs[t]?.getD 1)
      let cy := max 1 (cs[t + 1]?.getD 1)
      let p := hilbertPair cx cy (q1 % (cx * cy))
      fset (fset (ti ++ (digits cs (outer.drop 2) (q1 / (cx * cy))).1) t p.1) (t + 1) p.2
    else ti ++ (digits cs outer q1).1
  (List.range 6).map fun d => ((all.find? fun e => e.1 == d).map (·.2)).getD 0

/-! Addresses (R222, R227). -/

/-- The base of the memory side: a virtual address, or an offset at a destination or a pull source. -/
def memBase (b raw : List Byte) : Nat := if 2 ≤ skDir raw || xPull b then skMem raw % 2 ^ 20 else skMem raw

/-- Σ i_d × stride_d. -/
def strideSum (f : Nat → Int) (ix : List Nat) : Int := ((List.range 6).map fun d => f d * (ix[d]?.getD 0 : Nat)).foldl (· + ·) 0

/-- The memory-side address of the first byte of point q. -/
def runMem (st : Stream) (q : Nat) : Int :=
  memBase st.cbytes st.raw + strideSum (xMs st.cbytes) (pointOf st.cbytes st.counts (skXpose st.raw) q)

/-- The scratchpad offset of the first byte of point q, strided. -/
def runSp (st : Stream) (q : Nat) : Int :=
  skSp st.raw + strideSum (xSs st.cbytes) (pointOf st.cbytes st.counts (skXpose st.raw) q)

/-- A stream that delivers into its own core (R229, item 5). -/
def deliversOwn (st : Stream) : Bool := skDir st.raw = 0 && !skMcast st.raw

/-- The stream transposes whole blocks as their bytes come from memory (R228). -/
def blockwise (st : Stream) : Bool := skXpose st.raw && skDir st.raw = 0

/-- The bytes of a transposed block. -/
def blockLen (st : Stream) : Nat := 32 * max 1 (xRun st.cbytes)

/-- The position of the first byte of the block that holds position p. -/
def blockFirst (st : Stream) (p : Nat) : Nat := p / blockLen st * blockLen st

/-- Byte p of the walk: its memory-side address, its scratchpad offset, and how many bytes from it on are contiguous on both sides. A transposed block is walked in the order of its rows in memory: read for DIR 0, written for DIR 1. -/
def pieceAt (st : Stream) (p : Nat) : Int × Int × Nat :=
  let b := st.cbytes
  let run := xRun b
  let q := p / run
  let o := p % run
  if skXpose st.raw then
    let e := xElem b
    let c := q % 32
    let q0 := q - c
    let i := o / e
    if skDir st.raw = 1 then
      (runMem st q0 + xMs b 0 * c + o, runSp st (q0 + i) + c * e + o % e, e - o % e)
    else (runMem st q + o, runSp st q0, run - o)
  else if xPacked b then
    let ring := xRing b * 1024
    (runMem st q + o, skSp st.raw + ((p % ring : Nat) : Int), min (run - o) (ring - p % ring))
  else (runMem st q + o, runSp st q + o, run - o)

/-- The destination runs of the transposed block whose first point is q0: offset and length (R227). -/
def blockRuns (st : Stream) (q0 : Nat) : List (Int × Nat) :=
  (List.range 32).map fun (c : Nat) => (runSp st q0 + xSs st.cbytes 0 * (c : Int), xRun st.cbytes)

/-- The slots of a run at a possibly illegal offset. -/
def slotsOfInt (o : Int) (n : Nat) : List Nat := if o < 0 then [] else (slotsOf o.toNat n).filter (· < 768)

/-- The destination slots that a walk of its own core needs at byte p: the slot of the byte, or those of its block. -/
def slotsAt (st : Stream) (p : Nat) : List Nat :=
  if st.total ≤ p then []
  else if blockwise st then dedup ((blockRuns st (blockFirst st p / xRun st.cbytes)).flatMap fun r => slotsOfInt r.1 r.2)
  else slotsOfInt (pieceAt st p).2.1 1

/-- The slots of an arrival stream's visit at byte p, on the destination side (R231). -/
def remoteSlotAt (st : Stream) (p : Nat) : Nat :=
  let (m, sp, _) := pieceAt st p
  (if skDir st.raw = 0 then sp else m).toNat / 1024

/-- The destination slots of run q, in the order of its bytes (R222): a packed run goes round its ring. -/
def runSlots (st : Stream) (q : Nat) : List Nat :=
  let run := xRun st.cbytes
  if xPacked st.cbytes then
    let ring := xRing st.cbytes * 1024
    let p := q * run % ring
    if ring ≤ run then slotsOfInt (skSp st.raw + (p : Int)) (ring - p) ++ slotsOfInt (skSp st.raw) p
    else if p + run ≤ ring then slotsOfInt (skSp st.raw + (p : Int)) run
    else slotsOfInt (skSp st.raw + (p : Int)) (ring - p) ++ slotsOfInt (skSp st.raw) (p + run - ring)
  else slotsOfInt (runSp st q) run

/-- The first r distinct destination slots in walk order (R229, item 5): run q on, those found so far. -/
def firstSlots (st : Stream) (r : Nat) : Nat → Nat → List Nat → List Nat
  | 0, _, acc => acc
  | f + 1, q, acc =>
    if r ≤ acc.length || st.total ≤ q * xRun st.cbytes then acc
    else if blockwise st then firstSlots st r f (q + 32) (dedup (acc ++ slotsAt st (q * xRun st.cbytes)))
    else firstSlots st r f (q + 1) (dedup (acc ++ runSlots st q))

/-- The destination slots of the first run with every index 0, on the side that the stream writes (R224); of a transposed one, those of its elements. -/
def nullRunSlots (st : Stream) : List Nat :=
  if skDir st.raw = 1 then []
  else if 2 ≤ skDir st.raw then slotsOfInt (runMem st 0) (xRun st.cbytes)
  else if skXpose st.raw then
    dedup ((List.range 32).flatMap fun (c : Nat) => slotsOfInt (runSp st 0 + xSs st.cbytes 0 * (c : Int)) (xElem st.cbytes))
  else dedup (runSlots st 0)

/-- The slots from the lowest to the highest source offset of the walk (R229, item 3). -/
def sourceSlots (st : Stream) : List Nat :=
  let b := st.cbytes
  let run := xRun b
  let (lo, hi) : Int × Int := if xPacked b then
      ((skSp st.raw : Int), (skSp st.raw : Int) + (min (max run st.total) (xRing b * 1024) : Nat) - 1)
    else
      let spans := (List.range 6).map fun d => xSs b d * ((max 1 (st.counts[d]?.getD 1) - 1 : Nat) : Int)
      ((skSp st.raw : Int) + (spans.map fun v => min v 0).foldl (· + ·) 0,
       (skSp st.raw : Int) + (spans.map fun v => max v 0).foldl (· + ·) 0 + run - 1)
  (List.range 768).filter fun (n : Nat) => lo / 1024 ≤ (n : Int) && (n : Int) ≤ hi / 1024

/-- Bytes 0x60 to 0x7B of a stream's context: its saved indices and byte position, its state and its code (R220). -/
def stateBytes (st : Stream) (state code : Nat) : List Byte :=
  let run := xRun st.cbytes
  let p := if st.total = 0 then (0, 0) else if st.total ≤ st.pos then ((st.total - 1) / run, run) else (st.pos / run, st.pos % run)
  let ix := pointOf st.cbytes st.counts (skXpose st.raw) p.1
  (ix.flatMap fun i => natLe 3 i) ++ natLe 3 p.2 ++ natLe 1 state ++ natLe 1 code ++ natLe 5 0

end Sys2Proof.Machine
end

