-- ==== Sys2Proof/Machine/Skidder.lean ====
section
/-! DEFINITION. The streams of a core and the issue of SKSTREAM (R221, R223, R224, R229, R245, R248). -/

namespace Sys2Proof.Machine

/-- k with f applied to its skidder. -/
def modSkd (k : Core) (f : Skd → Skd) : Core := { k with skd := f k.skd }

/-- The in-flight stream of a context. -/
def findStream (k : Core) (ctx : Nat) : Option Stream := k.skd.streams.find? fun st => st.ctx == ctx

/-- k with stream st in place of the one of its context. -/
def putStream (k : Core) (st : Stream) : Core :=
  modSkd k fun d => { d with streams := d.streams.map fun x => if x.ctx == st.ctx then st else x }

/-- k without the stream of a context. -/
def dropStream (k : Core) (ctx : Nat) : Core := modSkd k fun d => { d with streams := d.streams.filter fun x => x.ctx != ctx }

/-- Clears BACKED on every slot whose backing record names the context (R244, R245). -/
def clearBacking (k : Core) (ctx : Nat) : Core :=
  modSpd k fun d => { d with tags := d.tags.map fun e => if e.2.backed && e.2.backCtx == ctx then (e.1, { e.2 with backed := false }) else e }

/-- Target entry m as core c reads it: none with VALID = 0 (R259, R260). -/
def readTarget (s : State) (c m : Nat) : Option Target :=
  let k := getCore s c
  let d := kReg k 7 (0x444 + 12 * m)
  if d.testBit 31 then
    some { ok := match ownerOf s c with
             | some t => tenRemoteOk s t
             | none => false,
           chip := word (kReg k 7 (0x440 + 12 * m)), core := fld d 0 11, win := fld d 22 6, port := fld d 28 3, epoch := kReg k 7 (0x448 + 12 * m) }
  else none

/-- The index of the target entry that a stream names, for DIR 3 and for a pull through a window (R259, R261). -/
def targetIdx (cbytes raw : List Byte) : Option Nat :=
  if skDir raw = 3 then some (skWindow raw)
  else if xPull cbytes && (xPullCore cbytes).testBit 15 then some (xPullCore cbytes % 64)
  else none

/-- The target entry of a stream as it stands (R259). -/
def targetOf (s : State) (c : Nat) (cbytes raw : List Byte) : Option Target := (targetIdx cbytes raw).bind (readTarget s c)

/-- The stream that a descriptor starts: its effective counts (R223). -/
def newStream (raw cbytes : List Byte) (group : List Nat) (ext : Option Nat) : Stream :=
  let cs := (List.range 6).map fun d => if skSel raw = d then ext.getD (xCount cbytes d) else xCount cbytes d
  { ctx := skCtx raw, raw := raw, cbytes := cbytes, group := group, counts := cs, total := (cs.foldl (· * ·) 1) * xRun cbytes, pos := 0 }

/-- An SKSTREAM ahead of its issue window: the stream it would start, the first check of R182 that fails, in their order, and whether its descriptor, its context and its group are legal, so that its walk is defined. -/
structure SkPlan where
  st : Stream
  bad : Option Fail
  walks : Bool
  deriving DecidableEq, Repr

/-- The checks of an SKSTREAM in its issue window (R149, R182, R221, R223, R227, R234, R248, R458). -/
def skPlan (k : Core) (loops : List LoopFrame) (raw : List Byte) (e : Fetched) : SkPlan :=
  let cb := e.ctx.getD []
  let gb := e.group.getD []
  let x := leAt raw 0x24 2
  let sel := skSel raw ≠ 7
  let ext := if sel then some (extValue k loops x) else none
  let st := newStream raw cb (if skMcast raw then groupMembers gb else []) ext
  let legal := skLegal raw && (!sel || extLegal x)
  let known := ctxLegal cb raw && (!skMcast raw || groupLegal gb) && (!skXpose raw || skSel raw ≠ 0 || ext = some 0 || ext = some 32)
  { st := st, walks := legal && known,
    bad := firstFail [(!legal, eDESC_CRC), (beyondTables k raw, eCONTEXT_EXHAUSTED), (!known, eDESC_CRC),
                      (sel && !extNested loops x, eLOOP_NEST), (sel && !extPlanned k x, eSHAPE_OVER),
                      (sel && xCount cb (skSel raw) < ext.getD 0, eSHAPE_OVER), (!(trecRegion raw).all inSpd, eSHAPE_OVER)] }

/-- The cores of this chip into which a stream delivers, its own among them, a loopback through a window too (R229, item 2, R259). -/
def deliveryCores (s : State) (c : Nat) (st : Stream) : List Nat :=
  if deliversOwn st then [c]
  else if skDir st.raw = 3 then ((st.target.filter fun t => t.chip = torusHere s).map (·.core)).toList
  else streamDests st

/-- Two streams use the same window (R229, item 2): one target entry, or two that name one window. -/
def sameWindow (a b : Stream) : Bool :=
  match targetIdx a.cbytes a.raw, targetIdx b.cbytes b.raw with
  | some i, some j => i = j || match a.target, b.target with
    | some t, some u => t.chip = u.chip && t.core = u.core && t.win = u.win
    | _, _ => false
  | _, _ => false

/-- R229, items 1 and 2: the context is free, no other stream delivers to the same place. -/
def streamFree (s : State) (c : Nat) (st : Stream) : Bool :=
  let k := getCore s c
  (k.skq.flights.all fun f => opOf f.raw ≠ 0x30 || skCtx f.raw ≠ st.ctx) &&
  (k.skd.streams.all fun o => (streamDests st).all fun d => !(deliveryCores s c o).contains d) &&
  (skDir st.raw ≠ 3 || k.skd.streams.all fun o => !sameWindow st o)

/-- The destination slots that a stream takes at its issue: those of item 5 of R229, or of its first run for a null completion (R224). -/
def takenAtIssue (k : Core) (st : Stream) : List Nat :=
  if !deliversOwn st then []
  else
    let r := max 1 (skMin st.raw)
    taggedOf k (if st.total = 0 then nullRunSlots st else (firstSlots st r (min (st.total / xRun st.cbytes) 786432) 0 []).take r)

/-- The stream, or its tally record, would write a slot that is locked for a staged image (R393). -/
def streamLocked (k : Core) (raw : List Byte) (st : Stream) : Bool :=
  k.spd.lock ≠ [] && (writesLocked k (trecRegion raw) ||
    (deliversOwn st && (firstSlots st 768 (min (st.total / xRun st.cbytes) 786432) 0 []).any (lockedSlot k)))

/-- The tagged slots that an SKSTREAM asks for before its window opens (R229, items 3 to 5): source, gate, destination, tally. Where its walk is not defined, its tally slot alone (DEDUCED, log entry 167). -/
structure SkSlots where
  src : List Nat
  gate : List Nat
  takes : List Nat
  tally : List Nat
  deriving DecidableEq, Repr

/-- Those slots. -/
def skSlots (k : Core) (p : SkPlan) : SkSlots :=
  let st := p.st
  let tally := taggedOf k (slotsOfAll (trecRegion st.raw))
  if !p.walks then { src := [], gate := [], takes := [], tally := tally }
  else
    { src := if skDir st.raw = 0 then [] else taggedOf k (sourceSlots st),
      gate := if xGate st.cbytes then taggedOf k [xGateOff st.cbytes / 1024] else [],
      takes := takenAtIssue k st, tally := tally }

/-- Every tagged slot that is read and the tally record lie in segments that are up (R211): a slot in one that is off would never become FULL. -/
def skSegsUp (k : Core) (raw : List Byte) (u : SkSlots) : Bool :=
  (u.src ++ u.gate).all (fun n => segUp k (n / 64)) && !touchesOff k (trecRegion raw)

/-- What fails in the issue window of an SKSTREAM whose slots are ready (R182, R191, R393). -/
def skFail (k : Core) (p : SkPlan) (both : List Nat) : Option Fail :=
  if both ≠ [] then some { code := eDESC_CRC }
  else match p.bad with
    | some e => some { e with page := failPage .skq e.code }
    | none => if streamLocked k p.st.raw p.st then some { code := eTAG_PROTOCOL, page := 5 } else none

/-- The window of an SKSTREAM opens in cycle t: its context is rewritten (R245), its slots are taken and pinned (R229), and its stream starts unless a check fails. -/
def startStream (s : State) (c : Nat) (p : SkPlan) (u : SkSlots) (both : List Nat) (cons : List Nat) (k : Core) (t : Nat) : Core × Flight :=
  let fail := skFail k p both
  let st := p.st
  let rest := fun l : List Nat => l.filter fun n => !both.contains n
  let reads := rest (dedup (u.src ++ u.gate))
  let tally := rest u.tally
  let takes := rest u.takes
  let null := st.total = 0 && fail.isNone
  let k1 := pin (takeSlots (if p.walks then clearBacking k st.ctx else k) .skq (dedup (takes ++ tally))) reads
  let f : Flight := { idx := 0, raw := st.raw, ctx := st.cbytes, pins := reads, held := tally ++ (if fail.isSome then takes else []), consume := cons,
                      ocnt := ocntOf st.raw, tally := trecOf st.raw, null := null, ends := t + 8 }
  match fail with
  | some e => (k1, { f with work := .failed e.code e.detail e.page })
  | none =>
    (modSkd k1 fun d => { d with issued := d.issued + 1, streams := d.streams ++
      [{ st with target := targetOf s c st.cbytes st.raw, order := d.issued, opened := t, held := takes, null := null,
                 nullMarks := if null && !deliversOwn st then nullRunSlots st else [] }] }, f)

/-- Opens the window of an SKSTREAM where R162, R211 and R229 let it; where its slots are not ready, it waits. -/
def issueStream (s : State) (c : Nat) (e : Fetched) (p : SkPlan) : State :=
  let k := getCore s c
  let u := skSlots k p
  let both := (dedup (u.src ++ u.gate)).filter fun n => u.takes.contains n || u.tally.contains n
  let rest := fun l : List Nat => l.filter fun n => !both.contains n
  let reads := rest (dedup (u.src ++ u.gate))
  let outs := rest (dedup (u.takes ++ u.tally))
  if !skSegsUp k p.st.raw u then openHead s c .skq e false 0 fun k _ => (if p.walks then clearBacking k p.st.ctx else k, deadFlight p.st.raw { code := eSEGMENT_OFF, page := 5 })
  else if !semsReady k .skq e || (p.walks && !streamFree s c { p.st with target := targetOf s c p.st.cbytes p.st.raw }) then s
  else if !(reads.all (mayRead k)) || !(outs.all (mayTake k)) then
    modCore s c fun k => waitForSlots k .skq (reads.map (·, 0) ++ outs.map (·, 1)) s.now
  else
    let cons := (if skCsrc p.st.raw then u.src else []) ++ (if xGateCons p.st.cbytes then u.gate else [])
    openHead s c .skq e true 0 (startStream s c p u both (if flagOf e.raw 6 && !lastIter k.skq.loops then [] else dedup cons))

/-- SKSTREAM (R149, R216 to R235): its issue window. -/
def execSkstream (c : CoreId) (s : State) : Out1 :=
  .next (match readyHead s c.val .skq with
    | none => s
    | some e =>
      if opOf e.raw ≠ 0x30 then s
      else
        let k := getCore s c.val
        issueStream s c.val e (skPlan k k.skq.loops (effective k.skq.loops k.skq.issue e.raw) e))

end Sys2Proof.Machine
end

