-- ==== Sys2Proof/Machine/Inject.lean ====
section
/-! DEFINITION. Translation (R240), the fetches and refetches of a core (R160, R245, R419), the injection shares (R216), the requests of streams (R222 to R231), their state bytes (R220). -/

namespace Sys2Proof.Machine

/-! Translation (R240). -/

/-- The cached translation of a virtual address. -/
def findTrans (k : Core) (va : Nat) : Option Trans :=
  k.skd.cache.find? fun t => if t.large then va / 2 ^ 21 = t.vpage else va / 65536 = t.vpage

/-- The physical address of a virtual one under a translation. -/
def transAddr (t : Trans) (va : Nat) : Nat :=
  let n := if t.large then 2 ^ 21 else 65536
  (t.pa - t.pa % n + va % n) % 2 ^ 48

/-- The ASID of the tenant that core c belongs to, or belonged to before its release (R56, R60). -/
def asidOf (s : State) (c : Nat) : Word := (getTenant s (getOwner s c).tenant.toNat).asid

/-- Asks the translation service for the page of va, unless it is asked already; SKD counter 11 counts the miss. -/
def askPage (s : State) (c va : Nat) (wr : Bool) : State :=
  let page := va / 65536
  let s1 := modCore s c fun k => kBump k 6 11
  if (getCore s c).skd.asked.contains page then s1
  else emit (modCore s1 c fun k => modSkd k fun d => { d with asked := d.asked ++ [page] }) (.lookup c (asidOf s c) va wr)

/-- The landing port's router at which traffic of core c for physical address pa ends (R31). -/
def landNode (c pa : Nat) : Node := .land (pa / 4096 % 16) (nearestRouter (pa / 4096 % 16) (coreXY c).2)

/-! The state bytes of contexts (R220). -/

/-- State bytes whose translation is known: they go to their yard, or are dropped where the page may not be written. -/
def sendSave (s : State) (c : Nat) (v : Save) (t : Trans) : State :=
  if t.writable then
    send s { id := 0, vc := 1, src := .core c, dst := landNode c (transAddr t v.va), route := [], kind := .yardWrite, core := c, ctx := 1025, seq := 0,
             addr := transAddr t v.va, len := v.data.length, data := v.data }
  else s

/-- The engine writes the state bytes of a stream's context (R220): through translation, with no delay to the stream. -/
def saveCtx (s : State) (c : Nat) (st : Stream) (state code : Nat) : State :=
  let k := getCore s c
  let v : Save := { va := (ctxAddr k st.ctx + 0x60) % 2 ^ 44, data := stateBytes st state code }
  match findTrans k v.va with
  | some t => sendSave s c v t
  | none => askPage (modCore s c fun k => modSkd k fun d => { d with saves := d.saves ++ [v] }) c v.va true

/-- The state bytes that waited for a page (R220): sent, or dropped where its translation failed. -/
def settleSaves (s : State) (c page : Nat) (t : Option Trans) : State :=
  let mine := (getCore s c).skd.saves.filter fun v => v.va / 65536 = page
  let s1 := modCore s c fun k => modSkd k fun d => { d with saves := d.saves.filter fun v => v.va / 65536 ≠ page }
  match t with
  | some t => mine.foldl (fun s v => sendSave s c v t) s1
  | none => s1

/-! Refetches (R204, R245, R419). -/

/-- The fetches of a refetch of slot n. -/
def refetchOf (k : Core) (n : Nat) : List Fetch :=
  k.skd.fetches.filter fun f => match f.kind with
    | .backCtx m => m = n
    | .run m _ => m = n
    | _ => false

/-- The context of a refetch: not there yet, or its bytes where they could be read and their CRC holds. -/
def refetchCtx (k : Core) (n : Nat) : Option (Option (List Byte)) :=
  match (refetchOf k n).find? fun f => f.kind = .backCtx n with
  | some f =>
    match f.stage with
    | .here d => some (if ctxLegal d (tagOf k n).backRaw then some d else none)
    | .faulted _ => some none
    | _ => none
  | none => none

/-- The stream that a refetch replays: the descriptor and the counts of the backing record, the context as read again. -/
def backStream (t : Tag) (cb : List Byte) : Stream :=
  { ctx := t.backCtx, raw := t.backRaw, cbytes := cb, group := [], counts := t.backCounts, total := (t.backCounts.foldl (· * ·) 1) * xRun cb, pos := t.backPos }

/-- Bytes from an address to the end of its 256-byte line. -/
def lineRest (a : Nat) : Nat := 256 - a % 256

/-- The first walk position that a refetch has not asked for. -/
def refetchPos (k : Core) (n : Nat) : Nat :=
  (refetchOf k n).foldl (fun p f => match f.kind with
    | .run _ o => max p (o + f.len)
    | _ => p) (tagOf k n).backPos

/-- The request that a refetch makes at walk position p: the virtual address and the length. -/
def refetchPiece (t : Tag) (st : Stream) (p : Nat) : Nat × Nat :=
  let (m, sp, rest) := pieceAt st p
  let va := wrapN 44 m
  let n := min (min rest (t.backEnd - p)) (lineRest va)
  (va, if blockwise st then n else min n (1024 - sp.toNat % 1024))

/-- What the refetch of slot n asks memory for next, with its address and length. -/
def refetchWant (k : Core) (n : Nat) : Option (FetchKind × Nat × Nat) :=
  let t := tagOf k n
  if (refetchOf k n).all fun f => f.kind ≠ .backCtx n then some (.backCtx n, ctxAddr k t.backCtx, 128)
  else match refetchCtx k n with
    | some (some cb) =>
      let p := refetchPos k n
      if t.backEnd ≤ p then none else some (.run n p, refetchPiece t (backStream t cb) p)
    | _ => none

/-! The bytes of retained images (R392, R396, R401). -/

/-- The physical address of byte off of the retained copy that SCB_IMGLO and SCB_IMGHI of handle h name (R407). -/
def retainedAt (k : Core) (h off : Nat) : Nat :=
  (kReg k 11 (0x48 + 8 * h) / 64 * 64 + fld (kReg k 11 (0x4C + 8 * h)) 0 16 * 2 ^ 32 + off) % 2 ^ 48

/-- Where the frame at a position of an image's body lies in the image, behind the header and an address table of n entries (R385, R386, R401). -/
def frameOff (n pos : Nat) : Nat := 256 + 64 * ceilDiv n 32 + 64 * pos

/-- The frame of the load that is to be fetched again, with its place in the image (R396). -/
def refetchFrame (l : Load) : Option (Nat × Nat) :=
  l.refetch.bind fun f => (l.pend.find? fun p => p.frame = f).map fun p => (f, frameOff (leAt l.hdr 0x24 2) p.pos)

/-- What the image load and the repair of a core ask for next: the rest of the image up to the end of a 256-byte line, a frame that has not been asked for (log entry 201). -/
def imageWants (k : Core) : List (QueueId × FetchKind × Nat × Nat) :=
  let asks := fun kind => k.skd.fetches.all fun f => f.kind ≠ kind
  let load := match k.grv.load with
    | some l =>
      let a := retainedAt k l.handle l.asked
      if l.phase = 1 && l.asked < l.len then [(.gvq, .image l.asked, a, min (l.len - l.asked) (lineRest a))]
      else ((refetchFrame l).toList.filter fun w => asks (.frame w.1)).map fun w => (.gvq, .frame w.1, retainedAt k l.handle w.2, 64)
    | none => []
  let repair := match k.grv.repair with
    | some r =>
      let g := fget k.grv.sigs r.frame {}
      let n := (fget k.grv.images g.handle { key := 0, iv := [], nframes := 0 }).nframes
      if g.kind = 1 && asks (.repair r.frame r.since) then [(.gvq, .repair r.frame r.since, retainedAt k g.handle (frameOff n g.pos), 64)] else []
    | none => []
  load ++ repair

/-- A fetch reads a retained image, by its physical address. -/
def FetchKind.ofImage : FetchKind → Bool
  | .image _ | .frame _ | .repair _ _ => true
  | _ => false

/-! The fetches of a core (R160, R216). -/

/-- What a core's queues, its refetches, its image load and its repair ask for and have not requested yet: a queue has one fetch under way (log entry 174). -/
def newWants (k : Core) : List (QueueId × FetchKind × Nat × Nat) :=
  (allQ.filterMap fun q =>
    if k.skd.fetches.any fun f => f.q == q && f.kind.ofQueue then none
    else (nextWant k q).map fun w => (q, w, wantAddr k q w)) ++
  (k.skd.refetch.filterMap fun n => (refetchWant k n).map fun w => (.skq, w)) ++ imageWants k

/-! The next byte of a walk. -/

/-- What the next byte of a stream's walk, or the next fetch, calls for: nothing yet, a visit, a translation, a halt, the writes of a block, a request or flit of a share. -/
inductive Next where
  | idle
  | visit
  | lookup (va : Nat) (write : Bool)
  | halt (h : Halting)
  | load (ws : List (Nat × List Byte))
  | deliver (off : Nat) (data : List Byte)
  | go (share : Nat) (mem : Nat) (sp : Nat) (len : Nat)
  deriving DecidableEq, Repr

/-- The position at which a halt at the byte that the walk has reached is saved (R228, R241): a transposed block starts again at its first point. -/
def haltPos (st : Stream) : Nat := if skXpose st.raw then blockFirst st st.pos else st.pos

/-- A halt met at the byte that the walk has reached. -/
def haltAt (st : Stream) (code : Nat) : Next := .halt { code := code, pos := haltPos st }

/-- A halt for a virtual address that may not be read or written (R241, R249). -/
def faultAt (st : Stream) (va : Nat) : Halting :=
  { code := ePAGE_FAULT, pos := haltPos st, lo := word va, hi := word ((if skDir st.raw = 1 then 0x80000000 else 0) + va / 2 ^ 32) }

/-- The source pieces of n bytes of the walk from p on, each in one run of the scratchpad. -/
def sourcePieces (st : Stream) : Nat → Nat → Nat → List (Int × Nat)
  | 0, _, _ => []
  | f + 1, p, n =>
    if n = 0 then []
    else
      let (_, sp, rest) := pieceAt st p
      let m := min n rest
      (sp, m) :: sourcePieces st f (p + m) (n - m)

/-- The bytes of the scratchpad that the walk sends from p on (R222, R227). -/
def sourceBytes (k : Core) (st : Stream) (p n : Nat) : List Byte :=
  (sourcePieces st n p n).flatMap fun r => spdBytes k r.1.toNat r.2

/-- The check of a source piece: how many of its first bytes may be read, and the halt met after them (R205, R211, R222). -/
def checkSource (k : Core) (st : Stream) (sp : Int) (n : Nat) : Nat × Option Halting :=
  if sp < 0 || 0xC0000 ≤ sp then (0, some { code := eSHAPE_OVER, pos := haltPos st })
  else
    let o := sp.toNat
    if !segUp k (o / 65536) then (0, some { code := eSEGMENT_OFF, pos := haltPos st })
    else
      let m := min n (65536 - o % 65536)
      let k1 := flushRows k (o / 32) ((o + m - 1) / 32)
      match badWords k1 o m with
      | some w =>
        let good := w / 8 * 32 - o
        if 0 < good then (good, none) else (0, some { code := ePARITY, pos := haltPos st, detail := addrDetail w, bad := some w })
      | none => (m, none)

/-- The check of a source run that is read whole, piece by piece up to its end (R228). -/
def checkRun (k : Core) (st : Stream) : Nat → Int → Nat → Option Halting
  | 0, _, _ => none
  | f + 1, sp, n =>
    if n = 0 then none
    else match checkSource k st sp n with
      | (_, some h) => some h
      | (m, none) => checkRun k st f (sp + m) (n - m)

/-- The owner rule for another core of the chip (R56): a core number above 1199 or of another tenant halts the stream; a FELLED core answers for itself. -/
def foreign (s : State) (c d : Nat) : Bool := 1199 < d || (ownerOf s d ≠ ownerOf s c && !(getOwner s d).felled)

/-- A halt with E_TENANT for core d. -/
def tenantHalt (st : Stream) (d : Nat) : Next := .halt { code := eTENANT, pos := haltPos st, lo := word (d % 2048) }

/-- The target entry of a stream, as it was read, stops it (R56, R58, R260): not VALID, a remote chip without REMOTEOK, a core number above 1199, and for DIR 3 a core of this chip that another tenant owns. -/
def targetBad (s : State) (c : Nat) (st : Stream) : Bool :=
  match st.target with
  | none => true
  | some t => 1199 < t.core || (if t.chip = torusHere s then skDir st.raw = 3 && foreign s c t.core else !t.ok)

/-- The core number that a target entry names, for SKD_FAULTLO. -/
def targetCore (k : Core) (st : Stream) : Nat :=
  match st.target with
  | some t => t.core
  | none => fld (kReg k 7 (0x444 + 12 * (targetIdx st.cbytes st.raw).getD 0)) 0 11

/-- Read requests of a core under way (R218): those of its streams, its fetches and its refetches. -/
def readsOut (k : Core) : Nat :=
  (k.skd.streams.map fun st => (st.reqs.filter (·.read)).length).foldl (· + ·) 0 + (k.skd.fetches.filter fun f => f.stage = .sent).length

/-- A slot that the walk of its own core needs is not visited (R230). -/
def unvisited (k : Core) (st : Stream) : Option Nat :=
  (slotsAt st st.pos).find? fun n => !untagged k n && !st.loose.contains n && !(st.visits.any fun v => v.slot = n && !v.left)

/-- A transposed block that goes to the members of a group is being read or sent: the next one waits (R228). -/
def blockBusy (st : Stream) : Bool :=
  blockwise st && !deliversOwn st && (st.block ≠ [] || (st.pos % blockLen st = 0 && (st.xbuf ≠ [] || st.reqs.any (·.read))))

/-- The next byte of a DIR 0 walk. -/
def peekRead (s : State) (c : Nat) (st : Stream) : Next :=
  let k := getCore s c
  let (m, sp, rest) := pieceAt st st.pos
  let own := deliversOwn st
  let dsts : List (Int × Nat) := if blockwise st then blockRuns st (blockFirst st st.pos / xRun st.cbytes) else [(sp, 1)]
  let outOfRange := if own then dsts.any fun d => d.1 < 0 || 0xC0000 < d.1 + d.2 else dsts.any fun d => d.1 < 0 || 2 ^ 20 < d.1 + d.2
  let n0 := if blockwise st then rest else min rest (1024 - sp.toNat % 1024)
  if blockBusy st then .idle
  else if outOfRange then haltAt st eSHAPE_OVER
  else match (streamDests st).find? (foreign s c) with
  | some d => tenantHalt st d
  | none =>
    if own && dsts.any fun d => !segUp k (d.1.toNat / 65536) || !segUp k ((d.1.toNat + d.2 - 1) / 65536) then haltAt st eSEGMENT_OFF
    else if own && (slotsAt st st.pos).any (lockedSlot k) then haltAt st eTAG_PROTOCOL
    else if xPull st.cbytes then
      let remote := (xPullCore st.cbytes).testBit 15
      if remote && targetBad s c st then tenantHalt st (targetCore k st)
      else if !remote && foreign s c (xPullCore st.cbytes) then tenantHalt st (xPullCore st.cbytes)
      else if m < 0 || 2 ^ 20 ≤ m then haltAt st eSHAPE_OVER
      else if (unvisited k st).isSome then .visit
      else if 256 ≤ readsOut k then .idle
      else .go 0 m.toNat sp.toNat (min n0 (lineRest m.toNat))
    else
      let va := wrapN 44 m
      match findTrans k va with
      | none => if st.trans.isSome then .idle else .lookup va false
      | some t =>
        if own && (unvisited k st).isSome then .visit
        else if 256 ≤ readsOut k || (!own && 32 ≤ st.visits.length) then .idle
        else .go 0 (transAddr t va) sp.toNat (min n0 (lineRest va))

/-- Writes of bytes from an address on, within the lines that rest names, each with its bytes. -/
def splitWrites (rest : Nat → Nat) : Nat → Nat → List Byte → List (Nat × List Byte)
  | 0, _, _ => []
  | f + 1, a, bs => if bs = [] then [] else (a, bs.take (rest a)) :: splitWrites rest f (a + (bs.take (rest a)).length) (bs.drop (rest a))

/-- The rows of a transposed block at their virtual addresses, within their lines (R227): DIR 1. -/
def blockWrites (k : Core) (st : Stream) : List (Nat × List Byte) :=
  let run := xRun st.cbytes
  let q0 := st.pos / run
  (List.range 32).flatMap fun (c : Nat) =>
    let va := wrapN 44 (runMem st q0 + xMs st.cbytes 0 * (c : Int))
    splitWrites lineRest run va (sourceBytes k st (st.pos + c * run) run)

/-- The next byte of a transposing DIR 1 walk (R228): a write of the block in hand, or the next block, once all of its source can be read and all of its pages may be written. -/
def peekBlock (s : State) (c : Nat) (st : Stream) : Next :=
  let k := getCore s c
  let run := xRun st.cbytes
  match st.block with
  | (a, bs) :: _ => .go 1 a 0 bs.length
  | [] =>
    match (List.range 32).findSome? fun i => checkRun k st 3 (runSp st (st.pos / run + i)) run with
    | some h => .halt h
    | none =>
      let k1 := (List.range 32).foldl (fun k i => let o := (runSp st (st.pos / run + i)).toNat; flushRows k (o / 32) ((o + run - 1) / 32)) k
      let ws := blockWrites k1 st
      match ws.find? fun w => match findTrans k (w.1 % 2 ^ 44) with
        | some t => !t.writable
        | none => true with
      | none => .load (ws.map fun w => (((findTrans k (w.1 % 2 ^ 44)).map fun t => transAddr t (w.1 % 2 ^ 44)).getD 0, w.2))
      | some w =>
        let va := w.1 % 2 ^ 44
        if (findTrans k va).isSome then .halt (faultAt st va) else if st.trans.isSome then .idle else .lookup va true

/-- The next byte of a DIR 1, 2 or 3 walk. -/
def peekWrite (s : State) (c : Nat) (st : Stream) : Next :=
  let k := getCore s c
  let (m, sp, rest) := pieceAt st st.pos
  let dir := skDir st.raw
  match checkSource k st sp rest with
  | (_, some h) => .halt h
  | (n0, none) =>
    if dir = 1 then
      let va := wrapN 44 m
      match findTrans k va with
      | none => if st.trans.isSome then .idle else .lookup va true
      | some t => if t.writable then .go 1 (transAddr t va) sp.toNat (min n0 (lineRest va)) else .halt (faultAt st va)
    else if dir = 3 && targetBad s c st then tenantHalt st (targetCore k st)
    else match (streamDests st).find? (foreign s c) with
    | some d => tenantHalt st d
    | none =>
      if m < 0 || 2 ^ 20 ≤ m then haltAt st eSHAPE_OVER
      else if 32 ≤ st.visits.length then .idle
      else .go 2 m.toNat sp.toNat (min n0 (lineRest m.toNat))

/-- What a stream calls for next (R222 to R231); one that is halting, HALTED or aborted calls for nothing. -/
def peek (s : State) (c : Nat) (st : Stream) : Next :=
  if (st.st ≠ .run && st.st ≠ .waitslot) || st.halting.isSome then .idle
  else match skDir st.raw, st.block with
  | 0, (o, bs) :: _ => if 32 ≤ st.visits.length && !(st.visits.any fun v => v.slot = o / 1024 && !v.left) then .idle else .deliver o bs
  | 1, _ :: _ => peekBlock s c st
  | d, _ =>
    if st.total ≤ st.pos then .idle
    else if d = 0 then peekRead s c st
    else if d = 1 && skXpose st.raw then peekBlock s c st
    else peekWrite s c st

/-! The shares (R216). -/

/-- The bytes that a share holds. -/
def shareHolds (x : Shares) : Nat → Nat
  | 0 => x.read
  | 1 => x.write
  | _ => x.remote

/-- The context from which the rotation of a share goes on. -/
def shareNext (x : Shares) : Nat → Nat
  | 0 => x.lastR
  | 1 => x.lastW
  | _ => x.lastM

/-- The least context among l that is at least lo, else the least of all. -/
def nextCtx (l : List Nat) (lo : Nat) : Option Nat :=
  match (l.filter (lo ≤ ·)).min? with
  | some x => some x
  | none => l.min?

/-- The requester and share served next: the rotations of R216 over the requesters that are ready; the core's fetches stand as 1,024 behind the contexts. -/
def pickRequester (x : Shares) (acts : List (Nat × Next)) : Option (Nat × Nat) :=
  let ready := fun i => acts.filterMap fun a => match a.2 with
    | .go j _ _ n => if j = i && n ≤ shareHolds x i then some a.1 else none
    | _ => none
  ([x.share, (x.share + 1) % 3, (x.share + 2) % 3]).findSome? fun i => (nextCtx (ready i) (shareNext x i)).map fun ctx => (i, ctx)

/-- The length of the READ request that waits for its share alone (R250, counter 15). -/
def starvedBy (x : Shares) (acts : List (Nat × Next)) : Option Nat :=
  let wants := acts.filterMap fun a => match a.2 with
    | .go 0 _ _ n => some n
    | _ => none
  if wants.any (· ≤ x.read) then none else wants.min?

/-! Fetches go out. -/

/-- What a fetch calls for: its request, or its translation; an image's address is physical (R407). -/
def fetchNext (k : Core) (f : Fetch) : Next :=
  let va := f.va % 2 ^ 44
  if f.kind.ofImage then (if 256 ≤ readsOut k then .idle else .go 0 f.va 0 f.len)
  else match findTrans k va with
  | some t => if 256 ≤ readsOut k then .idle else .go 0 (transAddr t va) 0 f.len
  | none => if k.skd.asked.contains (va / 65536) && k.skd.fetches.any (fun g => g.n = f.n) then .idle else .lookup va false

/-- The fetches that can make their next move: those that have waited for a translation, then the new ones; on a core that is not ACTIVE those of images alone (R403, R440). -/
def fetchCands (k : Core) : List (Fetch × Next) :=
  let olds := k.skd.fetches.filter fun f => f.stage = .asked
  let news : List Fetch := (newWants k).map fun w => { n := k.skd.nextFetch, q := w.1, kind := w.2.1, va := w.2.2.1, len := w.2.2.2, stage := .asked }
  (((olds ++ news).filter fun f => k.pwr.st = .active || f.kind.ofImage).map fun f => (f, fetchNext k f)).filter fun a => a.2 ≠ .idle

/-- k with fetch f recorded. -/
def putFetch (k : Core) (f : Fetch) : Core :=
  modSkd k fun d =>
    if d.fetches.any fun g => g.n = f.n then { d with fetches := d.fetches.map fun g => if g.n = f.n then f else g }
    else { d with fetches := d.fetches ++ [f], nextFetch := d.nextFetch + 1 }

/-- A fetch brought the ciphertext of a frame to be repaired. -/
def Fetch.repairs (f : Fetch) : Bool := match f.kind, f.stage with
  | .repair _ _, .sent => false
  | .repair _ _, _ => true
  | _, _ => false

/-- The load of a core has asked for its image up to the end of fetch f; what an earlier repair fetched goes. -/
def askedImage (k : Core) (f : Fetch) : Core :=
  match f.kind with
  | .image off => { k with grv := { k.grv with load := k.grv.load.map fun l => { l with asked := off + f.len } } }
  | .repair _ _ => modSkd k fun d => { d with fetches := d.fetches.filter fun g => !g.repairs }
  | _ => k

/-- A fetch's request goes out (R216, R217, R250). -/
def sendFetch (s : State) (c : Nat) (f : Fetch) (pa : Nat) : State :=
  let s1 := modCore s c fun k =>
    noteBusy (kBump (modSkd (putFetch (askedImage k f) { f with stage := .sent }) fun d => { d with shares := shareServe (accrue d.shares s.now) 0 1024 f.len, lastOut := some s.now }) 6 1) s.now
  send s1 { id := 0, vc := 0, src := .core c, dst := landNode c pa, route := [], kind := .readReq, core := c, ctx := 1024, seq := f.n, addr := pa, len := f.len }

/-! Requests and flits go out. -/

/-- The header of a VC2 flit of core c (R253). -/
def remoteHdr (s : State) (c : Nat) (t : Target) (kind off len seq ctx : Nat) (start fin : Bool) (ocnt : Nat) : RemoteHdr :=
  { kind := BitVec.ofNat 4 kind, srcChip := torusHere s, dstChip := t.chip, srcCore := BitVec.ofNat 11 c, dstCore := BitVec.ofNat 11 t.core,
    window := Fin.ofNat 64 t.win, epoch := BitVec.ofNat 16 t.epoch, tenant := BitVec.ofNat 8 ((ownerOf s c).getD 0),
    offset := BitVec.ofNat 20 off, len := BitVec.ofNat 9 len, slotStart := start, slotEnd := fin, ocnt := BitVec.ofNat 4 ocnt,
    fwdLeft := 0#2, ctx := BitVec.ofNat 10 ctx, seq := BitVec.ofNat 16 seq, code := 0#8 }

/-- Sends a flit through a target entry: over the torus port it names, or over the mesh to a core of this chip (R259). -/
def sendRemote (s : State) (c : Nat) (st : Stream) (t : Target) (kind : FlitKind) (h : RemoteHdr) (data : List Byte) : State :=
  send s { id := 0, vc := 2, src := .core c, dst := if t.chip = torusHere s then .core t.core else .torus t.port, route := [], kind := kind,
           core := c, ctx := st.ctx, seq := st.nextSeq, off := h.offset.toNat, len := h.len.toNat, data := data, hdr := some h }

/-- Sends one on-chip arrival or marker to its core, or to every member of its group as one multicast flit (R231, R235). -/
def sendArrivals (s : State) (c : Nat) (st : Stream) (kind : FlitKind) (off : Nat) (data : List Byte) (start : Bool) : State :=
  let f : Flit := { id := 0, vc := 1, src := .core c, dst := .core c, route := [], kind := kind, core := c, ctx := st.ctx, seq := st.nextSeq,
                    off := off, len := data.length, data := data, start := start, ocnt := ocntOf st.raw }
  match st.group with
  | [] => (streamDests st).foldl (fun s d => send s { f with dst := .core d }) s
  | ms => sendTree s f ms

/-- The visits of a stream that sends bytes p to p1 of its walk to a slot, the slot after it being next, and whether this write opens one (R231). -/
def touchVisit (st : Stream) (slot : Nat) (next : Option Nat) (p p1 : Nat) : List Visit × Bool :=
  let left := next ≠ some slot
  if st.visits.any fun v => v.slot = slot && !v.left then
    (st.visits.map fun v => if v.slot = slot && !v.left then { v with upto := p1, left := left } else v, false)
  else (st.visits ++ [{ slot := slot, first := p, upto := p1, left := left }], true)

/-- The visits of an arrival stream when it sends n bytes, and whether the write opens one (R231). -/
def stepVisits (st : Stream) (n : Nat) : List Visit × Bool :=
  let p1 := st.pos + n
  touchVisit st (remoteSlotAt st st.pos) (if st.total ≤ p1 then none else some (remoteSlotAt st p1)) st.pos p1

/-- The visits of a walk of its own core when n bytes are requested (R230). -/
def coverVisits (st : Stream) (n : Nat) : List Visit :=
  let p1 := st.pos + n
  let here := slotsAt st p1
  st.visits.map fun v => if v.left then v else { v with upto := p1, left := !here.contains v.slot }

/-- The writes or acknowledgements that one request of a stream waits for. -/
def answersOf (st : Stream) : Nat := if skDir st.raw = 3 then 1 else max 1 (streamDests st).length

/-- The visits of a stream after its next request, and the SLOTSTART flag of that one: an arrival stream opens visits, one into its own core covers them, DIR 1 and a block that is read first have none (R230, R231). -/
def visitsAfter (st : Stream) (n : Nat) : List Visit × Bool :=
  if skDir st.raw = 1 || (blockwise st && !deliversOwn st) then (st.visits, false)
  else if deliversOwn st then (coverVisits st n, false)
  else stepVisits st n

/-- The data of a stream's next request: none for a read, the head of the block in hand, or source bytes with the gather entries of their rows written first (R206). -/
def outData (k : Core) (st : Stream) (n : Nat) : Core × List Byte :=
  if skDir st.raw = 0 then (k, [])
  else match st.block with
    | (_, bs) :: _ => (k, bs)
    | [] =>
      let k1 := (sourcePieces st n st.pos n).foldl (fun k r => flushRows k (r.1.toNat / 32) ((r.1.toNat + r.2 - 1) / 32)) k
      (k1, sourceBytes k1 st st.pos n)

/-- The stream after its next request of n bytes: its position, its visits, the request under way. A write of a block in hand counts from the block's first byte, since its bytes are not contiguous in the walk. -/
def streamSent (st : Stream) (sp mem n : Nat) : Stream :=
  let dir := skDir st.raw
  let inBlock := st.block ≠ []
  let slot := if dir ≤ 1 then sp / 1024 else mem / 1024
  { st with pos := if inBlock then st.pos else st.pos + n, st := .run, visits := (visitsAfter st n).1, block := st.block.drop 1, nextSeq := st.nextSeq + 1,
            reqs := st.reqs ++ [{ seq := st.nextSeq, pos := if inBlock then st.pos - blockLen st else st.pos, len := if inBlock then blockLen st else n, slot := slot,
                                  waiting := if blockwise st then 1 else answersOf st, marker := false, read := dir = 0 }] }

/-- A stream's next request or flit goes out (R216, R217). -/
def injectGo (s : State) (c : Nat) (st : Stream) (i mem sp n : Nat) : State :=
  let start := (visitsAfter st n).2
  let (k1, data) := outData (getCore s c) st n
  let k2 := kBump (modSkd (putStream k1 (streamSent st sp mem n)) fun d => { d with shares := shareServe (accrue d.shares s.now) i st.ctx n, lastOut := some s.now }) 6 (i + 1)
  let s1 := putCore s c (noteBusy k2 s.now)
  let base : Flit := { id := 0, vc := 0, src := .core c, dst := landNode c mem, route := [], kind := .readReq, core := c, ctx := st.ctx, seq := st.nextSeq,
                       addr := mem, off := sp, len := n, data := data, start := start, hint := xHint st.cbytes, group := if blockwise st then [] else st.group }
  match skDir st.raw with
  | 0 =>
    if xPull st.cbytes then
      match st.target with
      | some t => sendRemote s1 c st t .pullReq (remoteHdr s c t 2 mem n st.nextSeq st.ctx false false 0) []
      | none => send s1 { base with kind := .pullReq, dst := .core (xPullCore st.cbytes), addr := mem, off := mem }
    else send s1 base
  | 1 => send s1 { base with vc := 1, kind := .yardWrite }
  | 2 => sendArrivals s1 c st .arrival mem data start
  | _ =>
    match st.target with
    | some t => sendRemote s1 c st t .arrival (remoteHdr s c t 0 mem n st.nextSeq st.ctx start false 0) data
    | none => s1

/-- A write of a transposed block goes to the members of its group (R228, R231): debited when the block was read. -/
def injectBlock (s : State) (c : Nat) (st : Stream) (off : Nat) (data : List Byte) : State :=
  let p := st.pos - blockLen st
  let next := match st.block.drop 1 with
    | (o, _) :: _ => some (o / 1024)
    | [] => if st.total ≤ st.pos then none else some ((runSp st (st.pos / xRun st.cbytes)).toNat / 1024)
  let (vs, start) := touchVisit st (off / 1024) next p st.pos
  let st1 := { st with visits := vs, block := st.block.drop 1, nextSeq := st.nextSeq + 1,
                       reqs := st.reqs ++ [{ seq := st.nextSeq, pos := p, len := blockLen st, slot := off / 1024, waiting := answersOf st, marker := false }] }
  sendArrivals (modCore s c fun k => noteBusy (modSkd (putStream k st1) fun d => { d with lastOut := some s.now }) s.now) c st .arrival off data start

/-- SPD_ERRADDR and PAGE_ERR of the SPD page for a parity error that a stream meets (R205); the record is the halt's (R241). -/
def spdParity (s : State) (c w : Nat) : State :=
  let k := getCore s c
  let (p, ev) := pageErr (kPage k 5) ePARITY 1 0
  let s1 := putCore s c (kBump (errAddr (modKPage k 5 fun _ => p) w) 5 3)
  if ev then evSet s1 evCORE else s1

/-- A stream meets a halt (R241); its walk stops there. -/
def meetHalt (s : State) (c : Nat) (st : Stream) (h : Halting) : State :=
  let s1 := modCore s c fun k => putStream k { st with halting := some h, st := .run }
  match h.bad with
  | some w => spdParity s1 c w
  | none => s1

/-- What comes before any share is served: a translation, a halt, a block read from the scratchpad or sent to its group. -/
def Next.first : Next → Bool
  | .lookup .. => true
  | .halt _ => true
  | .load _ => true
  | .deliver .. => true
  | _ => false

/-- Such a move of a stream. -/
def moveFirst (s : State) (c : Nat) (st : Stream) : Next → State
  | .lookup va wr => askPage (modCore s c fun k => putStream k { st with trans := some (va / 65536) }) c va wr
  | .halt h => meetHalt s c st h
  | .load ws =>
    let run := xRun st.cbytes
    modCore s c fun k =>
      let k1 := (List.range 32).foldl (fun k i => let o := (runSp st (st.pos / run + i)).toNat; flushRows k (o / 32) ((o + run - 1) / 32)) k
      putStream k1 { st with block := ws, pos := st.pos + blockLen st }
  | .deliver o bs => injectBlock s c st o bs
  | _ => s

/-- One move of the skidder: what comes before any share, in the order of the contexts and then of the fetches, else the next ready requester of the next ready share (R216). -/
def skidderMove (s : State) (c : Nat) : State :=
  let k := getCore s c
  let acts := if k.pwr.st = .active then k.skd.streams.map fun st => (st.ctx, peek s c st) else []
  let cand := (fetchCands k).head?
  let all := acts ++ (cand.map fun a => (1024, a.2)).toList
  let x := accrue k.skd.shares s.now
  let s1 := match acts.find? fun a => a.2.first, cand with
    | some (ctx, a), _ => ((findStream k ctx).map fun st => moveFirst s c st a).getD s
    | none, some (f, .lookup va wr) => askPage (modCore s c fun k => putFetch k f) c va wr
    | none, _ =>
      match pickRequester x all with
      | some (_, ctx) =>
        match all.find? fun a => a.1 = ctx, findStream k ctx, cand with
        | some (_, .go i m sp n), some st, _ => injectGo s c st i m sp n
        | some (_, .go _ m _ _), none, some (f, _) => sendFetch s c f m
        | _, _, _ => s
      | none => s
  modCore s1 c fun k => modSkd k fun d => { d with starved := starvedBy x all }

/-- The local port takes one flit of the skidder in a cycle (R25, R216). -/
def execSkidderInject (c : CoreId) (s : State) : Out1 :=
  let s1 := if (getCore s c.val).skd.lastOut = some s.now then atLeast s (s.now + 1) else s
  .next (if (getOwner s c.val).felled then s else skidderMove s1 c.val)

/-! Answers of the translation service (R240). -/

/-- A page enters the cache, in place of one that the hardware chooses where all 64 are used (DESIGN CHOICE, log entry 22). -/
def cacheTrans (s : State) (c : Nat) (t : Trans) : State :=
  let (n, s1) := takeChoice s
  let full := 64 ≤ (getCore s c).skd.cache.length
  modCore (if full then s1 else s) c fun k => modSkd k fun d => { d with cache := (if full then d.cache.eraseIdx (n % 64) else d.cache) ++ [t] }

/-- The address that a stream which waits for a translation is to reach: the byte of its walk, or the row of its block that has none. -/
def awaitedVa (k : Core) (st : Stream) : Nat :=
  if skXpose st.raw && skDir st.raw = 1 then
    (((blockWrites k st).find? fun w => (findTrans k (w.1 % 2 ^ 44)).isNone).map fun w => w.1 % 2 ^ 44).getD 0
  else wrapN 44 (pieceAt st st.pos).1

/-- The translation of a page has failed for a stream that waits for it: it halts, if it still runs (R240, R243). -/
def transFailed (k : Core) (page : Nat) (st : Stream) : Stream :=
  if st.trans ≠ some page then st
  else if st.halting.isSome || (st.st ≠ .run && st.st ≠ .waitslot) then { st with trans := none }
  else { st with trans := none, st := .run, halting := some (faultAt st (awaitedVa k st)) }

/-- The translation service answers (R240): a page enters the cache; a failure halts the streams and faults the fetches that wait for it; state bytes go out or are dropped (R220). -/
def execTranslationResponse (c : CoreId) (va : BitVec 44) (r : TransResult) (s : State) : Out1 :=
  let page := va.toNat / 65536
  .next (if !(getCore s c.val).skd.asked.contains page then s
  else
    let s1 := modCore s c.val fun k => modSkd k fun d => { d with asked := d.asked.filter (· ≠ page) }
    match r with
    | .page pa large wr =>
      let t : Trans := { large := large, vpage := if large then va.toNat / 2 ^ 21 else page, pa := pa.toNat, writable := wr }
      let s2 := modCore (cacheTrans s1 c.val t) c.val fun k => modSkd k fun d =>
        { d with streams := d.streams.map fun st => if st.trans = some page then { st with trans := none } else st }
      settleSaves s2 c.val page (some t)
    | .fail =>
      let s2 := modCore s1 c.val fun k => modSkd k fun d =>
        { d with streams := d.streams.map (transFailed k page),
                 fetches := d.fetches.map fun f => if f.stage = .asked && f.va % 2 ^ 44 / 65536 = page then { f with stage := .faulted ePAGE_FAULT } else f }
      settleSaves s2 c.val page none)

/-! Visits and markers (R224, R230, R231). -/

/-- A stream enters its next destination slot, or waits for it (R230, item 1); one of the wait group that takes it advances (R246). -/
def execSlotVisitEnter (c : CoreId) (ctx : CtxId) (s : State) : Out1 :=
  let k := getCore s c.val
  .next (match findStream k ctx.val with
    | some st =>
      match peek s c.val st, unvisited k st with
      | .visit, some n =>
        if st.held.contains n || mayTake k n then
          let k1 := if st.held.contains n then k else takeSlots k .skq [n]
          let st1 := { st with st := .run, held := st.held.filter (· ≠ n), visits := st.visits ++ [{ slot := n, first := haltPos st, upto := haltPos st, left := false }] }
          let k2 := putStream k1 st1
          putCore s c.val (if st.st = .waitslot then groupAdvance k2 s.now else k2)
        else if st.st = .waitslot then s
        else
          let k1 := putStream k { st with st := .waitslot }
          putCore s c.val (if groupEmpty k then groupAdvance k1 s.now else k1)
      | _, _ => s
    | none => s)

/-- A visit's requests are all answered and written (R230, item 3). -/
def visitDone (st : Stream) (v : Visit) : Bool :=
  v.left && (st.reqs.all fun r => r.pos + r.len ≤ v.first || v.upto ≤ r.pos) && st.xbuf.all fun e => e.1 < v.first || v.upto ≤ e.1

/-- A visit that is written completes: its slot becomes FULL with OCNT, BACKED as R203 allows (R230, item 3); visits complete in any order, and of a stream that is halted too. -/
def execSlotVisitComplete (c : CoreId) (ctx : CtxId) (s : State) : Out1 :=
  let k := getCore s c.val
  .next (match findStream k ctx.val with
    | some st =>
      match if deliversOwn st then st.visits.find? (visitDone st) else none with
      | some v =>
        let k1 := fillSlots k [v.slot] (ocntOf st.raw)
        let k2 := if skBacked st.raw && !xPull st.cbytes && !untagged k v.slot then
            setTag k1 v.slot { tagOf k1 v.slot with backed := true, backCtx := st.ctx, backPos := v.first, backEnd := v.upto, backRaw := st.raw, backCounts := st.counts }
          else k1
        putCore s c.val (wakeOnChange k (putStream k2 { st with visits := st.visits.erase v }) s.now)
      | none => s
    | none => s)

/-- Sends the marker of a destination slot (R224, R231): SLOTEND, with SLOTSTART for a null completion. -/
def sendMarker (s : State) (c : Nat) (st : Stream) (slot : Nat) (start : Bool) : State :=
  let st1 := { st with nextSeq := st.nextSeq + 1, reqs := st.reqs ++ [{ seq := st.nextSeq, pos := st.pos, len := 0, slot := slot, waiting := answersOf st, marker := true }] }
  let s1 := modCore s c fun k => noteBusy (putStream k st1) s.now
  match skDir st.raw, st.target with
  | 3, some t => sendRemote s1 c st t .marker (remoteHdr s c t 1 (slot * 1024) 0 st.nextSeq st.ctx start true (ocntOf st.raw)) []
  | _, _ => sendArrivals s1 c st .marker (slot * 1024) [] start

/-- Request r is a write of visit v. -/
def writeOf (v : Visit) (r : Req) : Bool := !r.marker && r.slot = v.slot && v.first < r.pos + r.len && r.pos < v.upto

/-- The oldest visit whose marker has not been sent and whose writes are all acknowledged (R231). -/
def nextEnding (st : Stream) : Option Visit :=
  st.visits.find? fun v => v.left && !(st.reqs.any fun r => r.marker && r.slot = v.slot) && !(st.reqs.any (writeOf v)) && !(st.block.any fun b => b.1 / 1024 = v.slot)

/-- A stream may send markers: it delivers through arrivals, runs, and no destination has refused it (R231, R241). -/
def mayMark (st : Stream) : Bool :=
  (st.st = .run || st.st = .waitslot) && !deliversOwn st && skDir st.raw ≠ 1 && match st.halting with
    | some h => !h.nack
    | none => true

/-- The next marker of a null completion, with at most 32 under way (R224, R231). -/
def nextNull (st : Stream) : Option Nat :=
  if 32 ≤ (st.reqs.filter (·.marker)).length || st.halting.isSome then none else st.nullMarks.find? fun n => !(st.reqs.any fun r => r.slot = n)

/-- A stream that delivers through arrivals sends its next SLOTEND marker, or its next marker of a null completion (R56, R224, R231, R260). -/
def execSlotendSend (c : CoreId) (ctx : CtxId) (s : State) : Out1 :=
  let k := getCore s c.val
  .next (match findStream k ctx.val with
    | some st =>
      if !mayMark st then s
      else match nextNull st with
        | some n =>
          match (streamDests st).find? (foreign s c.val) with
          | some d => meetHalt s c.val st { code := eTENANT, pos := 0, lo := word (d % 2048) }
          | none => if skDir st.raw = 3 && targetBad s c.val st then meetHalt s c.val st { code := eTENANT, pos := 0, lo := word (targetCore k st) }
            else sendMarker s c.val st n true
        | none =>
          match nextEnding st with
          | some v => sendMarker s c.val st v.slot false
          | none => s
    | none => s)

end Sys2Proof.Machine
end

