-- ==== Sys2Proof/Machine/Answers.lean ====
section
/-! DEFINITION. The answers to requests (R217, R218, R230, R231, R241, R412), pulls at their source (R233), the completion of streams (R232). -/

namespace Sys2Proof.Machine

/-- The request of a stream with a sequence number; a VC2 header carries its low 16 bits. -/
def findReq (st : Stream) (seq : Nat) : Option Req := st.reqs.find? fun r => r.seq % 65536 = seq % 65536

/-- One answer to a request is in: it is gone once all are. -/
def answerReq (st : Stream) (r : Req) (refused : Bool) : Stream :=
  if r.waiting ≤ 1 then { st with reqs := st.reqs.filter fun x => x.seq ≠ r.seq }
  else { st with reqs := st.reqs.map fun x => if x.seq = r.seq then { r with waiting := r.waiting - 1, refused := r.refused || refused } else x }

/-- A stream with a halt more: the one that saves the earlier position stands, and a refusal at a destination, whose visits are to be withdrawn, goes before all others (R241; DEDUCED, log entry 178). -/
def addHalt (st : Stream) (h : Halting) : Stream :=
  let keep := match st.halting with
    | none => h
    | some g => if g.report then g else if h.report then h else if h.pos < g.pos then h else g
  { st with halting := some keep, st := if st.st = .waitslot then .run else st.st }

/-! Bytes that come in. -/

/-- The 32 rows of a transposed block, from its buffered bytes (R227). -/
def blockRow (st : Stream) (p i : Nat) : List Byte :=
  let run := xRun st.cbytes
  let e := max 1 (xElem st.cbytes)
  (List.range run).map fun b => fget st.xbuf (p + b / e * run + i * e + b % e) 0#8

/-- The rows of the transposed block from position p on, with their destination offsets. -/
def blockPieces (st : Stream) (p : Nat) : List (Nat × List Byte) :=
  ((blockRuns st (p / xRun st.cbytes)).zipIdx).map fun x => (x.1.1.toNat, blockRow st p x.2)

/-- Writes into the scratchpad, one after another; the word that stops them (R190, R206). -/
def storeAll (now : Nat) : Core → List (Nat × List Byte) → Except Nat Core
  | k, [] => .ok k
  | k, w :: ws =>
    match arrivalStore k w.1 w.2 now with
    | .ok k1 => storeAll now k1 ws
    | .error b => .error b

/-- A write touches a segment that is off (R211). -/
def writesOff (k : Core) (ws : List (Nat × List Byte)) : Bool := touchesOff k (ws.map fun w => { off := w.1, len := w.2.length })

/-- The stream with the bytes of a read of a transposed block, and the writes that it makes of the block once all of it is there: into its own scratchpad, or to be sent to its group (R227, R228). -/
def takeBlock (st : Stream) (r : Req) (bs : List Byte) : Stream × List (Nat × List Byte) :=
  let st1 := { st with xbuf := (bs.zipIdx).foldl (fun m x => fset m (r.pos + x.2) x.1) st.xbuf }
  let p := blockFirst st r.pos
  if (st1.xbuf.filter fun e => p ≤ e.1 && e.1 < p + blockLen st).length ≠ blockLen st then (st1, [])
  else
    let ws := blockPieces st1 p
    let st2 := { st1 with xbuf := st1.xbuf.filter fun e => e.1 < p || p + blockLen st ≤ e.1 }
    if deliversOwn st then (st2, ws)
    else ({ st2 with block := ws.flatMap fun w => splitWrites (fun a => min (lineRest a) (1024 - a % 1024)) (xRun st.cbytes) w.1 w.2 }, [])

/-- What the response to request r of a stream makes: the stream after it and the writes into its own scratchpad. -/
def takeResponse (st : Stream) (r : Req) (bs : List Byte) : Stream × List (Nat × List Byte) :=
  if blockwise st then takeBlock st r bs else (st, [((pieceAt st r.pos).2.1.toNat, bs)])

/-- A read response for request seq of a stream is in (R211, R218, R230): its bytes are written; a segment that has gone off, or wrong parity beside a partial word, halts the stream. -/
def respStream (s : State) (c ctx seq : Nat) (bs : List Byte) : State :=
  let k := getCore s c
  match findStream k ctx with
  | none => s
  | some st =>
    match findReq st seq with
    | none => s
    | some r =>
      let k0 := noteBusy (noteWork (touchData k s.now) s.now) s.now
      let (st1, ws) := takeResponse (answerReq st r false) r bs
      let pos := if blockwise st then blockFirst st r.pos else r.pos
      if writesOff k0 ws then putCore s c (putStream k0 (addHalt st1 { code := eSEGMENT_OFF, pos := pos }))
      else match storeAll s.now k0 ws with
      | .ok k1 => putCore s c (let k2 := putStream k1 st1; if st.st = .waitslot then groupAdvance k2 s.now else k2)
      | .error w => spdParity (putCore s c (putStream k0 (addHalt st1 { code := ePARITY, pos := pos, detail := addrDetail w }))) c w

/-- k without fetch n. -/
def dropFetch (k : Core) (n : Nat) : Core := modSkd k fun d => { d with fetches := d.fetches.filter fun f => f.n ≠ n }

/-- Bytes of an image go to their staging slots from byte off of it on (R392): a fetch reaches two slots at most. -/
def putStaged (k : Core) (slots : List Nat) (off : Nat) (bs : List Byte) : Core :=
  let n := min bs.length (1024 - off % 1024)
  let at_ := fun o => (slots[o / 1024]?.getD 0) * 1024 + o % 1024
  let k1 := spdPoke k (at_ off) (bs.take n)
  if n < bs.length then spdPoke k1 (at_ (off + n)) (bs.drop n) else k1

/-- What fetch f was made for is not wanted any more. -/
def fetchStale (k : Core) (f : Fetch) : Bool :=
  match f.kind with
  | .image _ => k.grv.load.all fun l => l.phase ≠ 1
  | .frame n => k.grv.load.all fun l => l.refetch ≠ some n
  | .repair n t => k.grv.repair ≠ some { frame := n, since := t }
  | _ => false

/-- The bytes of fetch f reach core k (R160, R392, R396, R401, R419): those of an image go to its staging slots; the others wait for what takes them. -/
def takeBytes (k : Core) (f : Fetch) (bs : List Byte) : Core :=
  if fetchStale k f then dropFetch k f.n
  else match f.kind with
    | .image off => putStaged (dropFetch k f.n) ((k.grv.load.map (·.slots)).getD []) off bs
    | _ => modSkd k fun d => { d with fetches := d.fetches.map fun g => if g.n = f.n then { g with stage := .here bs } else g }

/-- A read response for a fetch is in. -/
def respFetch (s : State) (c n : Nat) (bs : List Byte) : State :=
  modCore s c fun k => noteBusy (match k.skd.fetches.find? fun f => f.n = n && f.stage = .sent with
    | some f => takeBytes k f bs
    | none => k) s.now

/-- A read response reaches the skidder (R218). -/
def execReadResponse (id : Nat) (s : State) : Out1 :=
  .next (match takeFlit s id with
    | some (f, s1) =>
      match f.kind, f.dst with
      | .readResp, .core c => if f.ctx = 1024 then respFetch s1 c f.seq f.data else respStream s1 c f.ctx f.seq f.data
      | .pullResp, .core c => if f.hdr.isSome then s else respStream s1 c f.ctx f.seq f.data
      | _, _ => s
    | none => s)

/-! Acknowledgements and refusals. -/

/-- An acknowledgement of request seq of a stream is in (R231, R232); a marker's last one closes its visit. -/
def ackStream (s : State) (c ctx seq : Nat) : State :=
  let k := getCore s c
  match findStream k ctx with
  | none => s
  | some st =>
    match findReq st seq with
    | none => s
    | some r =>
      let st1 := answerReq st r false
      let closed := r.marker && r.waiting ≤ 1 && !r.refused
      let st2 := if closed then { st1 with visits := st1.visits.filter fun v => v.slot ≠ r.slot || r.pos ≤ v.first, nullMarks := st1.nullMarks.filter (· ≠ r.slot) } else st1
      putCore s c (noteBusy (kBump (putStream k st2) 6 12 (if closed && st.group ≠ [] then st.group.length else 0)) s.now)

/-- An acknowledgement of a write or marker reaches its stream (R232); one of state bytes is for nobody (R220). -/
def execWriteAck (id : Nat) (s : State) : Out1 :=
  .next (match takeFlit s id with
    | some (f, s1) =>
      match f.kind, f.dst with
      | .ack, .core c => if f.hdr.isSome then s else ackStream s1 c f.ctx f.seq
      | _, _ => s
    | none => s)

/-- DETAIL of E_PARITY from a yard (R414): the landing port and bits 35:8 of the line's address within its stack. -/
def yardDetail (pa : Nat) : Word := word (pa / 4096 % 16 * 2 ^ 28 + (pa / 65536 * 4096 + pa % 4096) / 256 % 2 ^ 28)

/-- A destination or a pull's source has refused a request of a stream (R241): a refused write or marker has its open visits withdrawn, a refused pull is saved at its first byte. -/
def nackStream (s : State) (c ctx seq code lo : Nat) : State :=
  let k := getCore s c
  match findStream k ctx with
  | none => s
  | some st =>
    match findReq st seq with
    | none => s
    | some r =>
      let withdrawn := !deliversOwn st && skDir st.raw ≠ 1
      let st1 := if withdrawn then answerReq st r true else { st with reqs := st.reqs.filter fun x => x.seq ≠ r.seq }
      let h : Halting := if withdrawn then { code := code, pos := r.pos, lo := word lo, report := true, nack := true } else { code := code, pos := r.pos, nack := true }
      putCore s c (noteBusy (putStream k (addHalt st1 h)) s.now)

/-- A landing port has refused request seq of a stream (R412): its line is lost. -/
def lostStream (s : State) (c ctx seq pa : Nat) : State :=
  let k := getCore s c
  match findStream k ctx with
  | none => s
  | some st =>
    match findReq st seq with
    | none => s
    | some r =>
      let pos := if skXpose st.raw then blockFirst st r.pos else r.pos
      putCore s c (noteBusy (putStream k (addHalt { st with reqs := st.reqs.filter fun x => x.seq ≠ r.seq } { code := ePARITY, pos := pos, detail := yardDetail pa })) s.now)

/-- A landing port has refused a fetch: its line is lost (R412). No rule says what follows for a fetch; its queue takes it like a translation fault, a load ends with E_PARITY, a frame counts as one whose CRC-32C differs (DESIGN CHOICE and DEDUCED, log entries 179 and 205). -/
def lostFetch (s : State) (c n : Nat) : State :=
  modCore s c fun k => noteBusy (modSkd k fun d => { d with fetches := d.fetches.map fun f => if f.n = n && f.stage = .sent then { f with stage := .faulted ePARITY } else f }) s.now

/-- A NACK reaches the sending stream or fetch (R241, R412). -/
def execNack (id : Nat) (s : State) : Out1 :=
  .next (match takeFlit s id with
    | some (f, s1) =>
      match f.kind, f.dst, f.src with
      | .nack, .core c, .land _ _ => if f.hdr.isSome then s else if f.ctx = 1024 then lostFetch s1 c f.seq else lostStream s1 c f.ctx f.seq f.addr
      | .nack, .core c, .core d => if f.hdr.isSome then s else nackStream s1 c f.ctx f.seq f.code d
      | _, _, _ => s
    | none => s)

/-! Pulls at their source (R233). -/

/-- The answer to a pull of n bytes from o on (R205, R211, R233): its bytes, or the code of its refusal; with the core after the read, and the word with wrong parity. -/
def readPull (k : Core) (o n : Nat) : Core × Except (Nat × Option Nat) (List Byte) :=
  if 0xC0000 < o + n then (k, .error (eSHAPE_OVER, none))
  else if (slotsOf o n).any fun x => !untagged k x then (k, .error (eTAG_PROTOCOL, none))
  else if touchesOff k [{ off := o, len := n }] then (k, .error (eSEGMENT_OFF, none))
  else
    let k1 := flushRegions k [{ off := o, len := n }]
    match badWords k1 o n with
    | some w => (k1, .error (ePARITY, some w))
    | none => (k1, .ok (spdBytes k1 o n))

/-- A pull request reaches its source core and is answered, or refused with a NACK (R205, R211, R233, R424). -/
def execPullRequest (id : Nat) (s : State) : Out1 :=
  .next (match takeFlit s id with
    | some (f, s1) =>
      match f.kind, f.dst with
      | .pullReq, .core c =>
        if f.hdr.isSome then s
        else if (getOwner s1 c).felled then answerFlit s1 f 1 eFELLED
        else
          let (k, r) := readPull (noteWork (touchData (getCore s1 c) s.now) s.now) f.off f.len
          let s2 := putCore s1 c k
          match r with
          | .ok bs => send s2 { id := 0, vc := 1, src := f.dst, dst := .core f.core, route := [], kind := .pullResp, core := f.core, ctx := f.ctx,
                                seq := f.seq, len := f.len, data := bs }
          | .error (code, none) => answerFlit s2 f 1 code
          | .error (code, some w) => answerFlit (parityRecord s2 c w { code := ePARITY, cls := 1, page := 5 }) f 1 code
      | _, _ => s
    | none => s)

/-! Completion (R224, R232). -/

/-- The flight of a stream's descriptor finishes its work. -/
def finishFlight (k : Core) (ctx : Nat) : Core :=
  modQ k .skq fun x => { x with flights := x.flights.map fun f => if opOf f.raw = 0x30 && skCtx f.raw = ctx && f.work = .running then { f with work := .finished } else f }

/-- A stream has done all of its work (R232). -/
def streamDone (st : Stream) : Bool :=
  st.st = .run && st.halting.isNone && st.total ≤ st.pos && st.reqs = [] && st.visits = [] && st.nullMarks = [] && st.xbuf = [] && st.block = []

/-- A stream that is done ends: a null completion fills the slots it took, its descriptor may complete under R164, its context takes its state bytes (R220, R224). -/
def endStream (s : State) (c : Nat) (st : Stream) : State :=
  let s1 := saveCtx s c st 0 0
  modCoreW s1 c fun k => noteBusy (dropStream (finishFlight (if st.null then fillSlots k st.held (ocntOf st.raw) else k) st.ctx) st.ctx) s.now

/-- A stream completes (R232), at the earliest as its issue window closes. -/
def execStreamComplete (c : CoreId) (ctx : CtxId) (s : State) : Out1 :=
  .next (match findStream (getCore s c.val) ctx.val with
    | some st => if streamDone st then endStream (atLeast s (st.opened + 8)) c.val st else s
    | none => s)

end Sys2Proof.Machine
end

