-- ==== Sys2Proof/Machine/Aes.lean ====
section
/-! DEFINITION. AES-256-GCM (R22, R387): the block cipher, its counter blocks, and the tag, as FIPS 197 and SP 800-38D define them. -/

namespace Sys2Proof.Machine

/-- A product of two bytes in the field of AES, by the low n bits of a. -/
def gf8 : Nat → Nat → Nat → Nat
  | 0, _, _ => 0
  | n + 1, a, b =>
    let b2 := if b.testBit 7 then (b * 2) % 256 ^^^ 0x1B else b * 2
    (if a % 2 = 1 then b else 0) ^^^ gf8 n (a / 2) b2

/-- The product of two bytes. -/
def gmul (a b : Nat) : Nat := gf8 8 a b

/-- The substitution table of FIPS 197, byte a at bits 8a + 7 to 8a. -/
def subTable : Nat :=
  0x16bb54b00f2d99416842e6bf0d89a18cdf2855cee9871e9b948ed9691198f8e19e1dc186b95735610ef6034866b53e708a8bbd4b1f74dde8c6b4a61c2e2578ba08ae7a65eaf4566ca94ed58d6d37c8e779e4959162acd3c25c2406490a3a32e0db0b5ede14b8ee4688902a22dc4f816073195d643d7ea7c41744975fec130ccdd2f3ff1021dab6bcf5389d928f40a351a89f3c507f02f94585334d43fbaaefd0cf584c4a39becb6a5bb1fc20ed00d153842fe329b3d63b52a05a6e1b1a2c830975b227ebe28012079a059618c323c7041531d871f1e5a534ccf73f362693fdb7c072a49cafa2d4adf04759fa7dc982ca76abd7fe2b670130c56f6bf27b777c63

/-- A byte through the substitution table. -/
def sub8 (a : Nat) : Nat := fld subTable (8 * a) 8

/-- Byte-wise exclusive or. -/
def xorL (a b : List Nat) : List Nat := List.zipWith (· ^^^ ·) a b

/-- Round constant n of the key expansion. -/
def rcon : Nat → Nat
  | 0 => 1
  | n + 1 => gmul 2 (rcon n)

/-- The key schedule, newest word first: n more words after those of l. -/
def expandKey : Nat → List (List Nat) → List (List Nat)
  | 0, l => l
  | n + 1, l =>
    let i := l.length
    let t := l.headD []
    let t1 := if i % 8 = 0 then xorL ((t.drop 1 ++ t.take 1).map sub8) [rcon (i / 8 - 1), 0, 0, 0]
      else if i % 8 = 4 then t.map sub8 else t
    expandKey n (xorL (l[7]?.getD []) t1 :: l)

/-- The fifteen round keys of a 32-byte key. -/
def roundKeys (key : List Nat) : List (List Nat) :=
  let ws := (expandKey 52 ((List.range 8).map fun i => (key.drop (4 * i)).take 4).reverse).reverse
  (List.range 15).map fun r => ((ws.drop (4 * r)).take 4).flatten

/-- Row i of a block is rotated by i columns. -/
def shiftRows (b : List Nat) : List Nat := (List.range 16).map fun i => b[(i + 4 * (i % 4)) % 16]?.getD 0

/-- One column mixed. -/
def mixColumn (col : List Nat) : List Nat :=
  (List.range 4).map fun i =>
    let g := fun j => col[(i + j) % 4]?.getD 0
    gmul 2 (g 0) ^^^ gmul 3 (g 1) ^^^ g 2 ^^^ g 3

/-- The four columns mixed. -/
def mixColumns (b : List Nat) : List Nat := (List.range 4).flatMap fun i => mixColumn ((b.drop (4 * i)).take 4)

/-- The rounds after the first round key. -/
def aesRounds : List (List Nat) → List Nat → List Nat
  | [], b => b
  | [k], b => xorL (shiftRows (b.map sub8)) k
  | k :: ks, b => aesRounds ks (xorL (mixColumns (shiftRows (b.map sub8))) k)

/-- AES-256 of one block under round keys. -/
def aesBlock (ks : List (List Nat)) (b : List Nat) : List Nat :=
  match ks with
  | [] => b
  | k :: rest => aesRounds rest (xorL b k)

/-- The 32 key bytes of a key number, byte i from bits 8i + 7 to 8i (R13). -/
def keyBytes (key : Nat) : List Nat := (List.range 32).map fun i => fld key (8 * i) 8

/-- The big-endian number of bytes. -/
def beNat (l : List Nat) : Nat := l.foldl (fun a b => a * 256 + b) 0

/-- The n big-endian bytes of v. -/
def natBe (n v : Nat) : List Nat := (List.range n).map fun i => v / 256 ^ (n - 1 - i) % 256

/-- A product in the field of GHASH: bits of x from n - 1 down, v the multiple of y so far. -/
def ghashMul : Nat → Nat → Nat → Nat → Nat
  | 0, _, _, z => z
  | n + 1, x, v, z =>
    ghashMul n x (if v % 2 = 1 then v / 2 ^^^ 0xE1 * 2 ^ 120 else v / 2) (if x.testBit n then z ^^^ v else z)

/-- GHASH over 16-byte blocks, the last padded with zeros. -/
def ghash (h : Nat) : Nat → List Nat → Nat → Nat
  | 0, _, y => y
  | n + 1, l, y =>
    let b := l.take 16
    ghash h n (l.drop 16) (ghashMul 128 (y ^^^ beNat (b ++ List.replicate (16 - b.length) 0)) h 0)

/-- GHASH blocks of n bytes. -/
def ghashBlocks (n : Nat) : Nat := (n + 15) / 16

/-- The key stream of body block b under an IV: counter b + 2 (R387). -/
def bodyStream (ks : List (List Nat)) (iv : List Nat) (b : Nat) : List Nat := aesBlock ks (iv ++ natBe 4 (b + 2))

/-- The bytes of a list as numbers. -/
def nats (l : List Byte) : List Nat := l.map (·.toNat)

/-- Body bytes from 16-byte block b on, deciphered or enciphered (R387). -/
def gcmCrypt (ks : List (List Nat)) (iv : List Nat) (b : Nat) (bs : List Byte) : List Byte :=
  (List.range (ghashBlocks bs.length)).flatMap fun i =>
    (xorL (nats ((bs.drop (16 * i)).take 16)) (bodyStream ks iv (b + i))).map (BitVec.ofNat 8)

/-- The tag over additional data and ciphertext (R387). -/
def gcmTag (ks : List (List Nat)) (iv : List Nat) (aad body : List Byte) : List Byte :=
  let h := beNat (aesBlock ks (List.replicate 16 0))
  let y1 := ghash h (ghashBlocks aad.length) (nats aad) 0
  let y2 := ghash h (ghashBlocks body.length) (nats body) y1
  let y3 := ghashMul 128 (y2 ^^^ (aad.length * 8 * 2 ^ 64 + body.length * 8)) h 0
  (natBe 16 (y3 ^^^ beNat (aesBlock ks (iv ++ natBe 4 1)))).map (BitVec.ofNat 8)

end Sys2Proof.Machine
end

