-- ==== Sys2Proof/Machine/Halts.lean ====
section
/-! DEFINITION. Halts, resume, abort and free of streams (R241 to R244), refetches (R204, R419, R420), the wait group (R246). -/

namespace Sys2Proof.Machine

/-- The error record of a stream (R241, R414). -/
def streamRec (k : Core) (st : Stream) (code cls : Nat) (detail : Word) (esc : Bool) : ErrRec :=
  let f := k.skq.flights.find? fun f => opOf f.raw = 0x30 && skCtx f.raw = st.ctx
  { code := code, cls := cls, page := 6, queue := 2, esc := esc, ctx := st.ctx, detail := detail,
    attempt := min 8 ((f.map (·.attempt)).getD 0), ringidx := (f.map (·.idx)).getD 0 }

/-! Abort reports (R196, R241, R258, R264). -/

/-- Sends a VC3 command of core c with its body to core d: over the mesh, or by a torus port. -/
def sendCmd (s : State) (c : Nat) (dst : Node) (h : WinCmd) (body : List Byte) : State :=
  send s { id := 0, vc := 3, src := .core c, dst := dst, route := [], kind := .command, core := c, ctx := 0, seq := 0, len := body.length, data := body, cmd := some h }

/-- The JOBID of the job that core c belongs to, for the body of its commands (R264); 0 where it is in none (DEDUCED, log entry 181). -/
def jobIdOf (s : State) (c : Nat) : Word := ((jobOfCore s c).map (·.jobid)).getD 0#32

/-- The header of a command of core c to core d of a chip. -/
def coreCmd (s : State) (c : Nat) (chip : Word) (d win epoch : Nat) (direct : Bool) : WinCmd :=
  { srcChip := torusHere s, dstChip := chip, srcCore := BitVec.ofNat 11 c, core := Fin.ofNat 1200 d, win := Fin.ofNat 64 win,
    epoch := BitVec.ofNat 16 epoch, tenant := BitVec.ofNat 8 (getOwner s c).tenant.toNat, direct := direct, fwdLeft := 0#2 }

/-- The body of an abort report for a context. -/
def reportBody (s : State) (c ctx : Nat) : List Byte := cmdBody 5 (jobIdOf s c) (natLe 2 ctx)

/-- An abort report has gone out and its ANSWER is awaited (R243). -/
def awaitAnswer (s : State) (c : Nat) (chip : Word) (d ctx : Nat) : State :=
  modCore s c fun k => modSkd k fun x => { x with awaited := x.awaited ++ [{ chip := chip, core := d, ctx := ctx }] }

/-- Sends one abort report to each destination at which a stream has an open visit (R196, R241, R258). -/
def sendReports (s : State) (c : Nat) (st : Stream) : State :=
  if st.visits = [] || deliversOwn st then s
  else match skDir st.raw, st.target with
    | 3, some t =>
      let here := t.chip = torusHere s
      awaitAnswer (sendCmd s c (if here then .core t.core else .torus t.port) (coreCmd s c t.chip t.core t.win t.epoch false) (reportBody s c st.ctx)) c t.chip t.core st.ctx
    | _, _ => (streamDests st).foldl (fun s d =>
      awaitAnswer (sendCmd s c (.core d) (coreCmd s c (torusHere s) d 0 0 true) (reportBody s c st.ctx)) c (torusHere s) d st.ctx) s

/-- An ANSWER to an abort report of context ctx is still awaited. -/
def awaiting (k : Core) (ctx : Nat) : Bool := k.skd.awaited.any fun a => a.ctx = ctx

/-- The ANSWER of a core to an abort report is in (R243, R264): the oldest report to that core has it (DEDUCED, log entry 182). -/
def takeAnswer (k : Core) (chip : Word) (d : Nat) : Core :=
  modSkd k fun x =>
    match x.awaited.find? fun a => a.chip = chip && a.core = d with
    | some a => { x with awaited := x.awaited.erase a }
    | none => x

/-! Free and abort (R243, R244). -/

/-- An ABORTED stream ends (R244): its descriptor, if it is still in flight, escalates with the stream's code; BACKED records that name the context are cleared. -/
def freeStream (s : State) (c : Nat) (st : Stream) : State :=
  let s1 := modCore s c fun k =>
    let k1 := dropStream (clearBacking k st.ctx) st.ctx
    let die := fun f : Flight => if opOf f.raw = 0x30 && skCtx f.raw = st.ctx && f.work = .running then { f with work := .failed st.code 0#32 6, dead := true } else f
    modQ k1 .skq fun x => { x with flights := x.flights.map die }
  failOldest s1 c .skq

/-- The end of an abort (R243, steps 3 and 4): the saved position goes back to the earliest visit that was returned, or to the first point of a block that was not written whole (R228). -/
def finishAbort (s : State) (c : Nat) (st : Stream) : State :=
  let cut := if st.block ≠ [] then st.pos - blockLen st else if st.xbuf ≠ [] then blockFirst st st.pos else st.pos
  let p := min (((st.visits.map (·.first)).min?).getD cut) cut
  let st1 := { st with st := .aborted, pos := p, visits := [], held := [], xbuf := [], block := [], halting := none, code := if st.code = 0 then eSTALL_CYCLE else st.code }
  let s1 := saveCtx (modCore s c fun k => noteBusy (kBump (putStream k st1) 6 9) s.now) c st1 5 st1.code
  if st.freeing then freeStream s1 c st1 else s1

/-- An abort goes on once the outstanding requests are in (R243): the HELD slots go back to EMPTY and the reports go out; with every ANSWER in, the stream reads ABORTED. -/
def goAbort (s : State) (c : Nat) (st : Stream) : State :=
  if st.st ≠ .aborting || st.reqs ≠ [] || awaiting (getCore s c) st.ctx then s
  else match st.halting with
    | some h =>
      if h.report then
        let s1 := sendReports (modCoreW (inOrder s c rankFail) c fun k => emptyHeld k (ownHeld st)) c st
        let st1 := { st with halting := none }
        if awaiting (getCore s1 c) st.ctx then modCore s1 c fun k => putStream k st1 else finishAbort s1 c st1
      else finishAbort s c st
    | none => finishAbort s c st

/-- An abort goes on, or ends (R243). -/
def execAbortComplete (c : CoreId) (ctx : CtxId) (s : State) : Out1 :=
  .next (match findStream (getCore s c.val) ctx.val with
    | some st => goAbort s c.val st
    | none => s)

/-! Halts (R241, R420). -/

/-- A stream goes back to position p (R241): visits of its own core that begin later wait again as HELD slots, the one that holds p goes on; visits elsewhere stay open. -/
def rewind (st : Stream) (p : Nat) : Stream :=
  let st1 := { st with pos := p, xbuf := st.xbuf.filter fun e => e.1 < p, block := [] }
  if deliversOwn st then
    { st1 with visits := (st.visits.filter fun v => v.first ≤ p).map fun v => { v with upto := min v.upto p, left := v.left && v.upto ≤ p },
               held := st.held ++ (st.visits.filter fun v => p < v.first).map (·.slot) }
  else { st1 with visits := st.visits.map fun v => if v.upto ≤ p then v else { v with upto := max v.first p, left := false } }

/-- What follows a halt for E_PARITY on a source row (R420): a refetch of a BACKED slot, else abort and free. -/
def parityHalted (s : State) (c : Nat) (st : Stream) (w : Nat) : State :=
  let n := w * 4 / 1024
  let k := getCore s c
  let again := st.refetched.contains n
  if !untagged k n && (tagOf k n).backed && !again then
    modCore s c fun k =>
      let k1 := putStream k { st with bad := some n, refetched := n :: st.refetched }
      if k.skd.refetch.contains n then k1 else kBump (kBump (modSkd k1 fun d => { d with refetch := d.refetch ++ [n] }) 6 13) 13 2
  else
    let s1 := modCore s c fun k => putStream k { (beginAbort st) with freeing := true }
    if again then hardError s1 c (streamRec k st ePARITY 1 (addrDetail w) true) else s1

/-- A halt takes effect (R241): the state bytes, the record, the counters. A refusal at a destination has withdrawn the visits that were still open: the first byte of the earliest is saved. -/
def takeHalt (s : State) (c : Nat) (st : Stream) (h : Halting) : State :=
  let gone := h.nack && !deliversOwn st
  let st0 := if gone then { st with pos := ((st.visits.map (·.first)).min?).getD h.pos, visits := [], xbuf := [], block := [] } else rewind st h.pos
  let st1 := { st0 with st := .halted, code := h.code, halting := none, lo := h.lo, hi := h.hi }
  let s1 := saveCtx (modCore s c fun k => putStream k st1) c st1 3 h.code
  let s2 := coreErr s1 c (streamRec (getCore s1 c) st1 h.code 1 h.detail false)
  let s3 := modCore s2 c fun k =>
    let k1 := if h.code = ePAGE_FAULT then kBump k 6 7 else k
    noteBusy (if h.nack then kBump k1 6 8 else k1) s.now
  match h.bad with
  | some w => parityHalted s3 c st1 w
  | none => s3

/-- A stream halts once its requests are answered (R241); where a destination refused, it first sends its abort reports and waits for their ANSWERs. -/
def goHalt (s : State) (c : Nat) (st : Stream) (h : Halting) : State :=
  if (st.st ≠ .run && st.st ≠ .waitslot) || st.reqs ≠ [] || awaiting (getCore s c) st.ctx then s
  else if h.report && st.visits ≠ [] then
    let s1 := modCore (sendReports s c st) c fun k => putStream k { st with halting := some { h with report := false } }
    if awaiting (getCore s1 c) st.ctx then s1 else takeHalt s1 c st { h with report := false }
  else takeHalt s c st h

/-- A stream halts (R241). -/
def execStreamHalt (c : CoreId) (ctx : CtxId) (s : State) : Out1 :=
  .next (match findStream (getCore s c.val) ctx.val with
    | some st =>
      match st.halting with
      | some h => goHalt s c.val st h
      | none => s
    | none => s)

/-! Context commands (R242 to R244). -/

/-- A HALTED or ABORTED stream goes on from its saved position (R242): it reads its target entry again (R259), and a page that faulted it is translated again. -/
def resumeStream (s : State) (c : Nat) (st : Stream) : State :=
  let st1 := { st with st := .run, code := 0, lo := 0#32, hi := 0#32, halting := none, bad := none, freeing := false, trans := none, target := targetOf s c st.cbytes st.raw }
  let va := st.lo.toNat + fld st.hi.toNat 0 12 * 2 ^ 32
  modCore s c fun k =>
    let k1 := if st.code = ePAGE_FAULT then modSkd k fun d => { d with cache := d.cache.filter fun t => some t ≠ findTrans k va } else k
    putStream k1 st1

/-- A context command with no effect (R244): counter 14. -/
def ctxIgnored (k : Core) : Core := kBump k 6 14

/-- RESUME on a core (R242, R244). -/
def ctxResume (s : State) (c ctx : Nat) : State :=
  match findStream (getCore s c) ctx with
  | some st => if st.st = .halted || st.st = .aborted then resumeStream s c st else modCore s c ctxIgnored
  | none => modCore s c ctxIgnored

/-- ABORT on a core (R243, R244). -/
def ctxAbort (k : Core) (ctx : Nat) : Core :=
  match findStream k ctx with
  | some st => if st.st = .run || st.st = .waitslot || st.st = .halted then putStream k (beginAbort st) else ctxIgnored k
  | none => ctxIgnored k

/-- FREE on a core (R244). -/
def ctxFree (s : State) (c ctx : Nat) : State :=
  match findStream (getCore s c) ctx with
  | some st => if st.st = .aborted then freeStream s c st else modCore s c ctxIgnored
  | none => modCore s c fun k => clearBacking k ctx

/-- A word in the layout of SKD_CTXCMD acts on a core (R242 to R244, R249, R264). -/
def ctxCommand (s : State) (c : Nat) (w : Nat) : State :=
  match fld w 28 4 with
  | 1 => ctxResume s c (fld w 0 10)
  | 2 => modCore s c fun k => ctxAbort k (fld w 0 10)
  | 3 => ctxFree s c (fld w 0 10)
  | _ => s

/-- SKD_CTXCMD RESUME (R242). -/
def execCtxResume (p : Port) (c : CoreId) (ctx : CtxId) (s : State) : Out1 :=
  .next (coreWrite s p c 6 0x58 fun s => ctxResume s c.val ctx.val)

/-- SKD_CTXCMD ABORT (R243). -/
def execCtxAbort (p : Port) (c : CoreId) (ctx : CtxId) (s : State) : Out1 :=
  .next (coreWrite s p c 6 0x58 fun s => modCore s c.val fun k => ctxAbort k ctx.val)

/-- SKD_CTXCMD FREE (R244). -/
def execCtxFree (p : Port) (c : CoreId) (ctx : CtxId) (s : State) : Out1 :=
  .next (coreWrite s p c 6 0x58 fun s => ctxFree s c.val ctx.val)

/-! Refetch (R204, R419, R420). -/

/-- How the refetch of slot n stands: still under way, or ended, whole or with a fault. -/
def refetchEnd (k : Core) (n : Nat) : Option Bool :=
  let fs := refetchOf k n
  if fs.any (fun f => match f.stage with
    | .faulted _ => true
    | _ => false) || refetchCtx k n = some none then some false
  else if (refetchCtx k n).isSome && (refetchWant k n).isNone && (fs.all fun f => f.result.isSome) then some true
  else none

/-- The bytes that a refetch brought, by walk position. -/
def refetchBytes (k : Core) (n : Nat) : FMap Byte :=
  (refetchOf k n).foldl (fun m f => match f.kind, f.stage with
    | .run _ o, .here d => (d.zipIdx).foldl (fun m x => fset m (o + x.2) x.1) m
    | _, _ => m) []

/-- The writes of a refetch, with their offsets: run by run, or a transposed block's rows (R204, R227). -/
def refetchWrites (k : Core) (n : Nat) (cb : List Byte) : List (Nat × List Byte) :=
  let st := { backStream (tagOf k n) cb with xbuf := refetchBytes k n }
  if blockwise st then
    (List.range (ceilDiv (st.xbuf.length) (blockLen st))).flatMap fun i => blockPieces st (blockFirst st st.pos + i * blockLen st)
  else (refetchOf k n).filterMap fun f => match f.kind, f.stage with
    | .run _ o, .here d => some ((pieceAt st o).2.1.toNat, d)
    | _, _ => none

/-- The part of a write that lies in slot n. -/
def clipSlot (n : Nat) (w : Nat × List Byte) : Nat × List Byte :=
  let a := max w.1 (n * 1024)
  (a, (w.2.drop (a - w.1)).take (n * 1024 + 1024 - a))

/-- The rows of slot n are written again (R204); the slot keeps its state, its count and its pins. -/
def rewriteSlot (k : Core) (n : Nat) : Core :=
  match refetchCtx k n with
  | some (some cb) =>
    if (tagOf k n).st = .full && (tagOf k n).backed then
      ((refetchWrites k n cb).map (clipSlot n)).foldl (fun k w => if w.2 = [] then k else spdPoke k w.1 w.2) (flushSlot k n)
    else k
  | _ => k

/-- The refetch of slot n is over: its fetches go. -/
def dropRefetch (k : Core) (n : Nat) : Core :=
  let mine := (refetchOf k n).map (·.n)
  modSkd k fun d => { d with refetch := d.refetch.filter (· ≠ n), fetches := d.fetches.filter fun f => !mine.contains f.n }

/-- What waits for the refetch of slot n goes on, or fails: the queues' heads and the streams (R419, R420). -/
def afterRefetch (s : State) (c n : Nat) (ok : Bool) : State :=
  let k := getCore s c
  let waits := allQ.filter fun q => (getQ k q).waitRefetch.contains n
  let mine := k.skd.streams.filter fun st => st.bad = some n && st.st = .halted
  let s1 := modCore s c fun k => waits.foldl (fun k q => modQ k q fun x => { x with waitRefetch := x.waitRefetch.filter (· ≠ n) }) (dropRefetch k n)
  if ok then mine.foldl (fun s st => resumeStream s c st) s1
  else
    let s2 := modCore s1 c fun k => mine.foldl (fun k st => putStream k { (beginAbort st) with freeing := true }) k
    waits.foldl (fun s q => haltQueue (coreErr s c { code := ePARITY, cls := 1, page := 5, queue := qIdx q, esc := true, ringidx := (getQ k q).issue, attempt := min 8 (getQ k q).retries, detail := addrDetail (n * 256) }) c q ePARITY) s2

/-- A refetch of a BACKED slot ends (R419): its rows are written, or what waits for it escalates. -/
def execRefetchComplete (c : CoreId) (slot : SlotId) (_r : Unit) (s : State) : Out1 :=
  let k := getCore s c.val
  .next (if !k.skd.refetch.contains slot.val then s
  else match refetchEnd k slot.val with
    | some true => afterRefetch (modCore s c.val fun k => rewriteSlot k slot.val) c.val slot.val true
    | some false => afterRefetch s c.val slot.val false
    | none => s)

/-! The wait group (R246). -/

/-- The stream of the wait group that issued last. -/
def lastWaiting (k : Core) : Option Stream :=
  (k.skd.streams.filter fun st => st.st == .waitslot).foldl (fun (a : Option Stream) st =>
    match a with
    | some b => if b.order ≤ st.order then some st else a
    | none => some st) none

/-- A wait group without progress for SKD_STALLTO.TIMEOUT RCLK cycles records E_STALL_CYCLE (R246). -/
def execStallTimeout (c : CoreId) (s : State) : Out1 :=
  let k := getCore s c.val
  let to_ := fld (kReg k 6 0x50) 0 24
  .next (if to_ = 0 || groupEmpty k then s
  else
    let s1 := atLeast s (k.skd.stallSince + rclk to_)
    let st := lastWaiting k
    let s2 := modCore s1 c.val fun k => kBump (modSkd k fun d =>
      { d with stallSince := s1.now, stallValid := true, stallCtx := match st with
          | some x => x.ctx
          | none => d.stallCtx }) 6 10
    coreErr s2 c.val { code := eSTALL_CYCLE, cls := 0, page := 6, queue := 2, ctx := (st.map (·.ctx)).getD 0 })

end Sys2Proof.Machine
end

