-- ==== Sys2Proof/Machine/Yard.lean ====
section
/-! DEFINITION. The landing ports and their yards (R236 to R238, R412). -/

namespace Sys2Proof.Machine

/-- The yard of landing port p. -/
def getYard (s : State) (p : Nat) : Yard := fget s.yards p {}

/-- s with f applied to the yard of landing port p. -/
def modYard (s : State) (p : Nat) (f : Yard → Yard) : State := { s with yards := fset s.yards p (f (getYard s p)) }

/-- The landing port of a physical address (R31). -/
def stackOf (pa : Nat) : Nat := pa / 4096 % 16

/-- The line number of a physical address within its stack (R236). -/
def lineOf (pa : Nat) : Nat := (pa / 65536 * 4096 + pa % 4096) / 256

/-- The set of a line (R236). -/
def setOf (y : Yard) (num : Nat) : List Line := fget y.sets (num % 4096) []

/-- y with the set of a line replaced. -/
def putSet (y : Yard) (num : Nat) (l : List Line) : Yard := { y with sets := fset y.sets (num % 4096) l }

/-- The line, if the yard holds it. -/
def findLine (y : Yard) (num : Nat) : Option Line := (setOf y num).find? fun l => l.num == num

/-- The line becomes the most recently used of its set (R236). -/
def useLine (y : Yard) (l : Line) : Yard := putSet y l.num (l :: (setOf y l.num).filter fun x => x.num != l.num)

/-- The yard without the line. -/
def dropLine (y : Yard) (num : Nat) : Yard := putSet y num ((setOf y num).filter fun x => x.num != num)

/-- Allocates a line, as most or least recently used (R237): the line evicted from a full set with it. -/
def allocLine (y : Yard) (l : Line) (mru : Bool) : Yard × Option Line :=
  let set := setOf y l.num
  let (kept, gone) := if set.length < 16 then (set, none) else (set.take 15, set[15]?)
  (putSet y l.num (if mru then l :: kept else kept ++ [l]), gone)

/-- A dirty line that is evicted is written back to memory (R237). -/
def writeBack (s : State) (p : Nat) (g : Option Line) : State :=
  match g with
  | some l => if l.dirty then emit s (.memWrite p l.num l.data) else s
  | none => s

/-- Allocates a line in the yard of port p. -/
def allocIn (s : State) (p : Nat) (l : Line) (mru : Bool) : State :=
  let (y, gone) := allocLine (getYard s p) l mru
  writeBack (modYard s p fun _ => y) p gone

/-- Answers a read with bytes of its line: to the requesting core, or as one multicast flit, rooted at the router from which the port responds, to the members of its group (R218, R235). -/
def answerYard (s : State) (f : Flit) (line : List Byte) : State :=
  let bs := slice line (f.addr % 256) f.len
  if f.group = [] then
    send s { id := 0, vc := 1, src := f.dst, dst := .core f.core, route := [], kind := .readResp, core := f.core, ctx := f.ctx, seq := f.seq,
             off := f.off, len := f.len, data := bs }
  else
    sendTree s { id := 0, vc := 1, src := f.dst, dst := f.dst, route := [], kind := .arrival, core := f.core, ctx := f.ctx, seq := f.seq,
                 off := f.off, len := f.len, data := bs, start := f.start } f.group

/-- A request waits for its line from memory (R237). -/
def waitMemory (s : State) (p : Nat) (f : Flit) : State :=
  let num := lineOf f.addr
  let asked := (getYard s p).waiting.any fun g => lineOf g.addr == num
  let s1 := modYard s p fun y => { y with waiting := y.waiting ++ [f] }
  if asked then s1 else emit s1 (.memRead p num)

/-- A dirty line with an uncorrectable error is lost (R412): listed, or, as the seventeenth, fatal. -/
def loseLine (s : State) (p num : Nat) : State :=
  let y := dropLine (getYard s p) num
  if y.lost.contains num then modYard s p fun _ => y
  else if y.lost.length < 16 then modYard s p fun _ => { y with lost := y.lost ++ [num] }
  else
    let r : ErrRec := { code := ePARITY, cls := 2, page := 0, detail := word (p * 2 ^ 28 + num % 2 ^ 28), rtime := rtimeLo s }
    jnlError (modYard s p fun _ => { y with stopped := true }) 0xFFFF r

/-- What the check of a line that is present leaves (R412): the state, and the line where it can be used. -/
def checkLine (s : State) (p : Nat) (f : Flit) (l : Line) (ecc : EccResult) : State × Option Line :=
  match ecc with
  | .good => (s, some l)
  | .single => (modCore s f.core fun k => kBump k 13 6, some l)
  | .double => if l.dirty then (loseLine s p l.num, none) else (modYard s p fun y => dropLine y l.num, none)

/-- The counters of a core's yard reads (R250). -/
def countRead (s : State) (f : Flit) (hit : Bool) : State := modCore s f.core fun k => kBump k 6 (if hit then 4 else 5)

/-- A read request reaches its landing port (R236, R237, R412). -/
def yardRead (s : State) (p : Nat) (f : Flit) (ecc : EccResult) : State :=
  let num := lineOf f.addr
  let y := getYard s p
  if y.lost.contains num then answerFlit s f 1 ePARITY
  else match findLine y num with
  | none => waitMemory (countRead s f false) p f
  | some l =>
    match checkLine s p f l ecc with
    | (s1, some l) => answerYard (modYard (countRead s1 f true) p fun y => useLine y l) f l.data
    | (s1, none) =>
      let y1 := getYard s1 p
      if y1.lost.contains num || y1.stopped then answerFlit s1 f 1 ePARITY else waitMemory (countRead s1 f false) p f

/-- A read request is served by the yard of the landing port it has reached (R236). -/
def execYardRead (id : Nat) (ecc : EccResult) (s : State) : Out1 :=
  .next (match takeFlit s id with
    | some (f, s1) =>
      match f.kind, f.dst with
      | .readReq, .land p _ => if (getYard s p).stopped then s else yardRead s1 p f ecc
      | _, _ => s
    | none => s)

/-- A line with the bytes of a write laid over it. -/
def writeLine (l : Line) (f : Flit) : Line := { l with dirty := true, data := splice l.data (f.addr % 256) f.data }

/-- A write reaches its landing port (R237, R412): a whole line needs no memory and clears a lost line's entry. -/
def yardWrite (s : State) (p : Nat) (f : Flit) (ecc : EccResult) : State :=
  let num := lineOf f.addr
  if f.data.length = 256 then
    let s1 := modYard s p fun y => { y with lost := y.lost.filter (· ≠ num) }
    let l : Line := { num := num, dirty := true, data := f.data }
    let s2 := match findLine (getYard s1 p) num with
      | some _ => modYard s1 p fun y => useLine y l
      | none => allocIn s1 p l true
    answerFlit s2 f 1 0
  else match findLine (getYard s p) num with
  | some l =>
    match checkLine s p f l ecc with
    | (s1, some l) => answerFlit (modYard s1 p fun y => useLine y (writeLine l f)) f 1 0
    | (s1, none) => waitMemory s1 p f
  | none => waitMemory s p f

/-- A write is taken by the yard of the landing port it has reached (R237). -/
def execYardWrite (id : Nat) (ecc : EccResult) (s : State) : Out1 :=
  .next (match takeFlit s id with
    | some (f, s1) =>
      match f.kind, f.dst with
      | .yardWrite, .land p _ => if (getYard s p).stopped then s else yardWrite s1 p f ecc
      | _, _ => s
    | none => s)

/-- One request that waited for its line is served (R237): a read fills as its YHINT says, a write allocates. A partial write that waited while a write of the whole line went past it lays its bytes over that line: the spec states no order between two such writes (DESIGN CHOICE, log entry 183). -/
def serveWaiting (p num : Nat) (data : List Byte) (s : State) (f : Flit) : State :=
  match findLine (getYard s p) num, f.kind with
  | some l, .readReq => answerYard (modYard s p fun y => useLine y l) f l.data
  | some l, _ => answerFlit (modYard s p fun y => useLine y (writeLine l f)) f 1 0
  | none, .readReq =>
    let l : Line := { num := num, dirty := false, data := data }
    answerYard (if f.hint = 1 then s else allocIn s p l (f.hint = 0)) f data
  | none, _ => answerFlit (allocIn s p (writeLine { num := num, dirty := false, data := data } f) true) f 1 0

/-- Memory returns a line for the requests that wait for it (R237). -/
def execYardFill (port : LandingPort) (line : Nat) (data : List Byte) (s : State) : Out1 :=
  if data.length ≠ 256 then .fault .malformed
  else
    let y := getYard s port.val
    let mine := y.waiting.filter fun f => lineOf f.addr == line
    .next (if y.stopped then s
      else mine.foldl (serveWaiting port.val line data) (modYard s port.val fun y => { y with waiting := y.waiting.filter fun f => lineOf f.addr != line }))

/-- A write from outside invalidates the yard's line (R238); a dirty line is written back first. -/
def execExternalWrite (pa : BitVec 48) (s : State) : Out1 :=
  let p := stackOf pa.toNat
  let num := lineOf pa.toNat
  .next (match findLine (getYard s p) num with
    | some l => modYard (writeBack s p (some l)) p fun y => dropLine y num
    | none => s)

/-- A read from outside of a dirty line is answered with the yard's data (R238). -/
def execExternalRead (pa : BitVec 48) (s : State) : Out1 :=
  .next (match findLine (getYard s (stackOf pa.toNat)) (lineOf pa.toNat) with
    | some l => if l.dirty then emit s (.external pa.toNat l.data) else s
    | none => s)

end Sys2Proof.Machine
end

