-- ==== Sys2Proof/Machine/Window.lean ====
section
/-! DEFINITION. Windows (R254 to R258), flits from other chips (R257, R261 to R263), commands through windows (R264, R265). -/

namespace Sys2Proof.Machine

/-! The registers of a window (R271). -/

def winCfg (k : Core) (n : Nat) : Nat := kReg k 7 (0x40 + 16 * n)
def winRange (k : Core) (n : Nat) : Nat := kReg k 7 (0x44 + 16 * n)
def winPerm (k : Core) (n : Nat) : Nat := fld (winCfg k n) 29 2
def winFwd (k : Core) (n : Nat) : Bool := (winCfg k n).testBit 28
def winAxes (k : Core) (n : Nat) : Nat := fld (winCfg k n) 24 4
def winTenant (k : Core) (n : Nat) : Nat := fld (winCfg k n) 16 8
def winFirst (k : Core) (n : Nat) : Nat := fld (winRange k n) 0 10
def winLast (k : Core) (n : Nat) : Nat := fld (winRange k n) 16 10
/-- Bytes of a window (R254). -/
def winBytes (k : Core) (n : Nat) : Nat := (winLast k n + 1 - winFirst k n) * 1024

/-- WIN counter 9: an ignored command or configuration write (R255, R256, R267). -/
def winIgnored (k : Core) : Core := kBump k 7 9

/-- REMOTEOK of the tenant that owns core c. -/
def remoteOk (s : State) (c : Nat) : Bool :=
  match ownerOf s c with
  | some t => tenRemoteOk s t
  | none => false

/-- The conditions of R255. -/
def mayOpen (s : State) (c n : Nat) : Bool :=
  let k := getCore s c
  let w := getWin k n
  !w.open_ && !w.guard && winFirst k n ≤ winLast k n && winLast k n ≤ 767 && winPerm k n ≠ 0 && (winAxes k n = 0 || remoteOk s c)

/-- OPEN (R255). -/
def openWin (s : State) (c n : Nat) (setep : Bool) (ep : Nat) : State :=
  let s1 := if winAxes (getCore s c) n ≠ 0 && !remoteOk s c then refuseBlk s eTENANT ((ownerOf s c).getD 0) else s
  if mayOpen s c n then
    modCore s1 c fun k => kBump (modWin k n fun w => { w with open_ := true, epoch := if setep then ep else w.epoch, stale := 0 }) 7 4
  else modCore s1 c winIgnored

/-- CLOSE (R256); for a closed window it is ignored and counted. -/
def shutWin (k : Core) (n now : Nat) : Core := if (getWin k n).open_ then closeWin k n now else winIgnored k

/-- CLOSE of window n of core c, as a source release among the events of its cycle (R198, R256). -/
def closeAt (s : State) (c n : Nat) : State :=
  let s1 := inOrder s c rankFail
  modCoreW s1 c fun k => shutWin k n s1.now

/-- WIN_CMD OP OPEN (R255). -/
def execWindowOpen (p : Port) (c : CoreId) (win : WinId) (setep : Bool) (epoch : BitVec 16) (s : State) : Out1 :=
  .next (coreWrite s p c 7 0x740 fun s => openWin s c.val win.val setep epoch.toNat)

/-- WIN_CMD OP CLOSE (R256). -/
def execWindowClose (p : Port) (c : CoreId) (win : WinId) (s : State) : Out1 :=
  .next (coreWrite s p c 7 0x740 fun s => closeAt s c.val win.val)

/-- The guard interval of a window ends 8,192 RCLK cycles after its close (R256). -/
def execGuardExpiry (c : CoreId) (win : WinId) (s : State) : Out1 :=
  let w := getWin (getCore s c.val) win.val
  .next (if w.guard then modCore (atLeast s w.guardEnd) c.val fun k => modWin k win.val fun w => { w with guard := false } else s)

/-! Flits from other chips (R253, R257). -/

/-- How a VC2 flit reached its core: by a torus port, or over the mesh from a core of this chip (R259). -/
inductive Via where
  | port (p : Nat)
  | loop (core : Nat)
  deriving DecidableEq, Repr

/-- The axis of a torus port, by bit of AXES (R251, R271). -/
def portAxis (p : Nat) : Nat := p / 2

/-- The arrival's axis is admitted; loopback passes (R257, check 3). -/
def axisOk (k : Core) (n : Nat) (v : Via) : Bool :=
  match v with
  | .port p => (winAxes k n).testBit (portAxis p)
  | .loop _ => true

/-- The header of an answer (R253). -/
def answerHdr (s : State) (c : Nat) (h : RemoteHdr) (kind len code : Nat) : RemoteHdr :=
  { h with kind := BitVec.ofNat 4 kind, srcChip := torusHere s, dstChip := h.srcChip, srcCore := h.dstCore, dstCore := h.srcCore,
           tenant := BitVec.ofNat 8 ((ownerOf s c).getD 0), len := BitVec.ofNat 9 len, slotStart := false, slotEnd := false, ocnt := 0#4,
           fwdLeft := 0#2, code := BitVec.ofNat 8 code }

/-- Sends an answer on VC2 the way the flit came (R217). -/
def answerRemote (s : State) (c : Nat) (v : Via) (h : RemoteHdr) (kind code : Nat) (data : List Byte) : State :=
  send s { id := 0, vc := 2, src := .core c, dst := match v with
             | .port p => .torus p
             | .loop d => .core d,
           route := [], kind := if kind = 3 then .pullResp else if kind = 4 then .ack else .nack, core := h.srcCore.toNat, ctx := h.ctx.toNat,
           seq := h.seq.toNat, len := data.length, data := data, code := code, hdr := some (answerHdr s c h kind data.length code) }

/-- Counter and NACK of a refused flit (R257, R272). -/
def refuseRemote (s : State) (c : Nat) (v : Via) (h : RemoteHdr) (counter code : Nat) : State :=
  answerRemote (modCore s c fun k => kBump k 7 counter) c v h 5 code []

/-- Checks 1 to 6 of R257: the counter and the code of the first that fails. -/
def windowCheck (k : Core) (v : Via) (h : RemoteHdr) : Option (Nat × Nat × Nat) :=
  let n := h.window.val
  let w := getWin k n
  let need := if h.kind = 2#4 then 1 else 0
  let bytes := max 1 h.len.toNat
  let at_ := winFirst k n * 1024 + h.offset.toNat
  if !w.open_ || w.epoch ≠ h.epoch.toNat then some (1, 3, eWINDOW_CLOSED)
  else if h.tenant.toNat ≠ winTenant k n then some (2, 1, eWINDOW_CLOSED)
  else if !axisOk k n v then some (3, 1, eWINDOW_CLOSED)
  else if !((winPerm k n).testBit need) then some (4, 1, eWINDOW_CLOSED)
  else if winBytes k n < h.offset.toNat + bytes then some (5, 2, eSHAPE_OVER)
  else if !segUp k (at_ / 65536) || !segUp k ((at_ + bytes - 1) / 65536) then some (6, 2, eSEGMENT_OFF)
  else none

/-- The port of departure and the chip of the next copy within a node (R262). -/
def nextInNode (chip : Word) : Word × Nat :=
  let v := chip.toNat
  let y := fld v 8 8
  let y1 := y / 4 * 4 + (y + 1) % 4
  (word (v - y * 256 + y1 * 256), if y < y1 then 2 else 3)

/-- Copies still to be made of a flit that a port accepts (R262): three at a forwarding window's X, Z or W port, else what the header says. -/
def copiesLeft (k : Core) (p : Nat) (h : RemoteHdr) : Nat :=
  if portAxis p = 1 then h.fwdLeft.toNat else if winFwd k h.window.val then 3 else 0

/-- Acknowledges an accepted write or marker, or sends its copy first and keeps the answer (R262, R263). -/
def acceptRemote (s : State) (c : Nat) (v : Via) (h : RemoteHdr) (data : List Byte) : State :=
  let s1 := modCore s c fun k => kBump k 7 0
  match v with
  | .loop _ => answerRemote s1 c v h 4 0 []
  | .port p =>
    let f := copiesLeft (getCore s c) p h
    if f = 0 then answerRemote s1 c v h 4 0 []
    else
      let (chip, port) := nextInNode (torusHere s)
      let s2 := emit (modCore s1 c fun k => kBump k 7 7) (.torus port { h with dstChip := chip, fwdLeft := BitVec.ofNat 2 (f - 1) } data)
      { s2 with forwards := s2.forwards ++ [{ n := s2.nextForward, hdr := some h, report := none, port := p, own := 0 }], nextForward := s2.nextForward + 1 }

/-- A write or marker that passed checks 1 to 6, with its core in the order of R198, meets the tag rule and the parity of partial words (R195, R257, checks 7 and 8). -/
def windowStore (s : State) (c : Nat) (v : Via) (h : RemoteHdr) (data : List Byte) : State :=
  let k := getCore s c
  let a : Arr := { off := winFirst k h.window.val * 1024 + h.offset.toNat, data := data, start := h.slotStart, fin := h.slotEnd || h.kind = 1#4, ocnt := h.ocnt.toNat,
                   owner := .remote, src := h.window.val, chip := h.srcChip, core := h.srcCore.toNat, ctx := h.ctx.toNat }
  if !arrTagOk k a then refuseRemote (arrRefusal s c eTAG_PROTOCOL none) c v h 2 eTAG_PROTOCOL
  else match arrivalStore k a.off data s.now with
  | .error w => refuseRemote (arrRefusal s c ePARITY (some w)) c v h 2 ePARITY
  | .ok k1 => acceptRemote (putCore s c (wakeOnChange k (arrTag k1 a) s.now)) c v h data

/-- A write or marker takes its place among the events of its cycle (R198). -/
def windowWrite (s : State) (c : Nat) (v : Via) (h : RemoteHdr) (data : List Byte) : State :=
  windowStore (inOrder s c rankArrival) c v h data

/-- A read request that passed checks 1 to 6 (R233, R257, R261): only untagged slots are read. -/
def windowRead (s : State) (c : Nat) (v : Via) (h : RemoteHdr) : State :=
  let (k, r) := readPull (getCore s c) (winFirst (getCore s c) h.window.val * 1024 + h.offset.toNat) h.len.toNat
  let s1 := putCore s c k
  match r with
  | .ok bs => answerRemote (modCore s1 c fun k => kBump k 7 0) c v h 3 0 bs
  | .error (code, none) => refuseRemote s1 c v h 2 code
  | .error (code, some w) => refuseRemote (parityRecord s1 c w { code := code, cls := 1, page := 5 }) c v h 2 code

/-- A write, marker or read request reaches its window (R257, R424). -/
def windowFlit (s : State) (v : Via) (h : RemoteHdr) (data : List Byte) : State :=
  let c := h.dstCore.toNat
  if 1199 < c then s
  else if (getOwner s c).felled then answerRemote s c v h 5 eFELLED []
  else
    let s0 := modCore s c fun k => noteWork (touchData k s.now) s.now
    match windowCheck (getCore s0 c) v h with
    | some (1, ctr, code) =>
      refuseRemote (modCore s0 c fun k => modWin k h.window.val fun w => { w with stale := min 1023 (w.stale + 1) }) c v h ctr code
    | some (2, ctr, code) => refuseRemote (refuseBlk s0 eTENANT h.tenant.toNat) c v h ctr code
    | some (_, ctr, code) => refuseRemote s0 c v h ctr code
    | none => if h.kind = 2#4 then windowRead s0 c v h else windowWrite s0 c v h data

/-- An answer to a DIR 3 stream or to a pull through a window reaches the sending core (R217, R231, R241), FELLED or not: its streams drain (R423). -/
def remoteAnswer (s : State) (h : RemoteHdr) (data : List Byte) : State :=
  let c := h.dstCore.toNat
  if 1199 < c then s
  else match h.kind.toNat with
  | 3 => respStream s c h.ctx.toNat h.seq.toNat data
  | 4 => ackStream s c h.ctx.toNat h.seq.toNat
  | _ => nackStream s c h.ctx.toNat h.seq.toNat h.code.toNat h.window.val

/-- A VC2 flit by its kind (R253). -/
def remoteFlit (s : State) (v : Via) (h : RemoteHdr) (data : List Byte) : State :=
  if h.kind.toNat ≤ 2 then windowFlit s v h data
  else if h.kind.toNat ≤ 5 then remoteAnswer s h data
  else s

/-- A VC2 flit arrives, by a torus port or over the mesh (R257, R259). -/
def execRemoteArrival (src : RemoteSrc) (s : State) : Out1 :=
  match src with
  | .torus p h data =>
    let sized := if h.kind = 0#4 || h.kind = 3#4 then data.length == h.len.toNat && 1 ≤ data.length && data.length ≤ 256 else data == []
    if sized then .next (remoteFlit s (.port p.val) h data) else .fault .malformed
  | .mesh id => .next (match takeFlit s id with
    | some (f, s1) =>
      match f.hdr, f.dst with
      | some h, .core _ => remoteFlit s1 (.loop h.srcCore.toNat) h f.data
      | _, _ => s
    | none => s)

/-! Commands to cores (R264, R265). -/

/-- The VC3 command that a source brings to a core, whose body names OP op: how it came, its header, its body, and the state without its flit. -/
def takeCmd (s : State) (src : CmdSrc) (op : Nat) : Option (Via × WinCmd × List Byte × State) :=
  let got := match src with
    | .torus p h body => some (Via.port p.val, h, body, s)
    | .mesh id =>
      match takeFlit s id with
      | some (f, s1) =>
        match f.cmd, f.dst with
        | some h, .core _ => some (Via.loop h.srcCore.toNat, h, f.data, s1)
        | _, _ => none
      | none => none
    | .chip _ _ => none
  got.filter fun g => bodyOp g.2.2.1 = op

/-- Sends the ANSWER of a core to a command back the way it came (R264): the code and the OP that is answered. -/
def answerCmd (s : State) (v : Via) (h : WinCmd) (body : List Byte) (code : Nat) : State :=
  let c := h.core.val
  sendCmd s c (match v with
    | .port p => .torus p
    | .loop d => .core d) (coreCmd s c h.srcChip h.srcCore.toNat 0 0 true) (cmdBody 0x3F (bodyJob body) (natLe 1 code ++ natLe 1 (bodyOp body)))

/-- The place of a command to a core among the writes of its RCLK cycle to page i, behind the other ports (R8, R265), and its touch on the core's branches (R440, R443). -/
def cmdEnter (s : State) (h : WinCmd) (i : Fin 14) : State :=
  let s1 := portOrder s (.vc3 h.tenant) (.core h.core i)
  modCore s1 h.core.val fun k => wakeDoze (noteWork (touchData k s1.now) s1.now) s1.now 3

/-- The conditions under which a command through a window acts (R265). -/
def cmdPasses (k : Core) (v : Via) (h : WinCmd) : Bool :=
  let w := getWin k h.win.val
  w.open_ && w.epoch = h.epoch.toNat && h.tenant.toNat = winTenant k h.win.val && axisOk k h.win.val v

/-- A command that a core refuses: WIN counter 6 and E_WINDOW_CLOSED (R265). -/
def refuseCmd (s : State) (v : Via) (h : WinCmd) (body : List Byte) : State :=
  answerCmd (modCore s h.core.val fun k => kBump k 7 6) v h body eWINDOW_CLOSED

/-- A command with effect f on page i, through a window of a core that is not FELLED: it acts under the checks of R265, and is answered. -/
def windowCommand (i : Fin 14) (f : WinCmd → List Byte → State → State) (v : Via) (h : WinCmd) (body : List Byte) (s : State) : State :=
  if (getOwner s h.core.val).felled then answerCmd s v h body eFELLED
  else
    let s1 := cmdEnter s h i
    if cmdPasses (getCore s1 h.core.val) v h then answerCmd (f h body s1) v h body 0 else refuseCmd s1 v h body

/-- A chip answers a command to the chip that sent it (R264): the body goes out as a chip command. -/
def answerChip (s : State) (src : ChipId) (body : List Byte) (code : Nat) : State :=
  emit s (.chipCmd src (cmdBody 0x3F (bodyJob body) (natLe 1 code ++ natLe 1 (bodyOp body))))

/-- A chip refuses a command (R265): E_TENANT, counter 1 of the BLK page. -/
def refuseChip (s : State) (src : ChipId) (body : List Byte) : State :=
  answerChip { s with blk := bump s.blk 1 1 } src body eTENANT

/-- A core command with OP op and effect g; sent to a chip, it is refused there (R265). -/
def coreCommand (src : CmdSrc) (op : Nat) (g : Via → WinCmd → List Byte → State → State) (s : State) : Out1 :=
  if !src.wf then .fault .malformed
  else .next (match src with
    | .chip from_ body => if bodyOp body = op then refuseChip s from_ body else s
    | _ =>
      match takeCmd s src op with
      | some (v, h, body, s1) => g v h body s1
      | none => s)

/-- Sets or clears STOP of each masked queue. -/
def stopMask (k : Core) (mask : Nat) (b : Bool) : Core :=
  allQ.foldl (fun k q => if mask.testBit (qIdx q) then setStop k q b else k) k

/-- STOP (R264). -/
def execCmdStop (src : CmdSrc) (_r : Unit) (s : State) : Out1 :=
  coreCommand src 1 (windowCommand 0 fun h body s => modCore s h.core.val fun k => stopMask k (bodyArg body 8 1) true) s

/-- START (R264). -/
def execCmdStart (src : CmdSrc) (_r : Unit) (s : State) : Out1 :=
  coreCommand src 2 (windowCommand 0 fun h body s => modCore s h.core.val fun k => stopMask k (bodyArg body 8 1) false) s

/-- CLOSE (R256, R264): a source release among the events of its cycle (R198). -/
def execCmdClose (src : CmdSrc) (s : State) : Out1 :=
  coreCommand src 3 (windowCommand 7 fun h _ s => closeAt s h.core.val h.win.val) s

/-- CTXCMD (R264). -/
def execCmdCtxcmd (src : CmdSrc) (_r : Unit) (s : State) : Out1 :=
  coreCommand src 4 (windowCommand 6 fun h body s => ctxCommand s h.core.val (bodyArg body 8 4)) s

/-- An abort report empties the slots of its stream, as a source release among the events of its cycle (R198): those of a core of the same chip (R196), or those that arrivals through the window hold (R258). -/
def applyReport (s : State) (h : WinCmd) (ctx : Nat) : State :=
  modCoreW (inOrder s h.core.val rankFail) h.core.val fun k => emptyArrivals k fun t =>
    t.fromCore = h.srcCore.toNat && t.fromCtx = ctx &&
    (if h.direct then t.owner == .onchip else t.owner == .remote && t.src = h.win.val && t.fromChip = h.srcChip)

/-- What a core does with an abort report: the state after it, and its code (R196, R258, R265). A report of a core of this chip names no window. -/
def meetReport (s : State) (h : WinCmd) (direct : Bool) (ctx : Nat) : State × Nat :=
  if (getOwner s h.core.val).felled then (s, eFELLED)
  else
    let s1 := cmdEnter s h 7
    if !direct && h.tenant.toNat ≠ winTenant (getCore s1 h.core.val) h.win.val then (s1, eWINDOW_CLOSED)
    else (applyReport s1 { h with direct := direct } ctx, 0)

/-- The copies still to be made of a report that came by a way (R262, R263): those of the flits that it withdraws. -/
def reportCopies (k : Core) (v : Via) (h : WinCmd) : Nat :=
  match v with
  | .port p => if portAxis p = 1 then h.fwdLeft.toNat else if winFwd k h.win.val then 3 else 0
  | .loop _ => 0

/-- An abort report reaches its core: it is answered there, or goes on along the chain of the flits that it withdraws and is answered once the next copy has answered (R263). -/
def takeReport (v : Via) (h : WinCmd) (body : List Byte) (s : State) : State :=
  let direct := h.direct && (match v with
    | .loop _ => true
    | .port _ => false)
  let (s1, own) := meetReport s h direct (bodyArg body 8 2 % 1024)
  match v, reportCopies (getCore s h.core.val) v h with
  | .port p, n + 1 =>
    let (chip, port) := nextInNode (torusHere s)
    let s2 := emit s1 (.torusCmd port { h with dstChip := chip, fwdLeft := BitVec.ofNat 2 n } body)
    { s2 with forwards := s2.forwards ++ [{ n := s2.nextForward, hdr := none, report := some (h, body), port := p, own := own }], nextForward := s2.nextForward + 1 }
  | _, _ => answerCmd s1 v h body own

/-- ABORTREP (R196, R258, R263). -/
def execCmdAbortrep (src : CmdSrc) (_r : Unit) (s : State) : Out1 := coreCommand src 5 takeReport s

/-- The next copy's answer is in (R263): the flit or report is answered upstream, with a refusal from any copy passed back. -/
def execForwardAck (n : Nat) (code : Byte) (s : State) : Out1 :=
  .next (match s.forwards.find? fun f => f.n == n with
    | none => s
    | some f =>
      let s1 := { s with forwards := s.forwards.filter fun g => g.n != n }
      let c := if f.own ≠ 0 then f.own else code.toNat
      match f.hdr, f.report with
      | some h, _ => answerRemote s1 h.dstCore.toNat (.port f.port) h (if c = 0 then 4 else 5) c []
      | none, some (h, body) => answerCmd s1 (.port f.port) h body c
      | none, none => s1)

/-- An ANSWER reaches a core (R243, R264): that to an abort report is taken by the skidder that waits for it; no other has an effect. -/
def coreAnswer (_ : Via) (h : WinCmd) (body : List Byte) (s : State) : State :=
  if bodyArg body 9 1 = 5 then modCore s h.core.val fun k => noteBusy (takeAnswer k h.srcChip h.srcCore.toNat) s.now else s

/-- ANSWER (R264): it is itself not answered. -/
def execCmdAnswer (src : CmdSrc) (_r0 : Unit) (_r1 : Unit) (_r2 : Unit) (s : State) : Out1 :=
  if !src.wf then .fault .malformed
  else .next (match takeCmd s src 0x3F with
    | some (v, h, body, s1) => coreAnswer v h body s1
    | none => s)

/-! Commands that are refused (R265). -/

/-- An OP that R264 lists for a core, or for a chip. -/
def coreOp (op : Nat) : Bool := 1 ≤ op && op ≤ 5
def chipOp (op : Nat) : Bool := (0x10 ≤ op && op ≤ 0x16) || (0x20 ≤ op && op ≤ 0x23)

/-- A command sent to a core whose OP it does not take: no effect, and a refusal (R265). -/
def coreRefuses (v : Via) (h : WinCmd) (body : List Byte) (s : State) : State :=
  if (getOwner s h.core.val).felled then answerCmd s v h body eFELLED else refuseCmd (cmdEnter s h 7) v h body

/-- The OP of the body that a source brings. -/
def srcOp (s : State) : CmdSrc → Nat
  | .torus _ _ body => bodyOp body
  | .mesh id => ((findFlit s id).map fun f => bodyOp f.data).getD 0x3F
  | .chip _ body => bodyOp body

/-- A command with an OP that its receiver does not take (R265) has no effect and is refused; ANSWER is never answered. -/
def execCmdRefused (src : CmdSrc) (_r : Unit) (s : State) : Out1 :=
  if !src.wf then .fault .malformed
  else
    let op := srcOp s src
    .next (if op = 0x3F then s
    else match src with
    | .chip from_ body => if chipOp op then s else refuseChip s from_ body
    | _ =>
      if coreOp op then s
      else match takeCmd s src op with
      | some (v, h, body, s1) => coreRefuses v h body s1
      | none => s)

end Sys2Proof.Machine
end

