-- ==== Sys2Proof/Machine/Grove.lean ====
section
/-! DEFINITION. The grove's clocks (R356 to R358), GVOP (R359, R365, R366) and the channels of the grove port (R360 to R364). -/

namespace Sys2Proof.Machine

/-! Clocks. -/

/-- A setting of GRV_CLKn is refused (R358). -/
def clkRefused (k : Core) (c n : Nat) (w : Word) : Bool :=
  let lim := kReg k 10 0x58
  let div := clkDiv w
  (clkSrc w = 0 && div < fld lim (4 * n) 4 + 1) || div < 2 || 16 < div ||
  (clkSrc w = 2 && (!(lim.testBit (16 + n)) || (bankOf c).isNone))

/-- A switch of region n to its GRV_CLKn setting begins, unless one is under way (R357); a region that has lost its source stays held until it completes. -/
def beginSwitch (k : Core) (n now : Nat) : Core :=
  if (getRegion k n).switching then k
  else modRegion k n fun r => { r with switching := true, since := now, target := word (kReg k 10 (0x40 + 4 * n)) }

/-- A write of GRV_CLKn (R357, R358). -/
def writeClk (k : Core) (c n now : Nat) (w : Word) : Core :=
  if clkRefused k c n w then kBump k 10 8
  else beginSwitch (setKReg k 10 (0x40 + 4 * n) (w &&& 0x1F3#32).toNat) n now

/-- A write to GRV_CLKn starts a switch, or is refused (R357, R358). -/
def execClockSwitch (p : Port) (c : CoreId) (n : Fin 4) (v : Word) (s : State) : Out1 :=
  .next (coreWrite s p c 10 (0x40 + 4 * n.val) fun s => modCore s c.val fun k => writeClk k c.val n.val s.now v)

/-- A setting's source gives no edges: it is the bank clock, which does not run. -/
def sourceSilent (s : State) (c : Nat) (w : Word) : Bool := clkSrc w = 2 && !bankClock s c

/-- Why region n's switch cannot complete: the old source gives no edge at which the clock could be held low, or the new one gives none (R357). -/
def switchStuck (s : State) (c n : Nat) : Bool :=
  let r := getRegion (getCore s c) n
  sourceSilent s c r.target || (!r.lost && sourceSilent s c r.cur)

/-- FCLK cycles that a switch takes at least: to the next falling edge of the old source where that still runs, and two falling edges of the new one (R357); a bank clock's edges are not known. -/
def switchTime (r : Region) : Nat :=
  let period := fun w : Word => match clkSrc w with
    | 0 => clkDiv w
    | 1 => 17
    | _ => 0
  2 * period r.target

/-- A switch completes after two edges of the new source (R357): the clock is released on it; a setting written meanwhile begins its own switch. -/
def execClockSwitchDone (c : CoreId) (n : Fin 4) (s : State) : Out1 :=
  let r := getRegion (getCore s c.val) n.val
  .next (if r.switching && !switchStuck s c.val n.val then
    let s1 := atLeast s (r.since + switchTime r)
    modCore s1 c.val fun k =>
      let k1 := kBump (modRegion k n.val fun r => { r with switching := false, cur := r.target, lost := false }) 10 6
      if kReg k1 10 (0x40 + 4 * n.val) = r.target.toNat then k1 else beginSwitch k1 n.val s1.now
  else s)

/-- Region n has lost its source (R357): its clock stays held low, LOST is set, counter 7 counts. -/
def loseClock (k : Core) (n : Nat) : Core :=
  kBump (setKReg (modRegion k n fun r => { r with switching := false, lost := true, cur := if r.switching then r.target else r.cur }) 10 0x50 (kReg k 10 0x50 ||| 2 ^ (8 + n))) 10 7

/-- A source that has been silent for 64 RCLK cycles is lost (R357): the one that a switch waits for, or the one that clocks the region. -/
def execClockLost (c : CoreId) (n : Fin 4) (s : State) : Out1 :=
  let r := getRegion (getCore s c.val) n.val
  .next (if r.switching then
    if switchStuck s c.val n.val then modCore (atLeast s (r.since + rclk 64)) c.val fun k => loseClock k n.val else s
  else if !r.lost && sourceSilent s c.val r.cur then modCore s c.val fun k => loseClock k n.val
  else s)

/-! GVOP (R151, R359, R365, R366). -/

/-- The GVOP is legal as written and within its slot's declaration (R151, R359, R365). -/
def gvLegal (k : Core) (raw : List Byte) : Bool :=
  let d := slotDecl k (gvSlot raw)
  let info := d.info.toNat
  let ty := d.types.toNat
  headerLegal raw true && gvSlot raw < 16 && typeOk (gvA raw) && typeOk (gvO raw) && fld (leAt raw 0x12 1) 0 4 = 0 && leAt raw 0x13 1 < 4 &&
  offLegal (gvAoff raw) && offLegal (gvBoff raw) && offLegal (gvOoff raw) && zeroAt raw 0x1D 1 && zeroAt raw 0x26 2 && zeroAt raw 0x38 4 &&
  extLegal (leAt raw 0x22 2) && extLegal (leAt raw 0x24 2) && !flagOf raw 2 &&
  info.testBit 31 && ty.testBit (gvA raw) && info.testBit (gvO raw) &&
  (if gvHasB raw then typeOk (gvB raw) && (info.testBit 27 || info.testBit 28) && ty.testBit (16 + gvB raw) else !(info.testBit 28))

/-- ROWS and COLS of a GVOP in force. -/
def gvExts (k : Core) (loops : List LoopFrame) (raw : List Byte) : Nat × Nat :=
  (extValue k loops (leAt raw 0x22 2), extValue k loops (leAt raw 0x24 2))

/-- Items 2 to 4 of R182 on the extents of a GVOP. -/
def gvExtChecks (k : Core) (loops : List LoopFrame) (raw : List Byte) : List (Bool × Nat) :=
  let es := [leAt raw 0x22 2, leAt raw 0x24 2]
  [(!es.all (extNested loops), eLOOP_NEST), (!es.all (extPlanned k), eSHAPE_OVER), (es.any fun e => 32767 < extValue k loops e, eSHAPE_OVER)]

/-- Lanes of the soft vector engine (R368, R379). -/
def engineLanes (k : Core) : Nat :=
  match fld k.grv.engine.toNat 28 3 with
  | 0 => 0
  | n => 2 ^ (n + 2)

/-- The cycle in which a GVOP whose window opens in cycle t completes at the earliest (R367): where GCLK0 comes from FCLK and the image has an engine, after the window DIV × (B + D − 2) cycles; otherwise as the window closes. -/
def gvEnds (k : Core) (raw : List Byte) (rows cols t : Nat) : Nat :=
  let info := (slotDecl k (gvSlot raw)).info
  let e := min (engineLanes k / (wfld info 24 3 + 1)) (min (gvIn raw) (beatElems (typeBits (gvO raw))))
  let w := (getRegion k 0).cur
  if clkSrc w = 0 && e ≠ 0 then t + 8 + clkDiv w * (rows * ceilDiv cols e + wfld info 18 6 - 2) else t + 8

/-- The plan of a GVOP (R151, R183, R365, R366). -/
def gvopPlan (k : Core) (loops : List LoopFrame) (raw : List Byte) (_ : Fetched) : Plan :=
  let (rows, cols) := gvExts k loops raw
  let r := max 1 rows
  let n := max 1 cols
  let a := rowsRegion (gvAoff raw) r (gvAstride raw) (rowBytes (gvA raw) n)
  let b := if gvHasB raw then rowsRegion (gvBoff raw) r (gvAstride raw) (rowBytes (gvB raw) n) else []
  let o := gvOutRegion raw r n
  let own := gvLegal k raw && rowLegal (gvA raw) cols && rowLegal (gvO raw) cols && (!gvHasB raw || rowLegal (gvB raw) cols)
  { ins := a ++ b, outs := o, null := rows = 0 || cols = 0, consume := (if gvCA raw then [a] else []) ++ (if gvCB raw then [b] else []),
    bad := firstFail ([(!own, eDESC_CRC)] ++ gvExtChecks k loops raw ++ ([(!regionsIn raw (a ++ b) o, eSHAPE_OVER)] : List (Bool × Nat))),
    setup := fun k t f => { f with ends := gvEnds k raw rows cols t } }

/-- The next free 2-bit tag (R363). -/
def freeTag (g : GrovePort) : Nat := ((List.range 4).map fun i => (g.nextTag + i) % 4).find? (fun t => !(g.ops.any fun o => o.tag = t)) |>.getD g.nextTag

/-- The newest GVOP of GVQ goes to the grove (R359): its tag and its command. -/
def startGvop (s : State) (c : Nat) : State :=
  let k := getCore s c
  match k.gvq.flights.getLast? with
  | some f =>
    if f.work = .running && !f.null then
      let (rows, cols) := gvExts k f.loops f.raw
      let tag := freeTag k.grv.port
      let op : PortOp := { tag := tag, raw := f.raw, rows := rows, cols := cols }
      let s1 := modCore s c fun k => modPort (modQ k .gvq fun x => { x with flights := x.flights.dropLast ++ [{ f with tag := tag }] }) fun g =>
        { g with ops := g.ops ++ [op], nextTag := (tag + 1) % 4, last := s.now }
      emit s1 (.groveCmd c tag (gvSlot f.raw) (slice f.raw 0x10 44 ++ natLe 2 rows ++ natLe 2 cols ++ natLe 1 (leAt f.raw 1 1)))
    else s
  | none => s

/-- A GVOP on a halted grove fails in its issue window (R405). -/
def haltedGvop (s : State) (c : Nat) : State :=
  match readyControl s c .gvq with
  | some e => if opOf e.raw = 0x50 then issueDead s c .gvq e (effective (getCore s c).gvq.loops (getCore s c).gvq.issue e.raw) { code := eSCRUB_MISMATCH, page := 10 } else s
  | none => s

/-- GVOP (R359, R363, R365): it issues once every ABORT has been answered and not while the grove is being blanked, and it fails on a halted grove (R405). -/
def execGvop (c : CoreId) (s : State) : Out1 :=
  let k := getCore s c.val
  .next (if (k.grv.port.ops.any fun o => o.aborting) || k.grv.blanking.isSome then s
  else if k.grv.halted then haltedGvop s c.val
  else
    let s1 := issueOp s c.val .gvq 0x50 gvopPlan
    if (getCore s1 c.val).gvq.flights.length = k.gvq.flights.length then s1 else startGvop s1 c.val)

/-! The port's channels (R360 to R364). -/

/-- The GVOP of a tag works on, and its flight with it. -/
def liveOp (k : Core) (tag : Nat) : Option PortOp :=
  match portOp k tag with
  | some o => if !o.aborting && !o.answered && (k.gvq.flights.any fun f => f.work = .running && !f.null && f.tag = tag) then some o else none
  | none => none

/-- IN beat credits of the image (R379). -/
def inCredits (k : Core) : Nat := fld k.grv.engine.toNat 14 5

/-- The oldest GVOP with operand beats still to send. -/
def nextSender (k : Core) : Option PortOp :=
  k.grv.port.ops.find? fun o => (liveOp k o.tag).isSome && o.beats.length < o.rows * gvPerRow o.raw o.cols

/-- The port reads and sends the next operand beat of op o (R205, R206, R359), or fails the GVOP for wrong parity. -/
def sendBeat (s : State) (c : Nat) (o : PortOp) : State :=
  let i := o.beats.length
  let (a, b) := beatRegions o.raw o.cols i
  let k := flushRegions (getCore s c) (a :: b)
  match badInRegions k (a :: b) with
  | some w => putCore s c (failTagged k o.tag ePARITY (addrDetail w) 5)
  | none =>
    let bs := gvBeat k o.raw o.cols i
    let k1 := modPort (modOp k o.tag fun o => { o with beats := o.beats ++ [bs] }) fun g => { g with inBuf := g.inBuf ++ [bs], last := s.now }
    emit (putCore s c k1) (.groveBeat c o.tag ((i + 1) % gvPerRow o.raw o.cols = 0) (i + 1 = o.rows * gvPerRow o.raw o.cols) bs)

/-- The port sends the next operand beat while it holds a credit (R360). -/
def execPortInBeat (c : CoreId) (s : State) : Out1 :=
  let k := getCore s c.val
  .next (match nextSender k with
    | some o => if k.grv.port.inBuf.length < inCredits k then sendBeat s c.val o else s
    | none => s)

/-- s at the next edge of GCLK0 of core c from cycle t on: the grove side of the port acts then (R39). -/
def atEdge (s : State) (c t : Nat) : State := let u := max s.now t; atLeast s (nextEdge s u (getRegion (getCore s c) 0).cur)

/-- The grove takes the oldest IN beat, one in a cycle of GCLK0, and returns its credit (R39, R360, R380). -/
def execPortInCredit (c : CoreId) (s : State) : Out1 :=
  let g := (getCore s c.val).grv.port
  .next (if g.inBuf = [] || !clkRuns s c.val 0 then s
  else
    let s1 := atEdge s c.val ((g.taken.map (· + 1)).getD 0)
    modCore s1 c.val fun k => kBump (modPort k fun g => { g with inBuf := g.inBuf.drop 1, taken := some s1.now }) 10 1)

/-- s once the OUT buffer has a credit for the grove to send with (R360). -/
def withCredit (s : State) (c : Nat) : State :=
  let g := (getCore s c).grv.port
  if g.outFree = 0 then atLeast s ((g.outBuf.head?.map (·.due)).getD s.now) else s

/-- The port takes a beat from the OUT channel (R39, R360, R361, R363). -/
def takeOut (s : State) (c tag : Nat) (beat : OutBeat) : State :=
  let s1 := withCredit (atEdge s c s.now) c
  modCore s1 c fun k =>
    match liveOp k tag, portOp k tag with
    | some o, _ => modPort (acceptBeat k o beat s1.now) fun g => { g with last := s1.now }
    | none, some o => if o.answered && !o.aborting then k else discardBeat k
    | none, none => discardBeat k

/-- A beat on the OUT channel, while GCLK0 runs. -/
def execPortOutBeat (c : CoreId) (tag : Fin 4) (beat : OutBeat) (s : State) : Out1 :=
  if !beat.wf then .fault .malformed
  else .next (if clkRuns s c.val 0 then takeOut s c.val tag.val beat else s)

/-- The counts of a GVOP that the grove answered with OK (R362): elements written, and where its slot reports a tally those of the built-in operator (R369) or of the answer, in the layout of R104. -/
def gvCounts (k : Core) (o : PortOp) (tally : List Byte) : Counts :=
  if !(slotDecl k (gvSlot o.raw)).info.toNat.testBit 30 then { elem := o.elems }
  else if (operatorOf k (gvSlot o.raw)).isSome then { o.counts with elem := o.elems }
  else { elem := o.elems, sat := leAt tally 4 4, flush := leAt tally 8 4, clip := leAt tally 12 4, nan := leAt tally 16 4, flat := leAt tally 20 4, amax := leAt tally 24 4 }

/-- A built-in operator that has sent all of its result beats; the grove answers another's tag when its own logic does (R362). -/
def mayAnswer (k : Core) (o : PortOp) : Bool := (operatorOf k (gvSlot o.raw)).isNone || o.rows ≤ o.row

/-- s once every OUT beat of a tag has been written (R362). -/
def outWritten (s : State) (c tag : Nat) : State :=
  atLeast s (((getCore s c).grv.port.outBuf.filter fun e => e.tag = tag).foldl (fun m e => max m e.due) s.now)

/-- An answer on DONE for op o (R362): with OK its GVOP has done its work, once its beats are written and its scatter writes have left the gather buffer; with ERR it fails. -/
def answerOp (k : Core) (o : PortOp) (ok : Bool) (tally : List Byte) (now : Nat) : Core :=
  let k1 := modPort (modOp k o.tag fun o => { o with answered := true }) fun g => { g with last := now }
  if ok then
    let k2 := flushRegions k1 (gvOutRegion o.raw o.rows o.cols)
    modTagged k2 o.tag fun f => { f with work := .finished, counts := gvCounts k2 o tally }
  else failTagged (kBump k1 10 5) o.tag eRESIDUE 0#32 10

/-- The grove answers a tag on DONE, while GCLK0 runs (R39, R362). -/
def execPortDone (c : CoreId) (tag : Fin 4) (ok : Bool) (tally : List Byte) (s : State) : Out1 :=
  if tally.length ≠ 32 then .fault .malformed
  else .next (if (liveOp (getCore s c.val) tag.val).any (mayAnswer (getCore s c.val)) && clkRuns s c.val 0 then
    let s1 := outWritten (atEdge s c.val s.now) c.val tag.val
    modCore s1 c.val fun k => match liveOp k tag.val with
      | some o => answerOp k o ok tally s1.now
      | none => k
  else s)

/-- The grove answers ABORT with ABORTED (R363): the tag may be used again. -/
def execPortAborted (c : CoreId) (tag : Fin 4) (s : State) : Out1 :=
  .next (if clkRuns s c.val 0 then
    let s1 := atEdge s c.val s.now
    modCore s1 c.val fun k => match portOp k tag.val with
      | some o => if o.aborting then modPort k fun g => { g with ops := g.ops.filter fun o => o.tag ≠ tag.val, last := s1.now } else k
      | none => k
  else s)

/-- A port silent for GRV_PORTTO.TIMEOUT RCLK cycles fails the oldest GVOP that the grove has not answered (R364). -/
def execPortTimeout (c : CoreId) (s : State) : Out1 :=
  let k := getCore s c.val
  let to_ := fld (kReg k 10 0x54) 0 20
  .next (match k.gvq.flights.find? fun f => f.work = .running && !f.null with
    | some f =>
      if to_ = 0 then s
      else modCore (atLeast s (k.grv.port.last + rclk to_)) c.val fun k => failTagged (kBump k 10 4) f.tag eSTALL_CYCLE 0#32 10
    | none => s)

end Sys2Proof.Machine
end

