-- ==== Sys2Proof/Machine/Fio.lean ====
section
/-! DEFINITION. Fabric I/O (R371 to R378): supplies and bank clocks, pin events, the storm limiter, timestamps. -/

namespace Sys2Proof.Machine

/-- A bank. -/
def getBank (s : State) (b : Nat) : Bank := fget s.banks b {}

/-- s with f applied to bank b. -/
def modBank (s : State) (b : Nat) (f : Bank → Bank) : State := { s with banks := fset s.banks b (f (getBank s b)) }

/-- A pin. -/
def getPin (s : State) (p : Nat) : Pin := fget s.pins p {}

/-- s with f applied to pin p. -/
def modPin (s : State) (p : Nat) (f : Pin → Pin) : State := { s with pins := fset s.pins p (f (getPin s p)) }

/-- Counter n of the FIO page plus 1 (R382). -/
def fioBump (s : State) (n : Nat) : State := { s with fioPage := bump s.fioPage n 1 }

def bankCfg (s : State) (b : Nat) : Nat := gReg s .fio (0x40 + 4 * b)
def pinCfg (s : State) (p : Nat) : Nat := gReg s .fio (0x60 + 4 * p)
def evCfg (s : State) (p : Nat) : Nat := gReg s .fio (0x1E0 + 4 * p)

/-- The setting of a pin is one that R373's table allows: LVDS on an even pin of a bank at 1.8 V, input or output. -/
def pinLegal (s : State) (p w : Nat) : Bool := !(w.testBit 26) || (p % 2 = 0 && fld (bankCfg s (p / 24)) 26 2 = 3 && fld w 24 2 ≠ 2)

/-- Pin p is the complement side of an LVDS pair, its own configuration ignored (R373). -/
def pinShadowed (s : State) (p : Nat) : Bool := p % 2 = 1 && (pinCfg s (p - 1)).testBit 26 && pinLegal s (p - 1) (pinCfg s (p - 1))

/-- The core that owns pin p (R371). -/
def pinOwner (s : State) (p : Nat) : Option Nat :=
  let w := pinCfg s p
  if w.testBit 31 && fld w 27 4 < 10 then some (10 * (p / 24) + fld w 27 4) else none

/-- Pin p is not held in its reset state: its bank is enabled and supplied, its owner's grove is neither halted nor shut, its setting is legal and not off (R371 to R373, R375, R405, R447). -/
def pinLive (s : State) (p : Nat) : Bool :=
  let b := p / 24
  (bankCfg s b).testBit 31 && (getBank s b).supplyOk && !(getBank s b).mismatch && ((pinOwner s p).any fun c => !(getCore s c).grv.halted && (getCore s c).pwr.st ≠ .shut) && fld (pinCfg s p) 24 2 ≠ 3 &&
  pinLegal s p (pinCfg s p) && !pinShadowed s p

/-- The event path of pin p samples its level (R376). -/
def pinSampled (s : State) (p : Nat) : Bool := pinLive s p && (evCfg s p).testBit 31

/-- What its grove drives onto pin p, none for high impedance (R373): from the output registers, or past them. -/
def pinDrive (s : State) (p : Nat) : Option Bool :=
  match (if pinLive s p && fld (pinCfg s p) 24 2 ≠ 0 then pinOwner s p else none) with
  | none => none
  | some c =>
    let k := getCore s c
    let e := fabricAt s c (fabricBits k) k s.now
    let get := fun en : Bool => if padClocked (pinCfg s p) then fget k.grv.pads (4 * (p % 24) + 1 + b2n en) false else e.mux (e.val fabricDepth) (.pad (p % 24) en)
    if fld (pinCfg s p) 24 2 = 1 || get true then some (get false) else none

/-! Banks (R372, R374). -/

/-- The supply status of bank b changes (R372). -/
def execSupplyStatusChange (b : BankId) (good : Bool) (s : State) : Out1 :=
  .next (if good then modBank s b.val fun k => { k with supplyOk := true, mismatch := false }
  else if (getBank s b.val).mismatch then modBank s b.val fun k => { k with supplyOk := false }
  else evSet (fioBump (modBank s b.val fun k => { k with supplyOk := false, mismatch := true }) 5) evFIO)

/-- The regions of core c on a lost bank clock lose it (R357, R374). -/
def loseBankRegions (k : Core) : Core :=
  (List.range 4).foldl (fun k n =>
    let r := getRegion k n
    if !r.switching && !r.lost && clkSrc r.cur = 2 then loseClock k n else k) k

/-- A bank clock has been silent for 64 RCLK cycles (R374). -/
def execBankClockLost (b : BankId) (s : State) : Out1 :=
  .next (if (getBank s b.val).clkOk then
    let s1 := fioBump (modBank s b.val fun k => { k with clkOk := false }) 6
    let s2 := { s1 with fioPage := setAct s1.fioPage (0x50 + 4 * b.val) 8#32 }
    (List.range 10).foldl (fun s i => modCore s (10 * b.val + i) loseBankRegions) s2
  else s)

/-- A clock appears on the bank's selected pin (R374). -/
def execBankClockRunning (b : BankId) (s : State) : Out1 :=
  let w := bankCfg s b.val
  .next (if w.testBit 31 && (fld w 24 2 = 1 || fld w 24 2 = 2) then modBank s b.val fun k => { k with clkOk := true } else s)

/-! Events (R376 to R378). -/

/-- The length of a rate window in FCLK cycles (R378). -/
def winLen (cfg : Nat) : Nat := rclk (1024 * 2 ^ fld cfg 8 4)

/-- The rate window that holds time now (R378). -/
def rollWindow (p : Pin) (cfg now : Nat) : Pin :=
  let n := (now - p.winStart) / winLen cfg
  if n = 0 then p else { p with winStart := p.winStart + n * winLen cfg, winCount := 0 }

/-- A new window, and a new stuck timer where the pin stands at the level that its last event entered (R378). -/
def freshWindow (p : Pin) (now : Nat) : Pin := { p with winStart := now, winCount := 0, stuckFrom := p.stuckFrom.map fun _ => now }

/-- EDGE admits a change to a level (R376). -/
def edgeMatches (cfg : Nat) (level : Bool) : Bool :=
  match fld cfg 29 2 with
  | 0 => level
  | 1 => !level
  | _ => true

/-- A storm masks pin p (R378). -/
def storm (s : State) (p : Nat) (stuck : Bool) : State :=
  let (pg, _) := pageErr s.fioPage eIO_STORM 0 0
  let s1 := fioBump (modPin { s with fioPage := pg } p fun x => { x with armed := false, storm := true, stuck := stuck }) (if stuck then 2 else 1)
  let s2 := evSet s1 evFIO
  match pinOwner s2 p with
  | some c => ownerEvent s2 c evFIO
  | none => s2

/-- An event that is not delivered (R378). -/
def suppress (s : State) (p : Nat) : State := fioBump (modPin s p fun x => { x with supp := min 65535 (x.supp + 1) }) 3

/-- An event with its time meets the storm limiter (R378). -/
def acceptEvent (s : State) (p time : Nat) : State :=
  let cfg := evCfg s p
  let s1 := modPin s p fun x => rollWindow x cfg s.now
  let x := getPin s1 p
  if !x.armed then suppress s1 p
  else if fld cfg 12 8 ≠ 0 && fld cfg 12 8 < x.winCount + 1 then suppress (storm s1 p false) p
  else modPin s1 p fun x => { x with winCount := x.winCount + 1, deliver := x.deliver ++ [(time, s1.now)] }

/-- A filtered change of level is accepted, MINW further samples after the first (R376). -/
def execPinEvent (pin : PinId) (level : Bool) (s : State) : Out1 :=
  let p := pin.val
  .next (if pinSampled s p && (getPin s p).level ≠ level then
    let cfg := evCfg s p
    let minw := fld cfg 20 8
    let s1 := atLeast s ((getPin s p).lastChange + rclk (minw + 1))
    let s2 := modPin s1 p fun x => { x with level := level, lastChange := s1.now, stuckFrom := if edgeMatches cfg level then some s1.now else none }
    if edgeMatches cfg level then acceptEvent s2 p (rtime s1 - minw) else s2
  else s)

/-- The capture of an event in its bank's timestamp registers (R377). -/
def capture (s : State) (p time : Nat) : State :=
  let b := p / 24
  let t := (getBank s b).tsInfo
  let again := t.toNat.testBit 31
  let info := word (2 ^ 31 + b2n (again || t.toNat.testBit 30) * 2 ^ 30 + p % 24)
  let s1 := modBank s b fun k => { k with tsLo := word time, tsHi := word (time / 2 ^ 32), tsInfo := info }
  if again then fioBump s1 4 else s1

/-- The oldest accepted event of a pin is delivered 2 RCLK cycles after its acceptance (R377). -/
def execFioEventDeliver (pin : PinId) (s : State) : Out1 :=
  let p := pin.val
  .next (match (getPin s p).deliver with
    | [] => s
    | (time, at_) :: rest =>
      let s1 := fioBump (evSet (modPin (atLeast s (at_ + rclk 2)) p fun x => { x with deliver := rest }) evFIO) 0
      let s2 := match pinOwner s1 p with
        | some c => ownerEvent s1 c evFIO
        | none => s1
      if (evCfg s2 p).testBit 28 then capture s2 p time else s2)

/-- A rate window ends and the count restarts (R378). -/
def execStormWindowExpiry (pin : PinId) (s : State) : Out1 :=
  let p := pin.val
  .next (if (evCfg s p).testBit 31 then
    let cfg := evCfg s p
    let s1 := atLeast s ((getPin s p).winStart + winLen cfg)
    modPin s1 p fun x => rollWindow x cfg s1.now
  else s)

/-- A pin stays at the level that its last event entered for the stuck time (R378). -/
def execStuckStorm (pin : PinId) (s : State) : Out1 :=
  let p := pin.val
  let cfg := evCfg s p
  let x := getPin s p
  .next (match x.stuckFrom with
    | some t =>
      if pinSampled s p && x.armed && cfg.testBit 3 && fld cfg 29 2 < 2 then storm (atLeast s (t + rclk (65536 * 2 ^ fld cfg 4 4))) p true
      else s
    | none => s)

/-- s once a rearm of pin p may act: it comes ahead of the events of its RCLK cycle (R378), so after one it waits for the next cycle (log entry 208). -/
def beforeEvents (s : State) (p : Nat) : State :=
  if s.origin < (getPin s p).lastChange && ((getPin s p).lastChange - s.origin) / 17 = rtime s then atLeast s (s.origin + 17 * (rtime s + 1)) else s

/-- REARM (R378). -/
def rearm (s0 : State) (p : Nat) : State :=
  let s := beforeEvents s0 p
  modPin s p fun x => freshWindow { x with armed := true, storm := false, stuck := false, supp := 0 } s.now

/-- FIO_EVSTATp.REARM is written 1 (R378). -/
def execPinRearm (p : Port) (pin : PinId) (s : State) : Out1 :=
  .next (gated (pageGate s p .fio (0x360 + 4 * pin.val) true) fun s => rearm s pin.val)

/-- A read of FIO_TSLOb latches FIO_TSHIb for the port's next read of it (R377). -/
def execTsloRead (p : Port) (b : BankId) (s : State) : Out1 :=
  let g := pageGate s p .fio (0x4E0 + 12 * b.val) false
  .next (if g.2 then
    let k := getBank s b.val
    answerRead (modLatch g.1 p fun l => { l with tsHi := fset l.tsHi b.val k.tsHi }) p (natLe 4 k.tsLo.toNat)
  else answerRead g.1 p (natLe 4 0))

end Sys2Proof.Machine
end

