-- ==== Sys2Proof/Machine/Swap.lean ====
section
/-! DEFINITION. Ownership writes (R59, R60, R73), swaps on the chip and across chips (R48, R72 to R78), job commands (R264 to R269). -/

namespace Sys2Proof.Machine

/-! The swap in progress of a tenant. -/

/-- The swap in progress of tenant t. -/
def swapOf (s : State) (t : Nat) : Option Swap := s.swaps.find? fun w => w.tenant.toNat = t

/-- The swap in progress of a job. -/
def swapOfJob (s : State) (job : Word) : Option Swap := s.swaps.find? fun w => w.job = some job

/-- The swap that core c takes part in. -/
def swapOfCore (s : State) (c : Nat) : Option Swap := s.swaps.find? fun w => w.parts.any fun p => p.core = c

/-- s with f applied to the swap of tenant t. -/
def modSwap (s : State) (t : Nat) (f : Swap → Swap) : State :=
  { s with swaps := s.swaps.map fun w => if w.tenant.toNat = t then f w else w }

/-- f on the part of core c. -/
def modPart (w : Swap) (c : Nat) (f : Part → Part) : Swap := { w with parts := w.parts.map fun p => if p.core = c then f p else p }

/-- A swap without the part of core c. -/
def dropPart (w : Swap) (c : Nat) : Swap := { w with parts := w.parts.filter fun p => p.core ≠ c }

/-- s without the swap of tenant t. -/
def dropSwap (s : State) (t : Nat) : State := { s with swaps := s.swaps.filter fun w => w.tenant.toNat ≠ t }

/-- Raises an event of class SWAP for tenant t; no core applies (R53, R74). -/
def swapEvent (s : State) (t : Nat) : State := tenEvent (evSet s evSWAP) t evSWAP 0xFFF

/-! Ownership (R59, R60). -/

/-- A write to TEN_OWN of core c takes effect (R59, R60); a FELLED core's release is felling's own. A write with OWNED = 0 for a core that is not owned leaves TENANT as it is: no rule says what it does with it (DESIGN CHOICE, log entry 160). -/
def ownTake (s : State) (c : Nat) (v : Word) : State :=
  let o := getOwner s c
  let t := wfld v 0 8
  if wbit v 31 then
    if o.owned then s
    else if o.zeroed && !o.felled && tenCores s t < tenMax s t then
      modOwner s c fun o => { o with owned := true, zeroed := false, tenant := BitVec.ofNat 8 t }
    else s
  else if o.owned && !o.felled then
    let s1 := releaseOwned s c
    let gone : Swap → Bool := fun w => w.exchanged && w.parts = [] && match w.job with
      | some j => (jobById s1 j).isNone
      | none => false
    { s1 with swaps := (s1.swaps.map fun w => dropPart w c).filter fun w => !gone w }
  else s

/-- A TEN_OWN write of a participant during a swap waits for T + 1, or for the core's release of HOLD (R73). -/
def ownWrite (s : State) (c : Nat) (v : Word) : State :=
  match swapOfCore s c with
  | some w =>
    if !w.exchanged || w.job = none then modSwap s w.tenant.toNat fun w => { w with deferred := w.deferred ++ [(c, v)] }
    else ownTake s c v
  | none => ownTake s c v

/-- The deferred writes that sel picks take effect (R73). -/
def takeDeferred (s : State) (t : Nat) (sel : Nat → Bool) : State :=
  match swapOf s t with
  | some w =>
    let s1 := modSwap s t fun w => { w with deferred := w.deferred.filter fun d => !sel d.1 }
    (w.deferred.filter fun d => sel d.1).foldl (fun s d => ownTake s d.1 d.2) s1
  | none => s

/-! The exchange of a page (R48, R72 step 4). -/

/-- The offsets of the set registers of a page. -/
def setOffs (rs : List RegRow) : List Nat := (rs.filter (·.set)).flatMap fun r => (List.range r.count).map fun n => r.base + r.stride * n

/-- A page whose active and shadow sets change places (R48). -/
def exchangeSets (rs : List RegRow) (p : Page) : Page :=
  (setOffs rs).foldl (fun q off =>
    let a := actWord rs p off
    let b := shdWord rs p off
    if a = b then q else { q with act := fset q.act off b, shd := fset q.shd off a }) p

/-- The swappable pages of a core that are armed and take part (R72). -/
def armedPages (k : Core) : List Nat := [0, 2, 3, 4, 5, 6, 9, 10].filter fun i => (kPage k i).arm && (kPage k i).swapen

/-- Page i after its exchange: GEN advanced, ARM and SWPPEND clear. -/
def exchangePage (k : Core) (i : Nat) : Core :=
  modKPage k i fun p => { exchangeSets (rowsCore i) p with gen := p.gen + 1#16, arm := false, swppend := false }

/-- A staged GRV_CLKn that differs from the setting before it begins its switch at edge T, or is refused (R357, R358). -/
def swapClk (k0 : Core) (c now : Nat) (k : Core) (n : Nat) : Core :=
  let a := kReg k0 10 (0x40 + 4 * n)
  let b := kReg k 10 (0x40 + 4 * n)
  if a = b then k
  else if clkRefused k c n (word b) then kBump (setKReg k 10 (0x40 + 4 * n) a) 10 8
  else beginSwitch k n now

/-- What the exchange of page i brings with it (R160, R202, R249, R279, R358); k0 before it. -/
def exchangeEffects (k0 k : Core) (c now i : Nat) : Core :=
  match i with
  | 0 => allQ.foldl (fun k q => dropFetches (modQ k q discardAhead) q) k
  | 5 => retag k0 k
  | 6 =>
    if kReg k0 6 0x40 = kReg k 6 0x40 && kReg k0 6 0x44 = kReg k 6 0x44 then k
    else modSpd k fun d => { d with tags := d.tags.map fun e => (e.1, { e.2 with backed := false }) }
  | 9 => { k with qnt := { k.qnt with active := 1 - k.qnt.active } }
  | 10 => (List.range 4).foldl (swapClk k0 c now) k
  | _ => k

/-- Every armed page of a core exchanges (R72, step 4). -/
def exchangeCore (c now : Nat) (k : Core) : Core :=
  (armedPages k).foldl (fun k i => exchangeEffects k (exchangePage k i) c now i) k

/-- The pages of a core with SWPPEND set or cleared. -/
def markPend (k : Core) (b : Bool) : Core :=
  if b then (armedPages k).foldl (fun k i => modKPage k i fun p => { p with swppend := true }) k
  else { k with pages := k.pages.map fun e => (e.1, { e.2 with swppend := false }) }

/-! The swap controller (R72 to R74). -/

/-- A core that counts as quiet at once: not ACTIVE, or FELLED (R72, step 2; R73). -/
def countsQuiet (s : State) (c : Nat) : Bool :=
  (getOwner s c).felled || match (getCore s c).pwr.st with
    | .active => false
    | _ => true

/-- The cores of a tenant that take part in a swap, or of one job of it (R72). -/
def participants (s : State) (t : Nat) (job : Option Job) : List Nat :=
  ((s.owners.filter fun e => e.2.owned && e.2.tenant.toNat = t).map (·.1)).filter fun c =>
    armedPages (getCore s c) ≠ [] && (match job with
      | some j => j.cores.contains c
      | none => true)

/-- Steps 1 and 2 of R72: SWPPEND is set and HOLD is sent; cores that are not ACTIVE count as quiet. -/
def beginSwap (s : State) (t : Nat) (job : Option Job) (gen : Nat) : State :=
  let cs := participants s t job
  let s1 := cs.foldl (fun s c => modCore s c fun k => markPend k true) s
  { s1 with swaps := s1.swaps ++ [{ tenant := BitVec.ofNat 8 t, job := job.map (·.jobid), gen := gen, g := s.now,
                                    parts := cs.map fun c => { core := c, quiet := countsQuiet s c } }] }

/-- The RCLK edge of this cycle, or the next one. -/
def rclkEdge (s : State) : Nat := s.origin + rclk (ceilDiv (s.now - s.origin) 17)

/-- SWAPAT(T) goes out with T = q + 16 (R72, step 3). -/
def sendSwapat (s : State) (t : Nat) : State := modSwap s t fun w => { w with sentAt := some (rclkEdge s + rclk 16) }

/-- The release command goes to every participant (R74), with the event and counter 4. -/
def abortSwap (s : State) (t : Nat) : State :=
  let s1 := swapEvent (blkBump (modSwap s t fun w => { w with ending := true }) 4) t
  match swapOf s1 t with
  | some w => if w.parts = [] then dropSwap s1 t else s1
  | none => s1

/-- The swap has neither been scheduled nor is it being released (R73). -/
def swapOpen (w : Swap) : Bool := w.sentAt.isNone && !w.ending

/-! Job swaps (R75 to R78). -/

/-- The head chip sends a command to every other chip of the job (R264, R266). -/
def toChips (s : State) (j : Job) (op gen : Nat) : State :=
  if j.role = 1 then emit s (.jobCmd j.jobid (cmdBody op j.jobid (natLe 2 gen))) else s

/-- A member chip sends a command to its head chip (R264). -/
def toHead (s : State) (j : Job) (op gen : Nat) : State := emit s (.chipCmd j.head (cmdBody op j.jobid (natLe 2 gen)))

/-- DONE(gen) reaches the head chip (R75): once it has come from all chips, RELEASE goes out. -/
def takeDone (s : State) (job chip : Word) (gen : Nat) : State :=
  match jobById s job with
  | none => s
  | some j =>
    if j.phase ≠ 2 || gen ≠ j.gen || j.done.contains chip then s
    else if j.done.length + 1 < j.nchips then modJob s job fun j => { j with done := j.done ++ [chip] }
    else
      let s1 := toChips (modJob s job fun j => { j with phase := 0, done := [] }) j 0x14 gen
      modSwap s1 j.tenant.toNat fun w => if w.job = some job then { w with ending := true } else w

/-- This chip answers DONE(gen) (R75). -/
def answerDone (s : State) (j : Job) (gen : Nat) : State :=
  if j.role = 2 then toHead s j 0x13 gen else takeDone s j.jobid (torusHere s) gen

/-- COMMIT(gen) on this chip (R75, R76): SWAPAT goes out; a generation already taken is answered again. -/
def takeCommit (s : State) (job : Word) (gen : Nat) : State :=
  match jobById s job with
  | none => s
  | some j =>
    match swapOfJob s job with
    | some w =>
      if w.gen ≠ gen || w.ending then s
      else if w.exchanged then answerDone s j gen
      else if w.sentAt.isNone && w.parts.all (·.quiet) then sendSwapat s w.tenant.toNat
      else s
    | none => if j.taken = gen && gen ≠ 0 then answerDone s j gen else s

/-- READY(gen) reaches the head chip (R75): once it has come from NCHIPS chips, COMMIT goes out. -/
def takeReady (s : State) (job chip : Word) (gen : Nat) : State :=
  match jobById s job with
  | none => s
  | some j =>
    if j.phase ≠ 1 || gen ≠ j.gen || j.ready.contains chip then s
    else if j.ready.length + 1 < j.nchips then modJob s job fun j => { j with ready := j.ready ++ [chip] }
    else
      let s1 := modJob s job fun j => { j with phase := 2, since := s.now, ready := [], done := [], resends := 0 }
      takeCommit (toChips s1 j 0x12 gen) job gen

/-- Once every participant is quiet, a chip swap is scheduled, and a job swap answers READY (R72, R75). -/
def settleSwap (s : State) (t : Nat) : State :=
  match swapOf s t with
  | some w =>
    if swapOpen w && w.parts.all (·.quiet) then
      match w.job with
      | none => sendSwapat s t
      | some id =>
        match jobById s id with
        | some j => if j.role = 2 then toHead s j 0x11 w.gen else takeReady s id (torusHere s) w.gen
        | none => s
    else s
  | none => s

/-- PREPARE(gen) on this chip (R75); while a swap of the tenant is in progress it starts none. -/
def takePrepare (s : State) (job : Word) (gen : Nat) : State :=
  match jobById s job with
  | none => s
  | some j => if (swapOf s j.tenant.toNat).isSome then s else settleSwap (beginSwap s j.tenant.toNat (some j) gen) j.tenant.toNat

/-- ABORT(gen) on this chip acts as R74 (R76). -/
def takeAbort (s : State) (job : Word) (gen : Nat) : State :=
  match swapOfJob s job with
  | some w => if w.gen = gen && !w.exchanged && !w.ending then abortSwap (modSwap s w.tenant.toNat fun w => { w with sentAt := none }) w.tenant.toNat else s
  | none => s

/-- The head chip starts a job swap (R75), unless one of the tenant is in progress (R73). -/
def startJobSwap (s : State) (job : Word) : State :=
  match jobById s job with
  | none => s
  | some j =>
    if j.phase ≠ 0 || (swapOf s j.tenant.toNat).isSome then s
    else
      let gen := (j.gen + 1) % 65536
      let s1 := modJob s job fun j => { j with gen := gen, phase := 1, since := s.now, ready := [], done := [], resends := 0 }
      takePrepare (toChips s1 j 0x10 gen) job gen

/-! Requests written to PAGE_SWAP. -/

/-- GO with SCOPE = 0 (R72). -/
def goChip (s : State) (c : Nat) : State :=
  match ownerOf s c with
  | none => s
  | some t =>
    if (swapOf s t).isSome || participants s t none = [] then s
    else settleSwap (beginSwap s t none 0) t

/-- GO with SCOPE = 1 (R75, R78); on a member chip it goes to the head chip, unless a swap of the tenant is in progress here (R73). -/
def goJob (s : State) (c : Nat) : State :=
  match jobOfCore s c with
  | none => blkBump s 6
  | some j =>
    if j.role ≠ 2 then startJobSwap s j.jobid
    else if (swapOf s j.tenant.toNat).isSome then s
    else emit s (.chipCmd j.head (cmdBody 0x16 j.jobid []))

/-- CANCEL (R73). -/
def cancelSwap (s : State) (c : Nat) : State :=
  match ownerOf s c with
  | none => s
  | some t =>
    match swapOf s t with
    | some w =>
      if swapOpen w then
        let s1 := match w.job with
          | some id => modJob s id fun j => if j.role = 0 then { j with phase := 0 } else j
          | none => s
        abortSwap s1 t
      else s
    | none => s

/-- PAGE_SWAP.GO with SCOPE = 0 is written to page i of core c (R72). -/
def execChipSwapGo (p : Port) (c : CoreId) (i : Fin 14) (s : State) : Out1 :=
  .next (coreWrite s p c i 0x20 fun s => goChip (modCore s c.val fun k => modKPage k i.val fun p => { p with scope := false }) c.val)

/-- PAGE_SWAP.GO with SCOPE = 1 is written to page i of core c (R75). -/
def execJobSwapGo (p : Port) (c : CoreId) (i : Fin 14) (s : State) : Out1 :=
  .next (coreWrite s p c i 0x20 fun s => goJob (modCore s c.val fun k => modKPage k i.val fun p => { p with scope := true }) c.val)

/-- PAGE_SWAP.CANCEL is written (R73). -/
def execSwapCancel (p : Port) (c : CoreId) (i : Fin 14) (s : State) : Out1 :=
  .next (coreWrite s p c i 0x20 fun s => cancelSwap s c.val)

/-! The participants. -/

/-- HOLD reaches a participant, which opens no new issue window (R72). -/
def execSwapHold (c : CoreId) (s : State) : Out1 :=
  .next (match swapOfCore s c.val with
    | some w => if w.ending || w.exchanged then s else modCore s c.val fun k => { k with hold := { k.hold with held := true } }
    | none => s)

/-- A held core returns QUIET once no issue window of it is open (R72, step 2). -/
def execQuiet (c : CoreId) (s : State) : Out1 :=
  let k := getCore s c.val
  .next (if k.hold.held then
    modCore (atLeast s (allQ.foldl (fun m q => max m (getQ k q).winEnd) s.now)) c.val fun k => { k with hold := { k.hold with quietSent := true } }
  else s)

/-- The controller takes a QUIET; on the last one SWAPAT(T) goes out, or READY (R72, step 3; R75). -/
def execQuietReceived (c : CoreId) (s : State) : Out1 :=
  .next (match swapOfCore s c.val with
    | some w =>
      if swapOpen w && ((getCore s c.val).hold.quietSent || countsQuiet s c.val) && w.parts.any (fun p => p.core = c.val && !p.quiet) then
        settleSwap (modSwap s w.tenant.toNat fun w => modPart w c.val fun p => { p with quiet := true }) w.tenant.toNat
      else s
    | none => s)

/-- SWAPAT(T) reaches a participant (R72, step 3). -/
def execSwapat (c : CoreId) (s : State) : Out1 :=
  .next (match swapOfCore s c.val with
    | some w =>
      match w.sentAt with
      | some t => if w.exchanged then s else modCore s c.val fun k => { k with hold := { k.hold with at_ := some t, held := true } }
      | none => s
    | none => s)

/-- Every participant has SWAPAT, or is FELLED. -/
def allScheduled (s : State) (w : Swap) : Bool := w.parts.all fun p => (getCore s p.core).hold.at_.isSome || (getOwner s p.core).felled

/-- A SWAPGEN record (R426, R427). -/
def swapgenPayload (job : Word) (t gen : Nat) : List Byte := natLe 4 job.toNat ++ natLe 1 t ++ natLe 1 0 ++ natLe 2 gen ++ natLe 4 0

/-- Edge T: every armed page of every participant exchanges (R72, step 4); a job swap answers DONE and keeps HOLD (R75). -/
def execSwapExchange (t : TenantId) (s : State) : Out1 :=
  .next (match swapOf s t.toNat with
    | some w =>
      match w.sentAt with
      | some at_ =>
        if w.exchanged || w.ending || !allScheduled s w then s
        else
          let s1 := atLeast s at_
          let s2 := w.parts.foldl (fun s p => if (getOwner s p.core).felled then s else modCoreW s p.core (exchangeCore p.core s1.now)) s1
          let s3 := modSwap s2 t.toNat fun w => { w with exchanged := true }
          match w.job with
          | none => s3
          | some id =>
            let s4 := jnlPush (modJob s3 id fun j => { j with taken := w.gen }) 6 (swapgenPayload id t.toNat w.gen)
            match jobById s4 id with
            | some j => answerDone s4 j w.gen
            | none => s4
      | none => s
    | none => s)

/-- A participant releases HOLD, which wakes it from DOZE (R72, step 5; R443). -/
def unhold (k : Core) (now : Nat) : Core :=
  if k.hold.held then wakeDoze { markPend k false with hold := {} } now 6 else { markPend k false with hold := {} }

/-- Edge T + 1: deferred TEN_OWN writes take effect, and every participant releases HOLD; in a job swap HOLD waits for RELEASE (R72, step 5; R73; R75). -/
def execHoldRelease (t : TenantId) (s : State) : Out1 :=
  .next (match swapOf s t.toNat with
    | some w =>
      if !w.exchanged then s
      else
        let s1 := atLeast s ((w.sentAt.getD s.now) + rclk 1)
        if w.job = none || w.ending then
          let s2 := w.parts.foldl (fun s p => modCore s p.core fun k => unhold k s1.now) s1
          dropSwap (takeDeferred (swapEvent (blkBump s2 3) t.toNat) t.toNat fun _ => true) t.toNat
        else takeDeferred s1 t.toNat fun _ => true
    | none => s)

/-- The last QUIET has not arrived within BLK_SWAPTO.TIMEOUT of g (R74). -/
def execSwapTimeout (t : TenantId) (s : State) : Out1 :=
  .next (match swapOf s t.toNat with
    | some w => if w.job = none && swapOpen w then abortSwap (atLeast s (w.g + rclk (fld (gReg s .blk 0x5C) 0 24))) t.toNat else s
    | none => s)

/-- The release command of R74 reaches a participant: HOLD and SWPPEND go, deferred TEN_OWN writes take effect (R73); after the last one the swap is over. -/
def execSwapReleaseCommand (c : CoreId) (s : State) : Out1 :=
  .next (match swapOfCore s c.val with
    | some w =>
      if w.ending && !w.exchanged then
        let t := w.tenant.toNat
        let s1 := modCore s c.val fun k => unhold k s.now
        let s2 := takeDeferred s1 t fun d => d = c.val
        let s3 := modSwap s2 t fun w => dropPart w c.val
        match swapOf s3 t with
        | some w => if w.parts = [] then dropSwap s3 t else s3
        | none => s3
      else s
    | none => s)

/-! Commands to a chip (R264, R265). -/

/-- A chip command with OP op, which acts with f where sender and job pass ok, and is refused elsewhere (R265); sent to a core, it is refused there. -/
def chipCommand (src : CmdSrc) (op : Nat) (ok : State → ChipId → Job → Bool) (f : State → Job → ChipId → List Byte → State) (s : State) : Out1 :=
  if !src.wf then .fault .malformed
  else .next (match src with
    | .chip from_ body =>
      if bodyOp body ≠ op then s
      else match jobById s (bodyJob body) with
      | some j => if ok s from_ j then answerChip (f s j from_ body) from_ body 0 else refuseChip s from_ body
      | none => refuseChip s from_ body
    | _ =>
      match takeCmd s src op with
      | some (v, h, body, s1) => coreRefuses v h body s1
      | none => s)

/-- The sender is the job's head chip. -/
def fromHead (s : State) (src : ChipId) (j : Job) : Bool := src = headChip s j

/-- This chip is the job's head chip, and the sender belongs to the job: in a single-chip job this chip alone. -/
def atHead (s : State) (src : ChipId) (j : Job) : Bool := j.role ≠ 2 && (src = torusHere s || (j.role = 1 && Config.jobChip src j.jobid))

/-- The generation that a body carries. -/
def bodyGen (body : List Byte) : Nat := bodyArg body 8 2

/-- PREPARE(gen) (R75). -/
def execCmdPrepare (src : CmdSrc) (_r : Unit) (s : State) : Out1 := chipCommand src 0x10 fromHead (fun s j _ b => takePrepare s j.jobid (bodyGen b)) s

/-- READY(gen) (R75). -/
def execCmdReady (src : CmdSrc) (_r : Unit) (s : State) : Out1 := chipCommand src 0x11 atHead (fun s j c b => takeReady s j.jobid c (bodyGen b)) s

/-- COMMIT(gen) (R75, R76). -/
def execCmdCommit (src : CmdSrc) (_r : Unit) (s : State) : Out1 := chipCommand src 0x12 fromHead (fun s j _ b => takeCommit s j.jobid (bodyGen b)) s

/-- DONE(gen) (R75). -/
def execCmdDone (src : CmdSrc) (_r : Unit) (s : State) : Out1 := chipCommand src 0x13 atHead (fun s j c b => takeDone s j.jobid c (bodyGen b)) s

/-- RELEASE(gen) on this chip (R75): step 5 of R72 is due. -/
def takeRelease (s : State) (job : Word) (gen : Nat) : State :=
  match swapOfJob s job with
  | some w => if w.gen = gen && w.exchanged then modSwap s w.tenant.toNat fun w => { w with ending := true } else s
  | none => s

/-- RELEASE(gen) (R75). -/
def execCmdRelease (src : CmdSrc) (_r : Unit) (s : State) : Out1 := chipCommand src 0x14 fromHead (fun s j _ b => takeRelease s j.jobid (bodyGen b)) s

/-- ABORT(gen) (R76). -/
def execCmdAbort (src : CmdSrc) (_r : Unit) (s : State) : Out1 := chipCommand src 0x15 fromHead (fun s j _ b => takeAbort s j.jobid (bodyGen b)) s

/-- SWAPREQ (R75). -/
def execCmdSwapreq (src : CmdSrc) (s : State) : Out1 := chipCommand src 0x16 atHead (fun s j _ _ => startJobSwap s j.jobid) s

/-- READY is missing after BLK_SWAPTO.TIMEOUT: the head chip sends ABORT(gen) (R76). -/
def execReadyTimeout (job : Word) (s : State) : Out1 :=
  .next (match jobById s job with
    | some j =>
      if j.phase = 1 then
        let s1 := modJob (atLeast s (j.since + rclk (fld (gReg s .blk 0x5C) 0 24))) job fun j => { j with phase := 0, ready := [] }
        takeAbort (toChips s1 j 0x15 j.gen) job j.gen
      else s
    | none => s)

/-- The head chip records a fatal E_STALL_CYCLE for a job that cannot commit (R46, R76, R413). -/
def jobFatal (s : State) : State :=
  jnlError (blkErr s eSTALL_CYCLE 2 0) 0xFFFF { code := eSTALL_CYCLE, cls := 2, page := 15, rtime := rtimeLo s }

/-- DONE is missing after the same time: COMMIT is sent again up to three times, then the job stays held (R76). -/
def execDoneTimeout (job : Word) (s : State) : Out1 :=
  .next (match jobById s job with
    | some j =>
      if j.phase = 2 then
        let s1 := atLeast s (j.since + rclk (fld (gReg s .blk 0x5C) 0 24))
        if j.resends < 3 then
          takeCommit (toChips (modJob s1 job fun j => { j with resends := j.resends + 1, since := s1.now }) j 0x12 j.gen) job j.gen
        else jobFatal (modJob s1 job fun j => { j with phase := 3 })
      else s
    | none => s)

/-! Seeds, epochs, barriers (R266 to R269). -/

/-- A seed is written into the VEC seed registers of every core of a job (R268). -/
def writeSeed (s : State) (j : Job) (seed : Nat) : State :=
  j.cores.foldl (fun s c => modCore s c fun k => (List.range 4).foldl (fun k i => setKReg k 3 (0x40 + 4 * i) (fld seed (32 * i) 32)) k) s

/-- An epoch is written into WIN_JEPOCH of every core of a job (R267). -/
def writeEpoch (s : State) (j : Job) (v : Nat) : State := j.cores.foldl (fun s c => modCore s c fun k => setKReg k 7 0x74C v) s

/-- SEED (R268). -/
def execCmdSeed (src : CmdSrc) (_r0 : Unit) (_r1 : Unit) (s : State) : Out1 := chipCommand src 0x20 fromHead (fun s j _ b => writeSeed s j (bodyArg b 8 16)) s

/-- EPOCH (R267). -/
def execCmdEpoch (src : CmdSrc) (_r : Unit) (s : State) : Out1 := chipCommand src 0x21 fromHead (fun s j _ b => writeEpoch s j (bodyArg b 8 2)) s

/-- ARRIVE(gen) (R269). -/
def execCmdArrive (src : CmdSrc) (_r : Unit) (s : State) : Out1 := chipCommand src 0x22 atHead (fun s j c b => headArrive s j.jobid c (bodyGen b)) s

/-- PASS(gen) (R269). -/
def execCmdPass (src : CmdSrc) (_r : Unit) (s : State) : Out1 := chipCommand src 0x23 fromHead (fun s j _ b => barrierPass s j.jobid (bodyGen b)) s

/-- WIN_JOBCMD on core c: f on the head chip or in a single-chip job; ignored and counted elsewhere (R267, R268). -/
def jobCommand (s : State) (c : Nat) (f : State → Job → State) : State :=
  match jobOfCore s c with
  | some j => if j.role = 2 then modCore s c winIgnored else f s j
  | none => modCore s c winIgnored

/-- WIN_JOBCMD OP 1 (R268). -/
def jobSeed (s : State) (c : Nat) : State :=
  jobCommand s c fun s j =>
    let seed := seedOf (getCore s c)
    writeSeed (if j.role = 1 then emit s (.jobCmd j.jobid (cmdBody 0x20 j.jobid (natLe 16 seed ++ natLe 2 j.gen))) else s) j seed

/-- WIN_JOBCMD OP 2 (R267). -/
def jobEpoch (s : State) (c v : Nat) : State :=
  jobCommand s c fun s j => writeEpoch (if j.role = 1 then emit s (.jobCmd j.jobid (cmdBody 0x21 j.jobid (natLe 2 v))) else s) j v

/-- WIN_JOBCMD is written with OP 1 (R268). -/
def execJobcmdSeed (p : Port) (c : CoreId) (s : State) : Out1 := .next (coreWrite s p c 7 0x750 fun s => jobSeed s c.val)

/-- WIN_JOBCMD is written with OP 2 (R267). -/
def execJobcmdEpoch (p : Port) (c : CoreId) (v : BitVec 16) (s : State) : Out1 := .next (coreWrite s p c 7 0x750 fun s => jobEpoch s c.val v.toNat)

/-- A core with EN = 1 in a loaded job takes 1 from SEM[ARRSEM] and arrives; with the last core of the job here, the chip arrives (R269, steps 1 and 2). -/
def execBarrierCoreArrive (c : CoreId) (s : State) : Out1 :=
  .next (match jobOfCore s c.val with
    | some j =>
      let k := getCore s c.val
      let cfg := kReg k 7 0x744
      if cfg.testBit 31 && !k.barrier.arrived && !(getOwner s c.val).felled && 1 ≤ semGet k (fld cfg 0 5) then
        chipArrives (modCoreW s c.val fun k => { semPut k (fld cfg 0 5) (semGet k (fld cfg 0 5) - 1) with barrier := { k.barrier with arrived := true } }) j.jobid
      else s
    | none => s)

end Sys2Proof.Machine
end

