-- ==== Sys2Proof/Machine/Image.lean ====
section
/-! DEFINITION. Coppice images (R383 to R399), signatures and scrubbing (R400 to R404), halted groves (R405), the scrubber's copies (R406), the key store (R389 to R391). -/

namespace Sys2Proof.Machine

/-! Frames and signatures. -/

/-- The entry that the blank configuration gives frame f (R400): KIND 2, but KIND 0 in block 23, since HISTAVAIL is 1 with it (R297). -/
def blankSig (f : Nat) : Sig := { crc := word (crc32c blankFrame), kind := if 1632 ≤ f then 0 else 2 }

/-- The signature entry of frame f. -/
def sigOf (k : Core) (f : Nat) : Sig := fget k.grv.sigs f (blankSig f)

/-- A valid entry names handle h (R398, SCB_STATUS.HUSED). -/
def handleUsed (k : Core) (h : Nat) : Bool := k.grv.sigs.any fun e => e.2.kind = 1 && e.2.handle = h

/-! The fields of a header (R385). -/

def hdrNframes (h : List Byte) : Nat := leAt h 0x24 2
def hdrNranges (h : List Byte) : Nat := leAt h 0x26 1
def hdrBody (h : List Byte) : Nat := leAt h 0x20 4
def hdrEngine (h : List Byte) : Nat := leAt h 0x68 4
def hdrLimits (h : List Byte) : Nat := leAt h 0x6C 4
def hdrSlot (h : List Byte) (n : Nat) : SlotDecl := { info := word (leAt h (0x70 + 8 * n) 4), types := word (leAt h (0x74 + 8 * n) 4) }
def hdrIv (h : List Byte) : List Byte := (h.drop 0x0C).take 12
def hdrHist (h : List Byte) : Bool := (hdrEngine h).testBit 22

/-- Bytes of an address table of n entries (R386). -/
def tableBytes (n : Nat) : Nat := 64 * ceilDiv n 32

/-- Range i of a header: FIRST, LAST, CRITICAL. -/
def hdrRange (h : List Byte) (i : Nat) : Nat × Nat × Bool :=
  (leAt h (0x28 + 8 * i) 2, leAt h (0x2A + 8 * i) 2, (leAt h (0x2C + 8 * i) 1).testBit 0)

/-- The ranges of a header. -/
def hdrRanges (h : List Byte) : List (Nat × Nat × Bool) := (List.range (min 8 (hdrNranges h))).map (hdrRange h)

/-- Frame f lies in a range of the header. -/
def inRanges (h : List Byte) (f : Nat) : Bool := (hdrRanges h).any fun r => r.1 ≤ f && f ≤ r.2.1

/-- Frame f lies in a CRITICAL range of the header. -/
def inCritical (h : List Byte) (f : Nat) : Bool := (hdrRanges h).any fun r => r.1 ≤ f && f ≤ r.2.1 && r.2.2

/-! The checks of pass 1 (R394). -/

/-- A reserved field of the header is wrong: FLAGS, byte 0x27, the ranges and those after the last, ENGINE, LIMITS, the slot words, the last 12 bytes (R385, R379). -/
def hdrReservedOk (h : List Byte) : Bool :=
  leAt h 0x06 2 < 2 && leAt h 0x27 1 = 0 &&
  (List.range 8).all (fun i =>
    if i < hdrNranges h then leAt h (0x2C + 8 * i) 1 < 2 && leAt h (0x2D + 8 * i) 3 = 0 else leAt h (0x28 + 8 * i) 8 = 0) &&
  fld (hdrEngine h) 0 14 = 0 && fld (hdrLimits h) 20 12 = 0 && leAt h 0xF4 12 = 0 &&
  (List.range 16).all fun n =>
    let d := hdrSlot h n
    wfld d.info 11 7 = 0 && wfld d.types 27 5 = 0 && wfld d.types 11 5 = 0

/-- Check 1. -/
def check1 (l : Load) (h : List Byte) : Bool :=
  h.take 4 = [0x42#8, 0x4B#8, 0x43#8, 0x50#8] && leAt h 4 2 = 1 && 1 ≤ hdrNranges h && hdrNranges h ≤ 8 && hdrReservedOk h &&
  l.len = 256 + hdrBody h + 16 && hdrBody h = tableBytes (hdrNframes h) + 64 * hdrNframes h

/-- Check 2: the family, the revision, the die (R51, R459). -/
def check2 (h : List Byte) : Bool :=
  leAt h 0x08 2 = 0x5A04 && leAt h 0x0A 1 = 0x01 && ((leAt h 0x06 2).testBit 0 || leAt h 0x18 8 = Config.dieId.toNat)

/-- Check 3: the ranges. -/
def check3 (h : List Byte) : Bool :=
  let rs := hdrRanges h
  rs.all (fun r => r.1 ≤ r.2.1 && r.2.1 ≤ 1663 && (hdrHist h || r.2.1 < 1632)) &&
  (rs.zip (rs.drop 1)).all fun p => p.1.2.1 < p.2.1

/-- Check 4: the declarations. -/
def check4 (h : List Byte) : Bool :=
  let e := hdrEngine h
  let lanes := fld e 28 3
  let dcred := fld e 19 3
  let incred := fld e 14 5
  let slots := ((List.range 16).map fun n => (hdrSlot h n).info.toNat).filter fun i => i.testBit 31
  (e.testBit 31 || lanes = 0) && lanes < 6 && (hdrHist h == (lanes == 5)) &&
  (if slots = [] then dcred = 0 && incred = 0 else 1 ≤ dcred && dcred ≤ 4 && 4 ≤ incred && incred ≤ 16) &&
  (List.range 4).all (fun n => fld (hdrLimits h) (4 * n) 4 ≠ 0) && slots.all fun i => 2 ≤ fld i 18 6

/-- The key that KEYSLOT names, where check 5 allows it (R391). -/
def imageKey (l : Load) (h : List Byte) : Option Nat :=
  let n := leAt h 0x0B 1
  if 4 < n || !(l.mask.testBit n) then none
  else if n = 4 then l.keyReg
  else if l.fuses.toNat.testBit n then some (Config.fuseKey n).toNat else none

/-- The frame numbers of an address table. -/
def tableFrames (h plain : List Byte) : List Nat := (List.range (hdrNframes h)).map fun j => leAt plain (2 * j) 2

/-- Check 7: the address table. -/
def check7 (h plain : List Byte) : Bool :=
  let fs := tableFrames h plain
  (fs.zip (fs.drop 1)).all (fun p => p.1 < p.2) && fs.all (inRanges h) &&
  (List.range (tableBytes (hdrNframes h) / 2 - hdrNframes h)).all fun j => leAt plain (2 * (hdrNframes h + j)) 2 = 0xFFFF

/-- The plaintext of frame j of the body. -/
def bodyFrame (h plain : List Byte) (j : Nat) : List Byte := slice plain (tableBytes (hdrNframes h) + 64 * j) 64

/-- Check 8: the contents of the frames. -/
def check8 (h plain : List Byte) : Bool :=
  ((tableFrames h plain).zip (List.range (hdrNframes h))).all fun e =>
    let b := bodyFrame h plain e.2
    b = blankFrame || !frameBad e.1 b (hdrHist h)

/-- Check 9: no frame outside the targets names the handle (R398). -/
def check9 (k : Core) (l : Load) (h : List Byte) : Bool :=
  k.grv.sigs.all fun e => e.2.kind ≠ 1 || e.2.handle ≠ l.handle || inRanges h e.1

/-- Pass 1 on the staged image (R394): the key and the pending table, or the code of the first check that fails. -/
def pass1 (k : Core) (l : Load) (img : List Byte) : Except Nat (Nat × List PendFrame) :=
  let h := slice img 0 256
  if !check1 l h then .error eCONFIG_AUTH
  else if !check2 h then .error eCONFIG_IDENTITY
  else if !check3 h || !check4 h then .error eCONFIG_REGION
  else match imageKey l h with
    | none => .error eCONFIG_AUTH
    | some key =>
      let ks := roundKeys (keyBytes key)
      let iv := nats (hdrIv h)
      let body := (img.drop 256).take (hdrBody h)
      if gcmTag ks iv h body ≠ slice img (256 + hdrBody h) 16 then .error eCONFIG_AUTH
      else
        let plain := gcmCrypt ks iv 0 body
        if !check7 h plain || !check8 h plain || !check9 k l h then .error eCONFIG_REGION
        else .ok (key, ((tableFrames h plain).zip (List.range (hdrNframes h))).map fun e =>
          { frame := e.1, crc := crc32c (bodyFrame h plain e.2), pos := e.2 })

/-! Starting a load or a blanking (R392, R407). -/

/-- SCB_LOADSTAT.BUSY. -/
def loadBusy (k : Core) : Bool := k.grv.load.isSome || k.grv.blanking.isSome

/-- No doorbell has come and no slot is in use: the core is as a job load finds it (R392). -/
def freshCore (k : Core) : Bool :=
  (allQ.all fun q => let x := getQ k q; x.tail = 0 && x.issue = 0 && x.done = 0) && k.spd.tags.all (fun e => e.2.st = .empty) && k.skd.streams = []

/-- The staging slots of an image (R392): the highest ones in powered segments. -/
def stagingSlots (k : Core) (len : Nat) : List Nat :=
  (((List.range 768).reverse.filter fun n => segUp k (n / 64)).take (ceilDiv len 1024)).reverse

/-- The staging slots of a fresh core are zeroed again at the end of its load (R392). -/
def unstage (k : Core) (l : Load) : Core :=
  modSpd k fun d => { d with lock := [], mem := if l.fresh then l.slots.foldl (fun m n => memZero m (n * 1024) 1024) d.mem else d.mem }

/-- A load ends with a code (R393, R399, R407): the lock goes, LOADSTAT shows the code, the SCB page records it, the waiting command is answered. -/
def failLoad (s : State) (c code : Nat) : State :=
  let s1 := modCore s c fun k =>
    let k1 := match k.grv.load with
      | some l => unstage (modSkd k fun d => { d with fetches := d.fetches.filter fun f => !f.kind.ofImage }) l
      | none => k
    kBump (modGrv k1 fun g => { g with load := none, loadCode := code }) 11 7
  loadEnded (coreErr s1 c { code := code, cls := 1, page := 11 }) c code

/-- The controller begins to stage the image of a handle, or refuses (R392, R393). -/
def startLoad (s : State) (c handle len : Nat) : State :=
  let k := getCore s c
  let ns := stagingSlots k len
  let fresh := freshCore k
  if ns.length < ceilDiv len 1024 || (!fresh && ns.any fun n => !untagged k n) then failLoad s c eCONFIG_AUTH
  else
    let mask := match ownerOf s c with
      | some t => tenKeyMask s t
      | none => 0
    modCore s c fun k =>
      modSpd (modGrv (gatherFlush k fun g => ns.contains (g.row / 32)) fun g =>
        { g with load := some { phase := 1, handle := handle, len := len, fresh := fresh, slots := ns, mask := mask, fuses := s.keys.fuseValid,
                                keyReg := if s.keys.regValid then some s.keys.reg else none, since := s.now } })
        fun d => { d with lock := ns }

/-- A write to SCB_LOADCMD (R407). -/
def loadCmd (s : State) (c v : Nat) : State :=
  let k := getCore s c
  if loadBusy k || (v.testBit 31 && v.testBit 30) then modCore s c fun k => kBump k 11 9
  else if v.testBit 31 then startLoad s c (fld v 28 2) (fld v 0 17)
  else if v.testBit 30 then modCore s c fun k => startBlank k s.now
  else s

/-- SCB_LOADCMD.GO is written (R392). -/
def execImageLoad (p : Port) (c : CoreId) (v : Word) (s : State) : Out1 :=
  .next (coreWrite s p c 11 0x68 fun s => loadCmd s c.val (v ||| 0x80000000#32).toNat)

/-- SCB_LOADCMD.BLANK is written (R384). -/
def execGroveBlank (p : Port) (c : CoreId) (s : State) : Out1 :=
  .next (coreWrite s p c 11 0x68 fun s => loadCmd s c.val 0x40000000)

/-- The blank configuration (R384, R379, R297, R405): every frame blank, the declarations at reset, HISTAVAIL set. -/
def blankGrove (k : Core) : Core :=
  let k1 := modGrv (setKReg k 10 0x58 0xF1111) fun g =>
    { g with frames := [], ffs := [], regs := [], ramOut := [], pads := [], sigs := [], decls := [], engine := 0#32, halted := false, blank := true, blanking := none, romBlocks := [], images := [], histAvail := true }
  if k.grv.histAvail then k1 else { k1 with qnt := { k1.qnt with hist := [] } }

/-- 256 RCLK cycles later the blank configuration is in place (R384). -/
def execGroveBlankDone (c : CoreId) (s : State) : Out1 :=
  .next (match (getCore s c.val).grv.blanking with
    | some t => modCore (atLeast s (t + rclk 256)) c.val blankGrove
    | none => s)

/-! The passes of a load (R394 to R397). -/

/-- The staged image. -/
def stagedImage (k : Core) (l : Load) : List Byte := (l.slots.flatMap fun n => spdBytes k (n * 1024) 1024).take l.len

/-- k with its load changed. -/
def modLoad (k : Core) (f : Load → Load) : Core := modGrv k fun g => { g with load := g.load.map f }

/-- The fetches of the image that is being staged. -/
def stagingFetches (k : Core) : List Fetch := k.skd.fetches.filter fun f => match f.kind with
  | .image _ => true
  | _ => false

/-- The whole image has come through the READ share, and pass 1 begins (R392, R399); a line that is lost ends the load. -/
def execStagingComplete (c : CoreId) (_r : Unit) (s : State) : Out1 :=
  let k := getCore s c.val
  .next (match k.grv.load with
    | some l =>
      if l.phase ≠ 1 then s
      else if (stagingFetches k).any fun f => f.stage = .faulted ePARITY then failLoad s c.val ePARITY
      else if l.asked < l.len || stagingFetches k ≠ [] then s
      else
        let s1 := atLeast s (l.since + ceilDiv l.len 128)
        modCore s1 c.val fun k => modLoad k fun l => { l with phase := 2, since := s1.now }
    | none => s)

/-- Pass 1 ends (R394): the load is refused, or the quiesce begins and the scrubber stops (R395). -/
def execPass1Complete (c : CoreId) (s : State) : Out1 :=
  let k := getCore s c.val
  .next (match k.grv.load with
    | some l =>
      if l.phase ≠ 2 then s
      else
        let img := stagedImage k l
        let h := slice img 0 256
        let early := !check1 l h || !check2 h || !check3 h || !check4 h || (imageKey l h).isNone
        let s1 := atLeast s (l.since + rclk (if early then 1 else ceilDiv (256 + hdrBody h) 16 + 2))
        match pass1 k l img with
        | .error code => failLoad s1 c.val code
        | .ok (key, pend) =>
          modCore s1 c.val fun k => modGrv (modLoad k fun l => { l with phase := 3, hdr := h, key := key, pend := pend, todo := targetFrames h, since := s1.now })
            fun g => { g with passOn := false, repair := none }
    | none => s)

/-- No GVOP is in flight any more, nor, where HIST changes, a descriptor of VXQ that uses the history (R297, R395). -/
def quiesced (k : Core) (l : Load) : Bool :=
  !(k.gvq.flights.any fun f => opOf f.raw = 0x50) &&
  !(histChanges k l && ((k.vxq.flights.any fun f => usesHist f.raw) || k.vxq.fb.any fun b => usesHist b.orig.raw))

/-- The grove is quiet (R395): the target frames' entries are no longer valid, their regions are held, and pass 2 begins. -/
def execQuiesceComplete (c : CoreId) (s : State) : Out1 :=
  let k := getCore s c.val
  .next (match k.grv.load with
    | some l =>
      if l.phase = 3 && quiesced k l then
        modCore s c.val fun k => modGrv (modLoad k fun l => { l with phase := 4, since := s.now }) fun g =>
          { g with loadFrames := 0, sigs := l.todo.foldl (fun m f => fset m f { sigOf k f with kind := 0 }) g.sigs }
      else s
    | none => s)

/-- A frame of the body decrypted (R387). -/
def decryptFrame (key : Nat) (iv : List Byte) (nframes pos : Nat) (bs : List Byte) : List Byte :=
  gcmCrypt (roundKeys (keyBytes key)) (nats iv) (ceilDiv nframes 32 * 4 + 4 * pos) bs

/-- The pending entry of a frame. -/
def pendOf (l : Load) (f : Nat) : Option PendFrame := l.pend.find? fun p => p.frame = f

/-- A target frame is written (R396). -/
def putTarget (k : Core) (f : Nat) (bs : List Byte) : Core :=
  modGrv (setFrame k f bs) fun g => { g with loadFrames := g.loadFrames + 1, load := g.load.map fun l => { l with todo := l.todo.drop 1, refetch := none } }

/-- Pass 2 over the frames still to be written (R396): it stops at a frame whose CRC differs from pass 1. -/
def pass2 (img : List Byte) (l : Load) : List Nat → Core → Core
  | [], k => k
  | f :: fs, k =>
    match pendOf l f with
    | none => pass2 img l fs (putTarget k f blankFrame)
    | some p =>
      let n := hdrNframes l.hdr
      let bs := decryptFrame l.key (hdrIv l.hdr) n p.pos (slice img (256 + tableBytes n + 64 * p.pos) 64)
      if crc32c bs = p.crc then pass2 img l fs (putTarget k f bs) else modLoad k fun l => { l with refetch := some f }

/-- The entry that a load sets for a target frame (R400). -/
def loadedSig (k : Core) (l : Load) (rom : List Nat) (f : Nat) : Sig :=
  let b := { crc := word (crc32c (frameOf k f)), crit := inCritical l.hdr f : Sig }
  if 896 ≤ f && !rom.contains ((f - 896) / 32) then { b with kind := 0 }
  else match pendOf l f with
    | some p => { b with kind := 1, handle := l.handle, pos := p.pos }
    | none => { b with kind := 2 }

/-- The read-only blocks after a load (R388): ROMMASK decides for the blocks among the target frames. -/
def loadedRom (old : List Nat) (h : List Byte) : List Nat :=
  let targets := targetFrames h
  (List.range 24).filter fun b => if targets.any fun f => 896 ≤ f && (f - 896) / 32 = b then (leAt h 0xF0 4).testBit b else old.contains b

/-- The scrubber may run for core c (R403, R406, R452). -/
def scrubRuns (s : State) (c : Nat) : Bool :=
  let k := getCore s c
  (kReg k 11 0x40).testBit 0 && !k.grv.tmrFail && !(getOwner s c).felled && !(k.grv.load.any fun l => 3 ≤ l.phase) && 5 ≤ s.boot.step

/-- A new pass starts (R401). -/
def startPass (k : Core) (now : Nat) : Core := modGrv k fun g => { g with passOn := true, passStart := now, frame := 0, repair := none }

/-- The regions after a load with these target frames (R397): those that hold one restart on their GRV_CLKn settings; where the grove was halted, the flip-flops of the others restart too. -/
def restartRegions (k : Core) (hdr : List Byte) : Core :=
  let hit := fun n => (targetFrames hdr).any fun f => frameRegion f = n
  let k1 := ((List.range 4).filter hit).foldl (fun a n => modRegion a n fun _ => { cur := word (kReg k 10 (0x40 + 4 * n)) }) k
  modGrv k1 fun g => restart g ((List.range 4).filter fun n => k.grv.halted || hit n)

/-- The release of a load (R397). -/
def releaseLoad (k : Core) (l : Load) (now : Nat) : Core :=
  let h := l.hdr
  let rom := loadedRom k.grv.romBlocks h
  let sigs := (targetFrames h).foldl (fun m f => fset m f (loadedSig k l rom f)) k.grv.sigs
  let k1 := modGrv (setKReg (restartRegions k h) 10 0x58 (hdrLimits h)) fun g =>
    { g with engine := word (hdrEngine h), decls := (List.range 16).map fun n => (n, hdrSlot h n), romBlocks := rom, sigs := sigs,
             histAvail := !hdrHist h, blank := false, halted := false, tmrFail := false, load := none, loadCode := 0,
             images := fset g.images l.handle { key := l.key, iv := hdrIv h, nframes := hdrNframes h } }
  let k2 := if k.grv.histAvail = !hdrHist h then k1 else { k1 with qnt := { k1.qnt with hist := [] } }
  let k3 := kBump (unstage k2 l) 11 6
  if (kReg k3 11 0x40).testBit 0 then startPass k3 now else k3

/-- Pass 2 runs, and where every frame is written the load is released (R396, R397). -/
def execImageRelease (c : CoreId) (s : State) : Out1 :=
  let k := getCore s c.val
  .next (match k.grv.load with
    | some l =>
      if l.phase ≠ 4 || l.refetch.isSome then s
      else
        let img := stagedImage k l
        let k1 := pass2 img l l.todo k
        if (k1.grv.load.map (·.todo)) = some [] then
          let s1 := atLeast s (l.since + rclk (4 * (targetFrames l.hdr).length + 1))
          loadEnded (modCore s1 c.val fun k => releaseLoad (pass2 img l l.todo k) l s1.now) c.val 0
        else putCore s c.val k1
    | none => s)

/-! Halts (R405). -/

/-- The grove halts: the GVOPs in flight fail, the port discards their beats and sends no ABORT. -/
def haltGrove (k : Core) : Core :=
  if k.grv.halted then k
  else
    let lost := fun f : Flight => match f.work with
      | .failed _ _ _ => f
      | _ => if opOf f.raw = 0x50 then { f with work := .failed eSCRUB_MISMATCH 0#32 10 } else f
    let k1 := modQ k .gvq fun x => { x with flights := x.flights.map lost }
    kBump (modPort (modGrv k1 fun g => { g with halted := true }) fun g => { g with ops := [], inBuf := [], outBuf := [], outFree := 16 }) 11 3

/-- What the fetch of an image's bytes brought, once it is back: no bytes where its line is lost. -/
def fetchedImage (k : Core) (kind : FetchKind) : Option (List Byte) :=
  ((k.skd.fetches.find? fun f => f.kind = kind).bind Fetch.result).map fun r => r.getD []

/-- That fetch goes. -/
def dropImage (k : Core) (kind : FetchKind) : Core := modSkd k fun d => { d with fetches := d.fetches.filter fun f => f.kind ≠ kind }

/-- The refetched frame of pass 2 arrives (R396): its CRC agrees, and pass 2 goes on; or it differs again, and the load ends with a halted grove. -/
def execFrameRefetchDone (c : CoreId) (_r : Unit) (s : State) : Out1 :=
  let k := getCore s c.val
  .next (match k.grv.load with
    | some l =>
      match l.refetch.bind fun f => (pendOf l f).bind fun p => (fetchedImage k (.frame f)).map fun b => (f, p, b) with
      | some (f, p, b) =>
        let s1 := modCore s c.val fun k => dropImage k (.frame f)
        let bs := decryptFrame l.key (hdrIv l.hdr) (hdrNframes l.hdr) p.pos b
        if b ≠ [] && crc32c bs = p.crc then modCore s1 c.val fun k => putTarget k f bs
        else failLoad (modCore s1 c.val haltGrove) c.val eCONFIG_AUTH
      | none => s
    | none => s)

/-! The scrubber (R401 to R404). -/

/-- A pass starts 800,000 RCLK cycles after the one before (R401). -/
def execScrubPassStart (c : CoreId) (s : State) : Out1 :=
  .next (if scrubRuns s c.val && !(getCore s c.val).grv.passOn then
    let s1 := atLeast s ((getCore s c.val).grv.passStart + rclk 800000)
    modCore s1 c.val fun k => startPass k s1.now
  else s)

/-- A new pass is forced (R407). -/
def forcePass (s : State) (c : Nat) : State := if scrubRuns s c then modCore s c fun k => startPass k s.now else s

/-- SCB_CTL.FORCE is written 1 (R401, R407). -/
def execScrubForce (p : Port) (c : CoreId) (s : State) : Out1 := .next (coreWrite s p c 11 0x40 fun s => forcePass s c.val)

/-- A mismatch is recorded (R401, R413): SCB_LASTMIS, and E_SCRUB_MISMATCH, advisory when repaired, fatal when the grove halts. -/
def recordMis (s : State) (c f action : Nat) : State :=
  coreErr (modCore s c fun k => modGrv k fun g => { g with lastMis := word (2 ^ 31 + action * 2 ^ 28 + f) }) c
    { code := eSCRUB_MISMATCH, cls := if action = 0 then 0 else 2, page := 11 }

/-- The pass goes on to the next frame; after the last it is complete (R401). -/
def nextFrame (k : Core) : Core :=
  if k.grv.frame + 1 < 1664 then modGrv k fun g => { g with frame := g.frame + 1 }
  else kBump (modGrv k fun g => { g with frame := 0, passOn := false, passCnt := (g.passCnt + 1) % 2 ^ 32 }) 11 0

/-- Pass 1 of a load excludes writes to the grove's frames (R394): a repair waits for its end (log entry 206). -/
def framesHeld (k : Core) : Bool := k.grv.load.any fun l => l.phase = 2

/-- A blank frame is rewritten (R401). -/
def repairBlank (s : State) (c f : Nat) (g : Sig) : State :=
  recordMis (modCore s c fun k => kBump (setFrame k f blankFrame) 11 2) c f (b2n g.crit)

/-- A mismatch of frame f (R401): a critical one halts the grove at once; a blank frame is rewritten; an image frame is fetched. -/
def mismatch (s : State) (c f : Nat) (g : Sig) : State :=
  let s1 := if g.crit then modCore s c haltGrove else s
  if g.kind = 2 && !framesHeld (getCore s c) then repairBlank s1 c f g
  else modCore s1 c fun k => modGrv (touchData k s.now) fun v => { v with repair := some { frame := f, since := s.now } }

/-- A frame is read in its time slot (R401, R402): KIND 0 is skipped; another is compared with its entry, which a single-bit error leaves usable and a double one does not. -/
def execScrubFrameRead (c : CoreId) (observed : List Byte) (sig : EccResult) (s : State) : Out1 :=
  if observed.length ≠ 64 then .fault .malformed
  else
    let k := getCore s c.val
    let f := k.grv.frame
    .next (if !scrubRuns s c.val || !k.grv.passOn || k.grv.repair.isSome then s
    else
      let s0 := atLeast s (k.grv.passStart + rclk (480 * f))
      let g := sigOf k f
      let s1 := modCore s0 c.val nextFrame
      if sig = .double then recordMis (modCore s1 c.val haltGrove) c.val f 3
      else
        let s2 := if sig = .single then modCore s1 c.val fun k => kBump k 11 8 else s1
        if g.kind = 0 then s2
        else
          let s3 := modCore s2 c.val fun k => kBump (setFrame k f observed) 11 1
          if word (crc32c observed) = g.crc then s3 else mismatch s3 c.val f g)

/-- The ciphertext b of a frame under repair (R401, R402): decrypted, it is written if its CRC agrees; otherwise the grove halts. -/
def repairImage (s : State) (c f : Nat) (g : Sig) (b : List Byte) : State :=
  let img := fget (getCore s c).grv.images g.handle { key := 0, iv := [], nframes := 0 }
  let bs := decryptFrame img.key img.iv img.nframes g.pos b
  if b ≠ [] && word (crc32c bs) = g.crc then recordMis (modCore s c fun k => kBump (setFrame k f bs) 11 2) c f (b2n g.crit)
  else recordMis (modCore s c fun k => kBump (haltGrove k) 11 4) c f 2

/-- A repair ends (R401, R402), once the ciphertext of an image frame has come. -/
def execScrubRepairDone (c : CoreId) (_r : Unit) (s : State) : Out1 :=
  let k := getCore s c.val
  .next (match k.grv.repair with
    | some r =>
      if framesHeld k then s
      else
        let g := sigOf k r.frame
        let s1 := modCore s c.val fun k => modGrv (dropImage k (.repair r.frame r.since)) fun v => { v with repair := none }
        if g.kind = 2 then repairBlank s1 c.val r.frame g
        else match fetchedImage k (.repair r.frame r.since) with
          | some b => repairImage s1 c.val r.frame g b
          | none => s
    | none => s)

/-! The scrubber's own state (R406). -/

/-- The value of an item of the scrubber flipped where m has ones. -/
def flipItem (k : Core) (i : TmrItem) (m : Word) : Core :=
  match i with
  | .ctl => setKReg k 11 0x40 ((word (kReg k 11 0x40) ^^^ m).toNat % 2)
  | .imgLo h => setKReg k 11 (0x48 + 8 * h.val) ((word (kReg k 11 (0x48 + 8 * h.val)) ^^^ m) &&& 0xFFFFFFC0#32).toNat
  | .imgHi h => setKReg k 11 (0x4C + 8 * h.val) ((word (kReg k 11 (0x4C + 8 * h.val)) ^^^ m).toNat % 65536)
  | .passTimer => modGrv k fun g => { g with passStart := g.passStart ^^^ m.toNat }
  | .framePtr => modGrv k fun g => { g with frame := (g.frame ^^^ m.toNat) % 2048 }
  | .sigPtr => k

/-- Upsets a, b and d hit the three copies of an item in one RCLK cycle, and the copies are voted (R406): the one that disagrees is rewritten, or TMRFAIL is set. -/
def execTmrVote (c : CoreId) (item : TmrItem) (a b d : Word) (s : State) : Out1 :=
  .next (if (getOwner s c.val).felled then s
  else if a = b && b = d then modCore s c.val fun k => flipItem k item a
  else if a = b || a = d then modCore s c.val fun k => kBump (flipItem k item a) 11 5
  else if b = d then modCore s c.val fun k => kBump (flipItem k item b) 11 5
  else
    let s1 := modCore s c.val fun k => modGrv k fun g => { g with tmrFail := true, passOn := false, repair := none }
    ownerEvent (evSet (coreErr s1 c.val { code := eSCRUB_MISMATCH, cls := 2, page := 11 }) evSCRUB) c.val evSCRUB)

/-! The key store (R389 to R391). -/

/-- s with f applied to the key store. -/
def modKeys (s : State) (f : Keys → Keys) : State := { s with keys := f s.keys }

/-- A word is staged (R390). -/
def keyData (k : Keys) (v : Word) : Keys := if k.lock || 8 ≤ k.staged.length then k else { k with staged := k.staged ++ [v] }

/-- The key that the staged words form: bits 31:0 first (R390). -/
def stagedKey : List Word → Nat
  | [] => 0
  | w :: ws => w.toNat + 2 ^ 32 * stagedKey ws

/-- A write to JNL_KEYCTL (R390): LOCK as it stood decides for COMMIT and ERASE. -/
def keyCtl (k : Keys) (lock commit erase : Bool) : Keys :=
  let k1 := if k.lock || commit == erase then k
    else if commit then (if k.staged.length = 8 then { k with reg := stagedKey k.staged, regValid := true, staged := [] } else k)
    else { k with reg := 0, regValid := false, staged := [] }
  { k1 with lock := k1.lock || lock }

/-- JNL_KEYDATA is written (R390). -/
def execKeyDataWrite (p : Port) (v : Word) (s : State) : Out1 := .next (gated (pageGate s p .jnl 0x7C4 true) fun s => modKeys s fun k => keyData k v)

/-- JNL_KEYCTL.COMMIT is written 1 (R390). -/
def execKeyCommit (p : Port) (s : State) : Out1 := .next (gated (pageGate s p .jnl 0x7C0 true) fun s => modKeys s fun k => keyCtl k false true false)

/-- JNL_KEYCTL.ERASE is written 1 (R390). -/
def execKeyErase (p : Port) (s : State) : Out1 := .next (gated (pageGate s p .jnl 0x7C0 true) fun s => modKeys s fun k => keyCtl k false false true)

/-- JNL_KEYCTL.LOCK is written 1 (R390). -/
def execKeyLock (p : Port) (s : State) : Out1 := .next (gated (pageGate s p .jnl 0x7C0 true) fun s => modKeys s fun k => keyCtl k true false false)

end Sys2Proof.Machine
end

