-- ==== Sys2Proof/Machine/Jobs.lean ====
section
/-! DEFINITION. The mailbox (R64 to R66), jobs (R67 to R70), LOAD_IMAGE (R399), the tenant table (R56 to R60). -/

namespace Sys2Proof.Machine

/-! The tenant table (R56 to R59). -/

/-- The cores that tenant t owns. -/
def coresOf (s : State) (t : Nat) : List Nat := (s.owners.filter fun e => e.2.owned && e.2.tenant.toNat = t).map (·.1)

/-- A change of a tenant's SUSPEND wakes its cores in DOZE (R443). -/
def wakeTenant (s : State) (t : Nat) : State := (coresOf s t).foldl (fun s c => modCore s c fun k => wakeDoze k s.now 2) s

/-- TEN_CTRL of tenant t set to v; its cores see a change of SUSPEND. -/
def setCtrl (s : State) (t : Nat) (v : Word) : State :=
  let s1 := modTenant s t fun e => { e with ctrl := v }
  if tenSuspend s t = wbit v 30 then s1 else wakeTenant s1 t

/-- A write to TEN_CTRL (R58): one that clears VALID while the tenant owns cores is ignored and counted; one that clears it otherwise empties its mailbox map. -/
def writeTenCtrl (s : State) (t : Nat) (v : Word) : State :=
  let clears := tenValid s t && !wbit v 31
  if clears && 0 < tenCores s t then blkBump s 5
  else
    let s1 := setCtrl s t (v &&& 0xFF8007FF#32)
    if clears then modTenant s1 t fun e => { e with pend := 0#64 } else s1

/-- A write to TEN_ASID (R58): one that changes it while the tenant owns cores is ignored and counted. -/
def writeTenAsid (s : State) (t : Nat) (v : Word) : State :=
  let w := v &&& 0xFFFF#32
  if 0 < tenCores s t && w ≠ (getTenant s t).asid then blkBump s 5 else modTenant s t fun e => { e with asid := w }

/-- The TEN page of a tenant's entry. -/
def tenPage (t : TenantId) : PageRef := .ten (Fin.ofNat 7 (t.toNat / 64))

/-- The offset of register r of a tenant's entry. -/
def tenOff (t : TenantId) (r : Nat) : Nat := 0x40 + 16 * (t.toNat % 64) + r

/-- A write to TEN_CTRL (R58). -/
def execTenCtrlWrite (p : Port) (t : TenantId) (v : Word) (s : State) : Out1 :=
  .next (gated (pageGate s p (tenPage t) (tenOff t 0) true) fun s => writeTenCtrl s t.toNat v)

/-- A write to TEN_ASID (R58). -/
def execTenAsidWrite (p : Port) (t : TenantId) (v : Word) (s : State) : Out1 :=
  .next (gated (pageGate s p (tenPage t) (tenOff t 4) true) fun s => writeTenAsid s t.toNat v)

/-- The TEN page of a core's ownership register. -/
def ownPage (c : CoreId) : PageRef := .ten (Fin.ofNat 7 (4 + c.val / 400))

/-- The offset of a core's ownership register. -/
def ownOff (c : CoreId) : Nat := 0x40 + 4 * (c.val % 400)

/-- TEN_OWN is written with OWNED set (R59). -/
def execCoreAssign (p : Port) (c : CoreId) (v : Word) (s : State) : Out1 :=
  .next (gated (pageGate s p (ownPage c) (ownOff c) true) fun s => ownWrite s c.val (v ||| 0x80000000#32))

/-- TEN_OWN is written with OWNED clear (R60). -/
def execCoreRelease (p : Port) (c : CoreId) (v : Word) (s : State) : Out1 :=
  .next (gated (pageGate s p (ownPage c) (ownOff c) true) fun s => ownWrite s c.val (v &&& 0x7FFFFFFF#32))

/-! The mailbox (R64 to R66). -/

/-- A doorbell of the mailbox from a tenant (R65); a write of the management port belongs to no tenant. One for a slot that is pending already has no effect on the slot; it counts, and raises EVT_PEND.MBX, all the same (DESIGN CHOICE, log entry 192). -/
def mailboxBell (s : State) (t : Option Nat) (slot : Nat) : State :=
  match t with
  | some t => evSet (blkBump (modTenant s t fun e => { e with pend := e.pend ||| BitVec.ofNat 64 (2 ^ slot) }) 2) evMBX
  | none => s

/-- BLK_MBXDB is written (R65). -/
def execMailboxDoorbell (p : Port) (slot : BitVec 6) (s : State) : Out1 :=
  .next (gated (pageGate s p .blk 0x58 true) fun s => mailboxBell s (portTenant p) slot.toNat)

/-- The tenant whose mailbox is served next, in round-robin order (R65). -/
def mbxTenant (s : State) : Option Nat := ((List.range 256).map fun i => (s.mbxNext + i) % 256).find? fun t => (getTenant s t).pend ≠ 0#64

/-- The CRC of a command block holds (R64). -/
def blockCrcOk (b : List Byte) : Bool := leAt b 0x3C 4 = crc32c (b.take 2 ++ (b.drop 4).take 0x34)

/-- Argument i of a command block. -/
def mbxArg (b : List Byte) (i : Nat) : Nat := leAt b (8 + 8 * i) 8

/-- The management processor takes the next pending block (R65, R66): one that is not submitted is skipped, one with a bad CRC or an unknown OP is refused. -/
def execMailboxTake (block : List Byte) (s : State) : Out1 :=
  if block.length ≠ 64 then .fault .malformed
  else .next (match mbxTenant s with
    | none => s
    | some t =>
      match (List.range 64).find? fun i => (getTenant s t).pend.toNat.testBit i with
      | none => s
      | some slot =>
        let s1 := { modTenant s t (fun e => { e with pend := e.pend &&& ~~~(BitVec.ofNat 64 (2 ^ slot)) }) with mbxNext := (t + 1) % 256 }
        if leAt block 2 1 ≠ 1 then s1
        else if !blockCrcOk block then refuseMbx s1 t slot 2
        else if leAt block 0 2 = 0 || 5 < leAt block 0 2 then refuseMbx s1 t slot 1
        else { s1 with taken := s1.taken ++ [{ tenant := BitVec.ofNat 8 t, slot := slot, block := block }] })

/-- The command block of an OP that has been taken from a slot and not begun. -/
def takenOp (s : State) (t slot op : Nat) : Option Taken :=
  s.taken.find? fun k => k.tenant.toNat = t && k.slot = slot && leAt k.block 0 2 = op && !k.started

/-- s with f applied to a taken command. -/
def modTaken (s : State) (t slot : Nat) (f : Taken → Taken) : State :=
  { s with taken := s.taken.map fun k => if k.tenant.toNat = t && k.slot = slot then f k else k }

/-! The manifest (R68, R69). -/

def manCores (m : List Byte) : Nat := leAt m 0x0C 2
def manImages (m : List Byte) : Nat := leAt m 0x0E 2
def manShapes (m : List Byte) : Nat := leAt m 0x10 2
def manChips (m : List Byte) : Nat := leAt m 0x12 2
def manRole (m : List Byte) : Nat := leAt m 0x18 1

/-- The core entries. -/
def manCoreEntries (m : List Byte) : List (List Byte) := (List.range (manCores m)).map fun i => slice m (64 + 64 * i) 64
/-- The image entries. -/
def manImageEntries (m : List Byte) : List (List Byte) := (List.range (manImages m)).map fun i => slice m (64 + 64 * manCores m + 16 * i) 16
/-- The shape entries. -/
def manShapeEntries (m : List Byte) : List (List Byte) := (List.range (manShapes m)).map fun i => slice m (64 + 64 * manCores m + 16 * manImages m + 16 * i) 16

/-- Zero bytes. -/
def zerosAt (l : List Byte) (o n : Nat) : Bool := leAt l o n = 0

/-- M_FORMAT does not hold. -/
def manFormatOk (m : List Byte) : Bool :=
  64 ≤ m.length && m.take 4 = [0x42#8, 0x4B#8, 0x4D#8, 0x46#8] && leAt m 4 2 = 1 && zerosAt m 6 2 &&
  1 ≤ manCores m && manCores m ≤ 1200 && manImages m ≤ 255 && manShapes m ≤ 19200 && 1 ≤ manChips m &&
  leAt m 8 4 = 64 + 64 * manCores m + 16 * manImages m + 16 * manShapes m && m.length = leAt m 8 4 &&
  zerosAt m 0x19 3 && zerosAt m 0x20 28 &&
  (manCoreEntries m).all (fun e => zerosAt e 0x3E 2 && (leAt e 0x3D 1 = 0xFF || leAt e 0x3D 1 < manImages m)) &&
  (manImageEntries m).all (fun e => zerosAt e 0x0C 4) && (manShapeEntries m).all (fun e => zerosAt e 3 1) &&
  (List.range (manImages m)).all fun i => (manCoreEntries m).any fun e => leAt e 0x3D 1 = i

/-- The manifest's CRC holds. -/
def manCrcOk (m : List Byte) : Bool := leAt m 0x3C 4 = crc32c (m.take 0x3C ++ List.replicate 4 0#8 ++ m.drop 0x40)

/-- The core of an entry. -/
def entCore (e : List Byte) : Nat := leAt e 0 2

/-- Ones among the low 12 bits. -/
def segCount (v : Nat) : Nat := (onesOf 12 v).length

/-- The reason of the first check of R69 that a manifest fails, 0 for none. -/
def manReason (s : State) (t : Nat) (m : List Byte) (hs : List (List Byte)) : Nat :=
  let es := manCoreEntries m
  let cs := es.map entCore
  if !manFormatOk m then 1
  else if !manCrcOk m then 2
  else if !tenValid s t || tenSuspend s t then 3
  else if cs.any (1199 < ·) || (dedup cs).length ≠ cs.length then 4
  else if cs.any fun c => (getOwner s c).felled then 5
  else if cs.any fun c => (getOwner s c).owned || !(getOwner s c).zeroed then 6
  else if tenMax s t < tenCores s t + manCores m then 7
  else if es.any (fun e => fld (leAt e 6 2) 0 12 &&& fld (leAt e 4 2) 0 12 ≠ fld (leAt e 6 2) 0 12 || 65536 * segCount (leAt e 6 2) < leAt e 8 4) then 8
  else if es.any fun e => 1024 < leAt e 0x0C 2 then 9
  else if es.any fun e => 32 < leAt e 0x0E 1 then 0x0A
  else if es.any fun e => 64 < leAt e 0x0F 1 || (leAt e 0x0F 1 ≠ 0 && 1 < manChips m && !tenRemoteOk s t) then 0x0B
  else if es.any fun e => (List.range 5).any fun q => leAt e (0x10 + 8 * q) 8 % 64 ≠ 0 || leAt e (0x38 + q) 1 < 4 || 16 < leAt e (0x38 + q) 1 then 0x0C
  else if (manImages m ≠ 0 && !tenGroveOk s t) || (hs.take (manImages m)).any fun h => (hdrRanges h).any fun r => 1663 < r.1 || 1663 < r.2.1 then 0x0D
  else if (hs.take (manImages m)).any fun h => 4 < leAt h 0x0B 1 || !(tenKeyMask s t).testBit (leAt h 0x0B 1) then 0x0E
  else if (manShapeEntries m).any fun e => !cs.contains (entCore e) || 15 < leAt e 2 1 || leAt e 0x0C 4 < leAt e 4 4 * leAt e 8 4 then 0x0F
  else if 2 < manRole m || (manRole m = 0) ≠ (manChips m = 1) || (manRole m = 1 && word (leAt m 0x1C 4) ≠ torusHere s) then 0x10
  else 0

/-! Loading a job (R70). -/

/-- The ring of queue q as a core entry gives it, with ISSUE, DONE and TAIL at 0 (R70, R157). -/
def placeRing (e : List Byte) (k : Core) (q : QueueId) : Core :=
  let a := leAt e (0x10 + 8 * qIdx q) 8
  modQ (setKReg (setKReg k 0 (qBlock q) (fld a 6 26 * 64 + leAt e (0x38 + qIdx q) 1)) 0 (qBlock q + 4) (fld a 32 12)) q fun x =>
    { x with issue := 0, done := 0, tail := 0 }

/-- The segments of SEGMASK as those that a tenant may power, the others powered off (R70, step 2, R209). -/
def placeSegments (k : Core) (mask now : Nat) : Core :=
  let k1 := setKReg k 5 0x50 (fld (kReg k 5 0x50) 0 16 + fld mask 0 12 * 65536)
  (List.range 12).foldl (fun k g => if mask.testBit g then k else segOffBit k g now) k1

/-- Steps 1 to 3 of R70 for one core entry: TEN_OWN, the segments, CONTEXTS (R219), the rings. -/
def placeCore (t : Nat) (s : State) (e : List Byte) : State :=
  let c := entCore e
  modCore (ownTake s c (word (2 ^ 31 + t))) c fun k =>
    let k1 := placeSegments k (leAt e 4 2) s.now
    allQ.foldl (placeRing e) (setKReg k1 6 0x54 (fld (kReg k1 6 0x54) 11 21 * 2048 + fld (leAt e 0x0C 2) 0 11))

/-- A planned shape maximum (R70, step 3). -/
def placeShape (s : State) (e : List Byte) : State :=
  modCore s (entCore e) fun k => setKReg k 0 (0x160 + 4 * leAt e 2 1) (leAt e 4 4)

/-- The handle that the management processor picks for a load (DESIGN CHOICE, log entry 23): a free one where there is one. -/
def pickHandle (s : State) (c : Nat) : Nat × State :=
  let (n, s1) := takeChoice s
  let frees := (List.range 4).filter fun h => !handleUsed (getCore s c) h
  (if frees = [] then n % 4 else (frees[n % frees.length]?).getD 0, s1)

/-- The management processor records a retained copy, at an address that the spec does not give, and starts the controller. -/
def beginImage (s : State) (c len : Nat) : State :=
  let (h, s1) := pickHandle s c
  let (lo, s2) := takeFree s1
  let (hi, s3) := takeFree s2
  let s4 := modCore s3 c fun k =>
    setKReg (setKReg k 11 (0x48 + 8 * h) (lo &&& 0xFFFFFFC0#32).toNat) 11 (0x4C + 8 * h) (if handleUsed k h then kReg k 11 (0x4C + 8 * h) else hi.toNat % 65536)
  startLoad s4 c h (min len 131071)

/-- The image loads of a job begin, unless one has already been refused (R70, step 4). -/
def beginImages (t slot : Nat) (m : List Byte) : State → List (List Byte) → State
  | s, [] => s
  | s, e :: es =>
    let n := leAt e 0x3D 1
    if n = 0xFF || !(s.taken.any fun k => k.tenant.toNat = t && k.slot = slot) then beginImages t slot m s es
    else beginImages t slot m (beginImage s (entCore e) (leAt ((manImageEntries m)[n]?.getD []) 8 4)) es

/-- A job whose manifest passed every check is loaded (R70); without images it is answered at once. -/
def placeJob (s : State) (t slot : Nat) (m : List Byte) : State :=
  let es := manCoreEntries m
  let job : Job := { jobid := word (leAt m 0x14 4), tenant := BitVec.ofNat 8 t, role := manRole m, nchips := manChips m,
                     head := word (leAt m 0x1C 4), cores := es.map entCore }
  let s1 := (manShapeEntries m).foldl placeShape (es.foldl (placeCore t) s)
  let s2 := { s1 with jobs := s1.jobs ++ [job] }
  let waits := (es.filter fun e => leAt e 0x3D 1 ≠ 0xFF).map entCore
  if waits = [] then answerMbx s2 t slot job.jobid 0 2
  else beginImages t slot m (modTaken s2 t slot fun k => { k with started := true, job := job.jobid, ending := waits }) es

/-- LOAD_JOB (R69, R70): refused with the reason of the first check that fails, or loaded. -/
def execLoadJob (t : TenantId) (slot : BitVec 6) (manifest : List Byte) (imageHdrs : List (List Byte)) (s : State) : Out1 :=
  if imageHdrs.any (fun h => h.length ≠ 256) || (manFormatOk manifest && imageHdrs.length < manImages manifest) then .fault .malformed
  else .next (match takenOp s t.toNat slot.toNat 1 with
    | none => s
    | some _ =>
      match manReason s t.toNat manifest imageHdrs with
      | 0 => placeJob s t.toNat slot.toNat manifest
      | r + 1 => refuseMbx s t.toNat slot.toNat (r + 1))

/-! The other commands (R66, R67, R399). -/

/-- A job of which only felled cores are left is gone when its tenant ends it. -/
def dropFelledJob (s : State) (job : Word) (t : TenantId) : State :=
  { s with jobs := s.jobs.filter fun j => !(j.jobid == job && j.tenant == t && j.cores.all fun c => (getOwner s c).felled) }

/-- END_JOB releases every core of the tenant's job (R67). -/
def execEndJob (t : TenantId) (slot : BitVec 6) (s : State) : Out1 :=
  .next (match takenOp s t.toNat slot.toNat 2 with
    | none => s
    | some k =>
      let cs := match s.jobs.find? fun j => j.jobid.toNat = mbxArg k.block 0 && j.tenant = t with
        | some j => j.cores.filter fun c => !(getOwner s c).felled
        | none => []
      cs.foldl (fun s c => ownWrite s c 0#32) (dropFelledJob (modTaken s t.toNat slot.toNat fun k => { k with started := true, ending := cs, count := cs.length }) (word (mbxArg k.block 0)) t))

/-- Once the last core of an ended job has ZEROED set, END_JOB is answered (R67). -/
def execEndJobAnswer (t : TenantId) (slot : BitVec 6) (s : State) : Out1 :=
  .next (match s.taken.find? fun k => k.tenant = t && k.slot = slot.toNat && leAt k.block 0 2 = 2 && k.started && k.ending = [] with
    | some k => answerMbx s t.toNat slot.toNat (word k.count) 0 2
    | none => s)

/-- LOAD_IMAGE (R399): its checks, then the controller's load; it waits while a load or a blanking is in progress on the core. -/
def execLoadImage (t : TenantId) (slot : BitVec 6) (header : List Byte) (s : State) : Out1 :=
  if header.length ≠ 256 then .fault .malformed
  else .next (match takenOp s t.toNat slot.toNat 3 with
    | none => s
    | some k =>
      let c := mbxArg k.block 0
      let n := leAt header 0x0B 1
      if !tenValid s t.toNat || tenSuspend s t.toNat || 1199 < c || ownerOf s c ≠ some t.toNat then refuseMbx s t.toNat slot.toNat 3
      else if !tenGroveOk s t.toNat then refuseMbx s t.toNat slot.toNat 0x0D
      else if 4 < n || !(tenKeyMask s t.toNat).testBit n then refuseMbx s t.toNat slot.toNat 0x0E
      else if (getOwner s c).felled then answerMbx s t.toNat slot.toNat (word eFELLED) 0x11 3
      else if loadBusy (getCore s c) then s
      else beginImage (modTaken s t.toNat slot.toNat fun k => { k with started := true, ending := [c] }) c (mbxArg k.block 2))

/-- SUSPEND (R66): ARG0 bit 0 is the value of the tenant's SUSPEND. -/
def execMbxSuspend (t : TenantId) (slot : BitVec 6) (s : State) : Out1 :=
  .next (match takenOp s t.toNat slot.toNat 4 with
    | some k =>
      let v := (getTenant s t.toNat).ctrl
      answerMbx (setCtrl s t.toNat (word (Machine.setBit v.toNat 30 ((mbxArg k.block 0).testBit 0)))) t.toNat slot.toNat 0#32 0 2
    | none => s)

/-- QUERY (R66): the tenant's CORES. -/
def execQuery (t : TenantId) (slot : BitVec 6) (s : State) : Out1 :=
  .next (match takenOp s t.toNat slot.toNat 5 with
    | some _ => answerMbx s t.toNat slot.toNat (word (tenCores s t.toNat)) 0 2
    | none => s)

end Sys2Proof.Machine
end

