-- ==== Sys2Proof/Machine/Faults.lean ====
section
/-! DEFINITION. Parity mismatches (R205), the error FIFO's registers (R416, R417), cruise (R430 to R433). -/

namespace Sys2Proof.Machine

/-! Parity (R180, R205). -/

/-- A word upset in the bits of m; no bit for its parity bit. It reads with wrong parity where the upset bits, the parity bit among them, are odd in number (R205). -/
def upsetWord (k : Core) (w : Nat) (m : Word) : Core :=
  let old := leNat (spdBytes k (4 * w) 4)
  let odd := m = 0#32 || parityBit m.toNat
  modSpd k fun d => { d with mem := memWrite d.mem (4 * w) (natLe 4 (old ^^^ m.toNat)),
                             bad := if odd then (if d.bad.contains w then d.bad.filter (· ≠ w) else w :: d.bad) else d.bad }

/-- What an event of a unit reads. -/
def Act.reads : Act → List Region8
  | .read rs => rs
  | .line rs => rs
  | .step rs => rs
  | .pass _ rs => rs
  | _ => []

/-- Word w lies in one of the regions. -/
def wordIn (rs : List Region8) (w : Nat) : Bool := rs.any fun r => r.len ≠ 0 && r.off / 4 ≤ w && w ≤ (r.off + r.len - 1) / 4

/-- The cycle in which a flight next reads word w, as far as its events are known. -/
def nextRead (f : Flight) (w : Nat) : Option Nat := (f.todo.find? fun e => wordIn e.act.reads w).map (·.cyc)

/-- s once flight n of queue q has made its next read of word w, if it is to make one: a pass knows its reads once it has begun. -/
def untilRead (s : State) (c : Nat) (q : QueueId) (n w : Nat) : State :=
  match (getQ (getCore s c) q).flights[n]? with
  | some f =>
    let s1 := if f.lines = [] && f.tail = [] then s else atLeast s f.start
    match ((getQ (getCore s1 c) q).flights[n]?).bind fun g => nextRead g w with
    | some t => atLeast s1 t
    | none => s1
  | none => s

/-- A read meets the word with wrong parity: a descriptor fails when it reads it (its next read of it is awaited), a stream that is about to read it halts, a port read is recorded (R205). -/
def parityMet (s : State) (c w : Nat) : ParityReader → State
  | .flight q n => untilRead s c q n w
  | .stream ctx =>
    match findStream (getCore s c) ctx.toNat with
    | some st =>
      match peek s c st with
      | .halt h => if h.bad = some w then meetHalt s c st h else s
      | _ => s
    | none => s
  | .port => parityRecord s c w { code := ePARITY, cls := 1, page := 5 }
  | .loopBuffer .. => s

/-- A parity error in a loop buffer: E_PARITY is recorded and the entry is fetched again (R180). -/
def loopParity (s : State) (c : Nat) (q : QueueId) (idx : Nat) : State :=
  let x := getQ (getCore s c) q
  if inActiveBody x idx && (fetchedAt x idx).isSome then
    coreErr (modCore s c fun k => modQ k q fun x => { x with buf := x.buf.filter fun e => e.idx ≠ idx }) c
      { code := ePARITY, cls := 1, page := 0, queue := qIdx q, ringidx := idx }
  else s

/-- A parity mismatch (R180, R205): the bits of mask flip in the word, and its reader meets the mismatch. -/
def execParityError (c : CoreId) (wordNo : Fin 196608) (mask : Word) (reader : ParityReader) (s : State) : Out1 :=
  .next (match reader with
    | .loopBuffer q idx => loopParity s c.val q idx.toNat
    | r =>
      if (getOwner s c.val).felled || !segUp (getCore s c.val) (wordNo.val / 16384) then s
      else
        let s1 := modCore s c.val fun k => upsetWord k wordNo.val mask
        if (getCore s1 c.val).spd.bad.contains wordNo.val then parityMet s1 c.val wordNo.val r else s1)

/-! The error FIFO (R416, R417). -/

/-- The words of the head record; zeros when the FIFO is empty (R434). -/
def headWords (k : Core) : Word × Word × Word × Word :=
  match k.err.fifo with
  | r :: _ => recWords r
  | [] => (0#32, 0#32, 0#32, 0#32)

/-- A read of ERR_REC0 latches words 1 to 3 of the head record for the port (R417). -/
def readRec (s : State) (p : Port) (c : Nat) : State :=
  let w := headWords (getCore s c)
  answerRead (modLatch s p fun l => { l with errRec := fset l.errRec c w.2 }) p (natLe 4 w.1.toNat)

/-- ERR_REC0 is read (R417). -/
def execErrRecRead (p : Port) (c : CoreId) (s : State) : Out1 :=
  let g := pageGate s p (.core c 13) 0x48 false
  .next (if g.2 then readRec g.1 p c.val else answerRead g.1 p (natLe 4 0))

/-- The head record goes if its SEQ matches (R417). -/
def popRec (k : Core) (seq : Nat) : Core :=
  match k.err.fifo with
  | r :: rs => if r.seq % 256 = seq then { k with err := { k.err with fifo := rs } } else k
  | [] => k

/-- ERR_POP is written with GO (R417). -/
def execErrPop (p : Port) (c : CoreId) (seq : Byte) (s : State) : Out1 :=
  .next (coreWrite s p c 13 0x58 fun s => modCore s c.val fun k => popRec k seq.toNat)

/-- OVF and LOST are cleared together (R416, R434). -/
def clearOvf (k : Core) : Core := { setKReg k 13 0x44 (setBit (kReg k 13 0x44) 31 false) with err := { k.err with lost := 0 } }

/-- ERR_FIFOSTAT.OVF is written 1 (R434). -/
def execFifoOvfClear (p : Port) (c : CoreId) (s : State) : Out1 :=
  .next (coreWrite s p c 13 0x44 fun s => modCore s c.val clearOvf)

/-! Cruise (R430 to R433). -/

/-- The FCLK cycles of a step (R431). -/
def cruiseCycles (step : Nat) : Nat := if step < 288 then 1000 else if step < 312 then 1600 else if 372 ≤ step && step < 396 then 900 else 1500

/-- The page of the unit that a step tests (R431). -/
def cruisePage (step : Nat) : Nat := if step < 312 then 2 else if step < 352 then 3 else if step < 372 then 4 else if step < 396 then 0 else 5

/-- The code that a step reports (R433): E_RESIDUE from the array and its checkers, E_PARITY or E_TAG_PROTOCOL from a slot; the others report what they found, which the spec does not limit. -/
def cruiseCode (step code : Nat) : Nat :=
  if step < 312 then eRESIDUE else if 396 ≤ step then (if code = eTAG_PROTOCOL then eTAG_PROTOCOL else ePARITY) else 1 + (code - 1) % 18

/-- A slot step passes over a slot that is not tagged, EMPTY, unpinned and powered (R431). -/
def marchSkips (k : Core) (n : Nat) : Bool := untagged k n || (tagOf k n).st ≠ .empty || 0 < (tagOf k n).rdpin || !segUp k (n / 64)

/-- Cruise may run on core c (R430, R434). -/
def cruiseMay (s : State) (c : Nat) : Bool :=
  let k := getCore s c
  (kReg k 13 0x68).testBit 31 && (k.pwr.st = .active || k.pwr.st = .doze) && k.pwr.descending ≠ some .sleep && k.pwr.descending ≠ some .shut &&
  !(getOwner s c).felled && 5 ≤ s.boot.step && idleUnits k

/-- An idle core begins or continues its pass (R430); the start of a step wakes it from DOZE (R443). -/
def execCruiseStepStart (c : CoreId) (s : State) : Out1 :=
  let k := getCore s c.val
  .next (if cruiseMay s c.val && !k.cruise.running then
    let s1 := atLeast s (k.pwr.idleSince + rclk (fld (kReg k 13 0x68) 0 20))
    modCore s1 c.val fun k => wakeDoze (modCruise k fun x => { x with running := true, since := s1.now, work := false }) s1.now 4
  else s)

/-- The pass goes on to the next step (R431). -/
def cruiseNext (k : Core) : Core :=
  let x := k.cruise
  let m := if 396 ≤ x.step then (x.march + 1) % 768 else x.march
  if x.step + 1 < 444 then modCruise k fun x => { x with running := false, step := x.step + 1, march := m }
  else kBump (modCruise k fun x => { x with running := false, step := 0, march := m, passes := (x.passes + 1) % 2 ^ 32 }) 13 7

/-- A CRUISE record (R426). -/
def jnlCruise (s : State) (c step result code : Nat) : State :=
  jnlPush s 5 (natLe 2 c ++ natLe 2 step ++ natLe 1 result ++ natLe 1 code ++ natLe 6 0)

/-- A failure that passed on the repeat (R433). -/
def cruiseOnce (s : State) (c step code : Nat) (detail : Word) : State :=
  jnlCruise (coreErr (modCore s c fun k => kBump k 13 9) c { code := code, cls := 0, page := cruisePage step, cruise := true, detail := detail }) c step 1 code

/-- A confirmed failure (R421, R422, R433): a hard error, which with AUTO fells the core. -/
def cruiseTwice (s : State) (c step code : Nat) (detail : Word) : State :=
  let r : ErrRec := { code := code, cls := 1, page := cruisePage step, cruise := true, detail := detail }
  let s1 := coreErr (modCore s c fun k => kBump (modCruise k fun x => { x with failed := true }) 13 10) c r
  let s2 := hardError (jnlCruise s1 c step 2 code) c r
  if (kReg (getCore s2 c) 13 0x60).testBit 31 then fell s2 c code else s2

/-- A cruise step ends (R433), after its cycles, twice as many where it was repeated. -/
def execCruiseStepDone (c : CoreId) (r : CruiseResult) (s : State) : Out1 :=
  let k := getCore s c.val
  let st := k.cruise.step
  .next (if !k.cruise.running || k.cruise.work then s
  else
    let s1 := atLeast s (k.cruise.since + cruiseCycles st * (if r = .pass then 1 else 2))
    let s2 := modCore s1 c.val cruiseNext
    if 396 ≤ st && marchSkips k k.cruise.march then s2
    else match r with
      | .pass => s2
      | .passOnRepeat code d => cruiseOnce s2 c.val st (cruiseCode st code.toNat) d
      | .confirmed code d => cruiseTwice s2 c.val st (cruiseCode st code.toNat) d)

/-- Work that has arrived pre-empts cruise (R432). -/
def execCruisePreempt (c : CoreId) (s : State) : Out1 :=
  .next (if (getCore s c.val).cruise.work then modCore s c.val cruiseYield else s)

/-! Felling and restoring by command (R422, R425). -/

/-- A write to JNL_FELLCMD (R422, R425, R436): FELL fells the named core whatever its errors; RESTORE writes a FENCE record that clears the core at the next boot, and is ignored for a core neither FELLED nor being felled; above 1199 the write is ignored. -/
def fellCommand (s : State) (op c : Nat) : State :=
  if 1199 < c then s
  else match op with
    | 1 => fell s c 0
    | 2 => if (getOwner s c).felled then jnlPush s 2 (fencePayload c 2 0 0) else s
    | _ => s

/-- JNL_FELLCMD OP FELL (R422). -/
def execFellCommand (p : Port) (c : BitVec 11) (s : State) : Out1 :=
  .next (gated (pageGate s p .jnl 0x50 true) fun s => fellCommand s 1 c.toNat)

/-- JNL_FELLCMD OP RESTORE (R425). -/
def execRestoreCommand (p : Port) (c : BitVec 11) (s : State) : Out1 :=
  .next (gated (pageGate s p .jnl 0x50 true) fun s => fellCommand s 2 c.toNat)

end Sys2Proof.Machine
end

