-- ==== Sys2Proof/Machine/Journal.lean ====
section
/-! DEFINITION. The ring journal (R425 to R429, R436): records, the writer, compaction, zeroing, replay. -/

namespace Sys2Proof.Machine

/-- s with f applied to the journal. -/
def modJnl (s : State) (f : Journal → Journal) : State := { s with jnl := f s.jnl }

/-- Counter n of the JNL page plus amt (R437). -/
def jnlBump (s : State) (n : Nat) (amt : Nat := 1) : State := { s with jnlPage := bump s.jnlPage n amt }

/-- Bytes of a half. -/
def halfBytes : Nat := 0x100000

/-- LEN of a record of a type (R426). -/
def recLen (ty : Nat) : Nat := if ty = 3 then 192 else if ty = 4 then 64 else 32

/-- RCLK cycles that the writer takes for n bytes (R427). -/
def writeTime (n : Nat) : Nat := rclk (n / 8 * 20)

/-- The bytes of a record (R426). -/
def recordBytes (ty seq boot : Nat) (rtime : Word) (payload : List Byte) : List Byte :=
  let n := recLen ty
  let b := natLe 2 n ++ natLe 1 ty ++ natLe 1 0 ++ natLe 4 seq ++ natLe 4 boot ++ natLe 4 rtime.toNat ++ slice payload 0 (n - 20)
  b ++ natLe 4 (crc32c b)

/-- A record found in a half (R426). -/
structure Found where
  ty : Nat
  seq : Nat
  boot : Nat
  payload : List Byte
  deriving DecidableEq, Repr

/-- Scans a half from an offset (R429, step 1): its records, where the scan ends, whether a torn tail stands there. -/
def scanHalf (m : Memory) (base : Nat) : Nat → Nat → List Found × Nat × Bool
  | 0, off => ([], off, false)
  | n + 1, off =>
    if halfBytes ≤ off then ([], off, false)
    else
      let len := leNat (memRead m (base + off) 2)
      if len = 0 then ([], off, false)
      else if len % 32 ≠ 0 || 256 < len || halfBytes < off + len then ([], off, true)
      else
        let b := memRead m (base + off) len
        if leAt b (len - 4) 4 ≠ crc32c (b.take (len - 4)) then ([], off, true)
        else
          let r := scanHalf m base n (off + len)
          ({ ty := leAt b 2 1, seq := leAt b 4 4, boot := leAt b 8 4, payload := (b.drop 16).take (len - 20) } :: r.1, r.2)

/-- A half scanned from its start. -/
def scanOf (j : Journal) (h : Nat) : List Found × Nat × Bool := scanHalf j.mram (h * halfBytes) 32769 0

/-- The fence map that the records of a half leave (R429, step 3): the last FENCEMAP, then the FENCE records after it. -/
def fenceMap (rs : List Found) : Nat :=
  rs.foldl (fun m r =>
    if r.ty = 3 then leAt r.payload 0 150
    else if r.ty = 2 then setBit m (leAt r.payload 0 2) (leAt r.payload 2 1 = 1)
    else m) 0

/-! Writing (R427). -/

/-- Appends bytes at the fill of half h. -/
def jnlStore (j : Journal) (h off : Nat) (bs : List Byte) : Journal := { j with mram := memWrite j.mram (h * halfBytes + off) bs }

/-- The newest record for each key, in SEQ order. -/
def newestBy (key : Found → Nat) : List Found → List Found
  | [] => []
  | r :: rs => if rs.any fun x => key x = key r then newestBy key rs else r :: newestBy key rs

/-- What a snapshot carries (R428, step 1): one FENCEMAP, the newest SWAPGEN of each JOBID, the newest CRUISE of each core, the 64 newest ERROR records. -/
def snapshotOf (rs : List Found) : List (Nat × List Byte) :=
  let errs := rs.filter fun r => r.ty = 4
  [(3, natLe 150 (fenceMap rs))] ++
  (newestBy (fun r => leAt r.payload 0 4) (rs.filter fun r => r.ty = 6)).map (fun r => (6, r.payload)) ++
  (newestBy (fun r => leAt r.payload 0 2) (rs.filter fun r => r.ty = 5)).map (fun r => (5, r.payload)) ++
  (errs.drop (errs.length - 64)).map fun r => (4, r.payload)

/-- Writes the records of a snapshot one after another, each with the RTIME of the edge at which its write begins (R428, step 1). -/
def writeSnap (s : State) : List (Nat × List Byte) → State
  | [] => s
  | (ty, p) :: rest =>
    let j := s.jnl
    let at_ := j.snapSince + writeTime j.snapFill
    let rt := word ((at_ - s.origin) / 17)
    let s1 := modJnl s fun j =>
      { jnlStore j (1 - j.half) j.snapFill (recordBytes ty j.seq j.boot rt p) with snapFill := j.snapFill + recLen ty, seq := (j.seq + 1) % 2 ^ 32 }
    writeSnap (jnlBump s1 0) rest

/-- A compaction begins (R428), or waits for the zeroing of the old half or for the compaction under way. -/
def startCompaction (s : State) : State :=
  if s.jnl.compacting || s.jnl.zeroing.isSome then modJnl s fun j => { j with compactReq := true }
  else
    let rs := (scanOf s.jnl s.jnl.half).1
    evSet (writeSnap (modJnl s fun j => { j with compacting := true, compactReq := false, snapFill := 0, snapSeq := j.seq, snapSince := s.now }) (snapshotOf rs)) evJNL

/-- Compaction begins at a fill of 75 % (R428). -/
def checkFill (s : State) : State := if 786432 ≤ s.jnl.fill && !s.jnl.compacting then startCompaction s else s

/-- Records that wait for room enter the writer's queue (R427). -/
def admitFences (s : State) : State :=
  match s.jnl.fences with
  | r :: rs =>
    if s.jnl.queue.length < 16 then modJnl s fun j => { j with fences := rs, queue := j.queue ++ [{ r with rtime := rtimeLo s, entered := s.now }] } else s
  | [] => s

/-- The writer finishes the oldest record, 8 bytes per 20 RCLK cycles (R427): its place is free, EVT_PEND.JNL is raised; a half that is 75 % full is compacted (R428). A snapshot under way, or a full half, holds the queue. -/
def execJournalWriteDone (s : State) : Out1 :=
  .next (match s.jnl.queue with
    | r :: rest =>
      let j := s.jnl
      let n := recLen r.ty
      if j.compacting || halfBytes < j.fill + n then s
      else
        let s1 := atLeast s (max j.lastEnd r.entered + writeTime n)
        let s2 := modJnl s1 fun j =>
          { jnlStore j j.half j.fill (recordBytes r.ty j.seq j.boot r.rtime r.payload) with
            fill := j.fill + n, seq := (j.seq + 1) % 2 ^ 32, queue := rest, lastEnd := s1.now }
        let s3 := jnlBump s2 0
        checkFill (evSet (admitFences (if r.ty = 2 then jnlBump s3 4 else s3)) evJNL)
    | [] => s)

/-- A compaction is requested (R428). -/
def requestCompaction (s : State) : State := startCompaction s

/-- JNL_CTL.COMPACT is written 1 (R428). -/
def execJnlCompact (p : Port) (s : State) : Out1 := .next (gated (pageGate s p .jnl 0x4C true) requestCompaction)

/-- The snapshot ends with SEAL (R428, step 2): the sealed half is active, and zeroing of the old one begins. -/
def execCompactionSeal (s : State) : Out1 :=
  .next (if s.jnl.compacting then
    let j := s.jnl
    let s1 := atLeast s (j.snapSince + writeTime (j.snapFill + 32))
    let rt := word ((j.snapSince + writeTime j.snapFill - s.origin) / 17)
    let h := 1 - j.half
    let s2 := modJnl s1 fun j =>
      { jnlStore j h j.snapFill (recordBytes 7 j.seq j.boot rt (natLe 1 h ++ natLe 3 0 ++ natLe 4 j.snapSeq)) with
        half := h, fill := j.snapFill + 32, seq := (j.seq + 1) % 2 ^ 32, compacting := false, lastEnd := s1.now, zeroing := some (0, s1.now) }
    checkFill (evSet (jnlBump (jnlBump s2 0) 1) evJNL)
  else s)

/-- One 8-byte word of the retired half is zeroed each 2,000 RCLK cycles (R428, step 3); a compaction that waits for the end starts there. -/
def execZeroWord (s : State) : Out1 :=
  .next (match s.jnl.zeroing with
    | some (n, t) =>
      let s1 := atLeast s (t + rclk 2000)
      let s2 := modJnl s1 fun j =>
        { j with mram := memZero j.mram ((1 - j.half) * halfBytes + 8 * n) 8, zeroing := if n + 1 < halfBytes / 8 then some (n + 1, s1.now) else none }
      if s2.jnl.zeroing.isNone && s2.jnl.compactReq then startCompaction s2 else s2
    | none => s)

/-! Reading the MRAM (R436). -/

/-- The MRAM word at JNL_RDADDR, and JNL_RDADDR one word further, wrapping at 2 MiB (R436). -/
def readMram (s : State) (p : Port) : State :=
  let a := gReg s .jnl 0x54
  let s1 := { s with jnlPage := setAct s.jnlPage 0x54 (word ((a + 4) % 0x200000)) }
  answerRead s1 p (memRead s.jnl.mram a 4)

/-- JNL_RDDATA is read (R436). -/
def execJnlRddataRead (p : Port) (s : State) : Out1 :=
  let g := pageGate s p .jnl 0x58 false
  .next (if g.2 then readMram g.1 p else answerRead g.1 p (natLe 4 0))

/-! Replay (R429). -/

/-- The SEQ of the newest SEAL of a half. -/
def sealSeq (rs : List Found) : Option Nat := ((rs.filter fun r => r.ty = 7).getLast?).map (·.seq)

/-- A half whose snapshot has no SEAL is treated as empty (R429, step 2). -/
def usableRecs (rs : List Found) : List Found := if (rs.head?.map (·.ty)) = some 3 && (sealSeq rs).isNone then [] else rs

/-- The active half (R429, step 2). -/
def chooseHalf (a b : List Found) : Nat :=
  match sealSeq a, sealSeq b with
  | some x, some y => if x < y then 1 else 0
  | some _, none => 0
  | none, some _ => 1
  | none, none =>
    match (usableRecs a).head?, (usableRecs b).head? with
    | some x, some y => if x.seq < y.seq then 1 else 0
    | none, some _ => 1
    | _, none => 0

/-- The BOOT count that a journal holds: that of its newest BOOT record, else of its newest record. -/
def bootOf (rs : List Found) : Nat :=
  match (rs.filter fun r => r.ty = 1).getLast? with
  | some r => r.boot
  | none => (rs.getLast?.map (·.boot)).getD 0

/-- The highest SEQ among records. -/
def topSeq (rs : List Found) : Nat := (rs.map (·.seq)).foldl max 0

/-- The journal after replay, with the fence map, the records replayed and the torn tails found (R429); advance for a power-good boot. -/
def replay (j : Journal) (now : Nat) (advance : Bool) : Journal × Nat × Nat × Nat :=
  let a := scanOf j 0
  let b := scanOf j 1
  let torn := b2n a.2.2 + b2n b.2.2
  let h := chooseHalf a.1 b.1
  let cur := if h = 0 then a else b
  let oth := if h = 0 then b else a
  let rs := usableRecs cur.1
  let fill := if rs = [] then 0 else cur.2.1
  let m1 := if rs = [] then memZero j.mram (h * halfBytes) halfBytes
    else if cur.2.2 then memZero j.mram (h * halfBytes + cur.2.1) (min 256 (halfBytes - cur.2.1)) else j.mram
  let m2 := memZero m1 ((1 - h) * halfBytes) 8
  let dirty := m2.any fun c => (1 - h) * halfBytes ≤ c.1 && c.1 < (2 - h) * halfBytes
  let none_ := usableRecs a.1 = [] && usableRecs b.1 = []
  let boot := if none_ then 1 else bootOf rs + b2n advance
  ({ mram := m2, half := h, fill := fill, seq := if none_ then 1 else topSeq (cur.1 ++ oth.1) + 1, boot := boot, lastEnd := now,
     zeroing := if dirty then some (1, now) else none }, fenceMap rs, rs.length, torn)

/-- A BOOT record is written at the end of the replay (R429, step 4). -/
def writeBoot (s : State) (fenced replayed : Nat) : State :=
  jnlBump (modJnl s fun j =>
    { jnlStore j j.half j.fill (recordBytes 1 j.seq j.boot (rtimeLo s) (natLe 1 j.half ++ natLe 1 0 ++ natLe 2 fenced ++ natLe 4 replayed ++ natLe 4 0)) with
      fill := j.fill + 32, seq := (j.seq + 1) % 2 ^ 32, lastEnd := s.now }) 0 |> checkFill

end Sys2Proof.Machine
end

