-- ==== Sys2Proof/Machine/Power.lean ====
section
/-! DEFINITION. Power states of a core (R440 to R447), power-good, warm reset, initialisation and power loss (R451 to R454). -/

namespace Sys2Proof.Machine

/-! Descending (R442, R446, R447). -/

/-- FCLK cycles of the entry to a state (R442). -/
def entryTime : PState → Nat
  | .doze => 8
  | _ => 256

/-- An entry to a lower state begins; one to SLEEP or SHUT abandons a cruise step (R446, R447). -/
def descend (k : Core) (now : Nat) (goal : PState) : Core :=
  let k1 := if goal = .doze then k else cruiseYield k
  modPwr k1 fun p => { p with descending := some goal, deadline := now + entryTime goal }

/-- No change of state is under way. -/
def steady (k : Core) : Bool := k.pwr.waking.isNone && k.pwr.descending.isNone

/-- ACTIVE to DOZE, PWR_DOZEIDLE FCLK cycles after anything was in flight (R442). -/
def execAutoDoze (c : CoreId) (s : State) : Out1 :=
  let k := getCore s c.val
  .next (if k.pwr.st = .active && steady k && (kReg k 12 0x44).testBit 31 && quietUnits k && !(getOwner s c.val).felled then
    let s1 := atLeast s (k.pwr.busyUntil + fld (kReg k 12 0x48) 0 16)
    modCore s1 c.val fun k => descend k s1.now .doze
  else s)

/-- DOZE to SLEEP, PWR_SLEEPIDLE RCLK cycles after the core became idle (R442). -/
def execAutoSleep (c : CoreId) (s : State) : Out1 :=
  let k := getCore s c.val
  .next (if k.pwr.st = .doze && steady k && (kReg k 12 0x44).testBit 30 && idleUnits k && !(getOwner s c.val).felled then
    let s1 := atLeast s (k.pwr.idleSince + rclk (fld (kReg k 12 0x4C) 0 24))
    modCore s1 c.val fun k => descend k s1.now .sleep
  else s)

/-- What leaving ACTIVE or DOZE ends (R447). -/
def leaveWork (k : Core) : Core := { cruiseYield k with mxa := none }

/-- The core is in a lower state (R441, R446, R447): SHUT has lost every segment. -/
def enterState (k : Core) (now : Nat) (st : PState) : Core :=
  let k1 := modPwr (account k now) fun p => { p with st := st, descending := none, dataClk := false }
  match st with
  | .sleep => leaveWork k1
  | .shut => leaveWork ((List.range 12).foldl (fun k g => dropSegment k g now) k1)
  | _ => k1

/-- The entry to DOZE, SLEEP or SHUT completes (R442). -/
def execStateEntryDone (c : CoreId) (s : State) : Out1 :=
  let k := getCore s c.val
  .next (match k.pwr.descending with
    | some st =>
      let s1 := atLeast s k.pwr.deadline
      modCore s1 c.val fun k => enterState k s1.now st
    | none => s)

/-! TARGET (R446). -/

/-- Depth of a state. -/
def depth : PState → Nat
  | .active => 0 | .doze => 1 | .sleep => 2 | .shut => 3 | .felled => 4

/-- A request that is not accepted (R446). -/
def refuseTarget (k : Core) : Core := kBump (setKReg k 12 0x44 (kReg k 12 0x44 ||| 8)) 12 7

/-- A slot is HELD or pinned. -/
def slotsBusy (k : Core) : Bool := k.spd.tags.any fun e => !untagged k e.1 && (e.2.st = .held || 0 < e.2.rdpin)

/-- The condition of R446 for a deeper state. -/
def mayDescend (k : Core) (goal : PState) : Bool :=
  steady k && match goal with
    | .doze => quietUnits k
    | .sleep => idleUnits k
    | _ => idleUnits k && !slotsBusy k

/-- PWR_CTL.TARGET asks for DOZE, SLEEP or SHUT (R446). -/
def targetState (k : Core) (now : Nat) (goal : PState) : Core :=
  if k.pwr.st = .felled then refuseTarget k
  else if k.pwr.st = goal then k
  else if depth goal < depth k.pwr.st then wakeTo k now goal 5
  else if mayDescend k goal then descend k now goal
  else refuseTarget k

/-- PWR_CTL.TARGET asks for ACTIVE (R446). -/
def targetWake (k : Core) (now : Nat) : Core := if k.pwr.st = .felled then refuseTarget k else wake k now 5

/-- A write to PWR_CTL.TARGET by its value; 0 and 5 to 7 are ignored (R456). -/
def writeTarget (k : Core) (now n : Nat) : Core :=
  match n with
  | 1 => targetState k now .doze
  | 2 => targetState k now .sleep
  | 3 => targetState k now .shut
  | 4 => targetWake k now
  | _ => k

/-- TARGET = 1 (R446). -/
def execTargetDoze (p : Port) (c : CoreId) (s : State) : Out1 := .next (coreWrite s p c 12 0x44 fun s => modCore s c.val fun k => writeTarget k s.now 1)

/-- TARGET = 2 (R446). -/
def execTargetSleep (p : Port) (c : CoreId) (s : State) : Out1 := .next (coreWrite s p c 12 0x44 fun s => modCore s c.val fun k => writeTarget k s.now 2)

/-- TARGET = 3 (R446). -/
def execTargetShut (p : Port) (c : CoreId) (s : State) : Out1 := .next (coreWrite s p c 12 0x44 fun s => modCore s c.val fun k => writeTarget k s.now 3)

/-- TARGET = 4 (R446). -/
def execTargetActive (p : Port) (c : CoreId) (s : State) : Out1 := .next (coreWrite s p c 12 0x44 fun s => modCore s c.val fun k => writeTarget k s.now 4)

/-! Waking (R443 to R445). -/

/-- From SHUT, the segments whose ON bit is 1 are powered and zeroed (R445). -/
def raiseSegments (k : Core) (now : Nat) : Core :=
  (List.range 12).foldl (fun k g => if segOn k g then setSeg (dropSegment k g now) g .up now else k) k

/-- The core is in the state that it ascends to (R445, R446); from SHUT the flip-flops of its grove take their initial values. -/
def riseTo (k : Core) (now : Nat) (st : PState) : Core :=
  let k1 := if k.pwr.st = .shut then modGrv (raiseSegments k now) fun g => restart g [0, 1, 2, 3] else k
  modPwr (account k1 now) fun p => { p with st := st, waking := none, busyUntil := now, dataClk := false }

/-- The wake work ends (R445). -/
def execWakeComplete (c : CoreId) (s : State) : Out1 :=
  let k := getCore s c.val
  .next (match k.pwr.waking, k.pwr.descending with
    | some st, none =>
      let s1 := atLeast s k.pwr.deadline
      modCore s1 c.val fun k => riseTo k s1.now st
    | _, _ => s)

/-! Reset (R451 to R454). -/

/-- What a reset leaves: time, the MRAM, the keys but for the staged words and FUSEVALID, the commands waiting, what has left the block, the free counter; the rest is as after reset (R451). -/
def resetState (s : State) : State :=
  { State.reset with
    pending := s.pending, now := s.now, origin := s.origin, jnl := { mram := s.jnl.mram }
    keys := { s.keys with fuseValid := 0#4, staged := [] }, outbox := s.outbox, free := s.free }

/-- Power-good rises (R451, R452): BLK_RTIME counts from here, and step 1 begins. -/
def execPowerGood (s : State) : Out1 :=
  .next (if s.boot.powered then s else { resetState s with origin := s.now, boot := { powered := true, since := s.now } })

/-- A warm reset (R451): the dirty yard lines are written back first; everything else is at reset, and steps 2 to 7 follow. -/
def execWarmReset (s : State) : Out1 :=
  .next (if s.boot.powered && !s.boot.writeback then
    { resetState s with yards := s.yards, boot := { powered := true, warm := true, writeback := true, since := s.now } }
  else s)

/-- The dirty lines of a landing port, as they go to memory; a stopped port writes nothing back (R412, R451). -/
def dirtyLines (port : Nat) (y : Yard) : List Out :=
  if y.stopped then [] else (y.sets.flatMap (·.2)).filterMap fun l => if l.dirty then some (.memWrite port l.num l.data) else none

/-- The write-back of a warm reset ends, and step 2 begins (R451). -/
def execWarmWritebackDone (s : State) : Out1 :=
  .next (if s.boot.writeback then
    { s with outbox := s.outbox ++ s.yards.flatMap (fun e => dirtyLines e.1 e.2), yards := [],
             boot := { powered := true, warm := true, step := 1, since := s.now } }
  else s)

/-- Power is lost (R451): the MRAM and the eFuses stay, the key register while the battery holds; LOCK clears. -/
def execPowerLoss (batteryHeld : Bool) (s : State) : Out1 :=
  .next (if s.boot.powered then
    let s1 := { resetState s with boot := {} }
    modKeys s1 fun k =>
      if batteryHeld then { k with lock := false } else { k with lock := false, reg := 0, regValid := false, battLost := true }
  else s)

/-- The tract of core c (R16). -/
def tractOf (c : Nat) : Nat := 2 * (c / 40 / 10) + c % 40 / 20

/-- The owner table with FELLED set for the cores of a fence map (R429, R452). -/
def fencedOwners (map : Nat) : FMap Ownership :=
  (List.range 1200).filterMap fun c => if map.testBit c then some (c, { felled := true }) else none

/-- Step 3 (R429, R452): replay, the fence map, the BOOT record. -/
def stepJournal (s : State) : State :=
  let (j, map, n, torn) := replay s.jnl s.now (!s.boot.warm)
  let fenced := (fencedOwners map).length
  let dead : Core := { pwr := { st := .felled, since := s.now } }
  let s1 := { s with jnl := j, owners := fencedOwners map, cores := (fencedOwners map).map fun e => (e.1, dead) }
  writeBoot (jnlBump s1 3 torn) fenced n

/-- A core at the end of step 5 (R452): powered, zeroed, its grove blank, in DOZE. -/
def freshDoze (now : Nat) : Core := { pwr := { st := .doze, since := now, idleSince := now, busyUntil := now }, grv := { passStart := now } }

/-- Step 5 (R452): every core that is not fenced comes up, with ZEROED set. -/
def stepCores (s : State) : State :=
  let felled := fun c => (getOwner s c).felled
  { s with cores := (List.range 1200).map fun c => (c, if felled c then getCore s c else freshDoze s.now),
           owners := (List.range 1200).map fun c => (c, if felled c then getOwner s c else { zeroed := true }) }

/-- STEP advances, and the next step begins (R452). -/
def nextStep (s : State) : State := { s with boot := { s.boot with step := s.boot.step + 1, since := s.now } }

/-- A link failed its training (R454): STEP stays at 3, and the journal records an error of the block. -/
def stopBoot (s : State) : State :=
  evSet (jnlError { s with boot := { s.boot with stopped := true } } 0xFFFF { code := ePARITY, cls := 2, page := 15, rtime := rtimeLo s }) evJNL

/-- An initialisation step completes (R452, R454). -/
def execInitStepDone (r : InitResult) (s : State) : Out1 :=
  .next (if !s.boot.powered || s.boot.ready || s.boot.stopped || s.boot.writeback then s
  else match s.boot.step, r with
    | 0, .done => nextStep s
    | 1, .done => nextStep s
    | 2, .done => nextStep (stepJournal s)
    | 3, .done => nextStep s
    | 3, .linkFailed => stopBoot s
    | 4, .done => nextStep (stepCores s)
    | 5, .keys v => nextStep (modKeys s fun k => { k with fuseValid := v })
    | 6, .done =>
      let s1 := nextStep s
      evSet { s1 with boot := { s1.boot with ready := true } } evJNL
    | _, _ => s)

/-- A core whose rails are not good within 60,000 FCLK cycles of the start of its ramp is felled (R454). -/
def execCorePowerupTimeout (c : CoreId) (s : State) : Out1 :=
  .next (if s.boot.powered && !s.boot.stopped && s.boot.step = 4 then fell (atLeast s (s.boot.since + 10000 * tractOf c.val + 60000)) c.val eFELLED else s)

end Sys2Proof.Machine
end

