-- ==== Sys2Proof/Machine/Regs.lean ====
section
/-! DEFINITION. Register writes (R8, R43 to R48 and the register tables of the chapters), illegal accesses (R44, R49), SHCOPY, CNTCLR, PAGE_ERR.CLR, the read of BLK_RTIME_LO (R52). -/

namespace Sys2Proof.Machine

/-! The common registers (R43 to R48). -/

/-- PAGE_CTRL.CNTCLR: the sixteen counters are 0 again; the time in the present power state counts from here (R457). -/
def clearCounters (s : State) (pg : PageRef) : State :=
  let s1 := match pg with
    | .core c i => if i.val = 12 then modCore s c.val fun k => account k s.now else s
    | _ => s
  modPage s1 pg fun p => { p with cnt := [] }

/-- The shadow set of a page as a copy of its active set (R43, R48). -/
def copyShadow (rs : List RegRow) (p : Page) : Page :=
  { p with shd := (setOffs rs).foldl (fun m off => fset m off (actWord rs p off)) p.shd }

/-- PAGE_CTRL.SHCOPY (R48), ignored with SHLOCKHIT while a swap of the page is in progress (R73). -/
def shadowCopy (s : State) (pg : PageRef) : State :=
  match pg with
  | .core c i =>
    if swappableIdx i.val then modCore s c.val fun k => modKPage k i.val fun p =>
      if p.swppend then { p with shlockhit := true } else copyShadow (rowsCore i.val) p
    else s
  | _ => s

/-- What else PAGE_ERR.CLR clears: SPD_ERRADDR.VALID, SKD_STALLCTX.VALID, SCB_LASTMIS.VALID (R214, R249, R407). -/
def clearRecorded (k : Core) (i : Nat) : Core :=
  match i with
  | 5 => setKReg k 5 0x6C (setBit (kReg k 5 0x6C) 31 false)
  | 6 => { k with skd := { k.skd with stallValid := false } }
  | 11 => { k with grv := { k.grv with lastMis := word (setBit k.grv.lastMis.toNat 31 false) } }
  | _ => k

/-- PAGE_ERR.CLR (R46). -/
def clearErr (s : State) (pg : PageRef) : State :=
  let s1 := modPage s pg fun p => { p with errOvf := false, errTenant := 0#8, errCode := 0#8, errpend := false }
  match pg with
  | .core c i => modCore s1 c.val fun k => clearRecorded k i.val
  | _ => s1

/-- A write to PAGE_CTRL. -/
def writePageCtrl (s : State) (pg : PageRef) (v : Nat) : State :=
  let s1 := if v.testBit 0 then clearCounters s pg else s
  let s2 := if v.testBit 1 then shadowCopy s1 pg else s1
  modPage s2 pg fun p => { p with swapen := v.testBit 3, errint := v.testBit 2 }

/-- A write to PAGE_SWAP (R72, R73, R75): ARM and SCOPE, then CANCEL, then GO. -/
def writePageSwap (s : State) (pg : PageRef) (v : Nat) : State :=
  let s1 := modPage s pg fun p => { p with arm := v.testBit 0, scope := v.testBit 3 }
  match pg with
  | .core c _ =>
    let s2 := if v.testBit 2 then cancelSwap s1 c.val else s1
    if v.testBit 1 then (if v.testBit 3 then goJob s2 c.val else goChip s2 c.val) else s2
  | _ => s1

/-- A write to a common register (R43). -/
def writeCommon (s : State) (pg : PageRef) (off v : Nat) : State :=
  match off with
  | 0x10 => writePageCtrl s pg v
  | 0x14 => modPage s pg fun p => { p with shlockhit := p.shlockhit && !v.testBit 4, cntsat := p.cntsat && !v.testBit 3 }
  | 0x18 => if v.testBit 30 then clearErr s pg else s
  | 0x1C => modPage s pg fun p => { p with errMask := BitVec.ofNat 18 v }
  | 0x20 => writePageSwap s pg v
  | _ => s

/-- A write to the shadow word at off (R48, R73): a live register has none; while a swap of the page is in progress it is ignored with SHLOCKHIT. -/
def writeShadow (i : Nat) (p : Page) (off v : Nat) : Page :=
  if p.swppend then { p with shlockhit := true }
  else match findRow (rowsCore i) (off - 0x7C0) with
    | some r => if r.set then { p with shd := fset p.shd (off - 0x7C0) (word (v &&& r.rw)) } else p
    | none => p

/-- A write to a register whose fields only hold what is written: RW fields take it, W1C fields are cleared by 1, the others stay (R43). -/
def writePlain (rs : List RegRow) (p : Page) (off v : Nat) : Page :=
  match findRow rs off with
  | some r =>
    if r.rw = 0 && r.w1c = 0 then p
    else
      let old := (actWord rs p off).toNat
      setAct p off (word ((v &&& r.rw) ||| (old &&& (0xFFFFFFFF - (r.rw ||| (v &&& r.w1c))))))
  | none => p

/-- A plain write on a core page. -/
def plainCore (k : Core) (i off v : Nat) : Core := modKPage k i fun p => writePlain (rowsCore i) p off v

/-- A plain write on a global page. -/
def plainGlobal (s : State) (pg : PageRef) (off v : Nat) : State := modPage s pg fun p => writePlain (rowsOf pg) p off v

/-! The global pages. -/

/-- The BLK page (R51, R65). -/
def writeBlk (s : State) (p : Port) (off v : Nat) : State :=
  if off = 0x58 then mailboxBell s (portTenant p) (v % 64) else plainGlobal s .blk off v

/-- The EVT page (R53). -/
def writeEvt (s : State) (off v : Nat) : State :=
  if off = 0x40 then { s with evPend := s.evPend &&& ~~~(BitVec.ofNat 8 v) } else plainGlobal s .evt off v

/-- The JNL page (R390, R436). -/
def writeJnl (s : State) (off v : Nat) : State :=
  match off with
  | 0x4C => if v.testBit 0 then requestCompaction s else s
  | 0x50 => fellCommand s (fld v 28 4) (fld v 0 11)
  | 0x7C0 => modKeys s fun k => keyCtl k (v.testBit 31) (v.testBit 1) (v.testBit 0)
  | 0x7C4 => modKeys s fun k => keyData k (word v)
  | 0x7C8 => if v.testBit 6 then modKeys s fun k => { k with battLost := false } else s
  | _ => plainGlobal s .jnl off v

/-- FIO_BANKCFG of bank b (R372, R374): another clock source is not known to run. -/
def writeBankCfg (s : State) (b v : Nat) : State :=
  let old := fld (bankCfg s b) 24 2
  let s1 := plainGlobal s .fio (0x40 + 4 * b) v
  if fld v 24 2 = old then s1 else modBank s1 b fun k => { k with clkOk := false }

/-- FIO_PINCFG of pin p (R373): a setting that is not allowed counts in counter 7. -/
def writePinCfg (s : State) (p v : Nat) : State :=
  let s1 := plainGlobal s .fio (0x60 + 4 * p) v
  if pinShadowed s1 p || pinLegal s1 p (pinCfg s1 p) then s1 else fioBump s1 7

/-- FIO_EVCFG of pin p (R378): a window begins when EN is set. -/
def writeEvCfg (s : State) (p v : Nat) : State :=
  let was := (evCfg s p).testBit 31
  let s1 := plainGlobal s .fio (0x1E0 + 4 * p) v
  if !was && v.testBit 31 then modPin s1 p fun x => freshWindow x s.now else s1

/-- The FIO page (R371 to R381). -/
def writeFio (s : State) (off v : Nat) : State :=
  if off < 0x50 then writeBankCfg s ((off - 0x40) / 4) v
  else if off < 0x60 then plainGlobal s .fio off v
  else if off < 0x1E0 then writePinCfg s ((off - 0x60) / 4) v
  else if off < 0x360 then writeEvCfg s ((off - 0x1E0) / 4) v
  else if off < 0x4E0 then (if v.testBit 31 then rearm s ((off - 0x360) / 4) else s)
  else if (off - 0x4E0) % 12 = 8 then modBank s ((off - 0x4E0) / 12) fun k => { k with tsInfo := word (k.tsInfo.toNat &&& (0xFFFFFFFF - (v &&& 0xC0000000))) }
  else s

/-- The TEN pages (R56 to R60). -/
def writeTen (s : State) (u off v : Nat) : State :=
  if u < 4 then
    let t := 64 * u + (off - 0x40) / 16
    match (off - 0x40) % 16 with
    | 0 => writeTenCtrl s t (word v)
    | 4 => writeTenAsid s t (word v)
    | 8 => modTenant s t fun e => { e with mbxPage := word v }
    | _ => s
  else ownWrite s (400 * (u - 4) + (off - 0x40) / 4) (word v)

/-! The core pages. -/

/-- CQ_qCTL (R170, R171): STOP, then RESUME, SKIP and FLUSH. -/
def writeQCtl (s : State) (c : Nat) (q : QueueId) (v : Nat) : State :=
  let s1 := modCoreW s c fun k => setStop k q (v.testBit 0)
  let s2 := if v.testBit 1 then modCoreW s1 c fun k => queueResume k q else s1
  let s3 := if v.testBit 2 then settleHead (modCoreW s2 c fun k => queueSkip k q) c q else s2
  if v.testBit 3 then flushQueue s3 c q else s3

/-- A register of the CQ page other than the doorbells (R156): its write comes ahead of the other events of its cycle (R315). -/
def writeCqSet (s0 : State) (c off v : Nat) : State :=
  let s := inOrder s0 c rankWrite
  match (if off < 0x100 && (off - 0x60) % 32 = 0x18 then allQ[(off - 0x60) / 32]? else none) with
  | some q => writeQCtl s c q v
  | none => modCore s c fun k => plainCore k 0 off v

/-- The CQ page (R61, R156). -/
def writeCq (s : State) (c off v : Nat) : State :=
  if off < 0x60 then
    match allQ[(off - 0x40) / 4]? with
    | some q => modCore s c fun k => ringBell k q (v % 65536) s.now
    | none => s
  else writeCqSet s c off v

/-- The SEMA page (R172, R174, R175). -/
def writeSema (s : State) (c off v : Nat) : State :=
  if off = 0xC0 then modCoreW (inOrder s c rankAdd) c fun k => semAdd k (fld v 16 5) (v % 65536)
  else modCoreW (inOrder s c rankWrite) c fun k => plainCore k 1 off v

/-- The SPD page (R200 to R214). -/
def writeSpd (s : State) (c off v : Nat) (tenant : Bool) : State :=
  match off with
  | 0x50 => modCoreW s c fun k => segPwrWrite k v s.now tenant
  | 0x60 => startTagCmd s c (fld v 29 3) (fld v 25 4) (fld v 0 10) (fld v 10 10)
  | 0x68 => if v.testBit 0 then modCore s c fun k => gatherFlush k fun _ => true else s
  | _ => if off < 0x50 then modCoreW s c fun k => retag k (plainCore k 5 off v) else modCore s c fun k => plainCore k 5 off v

/-- The SKD page (R249): CONTEXTS is written by the management port alone. -/
def writeSkd (s : State) (c off v : Nat) (tenant : Bool) : State :=
  match off with
  | 0x54 => modCore s c fun k => plainCore k 6 0x54 (if tenant then v / 2048 * 2048 + fld (kReg k 6 0x54) 0 11 else v)
  | 0x58 => ctxCommand s c v
  | _ => modCore s c fun k => plainCore k 6 off v

/-- WIN_CMD (R255, R256). -/
def writeWinCmd (s : State) (c v : Nat) : State :=
  match fld v 28 4 with
  | 1 => openWin s c (fld v 16 6) (v.testBit 27) (v % 65536)
  | 2 => closeAt s c (fld v 16 6)
  | _ => s

/-- WIN_JOBCMD (R267, R268). -/
def writeJobCmd (s : State) (c v : Nat) : State :=
  match fld v 28 4 with
  | 1 => jobSeed s c
  | 2 => jobEpoch s c (v % 65536)
  | _ => s

/-- The WIN page (R255, R267, R271): the configuration of an open window is not written. -/
def writeWin (s : State) (c off v : Nat) : State :=
  match off with
  | 0x740 => writeWinCmd s c v
  | 0x750 => writeJobCmd s c v
  | _ => modCore s c fun k =>
    if off < 0x440 && (off - 0x40) % 16 < 8 && (getWin k ((off - 0x40) / 16)).open_ then winIgnored k else plainCore k 7 off v

/-- QNT_HISTCFG of slot h (R296): CLR, and LEN. -/
def writeHistCfg (k : Core) (h v : Nat) : Core := histLen (if v.testBit 31 then emptyHist k h else k) h (fld v 0 5)

/-- The QNT page (R281, R296, R306). -/
def writeQnt (k : Core) (off v : Nat) : Core :=
  match off with
  | 0x50 => scaleFilePut k .srscale v
  | 0x54 => scaleFilePut k .srflatv v
  | 0x58 => scaleFilePut k .srzp v
  | _ => if 0x64 ≤ off then writeHistCfg k ((off - 0x64) / 4) v else plainCore k 9 off v

/-- The GRV page (R357, R379). -/
def writeGrv (k : Core) (c off v now : Nat) : Core :=
  if off < 0x50 then writeClk k c ((off - 0x40) / 4) now (word v) else plainCore k 10 off v

/-- The SCB page (R401, R407): an image address stays while its handle is used. -/
def writeScb (s : State) (c off v : Nat) : State :=
  match off with
  | 0x40 =>
    let s1 := modCore s c fun k => plainCore k 11 0x40 v
    if v.testBit 1 then forcePass s1 c else s1
  | 0x68 => loadCmd s c v
  | _ => modCore s c fun k => if off < 0x68 && (off - 0x48) % 8 = 4 && handleUsed k ((off - 0x48) / 8) then k else plainCore k 11 off v

/-- The PWR page (R446, R456). -/
def writePwr (k : Core) (off v now : Nat) : Core :=
  if off = 0x44 then writeTarget (plainCore k 12 0x44 v) now (v % 8) else plainCore k 12 off v

/-- The ERR page (R416, R417, R434): the last three are written by the management port alone. -/
def writeErr (k : Core) (off v : Nat) (tenant : Bool) : Core :=
  match off with
  | 0x44 => if v.testBit 31 then clearOvf k else k
  | 0x58 => if v.testBit 8 then popRec k (v % 256) else k
  | _ => if tenant && 0x5C ≤ off then k else plainCore k 13 off v

/-- A write to a register of the active set of core page i. -/
def writeUnit (s : State) (p : Port) (c i off v : Nat) : State :=
  let tenant := (portTenant p).isSome
  match i with
  | 0 => writeCq s c off v
  | 1 => writeSema s c off v
  | 5 => writeSpd s c off v tenant
  | 6 => writeSkd s c off v tenant
  | 7 => writeWin s c off v
  | 8 => if off = 0x5C && v.testBit 0 then modCore s c tlyClear else s
  | 9 => modCore s c fun k => writeQnt k off v
  | 10 => modCore s c fun k => writeGrv k c off v s.now
  | 11 => writeScb s c off v
  | 12 => modCore s c fun k => writePwr k off v s.now
  | 13 => modCore s c fun k => writeErr k off v tenant
  | _ => modCore s c fun k => plainCore k i off v

/-- A write that passed its gate to register off of a page. -/
def writeReg (s : State) (p : Port) (pg : PageRef) (off v : Nat) : State :=
  if commonOff off then writeCommon s pg off v
  else match pg with
    | .blk => writeBlk s p off v
    | .evt => writeEvt s off v
    | .jnl => writeJnl s off v
    | .fio => writeFio s off v
    | .ten u => writeTen s u.val off v
    | .core c i => if 0x800 ≤ off then modCore s c.val fun k => modKPage k i.val fun q => writeShadow i.val q off v else writeUnit s p c.val i.val off v

/-- A write to register off of a page through its gate. -/
def pageWrite (s : State) (p : Port) (pg : PageRef) (off v : Nat) : State :=
  match pg with
  | .core c i =>
    match (if i.val = 0 && off < 0x54 && 0x40 ≤ off && off % 4 = 0 then allQ[(off - 0x40) / 4]? else none) with
    | some q => bellWrite s p c q (v % 65536)
    | none => coreWrite s p c i off fun s => writeReg s p pg off v
  | _ => gated (pageGate s p pg off true) fun s => writeReg s p pg off v

/-- A 32-bit write to a block address (R8, R44, R49, R51). -/
def execRegisterWrite (p : Port) (addr : BitVec 44) (v : Word) (s : State) : Out1 :=
  .next (if s.boot.step < 2 then s
  else match decodeAddr addr.toNat with
    | .reserved => blkBump s 0
    | .spd c off => if portShape off 4 then gated (spdGate s p c.val) fun s => portStore s c.val off (natLe 4 v.toNat) else blkBump s 0
    | .page pg off => pageWrite s p pg off v.toNat)

/-! Illegal accesses. -/

/-- An access of width bytes at a block address is refused under R44, R49, R51 or R453. -/
def illegalAccess (s : State) (addr width : Nat) : Bool :=
  match decodeAddr addr with
  | .reserved => true
  | .spd _ off => s.boot.step < 5 || !portShape off width
  | .page pg off => width ≠ 4 || off % 4 ≠ 0 || !offExists pg off || (match pg with
    | .core _ _ => decide (s.boot.step < 5)
    | _ => false)

/-- An access of a wrong width or alignment, or to a reserved offset or address (R44, R49): counted; a read returns 0. -/
def execIllegalPageAccess (p : Port) (addr : BitVec 44) (width : Nat) (write : Bool) (s : State) : Out1 :=
  .next (if s.boot.step < 2 || !illegalAccess s addr.toNat width then s
  else if write then blkBump s 0
  else answerRead (blkBump s 0) p (List.replicate width 0#8))

/-! The commands on common registers. -/

/-- A write of port p to a common register of a page, with effect f. -/
def commonWrite (s : State) (p : Port) (pg : PageRef) (off : Nat) (f : State → State) : State :=
  match pg with
  | .core c i => coreWrite s p c i off f
  | _ => gated (pageGate s p pg off true) f

/-- PAGE_CTRL.SHCOPY is written 1 (R48, R73). -/
def execShcopy (p : Port) (pg : PageRef) (s : State) : Out1 := .next (commonWrite s p pg 0x10 fun s => shadowCopy s pg)

/-- PAGE_CTRL.CNTCLR is written 1 (R43). -/
def execCntclr (p : Port) (pg : PageRef) (s : State) : Out1 := .next (commonWrite s p pg 0x10 fun s => clearCounters s pg)

/-- PAGE_ERR.CLR is written 1 (R46). -/
def execErrClr (p : Port) (pg : PageRef) (s : State) : Out1 := .next (commonWrite s p pg 0x18 fun s => clearErr s pg)

/-- BLK_RTIME_LO is read (R52): the low half is returned, the high half latched for the port. -/
def execRtimeLoRead (p : Port) (s : State) : Out1 :=
  let g := pageGate s p .blk 0x50 false
  .next (if g.2 then answerRead (modLatch g.1 p fun l => { l with rtimeHi := word (rtime g.1 / 2 ^ 32) }) p (natLe 4 (rtimeLo g.1).toNat)
  else answerRead g.1 p (natLe 4 0))

end Sys2Proof.Machine
end

