-- ==== Sys2Proof/Machine/Dispatch.lean ====
section
/-! DEFINITION. The meaning of each command: one arm per row of the table. -/

namespace Sys2Proof.Machine

/-- The effect of a command on everything but the queue. -/
def exec (i : Instr) (s : State) : Host.Outcome State Fault Refusal :=
  match i with
  | .registerWrite p addr v => Sys2Proof.Machine.execRegisterWrite p addr v s
  | .illegalPageAccess p addr width write => Sys2Proof.Machine.execIllegalPageAccess p addr width write s
  | .shcopy p pg => Sys2Proof.Machine.execShcopy p pg s
  | .cntclr p pg => Sys2Proof.Machine.execCntclr p pg s
  | .errClr p pg => Sys2Proof.Machine.execErrClr p pg s
  | .chipSwapGo p c pg => Sys2Proof.Machine.execChipSwapGo p c pg s
  | .jobSwapGo p c pg => Sys2Proof.Machine.execJobSwapGo p c pg s
  | .swapCancel p c pg => Sys2Proof.Machine.execSwapCancel p c pg s
  | .swapHold c => Sys2Proof.Machine.execSwapHold c s
  | .quiet c => Sys2Proof.Machine.execQuiet c s
  | .quietReceived c => Sys2Proof.Machine.execQuietReceived c s
  | .swapat c => Sys2Proof.Machine.execSwapat c s
  | .swapExchange t => Sys2Proof.Machine.execSwapExchange t s
  | .holdRelease t => Sys2Proof.Machine.execHoldRelease t s
  | .swapTimeout t => Sys2Proof.Machine.execSwapTimeout t s
  | .swapReleaseCommand c => Sys2Proof.Machine.execSwapReleaseCommand c s
  | .cmdPrepare src r => Sys2Proof.Machine.execCmdPrepare src r s
  | .cmdReady src r => Sys2Proof.Machine.execCmdReady src r s
  | .cmdCommit src r => Sys2Proof.Machine.execCmdCommit src r s
  | .cmdDone src r => Sys2Proof.Machine.execCmdDone src r s
  | .cmdRelease src r => Sys2Proof.Machine.execCmdRelease src r s
  | .cmdAbort src r => Sys2Proof.Machine.execCmdAbort src r s
  | .cmdSwapreq src => Sys2Proof.Machine.execCmdSwapreq src s
  | .readyTimeout job => Sys2Proof.Machine.execReadyTimeout job s
  | .doneTimeout job => Sys2Proof.Machine.execDoneTimeout job s
  | .scratchpadPortWrite p c off data => Sys2Proof.Machine.execScratchpadPortWrite p c off data s
  | .scratchpadPortRead p c off width => Sys2Proof.Machine.execScratchpadPortRead p c off width s
  | .rtimeLoRead p => Sys2Proof.Machine.execRtimeLoRead p s
  | .mailboxDoorbell p slot => Sys2Proof.Machine.execMailboxDoorbell p slot s
  | .mailboxTake block => Sys2Proof.Machine.execMailboxTake block s
  | .loadJob t slot manifest imageHdrs => Sys2Proof.Machine.execLoadJob t slot manifest imageHdrs s
  | .endJob t slot => Sys2Proof.Machine.execEndJob t slot s
  | .endJobAnswer t slot => Sys2Proof.Machine.execEndJobAnswer t slot s
  | .loadImage t slot header => Sys2Proof.Machine.execLoadImage t slot header s
  | .mbxSuspend t slot => Sys2Proof.Machine.execMbxSuspend t slot s
  | .query t slot => Sys2Proof.Machine.execQuery t slot s
  | .tenCtrlWrite p t v => Sys2Proof.Machine.execTenCtrlWrite p t v s
  | .tenAsidWrite p t v => Sys2Proof.Machine.execTenAsidWrite p t v s
  | .coreAssign p c v => Sys2Proof.Machine.execCoreAssign p c v s
  | .coreRelease p c v => Sys2Proof.Machine.execCoreRelease p c v s
  | .coreZeroed c => Sys2Proof.Machine.execCoreZeroed c s
  | .doorbell p c q tail => Sys2Proof.Machine.execDoorbell p c q tail s
  | .descriptorFetch c q r => Sys2Proof.Machine.execDescriptorFetch c q r s
  | .nop c q => Sys2Proof.Machine.execNop c q s
  | .loop c q => Sys2Proof.Machine.execLoop c q s
  | .setreg c q => Sys2Proof.Machine.execSetreg c q s
  | .mxmul c => Sys2Proof.Machine.execMxmul c s
  | .mxconv c => Sys2Proof.Machine.execMxconv c s
  | .velt c => Sys2Proof.Machine.execVelt c s
  | .vred c => Sys2Proof.Machine.execVred c s
  | .vsoftmax c => Sys2Proof.Machine.execVsoftmax c s
  | .vnorm c => Sys2Proof.Machine.execVnorm c s
  | .vquant c => Sys2Proof.Machine.execVquant c s
  | .vdequant c => Sys2Proof.Machine.execVdequant c s
  | .vsample c => Sys2Proof.Machine.execVsample c s
  | .vrand c => Sys2Proof.Machine.execVrand c s
  | .skstream c => Sys2Proof.Machine.execSkstream c s
  | .mvfill c => Sys2Proof.Machine.execMvfill c s
  | .mvcopy c => Sys2Proof.Machine.execMvcopy c s
  | .upstep c => Sys2Proof.Machine.execUpstep c s
  | .gvop c => Sys2Proof.Machine.execGvop c s
  | .illegalOpcode c q => Sys2Proof.Machine.execIllegalOpcode c q s
  | .descriptorComplete c q => Sys2Proof.Machine.execDescriptorComplete c q s
  | .nullCompletion c q => Sys2Proof.Machine.execNullCompletion c q s
  | .clipTestFire c q => Sys2Proof.Machine.execClipTestFire c q s
  | .descriptorFail c q => Sys2Proof.Machine.execDescriptorFail c q s
  | .residueMismatch c n stepNo tree => Sys2Proof.Machine.execResidueMismatch c n stepNo tree s
  | .parityError c wordNo mask reader => Sys2Proof.Machine.execParityError c wordNo mask reader s
  | .queueStop p c q => Sys2Proof.Machine.execQueueStop p c q s
  | .queueStopped c q => Sys2Proof.Machine.execQueueStopped c q s
  | .queueResume p c q => Sys2Proof.Machine.execQueueResume p c q s
  | .queueSkip p c q => Sys2Proof.Machine.execQueueSkip p c q s
  | .queueFlush p c q => Sys2Proof.Machine.execQueueFlush p c q s
  | .semaAdd p c sem amount => Sys2Proof.Machine.execSemaAdd p c sem amount s
  | .queueWaitAged c q => Sys2Proof.Machine.execQueueWaitAged c q s
  | .bankRequestAged c bank unit => Sys2Proof.Machine.execBankRequestAged c bank unit s
  | .arrivalWrite id => Sys2Proof.Machine.execArrivalWrite id s
  | .spdUtagWrite p c n v => Sys2Proof.Machine.execSpdUtagWrite p c n v s
  | .refetchComplete c slot r => Sys2Proof.Machine.execRefetchComplete c slot r s
  | .gatherTimeout c => Sys2Proof.Machine.execGatherTimeout c s
  | .gbflush p c => Sys2Proof.Machine.execGbflush p c s
  | .segmentPowerOff p c seg => Sys2Proof.Machine.execSegmentPowerOff p c seg s
  | .segmentPowerOn p c seg => Sys2Proof.Machine.execSegmentPowerOn p c seg s
  | .segmentSettled c seg => Sys2Proof.Machine.execSegmentSettled c seg s
  | .segmentUp c seg => Sys2Proof.Machine.execSegmentUp c seg s
  | .tagcmdSetEmpty p c first last => Sys2Proof.Machine.execTagcmdSetEmpty p c first last s
  | .tagcmdSetFull p c first last count => Sys2Proof.Machine.execTagcmdSetFull p c first last count s
  | .tagcmdClearBacked p c first last => Sys2Proof.Machine.execTagcmdClearBacked p c first last s
  | .tagcmdDone c => Sys2Proof.Machine.execTagcmdDone c s
  | .skidderInject c => Sys2Proof.Machine.execSkidderInject c s
  | .readResponse id => Sys2Proof.Machine.execReadResponse id s
  | .writeAck id => Sys2Proof.Machine.execWriteAck id s
  | .nack id => Sys2Proof.Machine.execNack id s
  | .yardRead id ecc => Sys2Proof.Machine.execYardRead id ecc s
  | .yardWrite id ecc => Sys2Proof.Machine.execYardWrite id ecc s
  | .yardFill port line data => Sys2Proof.Machine.execYardFill port line data s
  | .externalWrite pa => Sys2Proof.Machine.execExternalWrite pa s
  | .externalRead pa => Sys2Proof.Machine.execExternalRead pa s
  | .translationResponse c va r => Sys2Proof.Machine.execTranslationResponse c va r s
  | .slotVisitEnter c ctx => Sys2Proof.Machine.execSlotVisitEnter c ctx s
  | .slotVisitComplete c ctx => Sys2Proof.Machine.execSlotVisitComplete c ctx s
  | .slotendSend c ctx => Sys2Proof.Machine.execSlotendSend c ctx s
  | .streamComplete c ctx => Sys2Proof.Machine.execStreamComplete c ctx s
  | .streamHalt c ctx => Sys2Proof.Machine.execStreamHalt c ctx s
  | .ctxResume p c ctx => Sys2Proof.Machine.execCtxResume p c ctx s
  | .ctxAbort p c ctx => Sys2Proof.Machine.execCtxAbort p c ctx s
  | .abortComplete c ctx => Sys2Proof.Machine.execAbortComplete c ctx s
  | .ctxFree p c ctx => Sys2Proof.Machine.execCtxFree p c ctx s
  | .stallTimeout c => Sys2Proof.Machine.execStallTimeout c s
  | .pullRequest id => Sys2Proof.Machine.execPullRequest id s
  | .remoteArrival src => Sys2Proof.Machine.execRemoteArrival src s
  | .forwardAck n code => Sys2Proof.Machine.execForwardAck n code s
  | .windowOpen p c win setep epoch => Sys2Proof.Machine.execWindowOpen p c win setep epoch s
  | .windowClose p c win => Sys2Proof.Machine.execWindowClose p c win s
  | .guardExpiry c win => Sys2Proof.Machine.execGuardExpiry c win s
  | .cmdStop src r => Sys2Proof.Machine.execCmdStop src r s
  | .cmdStart src r => Sys2Proof.Machine.execCmdStart src r s
  | .cmdClose src => Sys2Proof.Machine.execCmdClose src s
  | .cmdCtxcmd src r => Sys2Proof.Machine.execCmdCtxcmd src r s
  | .cmdAbortrep src r => Sys2Proof.Machine.execCmdAbortrep src r s
  | .cmdSeed src r0 r1 => Sys2Proof.Machine.execCmdSeed src r0 r1 s
  | .cmdEpoch src r => Sys2Proof.Machine.execCmdEpoch src r s
  | .cmdArrive src r => Sys2Proof.Machine.execCmdArrive src r s
  | .cmdPass src r => Sys2Proof.Machine.execCmdPass src r s
  | .cmdAnswer src r0 r1 r2 => Sys2Proof.Machine.execCmdAnswer src r0 r1 r2 s
  | .cmdRefused src r => Sys2Proof.Machine.execCmdRefused src r s
  | .jobcmdSeed p c => Sys2Proof.Machine.execJobcmdSeed p c s
  | .jobcmdEpoch p c v => Sys2Proof.Machine.execJobcmdEpoch p c v s
  | .barrierCoreArrive c => Sys2Proof.Machine.execBarrierCoreArrive c s
  | .scaleFileWrite p c r v => Sys2Proof.Machine.execScaleFileWrite p c r v s
  | .srzpAccess p c => Sys2Proof.Machine.execSrzpAccess p c s
  | .histClr p c h => Sys2Proof.Machine.execHistClr p c h s
  | .histLenWrite p c h len => Sys2Proof.Machine.execHistLenWrite p c h len s
  | .tlyClr p c => Sys2Proof.Machine.execTlyClr p c s
  | .clockSwitch p c n v => Sys2Proof.Machine.execClockSwitch p c n v s
  | .clockSwitchDone c n => Sys2Proof.Machine.execClockSwitchDone c n s
  | .clockLost c n => Sys2Proof.Machine.execClockLost c n s
  | .portInBeat c => Sys2Proof.Machine.execPortInBeat c s
  | .portInCredit c => Sys2Proof.Machine.execPortInCredit c s
  | .portOutBeat c tag beat => Sys2Proof.Machine.execPortOutBeat c tag beat s
  | .portDone c tag ok tally => Sys2Proof.Machine.execPortDone c tag ok tally s
  | .portAborted c tag => Sys2Proof.Machine.execPortAborted c tag s
  | .portTimeout c => Sys2Proof.Machine.execPortTimeout c s
  | .supplyStatusChange b good => Sys2Proof.Machine.execSupplyStatusChange b good s
  | .bankClockLost b => Sys2Proof.Machine.execBankClockLost b s
  | .bankClockRunning b => Sys2Proof.Machine.execBankClockRunning b s
  | .pinEvent pin level => Sys2Proof.Machine.execPinEvent pin level s
  | .fioEventDeliver pin => Sys2Proof.Machine.execFioEventDeliver pin s
  | .stormWindowExpiry pin => Sys2Proof.Machine.execStormWindowExpiry pin s
  | .stuckStorm pin => Sys2Proof.Machine.execStuckStorm pin s
  | .pinRearm p pin => Sys2Proof.Machine.execPinRearm p pin s
  | .tsloRead p b => Sys2Proof.Machine.execTsloRead p b s
  | .imageLoad p c v => Sys2Proof.Machine.execImageLoad p c v s
  | .stagingComplete c r => Sys2Proof.Machine.execStagingComplete c r s
  | .pass1Complete c => Sys2Proof.Machine.execPass1Complete c s
  | .quiesceComplete c => Sys2Proof.Machine.execQuiesceComplete c s
  | .frameRefetchDone c r => Sys2Proof.Machine.execFrameRefetchDone c r s
  | .imageRelease c => Sys2Proof.Machine.execImageRelease c s
  | .groveBlank p c => Sys2Proof.Machine.execGroveBlank p c s
  | .groveBlankDone c => Sys2Proof.Machine.execGroveBlankDone c s
  | .scrubPassStart c => Sys2Proof.Machine.execScrubPassStart c s
  | .scrubForce p c => Sys2Proof.Machine.execScrubForce p c s
  | .scrubFrameRead c observed sig => Sys2Proof.Machine.execScrubFrameRead c observed sig s
  | .scrubRepairDone c r => Sys2Proof.Machine.execScrubRepairDone c r s
  | .tmrVote c item a b d => Sys2Proof.Machine.execTmrVote c item a b d s
  | .keyDataWrite p v => Sys2Proof.Machine.execKeyDataWrite p v s
  | .keyCommit p => Sys2Proof.Machine.execKeyCommit p s
  | .keyErase p => Sys2Proof.Machine.execKeyErase p s
  | .keyLock p => Sys2Proof.Machine.execKeyLock p s
  | .errRecRead p c => Sys2Proof.Machine.execErrRecRead p c s
  | .errPop p c seq => Sys2Proof.Machine.execErrPop p c seq s
  | .fifoOvfClear p c => Sys2Proof.Machine.execFifoOvfClear p c s
  | .flitArrival id parityOk => Sys2Proof.Machine.execFlitArrival id parityOk s
  | .flitResend id => Sys2Proof.Machine.execFlitResend id s
  | .linkFail id => Sys2Proof.Machine.execLinkFail id s
  | .fellCommand p c => Sys2Proof.Machine.execFellCommand p c s
  | .fellingComplete c => Sys2Proof.Machine.execFellingComplete c s
  | .restoreCommand p c => Sys2Proof.Machine.execRestoreCommand p c s
  | .journalWriteDone => Sys2Proof.Machine.execJournalWriteDone s
  | .jnlCompact p => Sys2Proof.Machine.execJnlCompact p s
  | .compactionSeal => Sys2Proof.Machine.execCompactionSeal s
  | .zeroWord => Sys2Proof.Machine.execZeroWord s
  | .jnlRddataRead p => Sys2Proof.Machine.execJnlRddataRead p s
  | .cruiseStepStart c => Sys2Proof.Machine.execCruiseStepStart c s
  | .cruiseStepDone c r => Sys2Proof.Machine.execCruiseStepDone c r s
  | .cruisePreempt c => Sys2Proof.Machine.execCruisePreempt c s
  | .autoDoze c => Sys2Proof.Machine.execAutoDoze c s
  | .autoSleep c => Sys2Proof.Machine.execAutoSleep c s
  | .stateEntryDone c => Sys2Proof.Machine.execStateEntryDone c s
  | .targetDoze p c => Sys2Proof.Machine.execTargetDoze p c s
  | .targetSleep p c => Sys2Proof.Machine.execTargetSleep p c s
  | .targetShut p c => Sys2Proof.Machine.execTargetShut p c s
  | .targetActive p c => Sys2Proof.Machine.execTargetActive p c s
  | .wakeComplete c => Sys2Proof.Machine.execWakeComplete c s
  | .dataBranchStop c => Sys2Proof.Machine.execDataBranchStop c s
  | .meshBranchStop c => Sys2Proof.Machine.execMeshBranchStop c s
  | .powerGood => Sys2Proof.Machine.execPowerGood s
  | .warmReset => Sys2Proof.Machine.execWarmReset s
  | .warmWritebackDone => Sys2Proof.Machine.execWarmWritebackDone s
  | .initStepDone r => Sys2Proof.Machine.execInitStepDone r s
  | .corePowerupTimeout c => Sys2Proof.Machine.execCorePowerupTimeout c s
  | .powerLoss batteryHeld => Sys2Proof.Machine.execPowerLoss batteryHeld s

end Sys2Proof.Machine
end

