-- ==== Sys2Proof/Machine/Step.lean ====
section
/-! DEFINITION. One step of the block: the command at the front of the queue, or one FCLK cycle when none waits. -/

namespace Sys2Proof.Machine

/-- One step: the front command's effect with the queue's rest; on an empty queue one FCLK cycle passes on every core (DESIGN CHOICE, log entry 3). -/
def step (s : State) : Host.Outcome State Fault Refusal :=
  match s.pending with
  | [] => .next (atLeast s (s.now + 1))
  | c :: rest => exec c { s with pending := rest }

/-- s with the command that the word spells at the front of its queue; unchanged where it spells none. -/
def State.withFetchWord (s : State) (nbits w : Nat) : State :=
  match decodeTableWord nbits w with
  | some c => { s with pending := c :: s.pending }
  | none => s

end Sys2Proof.Machine
end

