-- ==== Sys2Proof/Machine/View.lean ====
section
/-! DEFINITION. What every register reads as (R43 to R53 and the register tables of the chapters): the value of a read that changes nothing. The reads that change something (BLK_RTIME_LO, FIO_TSLO, JNL_RDDATA, ERR_REC0, QNT_SRZP) have commands of their own. -/

namespace Sys2Proof.Machine

/-! The common registers. -/

/-- PAGE_ID (R43). -/
def viewId (pg : PageRef) : Nat :=
  pageType pg * 2 ^ 24 + match pg with
    | .core c _ => c.val
    | .ten u => u.val * 65536 + 0xFFFF
    | _ => 0xFFFF

/-- PAGE_CAPS (R43, R50). TENANTWR of the BLK page reads 0: the table of R50 refers to R55 for it, which lets a tenant write BLK_MBXDB alone (DESIGN CHOICE, log entry 194). -/
def viewCaps (pg : PageRef) : Nat :=
  actWords pg + match pg with
    | .core _ i => b2n (swappableIdx i.val) * 2 ^ 31 + 2 ^ 30 + b2n (tenantWr i.val) * 2 ^ 29 + b2n (i.val = 0 || i.val = 6 || i.val = 7) * 2 ^ 28
    | .blk => 2 ^ 30
    | _ => 0

/-- The page's core is FELLED (PAGE_STATUS.FENCED). -/
def fenced (s : State) (pg : PageRef) : Bool :=
  match pg with
  | .core c _ => (getOwner s c.val).felled
  | _ => false

/-- PAGE_STATUS. -/
def viewStatus (s : State) (pg : PageRef) : Nat :=
  let p := getPage s pg
  b2n p.shlockhit * 16 + b2n p.cntsat * 8 + b2n p.errpend * 4 + b2n p.swppend * 2 + b2n (fenced s pg)

/-- PAGE_ERR. -/
def viewErr (p : Page) : Nat := b2n p.errOvf * 2 ^ 31 + p.errTenant.toNat * 65536 + p.errCode.toNat

/-- A counter of a page; the time in the present power state is counted up to now (R457). -/
def viewCount (s : State) (pg : PageRef) (n : Nat) : Nat :=
  match pg with
  | .core c i => (fget (kPage (if i.val = 12 then account (getCore s c.val) s.now else getCore s c.val) i.val).cnt n 0#32).toNat
  | _ => (fget (getPage s pg).cnt n 0#32).toNat

/-- A common register (R43). -/
def viewCommon (s : State) (pg : PageRef) (off : Nat) : Nat :=
  let p := getPage s pg
  match off with
  | 0x0 => viewId pg
  | 0x4 => 0x100
  | 0x8 => viewCaps pg
  | 0x10 => b2n p.swapen * 8 + b2n p.errint * 4
  | 0x14 => viewStatus s pg
  | 0x18 => viewErr p
  | 0x1C => p.errMask.toNat
  | 0x20 => p.gen.toNat * 65536 + b2n p.scope * 8 + b2n p.arm
  | _ => viewCount s pg ((off - 0xFC0) / 4)

/-! The global pages. -/

/-- The BLK page (R51, R52, R459). -/
def viewBlk (s : State) (p : Port) (off : Nat) : Nat :=
  match off with
  | 0x40 => Config.dieId.toNat % 2 ^ 32
  | 0x44 => Config.dieId.toNat / 2 ^ 32
  | 0x48 => 0x5A040100
  | 0x50 => rtime s % 2 ^ 32
  | 0x54 => (getLatch s p).rtimeHi.toNat
  | 0x58 => 0
  | 0x60 => b2n s.boot.ready * 2 ^ 31 + s.boot.step
  | _ => gReg s .blk off

/-- Core c has ERRPEND set on some page (EVT_CORESUM). -/
def corePends (s : State) (c : Nat) : Bool := c < 1200 && (getCore s c).pages.any fun e => e.2.errpend

/-- A word whose bit j is f j for j below n. -/
def bitsOf (n : Nat) (f : Nat → Bool) : Nat := (List.range n).foldl (fun w j => w + b2n (f j) * 2 ^ j) 0

/-- The EVT page (R53). -/
def viewEvt (s : State) (off : Nat) : Nat :=
  if off = 0x40 then s.evPend.toNat else if off = 0x44 then gReg s .evt 0x44 else bitsOf 32 fun j => corePends s (8 * (off - 0x48) + j)

/-- The management processor's event line (R53). -/
def eventLine (s : State) : Bool := s.evPend &&& ~~~(BitVec.ofNat 8 (gReg s .evt 0x44)) ≠ 0#8

/-- The JNL page (R390, R436). -/
def viewJnl (s : State) (off : Nat) : Nat :=
  let j := s.jnl
  let k := s.keys
  match off with
  | 0x40 => b2n j.compacting * 2 ^ 31 + b2n j.zeroing.isSome * 2 ^ 30 + j.half * 2 ^ 29 + j.queue.length * 2 ^ 24 + j.fill
  | 0x44 => j.seq
  | 0x48 => j.boot
  | 0x58 => leNat (memRead j.mram (gReg s .jnl 0x54) 4)
  | 0x7C0 => b2n k.lock * 2 ^ 31
  | 0x7C8 => k.staged.length * 256 + b2n k.lock * 128 + b2n k.battLost * 64 + b2n k.regValid * 32 + k.fuseValid.toNat
  | _ => gReg s .jnl off

/-- FIO_BANKSTAT of bank b. -/
def viewBankStat (s : State) (b : Nat) : Nat :=
  let k := getBank s b
  gReg s .fio (0x50 + 4 * b) + b2n k.clkOk * 4 + b2n k.mismatch * 2 + b2n k.supplyOk

/-- FIO_EVSTAT of pin p. -/
def viewEvStat (s : State) (p : Nat) : Nat :=
  let x := getPin s p
  b2n x.armed * 2 ^ 30 + b2n x.storm * 2 ^ 29 + b2n x.stuck * 2 ^ 28 + b2n x.level * 2 ^ 27 + x.supp

/-- The FIO page (R381). -/
def viewFio (s : State) (p : Port) (off : Nat) : Nat :=
  if 0x50 ≤ off && off < 0x60 then viewBankStat s ((off - 0x50) / 4)
  else if off < 0x360 then gReg s .fio off
  else if off < 0x4E0 then viewEvStat s ((off - 0x360) / 4)
  else
    let b := (off - 0x4E0) / 12
    match (off - 0x4E0) % 12 with
    | 0 => (getBank s b).tsLo.toNat
    | 4 => (fget (getLatch s p).tsHi b 0#32).toNat
    | _ => (getBank s b).tsInfo.toNat

/-- TEN_OWN of core c (R59, R60). -/
def viewOwn (s : State) (c : Nat) : Nat :=
  let o := getOwner s c
  b2n o.owned * 2 ^ 31 + b2n o.zeroed * 2 ^ 30 + b2n o.felled * 2 ^ 29 + o.tenant.toNat

/-- The TEN pages (R56, R58). -/
def viewTen (s : State) (u off : Nat) : Nat :=
  if u < 4 then
    let e := getTenant s (64 * u + (off - 0x40) / 16)
    match (off - 0x40) % 16 with
    | 0 => e.ctrl.toNat
    | 4 => e.asid.toNat
    | 8 => e.mbxPage.toNat
    | _ => tenCores s (64 * u + (off - 0x40) / 16)
  else viewOwn s (400 * (u - 4) + (off - 0x40) / 4)

/-! The core pages. -/

/-- The CQ page (R156). -/
def viewCq (s : State) (c off : Nat) : Nat :=
  let k := getCore s c
  if off < 0x60 then 0
  else if off < 0x100 then
    match allQ[(off - 0x60) / 32]? with
    | none => 0
    | some q =>
      let x := getQ k q
      match (off - 0x60) % 32 with
      | 0x10 => x.done * 65536 + x.issue
      | 0x14 => match x.loops with
        | l :: _ => l.count * 65536 + l.iter
        | [] => 0
      | 0x18 => b2n x.stop
      | 0x1C =>
        let (a, b, f, g) := headWaits k q
        qStateWord s c q a b f g
      | _ => kReg k 0 off
  else kReg k 0 off

/-- The pass of flight f has begun, that is, its load or its first step has come, and it is not over (MXA_STATUS). -/
def inArray (t : Nat) (f : Flight) : Bool :=
  match f.run with
  | .mx _ _ => !f.isFailed && f.start ≤ t && (t < f.busyTo || f.tail ≠ [])
  | _ => false

/-- The MXA page (R136). -/
def viewMxa (s : State) (k : Core) (off : Nat) : Nat :=
  match off, k.mxa with
  | 0x40, _ => kReg k 2 0x40
  | 0x44, r =>
    b2n (k.mxq.flights.any (inArray s.now)) * 2 ^ 31 + min 2 (k.mxq.flights.filter (inArray s.now)).length * 65536 +
      match r with
      | some m => 2 ^ 30 + m.shape * 2 ^ 28 + m.stype * 2 ^ 24 + m.grp * 2 ^ 22
      | none => 0
  | 0x48, some m => m.xoff
  | 0x4C, some m => m.xscoff
  | _, _ => 0

/-- The seed in the active set is 0 (R323). -/
def seedZero (k : Core) : Bool := [0x40, 0x44, 0x48, 0x4C].all fun o => kReg k 3 o = 0

/-- The VEC page (R329). -/
def viewVec (k : Core) (off : Nat) : Nat :=
  if off = 0x50 then
    b2n (k.vxq.flights.any fun f => familyOf (opOf f.raw) = .vector) * 2 ^ 31 + b2n (seedZero k) * 2 ^ 30 + min 2 (inFlight k.vxq) * 65536
  else kReg k 3 off

/-- The UPD page (R346). -/
def viewUpd (k : Core) (off : Nat) : Nat :=
  if off = 0x48 then fld (kReg k 4 0x48) 0 31 + b2n (k.upq.flights.any fun f => opOf f.raw = 0x40) * 2 ^ 31 else kReg k 4 off

/-- The SPD page (R214). -/
def viewSpd (k : Core) (off : Nat) : Nat :=
  match off with
  | 0x54 => kReg k 5 0x54 + bitsOf 12 (segUp k)
  | 0x5C => tagVal k (kReg k 5 0x58)
  | 0x64 => b2n k.spd.cmd.isSome * 2 ^ 31 + k.spd.skipped
  | 0x60 => 0
  | 0x68 => 0
  | _ => kReg k 5 off

/-- Slots of core d that stream ctx of core c holds HELD by its writes. -/
def heldAt (s : State) (c ctx d : Nat) : Nat :=
  ((getCore s d).spd.tags.filter fun e => e.2.st == .held && e.2.owner == .onchip && e.2.fromCore == c && e.2.fromCtx == ctx).length

/-- Slots that a stream of core c holds HELD (SKD_CTXSTAT.HELDSLOTS): on its own core, at its destinations, and those through a window whose visits are open. -/
def heldSlots (s : State) (c : Nat) (st : Stream) : Nat :=
  if deliversOwn st || skDir st.raw = 3 then st.held.length + st.visits.length
  else st.held.length + (streamDests st).foldl (fun n d => n + heldAt s c st.ctx d) 0

/-- The streams counted in SKD_HALTCNT. -/
def haltCount (k : Core) : Nat := (k.skd.streams.filter fun st => st.st == .halted || st.st == .aborting || st.st == .aborted).length

/-- The SKD page (R249). -/
def viewSkd (s : State) (c off : Nat) : Nat :=
  let k := getCore s c
  let st := findStream k (kReg k 6 0x5C)
  match off with
  | 0x58 => 0
  | 0x60 => match st with
    | some t => streamCode t.st * 2 ^ 28 + t.code * 65536 + min 768 (heldSlots s c t)
    | none => 0
  | 0x64 => match st with
    | some t => t.lo.toNat
    | none => 0
  | 0x68 => match st with
    | some t => t.hi.toNat
    | none => 0
  | 0x6C => b2n k.skd.stallValid * 2 ^ 31 + k.skd.stallCtx
  | 0x70 => haltCount k
  | _ => kReg k 6 off

/-- The WIN page (R271). -/
def viewWin (k : Core) (off : Nat) : Nat :=
  if off < 0x440 then
    let n := (off - 0x40) / 16
    let w := getWin k n
    match (off - 0x40) % 16 with
    | 0 => b2n w.open_ * 2 ^ 31 + winCfg k n
    | 4 => winRange k n
    | 8 => w.epoch
    | _ => b2n w.guard * 2 ^ 31 + w.stale * 65536 + winHeld k n
  else match off with
    | 0x740 => 0
    | 0x748 => k.barrier.gen * 65536 + b2n k.barrier.arrived
    | 0x750 => 0
    | _ => kReg k 7 off

/-- The values that history slot h holds. -/
def histVals (k : Core) (h : Nat) : List Word := fget k.qnt.hist h []

/-- The QNT page (R281, R306). -/
def viewQnt (k : Core) (off : Nat) : Nat :=
  let e := fileEntry k (selBank k) (fld (kReg k 9 0x4C) 0 10)
  match off with
  | 0x44 => kReg k 9 0x44 + b2n (bankBusy k (1 - k.qnt.active)) * 4 + b2n (bankBusy k k.qnt.active) * 2 + b2n k.grv.histAvail
  | 0x50 => e.scale.toNat
  | 0x54 => e.flatv.toNat
  | 0x58 => srzpWord k
  | 0x60 => if k.grv.histAvail then (((histVals k (fld (kReg k 9 0x5C) 4 4))[fld (kReg k 9 0x5C) 0 4]?).getD 0#32).toNat else 0
  | _ => if 0x64 ≤ off then (histVals k ((off - 0x64) / 4)).length * 65536 + kReg k 9 off else kReg k 9 off

/-- The GVOPs in flight. -/
def gvopsInFlight (k : Core) : Nat := (k.gvq.flights.filter fun f => opOf f.raw = 0x50).length

/-- The GRV page (R379). -/
def viewGrv (s : State) (c off : Nat) : Nat :=
  let k := getCore s c
  let d := slotDecl k (kReg k 10 0x60)
  match off with
  | 0x50 => kReg k 10 0x50 + bitsOf 4 (fun n => (getRegion k n).switching) * 16 + bitsOf 4 (clkRuns s c)
  | 0x5C => k.grv.engine.toNat
  | 0x64 => d.info.toNat
  | 0x68 => d.types.toNat
  | 0x6C => b2n (0 < gvopsInFlight k) * 2 ^ 31 + b2n k.grv.blank * 2 ^ 30 + b2n k.grv.halted * 2 ^ 29 + min 4 (gvopsInFlight k) * 2 ^ 26
  | _ => kReg k 10 off

/-- SCB_SIGINFO and SCB_SIGCRC of the selected frame (R400, R407). -/
def viewSig (k : Core) (crc : Bool) : Nat :=
  let f := kReg k 11 0x78
  if 1663 < f then 0
  else
    let g := sigOf k f
    if crc then g.crc.toNat else g.kind * 2 ^ 30 + b2n g.crit * 2 ^ 29 + g.handle * 2 ^ 27 + g.pos

/-- The SCB page (R407). -/
def viewScb (k : Core) (off : Nat) : Nat :=
  match off with
  | 0x44 => b2n k.grv.passOn * 2 ^ 31 + b2n k.grv.tmrFail * 2 ^ 30 + bitsOf 4 (handleUsed k) * 65536 + k.grv.frame
  | 0x68 => 0
  | 0x6C => b2n (loadBusy k) * 2 ^ 31 + ((k.grv.load.map (·.phase)).getD 0) * 2 ^ 28 + k.grv.loadCode * 2048 + k.grv.loadFrames
  | 0x70 => k.grv.lastMis.toNat
  | 0x74 => k.grv.passCnt
  | 0x7C => viewSig k true
  | 0x80 => viewSig k false
  | _ => kReg k 11 off

/-- The PWR page (R456). -/
def viewPwr (k : Core) (off : Nat) : Nat :=
  if off = 0x40 then
    pstateCode k.pwr.st * 2 ^ 29 + b2n k.pwr.waking.isSome * 2 ^ 28 + b2n k.pwr.descending.isSome * 2 ^ 27 + b2n k.cruise.running * 2 ^ 26 +
      b2n (k.pwr.st = .active || k.pwr.dataClk) * 2 ^ 25 + b2n (k.pwr.st = .active) * 2 ^ 24 + k.pwr.lastWake * 2 ^ 20
  else kReg k 12 off

/-- The ERR page (R417, R434). -/
def viewErrPage (s : State) (p : Port) (c off : Nat) : Nat :=
  let k := getCore s c
  let l := fget (getLatch s p).errRec c (0#32, 0#32, 0#32)
  match off with
  | 0x44 => fld (kReg k 13 0x44) 31 1 * 2 ^ 31 + k.err.fifo.length * 2 ^ 26 + k.err.lost
  | 0x48 => (headWords k).1.toNat
  | 0x4C => l.1.toNat
  | 0x50 => l.2.1.toNat
  | 0x54 => l.2.2.toNat
  | 0x58 => 0
  | 0x64 => k.err.hardTotal * 65536 + min 15 (hardInWindow k s.now)
  | 0x6C => b2n k.cruise.running * 2 ^ 31 + b2n k.cruise.failed * 2 ^ 30 + k.cruise.march * 2 ^ 20 + k.cruise.step
  | 0x70 => k.cruise.passes
  | _ => kReg k 13 off

/-- A register of the active set of core page i. -/
def viewUnit (s : State) (p : Port) (c i off : Nat) : Nat :=
  let k := getCore s c
  match i with
  | 0 => viewCq s c off
  | 1 => if off = 0xC0 then 0 else kReg k 1 off
  | 2 => viewMxa s k off
  | 3 => viewVec k off
  | 4 => viewUpd k off
  | 5 => viewSpd k off
  | 6 => viewSkd s c off
  | 7 => viewWin k off
  | 8 => if off = 0x5C then 0 else kReg k 8 off
  | 9 => viewQnt k off
  | 10 => viewGrv s c off
  | 11 => viewScb k off
  | 12 => viewPwr k off
  | _ => viewErrPage s p c off

/-- A shadow word: that of a set register, 0 for a live one (R48). -/
def viewShadow (p : Page) (i off : Nat) : Nat :=
  match findRow (rowsCore i) (off - 0x7C0) with
  | some r => if r.set then (shdWord (rowsCore i) p (off - 0x7C0)).toNat else 0
  | none => 0

/-- A register that exists, as the management port or the owning tenant reads it. -/
def viewReg (s : State) (p : Port) (pg : PageRef) (off : Nat) : Nat :=
  if commonOff off then viewCommon s pg off
  else match pg with
    | .blk => viewBlk s p off
    | .evt => viewEvt s off
    | .jnl => viewJnl s off
    | .fio => viewFio s p off
    | .ten u => viewTen s u.val off
    | .core c i => if 0x800 ≤ off then viewShadow (getPage s pg) i.val off else viewUnit s p c.val i.val off

/-- A tenant reads 0 from these registers of the BLK page (R55). -/
def hiddenBlk (p : Port) (pg : PageRef) (off : Nat) : Bool :=
  pg = .blk && (portTenant p).isSome && (off = 0x14 || off = 0x18 || off = 0x1C || 0xFC0 ≤ off)

/-- What a 32-bit read of register off of a page returns (R43, R44, R55, R424): 0 where the access is refused; of a core FELLED only what identifies it and its PAGE_STATUS, and its ERR page. -/
def regRead (s : State) (p : Port) (pg : PageRef) (off : Nat) : Word :=
  if hiddenBlk p pg off then 0#32
  else if (pageGate s p pg off false).2 then word (viewReg s p pg off)
  else if p = .mgmt && fenced s pg && 5 ≤ s.boot.step && offExists pg off && (off ≤ 0x8 || off = 0x14) then word (viewCommon s pg off)
  else 0#32

end Sys2Proof.Machine
end

