-- ==== Sys2Proof/WellFormed.lean ====
section
/-! DEFINITION. Which commands a sender can form: lists of bytes have the lengths their rules give. -/

namespace Sys2Proof

/-- A VC2 flit's payload has the length its header gives, 1 to 256 bytes for a write and none for a marker (R253). -/
def RemoteSrc.wf : RemoteSrc → Bool
  | .torus _ h pl => if h.kind = 0#4 || h.kind = 3#4 then pl.length == h.len.toNat && 1 ≤ pl.length && pl.length ≤ 256 else pl == []
  | .mesh _ => true

/-- The operands of a command have the shapes its rule gives them. -/
def Instr.wf : Instr → Bool
  | .scratchpadPortWrite _ _ off d => (d.length == 4 || d.length == 8 || d.length == 16) && off.toNat % d.length == 0 && off.toNat + d.length ≤ 0xC0000
  | .scratchpadPortRead _ _ off w => (w == 4 || w == 8 || w == 16) && off.toNat % w == 0 && off.toNat + w ≤ 0xC0000
  | .mailboxTake b => b.length == 64
  | .loadImage _ _ h => h.length == 256
  | .loadJob _ _ _ hs => hs.all fun h => h.length == 256
  | .yardFill _ _ d => d.length == 256
  | .remoteArrival r => r.wf
  | .cmdPrepare b _ | .cmdReady b _ | .cmdCommit b _ | .cmdDone b _ | .cmdRelease b _ | .cmdAbort b _ | .cmdSwapreq b | .cmdStop b _ | .cmdStart b _ | .cmdClose b | .cmdCtxcmd b _ | .cmdAbortrep b _ | .cmdSeed b _ _ | .cmdEpoch b _ | .cmdArrive b _ | .cmdPass b _ | .cmdAnswer b _ _ _ | .cmdRefused b _ => b.wf
  | .portOutBeat _ _ b => b.wf
  | .portDone _ _ _ t => t.length == 32
  | .scrubFrameRead _ o _ => o.length == 64
  | _ => true

end Sys2Proof
end

