-- ==== Sys2Proof/Safety.lean ====
section
/-! DEFINITION. What a safe run is, and the words that the statements share: the access that reaches a register, the parts of a state that a command may change, the memory it leaves. -/

namespace Sys2Proof

open Machine

/-- Every waiting command is one a sender can form. -/
def Machine.State.queueOk (s : Machine.State) : Bool := s.pending.all fun c => c.wf

/-- n steps from s all answer a next state. -/
def runsFor : Nat → Machine.State → Bool
  | 0, _ => true
  | n + 1, s =>
    match Machine.step s with
    | .next t => runsFor n t
    | _ => false

/-- Port p's write to register off of a page takes effect, and nothing is recorded (R44, R55); it does so in the state u that its place among the writes of the RCLK cycle gives (R8). -/
abbrev reaches (s : State) (p : Port) (pg : PageRef) (off : Nat) (u : State) : Prop := pageGate s p pg off true = (u, true)

/-- Port p's read of register off of a page is answered, and nothing is recorded (R44, R55). -/
abbrev readable (s : State) (p : Port) (pg : PageRef) (off : Nat) : Prop := pageGate s p pg off false = (s, true)

/-- Port p's access to the scratchpad of core c takes effect (R51, R55). -/
abbrev reachesSpd (s : State) (p : Port) (c : CoreId) : Prop := spdGate s p c.val = (s, true)

/-- From s to t only core c may differ. -/
def onlyCore (s t : State) (c : Nat) : Prop := t = { s with cores := t.cores } ∧ ∀ d, d ≠ c → getCore t d = getCore s d

/-- The core does not sleep lightly: a write to its CQ page does not wake it (R443). -/
abbrev notDozing (k : Core) : Prop := k.pwr.st ≠ .doze ∧ k.pwr.descending ≠ some .doze

/-- e after a write to page i of core c that began in s: one to the CQ page wakes a core in DOZE (R443). -/
def afterWrite (s e : State) (c : CoreId) (i : Fin 14) : State := if i.val = 0 then modCore e c.val fun k => wakeDoze k s.now 2 else e

/-- Byte a of the scratchpad in k' is as in k, or is the byte that the gather buffer of k held for it (R206). -/
def byteKept (k k' : Core) (a : Nat) : Prop :=
  memGet k'.spd.mem a = memGet k.spd.mem a ∨
  ∃ g ∈ k.spd.gather, g.row = a / 32 ∧ g.mask.testBit (a % 32) = true ∧ memGet k'.spd.mem a = g.bytes[a % 32]?.getD 0#8

/-- The last of the writes that covers byte a, if one does. -/
def lastWrite (ws : List Wr) (a : Nat) : Option Byte :=
  ws.foldl (fun o w => if w.off ≤ a ∧ a < w.off + w.bytes.length then w.bytes[a - w.off]? else o) none

/-- What every step keeps: time does not stand before power-good, and the MRAM is in its canonical form (R52, R426). -/
def sound (s : State) : Prop := s.origin ≤ s.now ∧ s.jnl.mram.wf = true

end Sys2Proof
end

