-- ==== Sys2Proof/Certificates/Slice0/Obligations.lean ====
section
/-! DEFINITION. The statements for the provers: the queue and the clock, reset, invariants of every step, who may access what, and for every command where it completes, what it changes and what it leaves. -/

open Sys2Proof Sys2Proof.Machine

/-! The block as a whole. -/

/-- With command c at the front of the queue, a step is c's effect on the state with the queue's rest; with an empty queue a step lets one FCLK cycle pass: the events of the units and the clock edges of the groves that fall into it happen, and nothing else (the model's choice, log entry 3). -/
def Obligations.StepRunsFrontCommand : Prop :=
  (∀ (s : State) (c : Instr) (rest : List Instr), s.pending = c :: rest → step s = exec c { s with pending := rest }) ∧
  (∀ s : State, s.pending = [] → step s = .next (atLeast s (s.now + 1)) ∧ (atLeast s (s.now + 1)).now = s.now + 1 ∧
    ∀ c, getCore (atLeast s (s.now + 1)) c = if (fget? s.cores c).isSome then groveTo s c (coreTo (getCore s c) s.now (s.now + 1)) s.now (s.now + 1) else {})

/-- No command takes one from the queue or adds one: the queue after a command is the queue before it. -/
def Obligations.CommandsLeaveQueueAlone : Prop :=
  ∀ (c : Instr) (s t : State), exec c s = .next t → t.pending = s.pending

/-- A step keeps two invariants in every state that has them: BLK_RTIME does not count from a later time than now, and the MRAM of the journal is in its canonical form; and time never runs back. -/
def Obligations.StepKeepsSound : Prop :=
  ∀ s t : State, sound s → step s = .next t → sound t ∧ s.now ≤ t.now

/-- The invariants hold at reset, and there every register that a chapter gives a reset value other than 0 reads it, every tag is EMPTY, every semaphore 0, no tenant valid, no core owned or ZEROED, no step of initialisation done, no command waits (R43, R172, R192 and the register tables of the pages). -/
def Obligations.ResetIsSound : Prop :=
  sound State.reset ∧ State.reset.pending = [] ∧ State.reset.boot = {} ∧
  (∀ c : Nat,
    let k := getCore State.reset c
    kReg k 5 0x50 = 0x0FFF0FFF ∧ kReg k 6 0x50 = 0x186A0 ∧ (∀ h, h < 16 → kReg k 9 (0x64 + 4 * h) = 0x10) ∧ (∀ n, n < 4 → kReg k 10 (0x40 + 4 * n) = 0x23) ∧
    kReg k 10 0x54 = 0x2710 ∧ kReg k 10 0x58 = 0xF1111 ∧ kReg k 11 0x40 = 1 ∧ kReg k 12 0x44 = 0xC0000000 ∧ kReg k 12 0x48 = 0x400 ∧ kReg k 12 0x4C = 0x30D40 ∧
    kReg k 13 0x40 = 2 ∧ kReg k 13 0x60 = 0x80000A02 ∧ kReg k 13 0x68 = 0x800186A0 ∧ (∀ n, tagOf k n = {}) ∧ (∀ n, n < 32 → semGet k n = 0) ∧
    ∀ i, (kPage k i).cnt = [] ∧ (kPage k i).swapen = true ∧ (kPage k i).errint = true ∧ (kPage k i).gen = 0#16) ∧
  gReg State.reset .blk 0x5C = 0xF4240 ∧ (∀ n, n < 96 → gReg State.reset .fio (0x60 + 4 * n) = 0x3088000) ∧
  (∀ t, tenValid State.reset t = false) ∧ (∀ c, getOwner State.reset c = {}) ∧ State.reset.evPend = 0#8

/-- While LOCK is set, no command but a loss of power changes the key register, REGVALID or the staged words, or clears LOCK (R390: COMMIT, ERASE and writes to KEYDATA are ignored, LOCK stays until the next power-good). -/
def Obligations.LockedKeysStay : Prop :=
  ∀ (c : Instr) (s t : State), s.keys.lock = true → (∀ b, c ≠ .powerLoss b) → exec c s = .next t →
    t.keys.lock = true ∧ t.keys.reg = s.keys.reg ∧ t.keys.regValid = s.keys.regValid ∧ (t.keys.staged = s.keys.staged ∨ c = .warmReset ∨ c = .powerGood)

/-- No command but power-good, a warm reset with its write-back, the completion of an initialisation step and the loss of power changes the boot record (READY, STEP, the stop of R454) or the time that BLK_RTIME counts from. -/
def Obligations.BootRecordFrame : Prop :=
  ∀ (c : Instr) (s t : State), exec c s = .next t →
    (t.boot = s.boot ∧ t.origin = s.origin) ∨ c = .powerGood ∨ c = .warmReset ∨ c = .warmWritebackDone ∨ (∃ r, c = .initStepDone r) ∨ ∃ b, c = .powerLoss b

/-- No command is refused, and a well-formed command stops for no reason but a length that another operand gives: the image headers that a job's manifest names. -/
def Obligations.WellFormedCommandsComplete : Prop :=
  ∀ (c : Instr) (s : State), c.wf = true →
    (∃ t, exec c s = .next t) ∨
    (exec c s = .fault .malformed ∧ ∃ t n m h, c = .loadJob t n m h)

/-! Who may access what (R44, R54, R55). -/

/-- A tenant-stamped access is allowed only to a page or the scratchpad of a core that the tenant owns (a write only where TENANTWR allows it), to read the BLK page, and to write BLK_MBXDB, with the tenant's VALID set. Any other is refused: a read returns 0, a write does nothing; E_TENANT with the tenant ID, or E_FELLED for a core that is FELLED, enters the BLK page's PAGE_ERR, and BLK counter 1 counts it. A tenant reads 0 from the BLK page's PAGE_STATUS, PAGE_ERR, PAGE_ERRMASK and counters. (At initialisation step 5 or later, for registers that exist.) A write is judged in the state that its place among the writes of its RCLK cycle gives (R8). -/
def Obligations.TenantAccessRule : Prop :=
  ∀ (s : State) (t : TenantId) (p : Port), 5 ≤ s.boot.step → p = .host t ∨ p = .vc3 t →
    (∀ (c : CoreId) (i : Fin 14) (off : Nat) (wr : Bool), offExists (.core c i) off = true →
      pageAccess s p (.core c i) off wr =
        if (getOwner s c.val).felled = true then (refuseBlk s 0x11 t.toNat, false)
        else if ownerOf s c.val = some t.toNat ∧ tenValid s t.toNat = true ∧ (wr = true → tenantWr i.val = true) then (s, true)
        else (refuseBlk s 9 t.toNat, false)) ∧
    (∀ c : CoreId,
      spdGate s p c.val =
        if (getOwner s c.val).felled = true then (refuseBlk s 0x11 t.toNat, false)
        else if ownerOf s c.val = some t.toNat ∧ tenValid s t.toNat = true then (s, true)
        else (refuseBlk s 9 t.toNat, false)) ∧
    (∀ (off : Nat) (wr : Bool), offExists .blk off = true →
      pageAccess s p .blk off wr = if tenValid s t.toNat = true ∧ (wr = true → off = 0x58) then (s, true) else (refuseBlk s 9 t.toNat, false)) ∧
    (∀ (pg : PageRef) (off : Nat) (wr : Bool), offExists pg off = true → pg = .evt ∨ pg = .jnl ∨ pg = .fio ∨ (∃ u, pg = .ten u) →
      pageAccess s p pg off wr = (refuseBlk s 9 t.toNat, false)) ∧
    (∀ (pg : PageRef) (off : Nat) (wr : Bool), pageGate s p pg off wr = pageAccess (if wr then portOrder s p pg else s) p pg off wr) ∧
    (∀ code : Nat, code = 9 ∨ code = 0x11 →
      (refuseBlk s code t.toNat).blk.cnt = (bump s.blk 1 1).cnt ∧
      (s.blk.errCode = 0#8 → (refuseBlk s code t.toNat).blk.errCode = BitVec.ofNat 8 code ∧ (refuseBlk s 9 t.toNat).blk.errTenant = t) ∧
      (s.blk.errCode ≠ 0#8 → (refuseBlk s code t.toNat).blk.errCode = s.blk.errCode ∧ (refuseBlk s code t.toNat).blk.errOvf = true)) ∧
    (∀ (pg : PageRef) (off : Nat), (pageGate s p pg off false).2 = false → regRead s p pg off = 0#32) ∧
    (∀ off : Nat, off = 0x14 ∨ off = 0x18 ∨ off = 0x1C ∨ 0xFC0 ≤ off → regRead s p .blk off = 0#32)

/-- The management port carries no tenant: from initialisation step 5 on it reaches every register that exists, but of a core that is FELLED only the ERR page and no scratchpad (R424). An access to an offset that does not exist counts in BLK counter 0 and takes no effect, at any port. Of the writes to one page in one RCLK cycle, those of the management port come before those of the host port, and these before VC3 commands (R8): a write that finds a later port's write made in its cycle waits for the next one; one that does not waits for nothing. -/
def Obligations.ManagementAccessRule : Prop :=
  ∀ s : State, 5 ≤ s.boot.step →
    (∀ (pg : PageRef) (off : Nat) (wr : Bool), offExists pg off = true →
      pageAccess s .mgmt pg off wr =
        match pg with
        | .core c i => (s, !(getOwner s c.val).felled || i.val == 13)
        | _ => (s, true)) ∧
    (∀ c : CoreId, spdGate s .mgmt c.val = (s, !(getOwner s c.val).felled)) ∧
    (∀ (p : Port) (pg : PageRef) (off : Nat) (wr : Bool), offExists pg off = false → pageAccess s p pg off wr = (blkBump s 0, false)) ∧
    (∀ (p : Port) (pg : PageRef), (∀ t m, fget? s.pageOrder (pageKey pg) = some (t, m) → t = rtime s → m ≤ portRank p) →
      portOrder s p pg = { s with pageOrder := (portOrder s p pg).pageOrder } ∧
      (portRank p ≠ 0 → fget? (portOrder s p pg).pageOrder (pageKey pg) = some (rtime s, portRank p))) ∧
    (∀ (p : Port) (pg : PageRef) (m : Nat), fget? s.pageOrder (pageKey pg) = some (rtime s, m) → portRank p < m →
      portOrder s p pg = { atLeast s (s.origin + 17 * (rtime s + 1)) with pageOrder := (portOrder s p pg).pageOrder }) ∧
    portRank .mgmt = 0 ∧ ∀ t, portRank (.host t) = 1 ∧ portRank (.vc3 t) = 2

/-! Register writes and the common registers (R8, R43 to R53). -/

/-- A register write that reaches its register: on the MXA, VEC and UPD pages the RW bits of the active word take the value and its other bits stay; the shadow word of a set register takes the RW bits, unless a swap of the page is in progress, which sets SHLOCKHIT instead; a 1 in EVT_PEND clears the bit; EVT_MASK takes the eight bits. Nothing else changes. -/
def Obligations.RegisterWritesTakeEffect : Prop :=
  (∀ (s u : State) (p : Port) (addr : BitVec 44) (v : Word) (c : CoreId) (i : Fin 14) (off : Nat) (r : RegRow), 2 ≤ s.boot.step →
    decodeAddr addr.toNat = .page (.core c i) off → i.val = 2 ∨ i.val = 3 ∨ i.val = 4 → 0x40 ≤ off → off < 0x800 →
    findRow (rowsCore i.val) off = some r → r.rw ≠ 0 → reaches s p (.core c i) off u →
    exec (.registerWrite p addr v) s = .next (putCore u c.val (modKPage (getCore u c.val) i.val fun q =>
      { q with act := fset q.act off (word ((v.toNat &&& r.rw) ||| ((actWord (rowsCore i.val) q off).toNat &&& (0xFFFFFFFF - r.rw)))) }))) ∧
  (∀ (s u : State) (p : Port) (addr : BitVec 44) (v : Word) (c : CoreId) (i : Fin 14) (off : Nat) (r : RegRow), 2 ≤ s.boot.step →
    decodeAddr addr.toNat = .page (.core c i) off → i.val ≠ 0 → 0x800 ≤ off → off < 0xFC0 →
    findRow (rowsCore i.val) (off - 0x7C0) = some r → r.set = true → reaches s p (.core c i) off u →
    exec (.registerWrite p addr v) s = .next (putCore u c.val (modKPage (getCore u c.val) i.val fun q =>
      if q.swppend then { q with shlockhit := true } else { q with shd := fset q.shd (off - 0x7C0) (word (v.toNat &&& r.rw)) }))) ∧
  (∀ (s : State) (v : Word), 2 ≤ s.boot.step → let u := portOrder s .mgmt .evt
    exec (.registerWrite .mgmt 0x1040#44 v) s = .next { u with evPend := u.evPend &&& ~~~(BitVec.ofNat 8 v.toNat) }) ∧
  (∀ (s : State) (v : Word), 2 ≤ s.boot.step → let u := portOrder s .mgmt .evt
    exec (.registerWrite .mgmt 0x1044#44 v) s = .next { u with evt := { u.evt with act := fset u.evt.act 0x44 (word ((v.toNat &&& 0xFF) ||| (gReg u .evt 0x44 &&& 0xFFFFFF00))) } })


/-- The commands on the common registers, where the write reaches them: SHCOPY makes the shadow word of every set register of a swappable page its active word and changes nothing else, or sets SHLOCKHIT while a swap of the page is in progress; CNTCLR sets the sixteen counters of any page to 0; PAGE_ERR.CLR clears OVF, TENANT, CODE and ERRPEND of any page; on a core's page with no more to clear (all but PWR for CNTCLR, all but SPD, SKD and SCB for CLR) they change nothing else, but that a write to the CQ page wakes a core in DOZE. A read of BLK_RTIME_LO returns the low half of the RCLK count and latches the high half for its port. An access of a width other than 4 or an unaligned one, to an offset that does not exist, or to an address outside the map, returns 0 on a read, changes nothing on a write, and counts in BLK counter 0 (R44, R49). -/
def Obligations.CommonRegisterCommands : Prop :=
  (∀ (s u : State) (p : Port) (c : CoreId) (i : Fin 14), (i.val = 0 → notDozing (getCore u c.val)) → swappableIdx i.val = true →
    reaches s p (.core c i) 0x10 u → (kPage (getCore u c.val) i.val).swppend = false →
    ∃ q, exec (.shcopy p (.core c i)) s = .next (putCore u c.val (modKPage (getCore u c.val) i.val fun _ => q)) ∧
      q = { kPage (getCore u c.val) i.val with shd := q.shd } ∧
      ∀ off, shdWord (rowsCore i.val) q off =
        if off ∈ setOffs (rowsCore i.val) then actWord (rowsCore i.val) (kPage (getCore u c.val) i.val) off
        else shdWord (rowsCore i.val) (kPage (getCore u c.val) i.val) off) ∧
  (∀ (s u : State) (p : Port) (c : CoreId) (i : Fin 14), (i.val = 0 → notDozing (getCore u c.val)) → swappableIdx i.val = true →
    reaches s p (.core c i) 0x10 u → (kPage (getCore u c.val) i.val).swppend = true →
    exec (.shcopy p (.core c i)) s = .next (putCore u c.val (modKPage (getCore u c.val) i.val fun q => { q with shlockhit := true }))) ∧
  (∀ (s u : State) (p : Port) (pg : PageRef), reaches s p pg 0x10 u →
    ∃ t, exec (.cntclr p pg) s = .next t ∧ (getPage t pg).cnt = []) ∧
  (∀ (s u : State) (p : Port) (c : CoreId) (i : Fin 14), i.val ≠ 12 → reaches s p (.core c i) 0x10 u →
    exec (.cntclr p (.core c i)) s = .next (afterWrite u (putCore u c.val (modKPage (getCore u c.val) i.val fun q => { q with cnt := [] })) c i)) ∧
  (∀ (s u : State) (p : Port) (pg : PageRef), reaches s p pg 0x18 u →
    ∃ t, exec (.errClr p pg) s = .next t ∧ (getPage t pg).errOvf = false ∧ (getPage t pg).errTenant = 0#8 ∧ (getPage t pg).errCode = 0#8 ∧ (getPage t pg).errpend = false) ∧
  (∀ (s u : State) (p : Port) (c : CoreId) (i : Fin 14), i.val ≠ 5 → i.val ≠ 6 → i.val ≠ 11 → reaches s p (.core c i) 0x18 u →
    exec (.errClr p (.core c i)) s = .next (afterWrite u (putCore u c.val (modKPage (getCore u c.val) i.val fun q =>
      { q with errOvf := false, errTenant := 0#8, errCode := 0#8, errpend := false })) c i)) ∧
  (∀ (s : State) (p : Port), readable s p .blk 0x50 →
    exec (.rtimeLoRead p) s = .next (modLatch s p fun l =>
      { l with rtimeHi := word (((s.now - s.origin) / 17) / 2 ^ 32), data := natLe 4 (word ((s.now - s.origin) / 17)).toNat })) ∧
  (∀ (s : State) (p : Port) (addr : BitVec 44) (w : Nat), 2 ≤ s.boot.step →
    (decodeAddr addr.toNat = .reserved ∨ ∃ pg off, decodeAddr addr.toNat = .page pg off ∧ (w ≠ 4 ∨ off % 4 ≠ 0 ∨ offExists pg off = false)) →
    exec (.illegalPageAccess p addr w true) s = .next { s with blk := bump s.blk 0 1 } ∧
    exec (.illegalPageAccess p addr w false) s = .next (modLatch { s with blk := bump s.blk 0 1 } p fun l => { l with data := List.replicate w 0#8 }))

/-! Swaps (R48, R72 to R78). -/

/-- The exchange of a page (R48, R72 step 4): each set register's active and shadow words change places, every live register and its absent shadow word stay, GEN counts one more, ARM and SWPPEND clear, and nothing else of the page and no other page changes. -/
def Obligations.PageExchangeSwapsSets : Prop :=
  ∀ (k : Core) (i : Nat),
    (∀ off ∈ setOffs (rowsCore i),
      actWord (rowsCore i) (kPage (exchangePage k i) i) off = shdWord (rowsCore i) (kPage k i) off ∧
      shdWord (rowsCore i) (kPage (exchangePage k i) i) off = actWord (rowsCore i) (kPage k i) off) ∧
    (∀ off, off ∉ setOffs (rowsCore i) →
      actWord (rowsCore i) (kPage (exchangePage k i) i) off = actWord (rowsCore i) (kPage k i) off ∧
      shdWord (rowsCore i) (kPage (exchangePage k i) i) off = shdWord (rowsCore i) (kPage k i) off) ∧
    (let q := kPage (exchangePage k i) i
     q = { kPage k i with act := q.act, shd := q.shd, gen := (kPage k i).gen + 1#16, arm := false, swppend := false }) ∧
    (∀ j, j ≠ i → kPage (exchangePage k i) j = kPage k j) ∧
    exchangePage k i = { k with pages := (exchangePage k i).pages }

/-- The commands of a chip swap where they act (R72 to R74). GO marks every armed page of every participant SWPPEND and records the swap, with cores that cannot have a window open as quiet. HOLD holds a core, QUIET is returned by a held core, the last QUIET schedules the exchange 16 RCLK cycles later, SWAPAT reaches a participant. At that edge every participant that is not FELLED exchanges its armed pages; one edge later the swap is over, counted in BLK counter 3, with its SWAP event and every participant released. CANCEL and the timeout end it in the same way with no page changed: BLK counter 4, the SWAP event, the release command to each participant. Nothing else changes. -/
def Obligations.ChipSwapCommands : Prop :=
  (∀ (s u : State) (p : Port) (c : CoreId) (i : Fin 14) (t : Nat), (i.val = 0 → notDozing (getCore u c.val)) → reaches s p (.core c i) 0x20 u →
    ownerOf u c.val = some t → swapOf u t = none →
    let s1 := putCore u c.val (modKPage (getCore u c.val) i.val fun q => { q with scope := false })
    let cs := participants s1 t none
    cs ≠ [] →
    ∃ v, exec (.chipSwapGo p c i) s = .next v ∧ v = { u with cores := v.cores, swaps := v.swaps } ∧
      (∀ d, d ∉ cs → getCore v d = getCore s1 d) ∧
      (∀ d ∈ cs, getCore v d = { getCore s1 d with pages := (getCore v d).pages } ∧
        ∀ j, kPage (getCore v d) j = if j ∈ armedPages (getCore s1 d) then { kPage (getCore s1 d) j with swppend := true } else kPage (getCore s1 d) j) ∧
      v.swaps = u.swaps ++ [{ tenant := BitVec.ofNat 8 t, job := none, g := u.now, parts := cs.map fun d => { core := d, quiet := countsQuiet s1 d },
                              sentAt := if cs.all (countsQuiet s1) then some (rclkEdge u + 16 * 17) else none }]) ∧
  (∀ (s : State) (c : CoreId) (w : Swap), swapOfCore s c.val = some w → w.ending = false → w.exchanged = false →
    exec (.swapHold c) s = .next (putCore s c.val { getCore s c.val with hold := { (getCore s c.val).hold with held := true } })) ∧
  (∀ (s : State) (c : CoreId), (getCore s c.val).hold.held = true →
    let u := atLeast s (allQ.foldl (fun m q => max m (getQ (getCore s c.val) q).winEnd) s.now)
    exec (.quiet c) s = .next (putCore u c.val { getCore u c.val with hold := { (getCore u c.val).hold with quietSent := true } })) ∧
  (∀ (s : State) (c : CoreId) (w : Swap), s.swaps = [w] → w.job = none → w.sentAt = none → w.ending = false → (getCore s c.val).hold.quietSent = true →
    (∃ q ∈ w.parts, q.core = c.val ∧ q.quiet = false) →
    exec (.quietReceived c) s = .next { s with swaps := [{ w with
      parts := w.parts.map fun q => if q.core = c.val then { q with quiet := true } else q
      sentAt := if w.parts.all (fun q => q.core == c.val || q.quiet) then some (rclkEdge s + 16 * 17) else none }] }) ∧
  (∀ (s : State) (c : CoreId) (w : Swap) (at_ : Nat), swapOfCore s c.val = some w → w.sentAt = some at_ → w.exchanged = false →
    exec (.swapat c) s = .next (putCore s c.val { getCore s c.val with hold := { (getCore s c.val).hold with at_ := some at_, held := true } })) ∧
  (∀ (s : State) (t : TenantId) (w : Swap) (at_ : Nat), swapOf s t.toNat = some w → w.job = none → w.sentAt = some at_ → w.exchanged = false → w.ending = false →
    allScheduled s w = true →
    exec (.swapExchange t) s = .next (modSwap
      (w.parts.foldl (fun u q => if (getOwner u q.core).felled then u else modCoreW u q.core (exchangeCore q.core (max s.now at_))) (atLeast s at_))
      t.toNat fun w => { w with exchanged := true })) ∧
  (∀ (s : State) (t : TenantId) (w : Swap) (at_ : Nat), swapOf s t.toNat = some w → w.job = none → w.sentAt = some at_ → w.exchanged = true →
    ∃ u, exec (.holdRelease t) s = .next u ∧ swapOf u t.toNat = none ∧
      (w.deferred = [] → u.now = max s.now (at_ + 17) ∧ u.blk = bump s.blk 3 1 ∧ u.evPend = s.evPend ||| 8#8 ∧
        u.outbox = s.outbox ++ [.tenantEvent t 0x3FFF] ∧ (∀ q ∈ w.parts, (getCore u q.core).hold = {} ∧ ∀ e ∈ (getCore u q.core).pages, e.2.swppend = false) ∧
        (∀ d, (∀ q ∈ w.parts, q.core ≠ d) → getCore u d = getCore (atLeast s (at_ + 17)) d))) ∧
  (∀ (s : State) (t : TenantId) (w : Swap), s.swaps = [w] → w.tenant = t → w.job = none → w.sentAt = none → w.ending = false → w.parts ≠ [] →
    exec (.swapTimeout t) s = .next { atLeast s (w.g + 17 * fld (gReg s .blk 0x5C) 0 24) with
      swaps := [{ w with ending := true }], blk := bump s.blk 4 1
      evPend := s.evPend ||| 8#8, outbox := s.outbox ++ [.tenantEvent t 0x3FFF] }) ∧
  (∀ (s u : State) (p : Port) (c : CoreId) (i : Fin 14) (w : Swap), (i.val = 0 → notDozing (getCore u c.val)) → reaches s p (.core c i) 0x20 u →
    ownerOf u c.val = some w.tenant.toNat → u.swaps = [w] → w.job = none → w.sentAt = none → w.ending = false → w.parts ≠ [] →
    ∃ v, exec (.swapCancel p c i) s = .next v ∧ (∀ d, getCore v d = getCore u d) ∧
      v = { u with cores := v.cores, swaps := [{ w with ending := true }], blk := bump u.blk 4 1, evPend := u.evPend ||| 8#8
                   outbox := u.outbox ++ [.tenantEvent w.tenant 0x3FFF] }) ∧
  (∀ (s : State) (c : CoreId) (w : Swap), s.swaps = [w] → (∃ q ∈ w.parts, q.core = c.val) → w.ending = true → w.exchanged = false → w.deferred = [] →
    notDozing (getCore s c.val) →
    exec (.swapReleaseCommand c) s = .next { putCore s c.val { getCore s c.val with
        pages := (getCore s c.val).pages.map (fun e => (e.1, { e.2 with swppend := false })), hold := {} } with
      swaps := if w.parts.all (fun q => q.core == c.val) then [] else [{ w with parts := w.parts.filter fun q => q.core ≠ c.val }] })

/-- The commands of a job swap where they act (R75, R76, R78). GO with SCOPE = 1 goes to the head chip from a member, is ignored there while a swap of the tenant is in progress, counts in BLK counter 6 on a core of no job, and on the head chip takes the next generation and sends PREPARE. A chip that takes PREPARE from its head chip begins the swap of the job's cores; COMMIT, once its participants are quiet, schedules the exchange; RELEASE makes the release due; ABORT ends the swap as a timeout does. The head chip counts READY and DONE once for each chip and generation: the last READY sends COMMIT, the last DONE sends RELEASE. A missing READY makes it send ABORT, a missing DONE send COMMIT again three times and then record a fatal error and send nothing. Each command from another chip is answered with code 0. -/
def Obligations.JobSwapCommands : Prop :=
  (∀ (s u : State) (p : Port) (c : CoreId) (i : Fin 14), reaches s p (.core c i) 0x20 u →
    let s1 := putCore u c.val (modKPage (getCore u c.val) i.val fun q => { q with scope := true })
    (jobOfCore u c.val = none → exec (.jobSwapGo p c i) s = .next (afterWrite u { s1 with blk := bump u.blk 6 1 } c i)) ∧
    ∀ j : Job, jobOfCore u c.val = some j →
      (j.role = 2 → swapOf u j.tenant.toNat = none → exec (.jobSwapGo p c i) s = .next (afterWrite u (emit s1 (.chipCmd j.head (cmdBody 0x16 j.jobid []))) c i)) ∧
      (j.role = 2 → swapOf u j.tenant.toNat ≠ none → exec (.jobSwapGo p c i) s = .next (afterWrite u s1 c i)) ∧
      (j.role ≠ 2 → jobById u j.jobid = some j → j.phase = 0 → swapOf u j.tenant.toNat = none →
        let gen := (j.gen + 1) % 65536
        let s2 := modJob s1 j.jobid fun j => { j with gen := gen, phase := 1, since := u.now, ready := [], done := [], resends := 0 }
        exec (.jobSwapGo p c i) s = .next (afterWrite u (takePrepare (toChips s2 j 0x10 gen) j.jobid gen) c i))) ∧
  (∀ (s : State) (a : ChipId) (b : List Byte) (j : Job), b.length = 32 → jobById s (bodyJob b) = some j → a = headChip s j →
    let gen := bodyArg b 8 2
    (bodyOp b = 0x10 → swapOf s j.tenant.toNat = none →
      exec (.cmdPrepare (.chip a b)) s = .next (answerChip (settleSwap (beginSwap s j.tenant.toNat (some j) gen) j.tenant.toNat) a b 0)) ∧
    ∀ w : Swap, swapOfJob s j.jobid = some w → w.gen = gen →
      (bodyOp b = 0x12 → w.ending = false → w.exchanged = false → w.sentAt = none → w.parts.all (·.quiet) = true →
        exec (.cmdCommit (.chip a b)) s = .next (answerChip (modSwap s w.tenant.toNat fun w => { w with sentAt := some (rclkEdge s + 16 * 17) }) a b 0)) ∧
      (bodyOp b = 0x14 → w.exchanged = true →
        exec (.cmdRelease (.chip a b)) s = .next (answerChip (modSwap s w.tenant.toNat fun w => { w with ending := true }) a b 0)) ∧
      (bodyOp b = 0x15 → s.swaps = [w] → w.exchanged = false → w.ending = false → w.parts ≠ [] →
        exec (.cmdAbort (.chip a b)) s = .next (answerChip { s with
          swaps := [{ w with sentAt := none, ending := true }], blk := bump s.blk 4 1, evPend := s.evPend ||| 8#8
          outbox := s.outbox ++ [.tenantEvent w.tenant 0x3FFF] } a b 0))) ∧
  (∀ (s : State) (a : ChipId) (b : List Byte) (j : Job), b.length = 32 → jobById s (bodyJob b) = some j → j.role ≠ 2 →
    (a = torusHere s ∨ (j.role = 1 ∧ Config.jobChip a j.jobid = true)) →
    let gen := bodyArg b 8 2
    (bodyOp b = 0x11 → j.phase = 1 → gen = j.gen → a ∉ j.ready →
      exec (.cmdReady (.chip a b)) s = .next (answerChip (
        if j.ready.length + 1 < j.nchips then modJob s j.jobid fun j => { j with ready := j.ready ++ [a] }
        else
          let s1 := modJob s j.jobid fun j => { j with phase := 2, since := s.now, ready := [], done := [], resends := 0 }
          takeCommit (toChips s1 j 0x12 gen) j.jobid gen) a b 0)) ∧
    (bodyOp b = 0x13 → j.phase = 2 → gen = j.gen → a ∉ j.done →
      exec (.cmdDone (.chip a b)) s = .next (answerChip (
        if j.done.length + 1 < j.nchips then modJob s j.jobid fun j => { j with done := j.done ++ [a] }
        else
          let s1 := modJob s j.jobid fun j => { j with phase := 0, done := [] }
          modSwap (toChips s1 j 0x14 gen) j.tenant.toNat fun w => if w.job = some j.jobid then { w with ending := true } else w) a b 0)) ∧
    (bodyOp b = 0x16 → j.phase = 0 → swapOf s j.tenant.toNat = none →
      let next := (j.gen + 1) % 65536
      let s1 := modJob s j.jobid fun j => { j with gen := next, phase := 1, since := s.now, ready := [], done := [], resends := 0 }
      exec (.cmdSwapreq (.chip a b)) s = .next (answerChip (takePrepare (toChips s1 j 0x10 next) j.jobid next) a b 0))) ∧
  (∀ (s : State) (j : Job) (op gen : Nat), toChips s j op gen = if j.role = 1 then emit s (.jobCmd j.jobid (cmdBody op j.jobid (natLe 2 gen))) else s) ∧
  (∀ (s : State) (job : Word) (j : Job), jobById s job = some j →
    let s0 := atLeast s (j.since + 17 * fld (gReg s .blk 0x5C) 0 24)
    (j.phase = 1 → exec (.readyTimeout job) s = .next (takeAbort (toChips (modJob s0 job fun j => { j with phase := 0, ready := [] }) j 0x15 j.gen) job j.gen)) ∧
    (j.phase = 2 → j.resends < 3 →
      exec (.doneTimeout job) s = .next (takeCommit (toChips (modJob s0 job fun j => { j with resends := j.resends + 1, since := s0.now }) j 0x12 j.gen) job j.gen)) ∧
    (j.phase = 2 → ¬ j.resends < 3 → exec (.doneTimeout job) s = .next (jobFatal (modJob s0 job fun j => { j with phase := 3 }))))


/-! The scratchpad port (R51), the tenant table (R56 to R60), the mailbox (R64 to R67), jobs (R69, R70). -/

/-- Port accesses to a scratchpad, where the port may make them. A write leaves every tag and every byte outside it; to a slot that no gather entry covers, with the buffer not full, it is read back as written. In a segment that is off a write is ignored and a read answers zeros and records E_SEGMENT_OFF in the SPD page. A read answers the bytes as stored, changes no tag and no byte but by writing the gather entries of its row. -/
def Obligations.ScratchpadPortAccesses : Prop :=
  (∀ (s : State) (p : Port) (c : CoreId) (off : BitVec 20) (data : List Byte), reachesSpd s p c → 2 ≤ s.boot.step → portShape off.toNat data.length = true →
    ∃ u, exec (.scratchpadPortWrite p c off data) s = .next u ∧ onlyCore s u c.val ∧
      (getCore u c.val).spd.tags = (getCore s c.val).spd.tags ∧
      ∀ a, a < off.toNat ∨ off.toNat + data.length ≤ a → byteKept (getCore s c.val) (getCore u c.val) a) ∧
  (∀ (s : State) (p : Port) (c : CoreId) (off : BitVec 20) (data : List Byte), reachesSpd s p c → 2 ≤ s.boot.step → portShape off.toNat data.length = true →
    segUp (getCore s c.val) (off.toNat / 65536) = true → lockedSlot (getCore s c.val) (off.toNat / 1024) = false →
    (∀ g ∈ (getCore s c.val).spd.gather, g.row ≠ off.toNat / 32) → (getCore s c.val).spd.gather.length < 8 →
    ∃ u v, exec (.scratchpadPortWrite p c off data) s = .next u ∧ exec (.scratchpadPortRead p c off data.length) u = .next v ∧ (getLatch v p).data = data) ∧
  (∀ (s : State) (p : Port) (c : CoreId) (off : BitVec 20) (data : List Byte), reachesSpd s p c → 2 ≤ s.boot.step → portShape off.toNat data.length = true →
    segUp (getCore s c.val) (off.toNat / 65536) = false ∨ lockedSlot (getCore s c.val) (off.toNat / 1024) = true →
    exec (.scratchpadPortWrite p c off data) s = .next (putCore s c.val (noteWork (touchData (getCore s c.val) s.now) s.now))) ∧
  (∀ (s : State) (p : Port) (c : CoreId) (off : BitVec 20) (w : Nat), reachesSpd s p c → 2 ≤ s.boot.step → portShape off.toNat w = true →
    segUp (getCore s c.val) (off.toNat / 65536) = true → badWords (getCore s c.val) off.toNat w = none →
    ∃ u, exec (.scratchpadPortRead p c off w) s = .next (modLatch u p fun l => { l with data := spdBytes (getCore u c.val) off.toNat w }) ∧ onlyCore s u c.val ∧
      (getCore u c.val).spd.tags = (getCore s c.val).spd.tags ∧ (∀ a, byteKept (getCore s c.val) (getCore u c.val) a) ∧
      (getCore u c.val).spd.gather = (getCore s c.val).spd.gather.filter fun g => g.row ≠ off.toNat / 32) ∧
  (∀ (s : State) (p : Port) (c : CoreId) (off : BitVec 20) (w : Nat), reachesSpd s p c → 2 ≤ s.boot.step → portShape off.toNat w = true →
    segUp (getCore s c.val) (off.toNat / 65536) = false →
    exec (.scratchpadPortRead p c off w) s = .next (modLatch
      (coreErr (putCore s c.val (noteWork (touchData (getCore s c.val) s.now) s.now)) c.val { code := 0x0E, cls := 1, page := 5 }) p
      fun l => { l with data := List.replicate w 0#8 })) ∧
  (∀ (s : State) (p : Port) (c : CoreId) (off : BitVec 20) (data : List Byte) (w : Nat), 2 ≤ s.boot.step →
    (portShape off.toNat data.length = false → exec (.scratchpadPortWrite p c off data) s = .next { s with blk := bump s.blk 0 1 }) ∧
    (portShape off.toNat w = false → exec (.scratchpadPortRead p c off w) s = .next (modLatch { s with blk := bump s.blk 0 1 } p fun l => { l with data := List.replicate w 0#8 })))

/-- Writes of the tenant table by the management port. TEN_CTRL takes its defined bits, unless the write clears VALID while the tenant owns cores: then BLK counter 5 counts it and nothing changes; one that clears VALID of a tenant without cores also empties its mailbox map. TEN_ASID takes 16 bits, unless the tenant owns cores and they differ. (The write is judged, and takes effect, in the state u that its place among the writes of its RCLK cycle gives, R8.) Nothing else changes, but that a change of SUSPEND wakes the tenant's cores that are in DOZE. -/
def Obligations.TenantTableWrites : Prop :=
  (∀ (s : State) (t : TenantId) (v : Word), 2 ≤ s.boot.step → let u := portOrder s .mgmt (tenPage t)
    tenValid u t.toNat = true → wbit v 31 = false → 0 < tenCores u t.toNat →
    exec (.tenCtrlWrite .mgmt t v) s = .next { u with blk := bump u.blk 5 1 }) ∧
  (∀ (s : State) (t : TenantId) (v : Word), 2 ≤ s.boot.step → let u := portOrder s .mgmt (tenPage t)
    tenValid u t.toNat = true → wbit v 31 = false → tenCores u t.toNat = 0 →
    ∃ w, exec (.tenCtrlWrite .mgmt t v) s = .next w ∧ w = { u with tenants := w.tenants } ∧
      getTenant w t.toNat = { getTenant u t.toNat with ctrl := v &&& 0xFF8007FF#32, pend := 0#64 } ∧
      ∀ d, d ≠ t.toNat → getTenant w d = getTenant u d) ∧
  (∀ (s : State) (t : TenantId) (v : Word), 2 ≤ s.boot.step → let u := portOrder s .mgmt (tenPage t)
    (tenValid u t.toNat = true → wbit v 31 = true) → tenSuspend u t.toNat = wbit v 30 →
    exec (.tenCtrlWrite .mgmt t v) s = .next (modTenant u t.toNat fun e => { e with ctrl := v &&& 0xFF8007FF#32 })) ∧
  (∀ (s : State) (t : TenantId) (v : Word), 2 ≤ s.boot.step → let u := portOrder s .mgmt (tenPage t)
    (tenValid u t.toNat = true → wbit v 31 = true) → tenSuspend u t.toNat ≠ wbit v 30 →
    exec (.tenCtrlWrite .mgmt t v) s = .next ((coresOf u t.toNat).foldl (fun s c => modCore s c fun k => wakeDoze k s.now 2)
      (modTenant u t.toNat fun e => { e with ctrl := v &&& 0xFF8007FF#32 }))) ∧
  (∀ (s : State) (t : TenantId) (v : Word), 2 ≤ s.boot.step → let u := portOrder s .mgmt (tenPage t)
    tenCores u t.toNat = 0 ∨ v &&& 0xFFFF#32 = (getTenant u t.toNat).asid →
    exec (.tenAsidWrite .mgmt t v) s = .next (modTenant u t.toNat fun e => { e with asid := v &&& 0xFFFF#32 })) ∧
  (∀ (s : State) (t : TenantId) (v : Word), 2 ≤ s.boot.step → let u := portOrder s .mgmt (tenPage t)
    0 < tenCores u t.toNat → v &&& 0xFFFF#32 ≠ (getTenant u t.toNat).asid →
    exec (.tenAsidWrite .mgmt t v) s = .next { u with blk := bump u.blk 5 1 })

/-- Ownership. A write that sets OWNED of an unowned core takes effect only if ZEROED is 1, FELLED is 0 and the new tenant has fewer cores than MAXCORES; it then sets OWNED and TENANT and clears ZEROED. Otherwise the whole write is ignored, as is one that changes TENANT while OWNED stays 1. (No swap of the core's tenant under way.) -/
def Obligations.CoreAssignment : Prop :=
  ∀ (s : State) (c : CoreId) (v : Word), 2 ≤ s.boot.step → let u := portOrder s .mgmt (ownPage c)
    swapOfCore u c.val = none →
    exec (.coreAssign .mgmt c v) s = .next (
      if (getOwner u c.val).owned = false ∧ (getOwner u c.val).zeroed = true ∧ (getOwner u c.val).felled = false ∧
          tenCores u (v.toNat % 256) < min 1200 (fld (getTenant u (v.toNat % 256)).ctrl.toNat 0 11) then
        modOwner u c.val fun o => { o with owned := true, zeroed := false, tenant := BitVec.ofNat 8 v.toNat }
      else u)

/-- Release of a core. A write of its ownership register during a swap of its tenant waits (R73); otherwise one that clears OWNED takes the ownership away at once and leaves the core with no queue entry issued, every stream aborting, to be freed when its abort ends, every window closed and the grove going blank; once no stream is left, ZEROED ends it: the pages are at reset with every slot EMPTY and zero, window epochs and guards as they were left, LASTWAKE 0 and the power state kept, ZEROED is 1, TENANT 0 (the last is the model's choice, log entry 160). -/
def Obligations.CoreRelease : Prop :=
  (∀ (s : State) (c : CoreId) (v : Word), 2 ≤ s.boot.step → let s1 := portOrder s .mgmt (ownPage c)
    swapOfCore s1 c.val = none → (getOwner s1 c.val).owned = true → (getOwner s1 c.val).felled = false →
    ∃ u, exec (.coreRelease .mgmt c v) s = .next u ∧
      getOwner u c.val = { getOwner s1 c.val with owned := false } ∧
      (s1.jobs = [] → s1.taken = [] → ∀ d, d ≠ c.val → getOwner u d = getOwner s1 d ∧ getCore u d = getCore s1 d) ∧
      (∀ st ∈ (getCore u c.val).skd.streams, st.st = .aborting ∧ st.freeing = true) ∧
      (∀ q, (getQ (getCore u c.val) q).flights = [] ∧ (getQ (getCore u c.val) q).stop = true) ∧
      (∀ n, (getWin (getCore u c.val) n).open_ = false) ∧
      (getCore u c.val).grv.blanking = some s1.now ∧ (getCore u c.val).releasing = some s1.now) ∧
  (∀ (s : State) (c : CoreId) (v : Word) (w : Swap), 2 ≤ s.boot.step → let s1 := portOrder s .mgmt (ownPage c)
    swapOfCore s1 c.val = some w → w.exchanged = false ∨ w.job = none →
    exec (.coreRelease .mgmt c v) s = .next (modSwap s1 w.tenant.toNat fun w => { w with deferred := w.deferred ++ [(c.val, v &&& 0x7FFFFFFF#32)] }) ∧
    exec (.coreAssign .mgmt c v) s = .next (modSwap s1 w.tenant.toNat fun w => { w with deferred := w.deferred ++ [(c.val, v ||| 0x80000000#32)] })) ∧
  (∀ (s : State) (c : CoreId) (n : Nat), (getCore s c.val).releasing = some n →
    ((getCore s c.val).skd.streams ≠ [] → exec (.coreZeroed c) s = .next s) ∧ ((getCore s c.val).skd.streams = [] →
    ∃ u, exec (.coreZeroed c) s = .next u ∧
      getOwner u c.val = { getOwner s c.val with zeroed := true, tenant := 0#8 } ∧ (∀ d, d ≠ c.val → getOwner u d = getOwner s d) ∧
      (∀ d, d ≠ c.val → getCore u d = getCore s d) ∧
      (getCore u c.val).spd = {} ∧ (getCore u c.val).pages = [] ∧ (getCore u c.val).skd = {} ∧ (∀ q, getQ (getCore u c.val) q = {}) ∧
      (getCore u c.val).pwr = { (getCore s c.val).pwr with lastWake := 0 } ∧ (getCore u c.val).releasing = none ∧
      u = { s with cores := u.cores, owners := u.owners, taken := u.taken }))

/-- The mailbox. A tenant's doorbell sets the slot's bit, BLK counter 2 counts it, MBX is raised. The management processor takes the lowest pending slot of the tenant whose turn it is and clears the bit; it skips a block that is not submitted, refuses one with a bad CRC (reason 2), then one with an unknown OP (reason 1), and keeps any other. A taken QUERY is answered with the tenant's CORES, a SUSPEND sets the tenant's SUSPEND and is answered with 0, and END_JOB with the number of cores it released once the last of them is zeroed; each answer sends the tenant an MBX event with the slot. -/
def Obligations.MailboxCommands : Prop :=
  (∀ (s u : State) (p : Port) (t : TenantId) (slot : BitVec 6), (p = .host t ∨ p = .vc3 t) → reaches s p .blk 0x58 u →
    exec (.mailboxDoorbell p slot) s = .next { modTenant u t.toNat fun e => { e with pend := e.pend ||| BitVec.ofNat 64 (2 ^ slot.toNat) } with
      blk := bump u.blk 2 1, evPend := u.evPend ||| 4#8 }) ∧
  (∀ (s : State) (b : List Byte) (t slot : Nat), b.length = 64 → mbxTenant s = some t →
    ((List.range 64).find? fun i => (getTenant s t).pend.toNat.testBit i) = some slot →
    let s1 := { modTenant s t fun e => { e with pend := e.pend &&& ~~~(BitVec.ofNat 64 (2 ^ slot)) } with mbxNext := (t + 1) % 256 }
    exec (.mailboxTake b) s = .next (
      if leAt b 2 1 ≠ 1 then s1
      else if leAt b 0x3C 4 ≠ crc32c (b.take 2 ++ (b.drop 4).take 0x34) then refuseMbx s1 t slot 2
      else if leAt b 0 2 = 0 ∨ 5 < leAt b 0 2 then refuseMbx s1 t slot 1
      else { s1 with taken := s1.taken ++ [{ tenant := BitVec.ofNat 8 t, slot := slot, block := b }] })) ∧
  (∀ (s : State) (t slot reason : Nat),
    refuseMbx s t slot reason = { s with
      free := s.free + 1, taken := s.taken.filter fun k => ¬ (k.tenant.toNat = t ∧ k.slot = slot)
      outbox := s.outbox ++ [.mailbox (BitVec.ofNat 8 t) slot (Config.freeWord s.free) reason 3, .tenantEvent (BitVec.ofNat 8 t) (2 * 4096 + slot % 4096)] }) ∧
  (∀ (s : State) (t : TenantId) (slot : BitVec 6) (k : Taken), takenOp s t.toNat slot.toNat 5 = some k →
    exec (.query t slot) s = .next { s with
      taken := s.taken.filter fun k => ¬ (k.tenant.toNat = t.toNat ∧ k.slot = slot.toNat)
      outbox := s.outbox ++ [.mailbox t slot.toNat (word (tenCores s t.toNat)) 0 2, .tenantEvent t (2 * 4096 + slot.toNat)] }) ∧
  (∀ (s : State) (t : TenantId) (slot : BitVec 6) (k : Taken), takenOp s t.toNat slot.toNat 4 = some k → tenSuspend s t.toNat ≠ (leAt k.block 8 8).testBit 0 →
    coresOf s t.toNat = [] →
    exec (.mbxSuspend t slot) s = .next { modTenant s t.toNat fun e => { e with ctrl := word (setBit e.ctrl.toNat 30 ((leAt k.block 8 8).testBit 0)) } with
      taken := s.taken.filter fun k => ¬ (k.tenant.toNat = t.toNat ∧ k.slot = slot.toNat)
      outbox := s.outbox ++ [.mailbox t slot.toNat 0#32 0 2, .tenantEvent t (2 * 4096 + slot.toNat)] }) ∧
  (∀ (s : State) (t : TenantId) (slot : BitVec 6) (k : Taken), takenOp s t.toNat slot.toNat 4 = some k → tenSuspend s t.toNat = (leAt k.block 8 8).testBit 0 →
    exec (.mbxSuspend t slot) s = .next { modTenant s t.toNat fun e => e with
      taken := s.taken.filter fun k => ¬ (k.tenant.toNat = t.toNat ∧ k.slot = slot.toNat)
      outbox := s.outbox ++ [.mailbox t slot.toNat 0#32 0 2, .tenantEvent t (2 * 4096 + slot.toNat)] }) ∧
  (∀ (s : State) (t : TenantId) (slot : BitVec 6) (k : Taken) (j : Job), takenOp s t.toNat slot.toNat 2 = some k →
    s.jobs.find? (fun j => j.jobid.toNat = leAt k.block 8 8 && j.tenant = t) = some j →
    let cs := j.cores.filter fun c => !(getOwner s c).felled
    exec (.endJob t slot) s = .next (cs.foldl (fun s c => ownWrite s c 0#32)
      { s with
        jobs := s.jobs.filter fun i => !(i.jobid == j.jobid && i.tenant == t && i.cores.all fun c => (getOwner s c).felled)
        taken := s.taken.map fun k => if k.tenant.toNat = t.toNat ∧ k.slot = slot.toNat then { k with started := true, ending := cs, count := cs.length } else k })) ∧
  (∀ (s : State) (t : TenantId) (slot : BitVec 6) (k : Taken), 
    s.taken.find? (fun k => k.tenant = t && k.slot = slot.toNat && leAt k.block 0 2 = 2 && k.started && k.ending = []) = some k →
    exec (.endJobAnswer t slot) s = .next { s with
      taken := s.taken.filter fun k => ¬ (k.tenant.toNat = t.toNat ∧ k.slot = slot.toNat)
      outbox := s.outbox ++ [.mailbox t slot.toNat (word k.count) 0 2, .tenantEvent t (2 * 4096 + slot.toNat)] })

/-- LOAD_JOB and LOAD_IMAGE. A manifest is refused with the reason of the first of the checks of R69 that it fails. One that passes them all is loaded: its cores, its shape maxima and its job are placed; with no image it is answered with its JOBID, else it waits for the cores that get one, and their loads begin in the order of the core entries, each of the length that the image entry gives. LOAD_IMAGE is refused for a tenant not VALID or suspended or a core it does not own (3), without GROVEOK (0x0D), for a key outside its KEYMASK (0x0E), and for a FELLED core with E_FELLED; otherwise a load begins on the core under a handle that the management processor picks. -/
def Obligations.JobAndImageLoads : Prop :=
  (∀ (s : State) (t : TenantId) (slot : BitVec 6) (m : List Byte) (hs : List (List Byte)) (k : Taken) (r : Nat), takenOp s t.toNat slot.toNat 1 = some k →
    (∀ h ∈ hs, h.length = 256) → (manFormatOk m = true → manImages m ≤ hs.length) → manReason s t.toNat m hs = r + 1 →
    exec (.loadJob t slot m hs) s = .next (refuseMbx s t.toNat slot.toNat (r + 1))) ∧
  (∀ (s : State) (t : TenantId) (slot : BitVec 6) (m : List Byte) (hs : List (List Byte)) (k : Taken), takenOp s t.toNat slot.toNat 1 = some k →
    (∀ h ∈ hs, h.length = 256) → manImages m ≤ hs.length → manReason s t.toNat m hs = 0 →
    let s1 := (manShapeEntries m).foldl placeShape ((manCoreEntries m).foldl (placeCore t.toNat) s)
    let j : Job :=
      { jobid := word (leAt m 0x14 4), tenant := t, role := leAt m 0x18 1, nchips := leAt m 0x12 2, head := word (leAt m 0x1C 4)
        cores := (manCoreEntries m).map fun e => leAt e 0 2 }
    let s2 := { s1 with jobs := s1.jobs ++ [j] }
    let es := (manCoreEntries m).filter fun e => leAt e 0x3D 1 ≠ 0xFF
    (es = [] → exec (.loadJob t slot m hs) s = .next (answerMbx s2 t.toNat slot.toNat j.jobid 0 2)) ∧
    (es ≠ [] → exec (.loadJob t slot m hs) s = .next (es.foldl
      (fun u e => if u.taken.any fun k => k.tenant.toNat = t.toNat && k.slot = slot.toNat then beginImage u (leAt e 0 2) (leAt ((manImageEntries m)[leAt e 0x3D 1]?.getD []) 8 4) else u)
      (modTaken s2 t.toNat slot.toNat fun k => { k with started := true, job := j.jobid, ending := es.map fun e => leAt e 0 2 })))) ∧
  (∀ (s : State) (t : TenantId) (slot : BitVec 6) (h : List Byte) (k : Taken), takenOp s t.toNat slot.toNat 3 = some k → h.length = 256 →
    let c := leAt k.block 8 8
    exec (.loadImage t slot h) s = .next (
      if tenValid s t.toNat = false ∨ tenSuspend s t.toNat = true ∨ 1199 < c ∨ ownerOf s c ≠ some t.toNat then refuseMbx s t.toNat slot.toNat 3
      else if tenGroveOk s t.toNat = false then refuseMbx s t.toNat slot.toNat 0x0D
      else if 4 < leAt h 0x0B 1 ∨ (tenKeyMask s t.toNat).testBit (leAt h 0x0B 1) = false then refuseMbx s t.toNat slot.toNat 0x0E
      else if (getOwner s c).felled = true then answerMbx s t.toNat slot.toNat 0x11#32 0x11 3
      else if (getCore s c).grv.load ≠ none ∨ (getCore s c).grv.blanking ≠ none then s
      else beginImage (modTaken s t.toNat slot.toNat fun k => { k with started := true, ending := [c] }) c (leAt k.block 24 8))) ∧
  (∀ (s : State) (c len : Nat), ∃ h lo hi, h < 4 ∧ beginImage s c len =
    startLoad (modCore { s with free := s.free + 3 } c fun k => setKReg (setKReg k 11 (0x48 + 8 * h) lo) 11 (0x4C + 8 * h) hi) c h (min len 131071))

/-! Queues (R156 to R186). -/

/-- A doorbell takes effect when ((tail − DONE) mod 65,536) is at most the ring size and ((ISSUE − DONE) mod 65,536) at most ((tail − DONE) mod 65,536). TAIL then becomes the value written, and a core in DOZE, SLEEP or SHUT begins to wake; otherwise TAIL is unchanged and counter 1 of the CQ page counts the write. No other queue and no other core changes. (A core that is awake; where it sleeps, its power state changes as a wake by the doorbell has it.) -/
def Obligations.DoorbellRule : Prop :=
  ∀ (s u : State) (p : Port) (c : CoreId) (q : QueueId) (t : BitVec 16), reaches s p (.core c 0) (0x40 + 4 * qIdx q) u → (getOwner s c.val).felled = false →
    let k := getCore u c.val
    let x := getQ k q
    let takes := (t.toNat + 65536 - x.done) % 65536 ≤ 2 ^ ringLog k q ∧ (x.issue + 65536 - x.done) % 65536 ≤ (t.toNat + 65536 - x.done) % 65536
    (∃ v, exec (.doorbell p c q t) s = .next v ∧ onlyCore u v c.val ∧ (∀ r, r ≠ q → getQ (getCore v c.val) r = getQ k r) ∧
      (takes → getQ (getCore v c.val) q = { x with tail := t.toNat } ∧ (kPage (getCore v c.val) 0).cnt = (kPage k 0).cnt) ∧
      (¬ takes → getQ (getCore v c.val) q = x ∧ (kPage (getCore v c.val) 0).cnt = (bump (kPage k 0) 1 1).cnt)) ∧
    (takes → k.pwr.st = .active → k.pwr.descending = none →
      exec (.doorbell p c q t) s = .next (putCore u c.val (noteWork (putQ k q { x with tail := t.toNat }) u.now))) ∧
    (takes → k.pwr.st = .doze ∨ k.pwr.st = .sleep ∨ k.pwr.st = .shut → k.pwr.waking = none → k.pwr.descending = none →
      ∃ v, exec (.doorbell p c q t) s = .next v ∧ onlyCore u v c.val ∧ (getQ (getCore v c.val) q) = { x with tail := t.toNat } ∧
        (∀ r, r ≠ q → getQ (getCore v c.val) r = getQ k r) ∧ (getCore v c.val).spd = k.spd ∧ (getCore v c.val).pwr.waking = some .active ∧
        (getCore v c.val).pwr.lastWake = 1 ∧
        (getCore v c.val).pwr.deadline = u.now + (if k.pwr.st = .doze then 40 else if k.pwr.st = .sleep then 3400 else 34000)) ∧
    (¬ takes → notDozing k →
      exec (.doorbell p c q t) s = .next (putCore u c.val (modKPage k 0 fun g => bump g 1 1)))

/-- What a queue's fetch brings (R139, R157, R160, R161, R168, R184, R221, R234). The entry of ring index i lies at the ring's base + (i mod 2^LOG2SIZE) x 64, a fallback at FBBASE + FBLINK x 64, context n at its table's base + n x 128, group g at base + g x 256. A good entry enters the buffer; one with a bad CRC records E_DESC_CRC and is fetched again while tries are left, then it is kept as bad, and as the head with nothing in flight it halts the queue; contexts, groups and early fallbacks join their entry; a translation fault sets the queue to FAULT with E_PAGE_FAULT and records it. What the queue does not want any more is discarded. A ring size outside 4 to 16 halts the queue with E_DESC_CRC. -/
def Obligations.DescriptorFetches : Prop :=
  (∀ (k : Core) (q : QueueId) (i : Nat),
    wantAddr k q (.entry i) = (kReg k 0 (qBlock q) / 64 * 64 + fld (kReg k 0 (qBlock q + 4)) 0 12 * 2 ^ 32 + i % 2 ^ ringLog k q * 64, 64) ∧
    (∀ b, (getQ k q).fb = some b →
      wantAddr k q (.fallback i) = (kReg k 0 (qBlock q + 8) / 64 * 64 + fld (kReg k 0 (qBlock q + 12)) 0 12 * 2 ^ 32 + leAt b.orig.raw 0x0A 2 * 64, 64)) ∧
    ∀ e, fetchedAt (getQ k q) i = some e →
      wantAddr k q (.early i) = (kReg k 0 (qBlock q + 8) / 64 * 64 + fld (kReg k 0 (qBlock q + 12)) 0 12 * 2 ^ 32 + leAt e.raw 0x0A 2 * 64, 64) ∧
      wantAddr k q (.context i) = (kReg k 6 0x40 / 4096 * 4096 + fld (kReg k 6 0x44) 0 12 * 2 ^ 32 + leAt e.raw 0x10 2 % 1024 * 128, 128) ∧
      wantAddr k q (.group i) = (kReg k 6 0x48 / 4096 * 4096 + fld (kReg k 6 0x4C) 0 12 * 2 ^ 32 + leAt e.raw 0x20 2 * 256, 256)) ∧
  (∀ (s : State) (c : CoreId) (q : QueueId) (f : Fetch), (getQ (getCore s c.val) q).mode = .run → (getOwner s c.val).felled = false →
    ((getCore s c.val).skd.fetches.find? fun f => f.q == q && f.kind.ofQueue && f.result.isSome) = some f →
    let k0 := getCore s c.val
    let k := { k0 with skd := { k0.skd with fetches := k0.skd.fetches.filter fun g => g.n ≠ f.n } }
    let x := getQ k q
    (nextWant k0 q ≠ some f.kind → exec (.descriptorFetch c q) s = .next (putCore s c.val k)) ∧
    (nextWant k0 q = some f.kind →
      (∀ (i : Nat) (d : List Byte), f.kind = .entry i → f.stage = .here d → leAt d 0x3C 4 = crc32c (d.take 0x3C) →
        exec (.descriptorFetch c q) s = .next (putCore s c.val (putQ k q { x with buf := x.buf ++ [{ idx := i, raw := d, ok := true }], fetchTries := 0 }))) ∧
      (∀ (i : Nat) (d : List Byte), f.kind = .entry i → f.stage = .here d → leAt d 0x3C 4 ≠ crc32c (d.take 0x3C) →
        let r := fun esc : Bool => ({ code := 3, cls := 1, page := 0, queue := qIdx q, attempt := min 8 (x.fetchTries + 1), ringidx := i, esc := esc } : ErrRec)
        (x.fetchTries + 1 ≤ fld (kReg k 13 0x40) 0 3 →
          exec (.descriptorFetch c q) s = .next (modCore (coreErr (putCore s c.val k) c.val (r false)) c.val
            fun k => modKPage (putQ k q { getQ k q with fetchTries := x.fetchTries + 1 }) 0 fun g => bump g 2 1)) ∧
        (fld (kReg k 13 0x40) 0 3 < x.fetchTries + 1 → i = x.issue → x.issue ≠ x.tail → fetchedAt x i = none → x.flights = [] → x.fb = none →
          ∃ u, exec (.descriptorFetch c q) s = .next u ∧ (getQ (getCore u c.val) q).mode = .halted 3)) ∧
      (∀ (i : Nat) (d : List Byte), f.kind = .context i → f.stage = .here d →
        exec (.descriptorFetch c q) s = .next (putCore s c.val (putQ k q { x with buf := x.buf.map fun e => if e.idx = i then { e with ctx := some d } else e }))) ∧
      (∀ (i : Nat) (d : List Byte), f.kind = .group i → f.stage = .here d →
        exec (.descriptorFetch c q) s = .next (putCore s c.val (putQ k q { x with buf := x.buf.map fun e => if e.idx = i then { e with group := some d } else e }))) ∧
      (∀ (i : Nat) (d : List Byte), f.kind = .early i → f.stage = .here d →
        exec (.descriptorFetch c q) s = .next (putCore s c.val (putQ k q { x with buf := x.buf.map fun e => if e.idx = i then { e with fb := some d } else e }))) ∧
      (∀ (i : Nat) (d : List Byte) (b : Fallback), f.kind = .fallback i → f.stage = .here d → x.fb = some b → leAt d 0x3C 4 = crc32c (d.take 0x3C) →
        exec (.descriptorFetch c q) s = .next (putCore s c.val (putQ k q { x with fb := some { b with entry := some d, fetchTries := 0 } }))) ∧
      (∀ i code : Nat, f.kind = .entry i ∨ f.kind = .context i ∨ f.kind = .group i ∨ f.kind = .fallback i → f.stage = .faulted code →
        exec (.descriptorFetch c q) s = .next (coreErr (putCore s c.val (putQ k q { x with mode := .fault 5 })) c.val
          { code := 5, cls := 1, page := 0, queue := qIdx q, ringidx := i })))) ∧
  (∀ (s : State) (c : CoreId) (q : QueueId) (i : Nat), (getQ (getCore s c.val) q).mode = .run → (getOwner s c.val).felled = false →
    (getCore s c.val).skd.fetches = [] → (getQ (getCore s c.val) q).fb = none → nextFetch (getQ (getCore s c.val) q) = some i → fetchRoom (getQ (getCore s c.val) q) i = true →
    ¬ (4 ≤ ringLog (getCore s c.val) q ∧ ringLog (getCore s c.val) q ≤ 16) →
    ∃ u, exec (.descriptorFetch c q) s = .next u ∧ (getQ (getCore u c.val) q).mode = .halted 3)

/-- STOP, RESUME, SKIP and FLUSH written to CQ_qCTL, on a core that does not doze, ahead of the other events of their cycle. STOP sets the bit, and the queue reads STOPPED once nothing is in flight. RESUME sets a halted queue running with a fresh retry count, and a faulted one fetching again; a running one ignores it and CQ counter 7 counts. FLUSH sets ISSUE and DONE to TAIL and drops every loop, fetched entry, fetch and wait, where the queue is halted, faulted or stopped with nothing in flight; elsewhere it counts. SKIP of a queue that is not halted counts; of a halted one it moves ISSUE past the head and sets the queue running. Nothing else changes. Ageing. A queue whose head's waits were met, and which another queue has kept back from them, goes first 16 cycles after it was first refused; a bank request that has lost for as long goes first at its bank. Nothing else changes. -/
def Obligations.QueueControls : Prop :=
  (∀ (s w : State) (p : Port) (c : CoreId) (q : QueueId), reaches s p (.core c 0) (qBlock q + 0x18) w →
    let u := inOrder w c.val 0
    let k := getCore u c.val
    let x := getQ k q
    notDozing k →
    exec (.queueStop p c q) s = .next (putCore u c.val (putQ k q { x with stop := true })) ∧
    (∀ code, x.mode = .halted code → exec (.queueResume p c q) s = .next (putCore u c.val (putQ k q
      { x with mode := .run, retries := 0, refetched := [], waitRefetch := [], fetchTries := 0 }))) ∧
    (∀ code, x.mode = .fault code → exec (.queueResume p c q) s = .next (putCore u c.val (putQ k q { x with mode := .run, fetchTries := 0 }))) ∧
    (x.mode = .run → exec (.queueResume p c q) s = .next (putCore u c.val (modKPage k 0 fun g => bump g 7 1)) ∧
      exec (.queueSkip p c q) s = .next (settleHead (putCore u c.val (modKPage k 0 fun g => bump g 7 1)) c.val q)) ∧
    (x.flights = [] → x.fb = none → x.mode ≠ .run ∨ x.stop = true → exec (.queueFlush p c q) s = .next (putCore u c.val
      { putQ k q { x with
          waitOn := [], issue := x.tail, done := x.tail, loops := [], buf := [], retries := 0, skipWaits := 0, seeds := [], mode := .run
          refetched := [], waitRefetch := [], fetchTries := 0 } with
        skd := { k.skd with fetches := k.skd.fetches.filter fun f => !(f.q == q && f.kind.ofQueue) } })) ∧
    (x.mode ≠ .run → ∃ v, exec (.queueFlush p c q) s = .next v ∧ onlyCore { u with outbox := v.outbox } v c.val ∧
      let y := getQ (getCore v c.val) q
      y.mode = .run ∧ y.flights = [] ∧ y.fb = none ∧ y.buf = [] ∧ y.loops = [] ∧ y.issue = x.tail ∧ y.done = x.tail ∧ y.tail = x.tail ∧
        ∀ r, r ≠ q → getQ (getCore v c.val) r = getQ k r) ∧
    (x.mode = .run → ¬ (x.stop = true ∧ inFlight x = 0) → exec (.queueFlush p c q) s = .next (putCore u c.val (modKPage k 0 fun g => bump g 7 1))) ∧
    (∀ code, x.mode = .halted code → x.loops = [] → x.flights = [] → (∀ e, fetchedAt x x.issue = some e → opOf e.raw ≠ 1) →
      x.buf = x.buf.filter (fun e => e.ok) →
      ∃ v, exec (.queueSkip p c q) s = .next v ∧ onlyCore u v c.val ∧ (getCore v c.val).spd = k.spd ∧ (∀ r, r ≠ q → getQ (getCore v c.val) r = getQ k r) ∧
        let y := getQ (getCore v c.val) q
        y.mode = .run ∧ y.issue = (x.issue + 1) % 65536 ∧ y.done = (x.issue + 1) % 65536 ∧ y.retries = 0 ∧ y.tail = x.tail)) ∧
  (∀ (s : State) (c : CoreId) (q : QueueId), (getQ (getCore s c.val) q).stop = true → inFlight (getQ (getCore s c.val) q) = 0 →
    exec (.queueStopped c q) s = .next (putCore s c.val (putQ (getCore s c.val) q { getQ (getCore s c.val) q with stoppedSeen := true }))) ∧
  (∀ (s : State) (c : CoreId) (q : QueueId) (t : Nat), (getQ (getCore s c.val) q).refused = some t →
    let u := atLeast s (t + 16)
    (getQ (getCore u c.val) q).refused = some t →
    exec (.queueWaitAged c q) s = .next (putCore u c.val (putQ (getCore u c.val) q { getQ (getCore u c.val) q with aged := true }))) ∧
  (∀ (s : State) (c : CoreId) (b : Fin 48) (n : Fin 7), ∃ m, exec (.bankRequestAged c b n) s = .next (putCore s c.val { getCore s c.val with
      bankAged := fset (getCore s c.val).bankAged b.val m }) ∧ m = fget (getCore s c.val).bankAged b.val 0 ||| 2 ^ n.val)

/-- A semaphore's ADD: the count takes the sum; a sum above 65,535 leaves it at 65,535, sets the semaphore's bit of SEMA_OVF, and SEMA counter 2 counts it. No other semaphore, no other page and no other core changes; a changed count wakes a core in DOZE. An ADD takes effect behind the register writes and ahead of the completions of its cycle (R175). -/
def Obligations.SemaphoreAdd : Prop :=
  (∀ (k : Core) (as : List SemAmt) (n : Nat), (∀ a ∈ as, a.sem < 32) → n < 32 →
    let sum := ((as.filter fun a => a.sem = n).map (·.amt)).sum
    let k' := as.foldl signal k
    semGet k' n = min 65535 (semGet k n + sum) ∧ (kReg k' 1 0xC4).testBit n = ((kReg k 1 0xC4).testBit n || decide (65535 < semGet k n + sum)) ∧
    (∀ q, getQ k' q = getQ k q) ∧ k'.err = k.err) ∧
  (∀ (s w : State) (p : Port) (c : CoreId) (n : SemId) (a : BitVec 16), reaches s p (.core c 1) 0xC0 w →
    let u := inOrder w c.val 1
    notDozing (getCore u c.val) →
    ∃ v, exec (.semaAdd p c n a) s = .next v ∧ onlyCore u v c.val ∧
      let k := getCore u c.val
      let k' := getCore v c.val
      semGet k' n.val = min 65535 (semGet k n.val + a.toNat) ∧
      (∀ m, m ≠ n.val → m < 32 → semGet k' m = semGet k m) ∧
      (kReg k' 1 0xC4 = if 65535 < semGet k n.val + a.toNat then kReg k 1 0xC4 ||| 2 ^ n.val else kReg k 1 0xC4) ∧
      (kPage k' 1).cnt = (if 65535 < semGet k n.val + a.toNat then (bump (kPage k 1) 2 1).cnt else (kPage k 1).cnt) ∧
      k' = { k with pages := k'.pages } ∧ ∀ j, j ≠ 1 → kPage k' j = kPage k j)


/-! Descriptors (R138 to R186). -/

/-- An issue window: the waits' amounts leave their semaphores (unless a reissue or FIRSTONLY skips them, or the descriptor fails before them), ISSUE and the loops move on, past a skipped body too, the descriptor joins the end of the flights with its ring index, its attempt, its loops and its signals, and retries and skipped waits count down; the window closes 4, 8 or 16 cycles later. The scratchpad and the other semaphores stay, and of the other queues all but the cycle in which their waits were first refused. -/
def Obligations.IssueWindowEffect : Prop :=
  ∀ (k : Core) (q : QueueId) (e : Fetched) (f : Flight) (take : Bool) (skip now : Nat),
    let x := getQ k q
    let y := openWindow k q e f take skip now
    let a := advance x.loops ((x.issue + 1 + skip) % 65536)
    let own := if flagOf e.raw 5 ∧ ¬ lastIter x.loops then [] else sigsOf e.raw
    getQ y q = { x with
      issue := a.2.1, loops := a.1, retries := 0, skipWaits := x.skipWaits - 1, seeds := x.seeds.drop 1, aged := false, refused := none, stoppedSeen := false, waitOn := []
      winEnd := now + windowOf q f.raw
      flights := x.flights ++ [{ f with
        idx := x.issue, loops := x.loops, attempt := x.retries + 1, opened := now, waited := take || x.skipWaits ≠ 0
        sigs := if f.isLoop then [] else own
        endSigs := if skip = 0 then a.2.2 else own ++ a.2.2, doneTo := if a.1 = [] then some a.2.1 else none }] } ∧
    (∀ r, r ≠ q → getQ y r = { getQ k r with refused := (getQ y r).refused }) ∧ y.spd = k.spd ∧
    (∀ n, n < 32 → semGet y n = semGet k n - (if take = true ∧ takesWaits x e.raw = true then (((waitsOf e.raw).filter fun w => w.sem = n).map (·.amt)).sum else 0)) ∧
    (∀ j, j ≠ 1 → kPage y j = kPage k j) ∧
    (windowOf q f.raw = 4 ∨ windowOf q f.raw = 8 ∨ windowOf q f.raw = 16)

/-- The control descriptors, at the head of a queue whose waits are met. Their windows open in the first cycle in which they may: after the queue's last one has closed, in the order of the queues within a cycle. A legal NOP, on a core with nothing else in flight, completes at the end of its window with no effect but its signals. SETREG writes its registers in entry order and no other register of the CQ page. A LOOP with count 0 skips its body; with a count above 0 it makes its body the innermost loop, in its first iteration. A control descriptor that breaks a rule of its own, and a descriptor whose opcode is unlisted or not one of its queue, fails in its window with E_DESC_CRC, a LOOP with a bad body with E_LOOP_NEST. -/
def Obligations.ControlDescriptors : Prop :=
  ∀ (s : State) (c : CoreId) (q : QueueId) (e : Fetched), readyControl s c.val q = some e → (getQ (getCore s c.val) q).fb = none →
    let k0 := getCore s c.val
    let x := getQ k0 q
    let s1 := inOrder (atLeast s x.winEnd) c.val (rankIssue k0 q)
    let k := cruiseYield (getCore s1 c.val)
    let dead := fun code : Nat => Host.Outcome.next (putCore s1 c.val (openWindow k q e { idx := 0, raw := e.raw, work := .failed code 0#32 0 } true 0 s1.now))
    (opOf e.raw = 0 → nopLegal e.raw = true → (∀ r, (getQ k0 r).flights = []) → x.loops = [] →
      ∃ u, exec (.nop c q) s = .next u ∧ (∀ r, r ≠ q → (getQ (getCore u c.val) r).flights = []) ∧
        let y := getQ (getCore u c.val) q
        y.issue = (x.issue + 1) % 65536 ∧ y.done = (x.issue + 1) % 65536 ∧ y.flights = [] ∧ y.tail = x.tail ∧ y.mode = .run) ∧
    (∀ ws, opOf e.raw = 2 → setregWrites e.raw = some ws → headerLegal e.raw false = true → zeroAt e.raw 0xC 4 = true → zeroAt e.raw 0x30 12 = true →
      (∀ r, (getQ k0 r).flights = []) → x.loops = [] →
      ∃ u, exec (.setreg c q) s = .next u ∧ (∀ r, r ≠ q → (getQ (getCore u c.val) r).flights = []) ∧
        (∀ off, kReg (getCore u c.val) 0 off = kReg (ws.foldl (fun k w => setKReg k 0 ((if w.shp then 0x120 else 0x100) + 4 * w.idx) w.val) k0) 0 off) ∧
        let y := getQ (getCore u c.val) q
        y.issue = (x.issue + 1) % 65536 ∧ y.done = (x.issue + 1) % 65536 ∧ y.flights = []) ∧
    (∀ body, opOf e.raw = 1 → loopLegal e.raw = true → 1 ≤ leAt e.raw 0x11 1 → leAt e.raw 0x11 1 ≤ 32 → loopBody x x.issue (leAt e.raw 0x11 1) = some body →
      loopStructOk x x.issue (leAt e.raw 0x11 1) (loopAdvs e.raw) body = true → loopAdvsOk x.issue (loopAdvs e.raw) body = true →
      let len := leAt e.raw 0x11 1
      let n := if (leAt e.raw 0x10 1).testBit 7 then leAt e.raw 0x12 2 else kReg k0 0 (0x100 + 4 * fld (leAt e.raw 0x10 1) 0 3) % 65536
      (0 < n → ∃ u, exec (.loop c q) s = .next u ∧ onlyCore s1 u c.val ∧ (getCore u c.val).spd = k.spd ∧
        (∀ r, r ≠ q → getQ (getCore u c.val) r = { getQ k r with refused := (getQ (getCore u c.val) r).refused }) ∧
        (getQ (getCore u c.val) q).issue = (x.issue + 1) % 65536 ∧
        (getQ (getCore u c.val) q).loops = { start := x.issue, len := len, count := n, iter := 0, advs := loopAdvs e.raw, sigs := ownSigs x.loops e.raw } :: x.loops) ∧
      (n = 0 → x.loops = [] → ∃ u, exec (.loop c q) s = .next u ∧
        (getQ (getCore u c.val) q).issue = (x.issue + 1 + len) % 65536 ∧ (getQ (getCore u c.val) q).loops = [])) ∧
    (opOf e.raw = 0 → nopLegal e.raw = false → exec (.nop c q) s = dead 3) ∧
    (opOf e.raw = 2 → setregWrites e.raw = none → exec (.setreg c q) s = dead 3) ∧
    (∀ body, opOf e.raw = 1 → loopBody x x.issue (bodyLen e.raw) = some body →
      (loopLegal e.raw = false → exec (.loop c q) s = dead 3) ∧
      (loopLegal e.raw = true → leAt e.raw 0x11 1 = 0 ∨ 32 < leAt e.raw 0x11 1 → exec (.loop c q) s = dead 0x10)) ∧
    (opAllowed q (opOf e.raw) = false → exec (.illegalOpcode c q) s = dead 3)

/-- The data descriptors of MXQ, VXQ, SKQ and UPQ that work in the scratchpad, at the head of their queue: issue, and the work that follows. One that reads or writes a segment that is off fails with E_SEGMENT_OFF before its semaphores are looked at. One that finds its waits unmet changes nothing; one that finds an input slot that is not FULL, or an output slot that is not EMPTY and unpinned, waits and changes no slot. Otherwise its window opens: its input slots are pinned, its output slots are taken, one that works in place takes its slots from FULL, unpinned; the tag of every slot that it does not name stays; it fails there with the code of the first check of R182 that it breaks, else it begins its work. In the cycle of a write of that work each byte takes what the last write of that cycle gives it and every other byte stays; in the cycle of a read the bytes join what the descriptor has read. MVFILL and MVCOPY: what they write. A legal MVFILL of n rows writes its pattern into every word of the n × 32 bytes from DST on, a legal MVCOPY the bytes that it read from SRC on; an extent of 0 is a null completion. -/
def Obligations.DataDescriptorsIssue : Prop :=
  (∀ (s : State) (c : CoreId) (i : Instr) (q : QueueId) (op : Nat) (plan : Core → List LoopFrame → List Byte → Fetched → Plan) (e : Fetched),
    (i, q, op, plan) ∈ ([(.mxmul c, .mxq, 0x10, mxPlan), (.mxconv c, .mxq, 0x11, mxPlan), (.velt c, .vxq, 0x20, vPlan (vDesc 0x20)), (.vred c, .vxq, 0x21, vPlan (vDesc 0x21)),
      (.vsoftmax c, .vxq, 0x22, vPlan (vDesc 0x22)), (.vnorm c, .vxq, 0x23, vPlan (vDesc 0x23)), (.vquant c, .vxq, 0x24, qPlan), (.vdequant c, .vxq, 0x25, qPlan),
      (.vsample c, .vxq, 0x26, vPlan (vDesc 0x26)), (.vrand c, .vxq, 0x27, vPlan (vDesc 0x27)), (.mvfill c, .skq, 0x31, mvfillPlan), (.mvcopy c, .skq, 0x32, mvcopyPlan),
      (.upstep c, .upq, 0x40, uPlan)] : List (Instr × QueueId × Nat × (Core → List LoopFrame → List Byte → Fetched → Plan))) →
    readyHead s c.val q = some e → opOf e.raw = op → (getQ (getCore s c.val) q).fb = none →
    let k := getCore s c.val
    let x := getQ k q
    let raw := effective x.loops x.issue e.raw
    let p := plan k x.loops raw e
    let all := p.ins ++ p.outs ++ trecRegion raw
    let u := slotUse k p raw
    let s1 := inOrder (atLeast s x.winEnd) c.val (rankIssue k q)
    let k1 := cruiseYield (getCore s1 c.val)
    (touchesOff k all = true →
      ∃ v f, exec i s = .next v ∧ onlyCore s1 v c.val ∧ (getQ (getCore v c.val) q).flights = (getQ k1 q).flights ++ [f] ∧ f.raw = raw ∧ f.work = .failed 0x0E 0#32 5 ∧
        (∀ n, n < 32 → semGet (getCore v c.val) n = semGet k1 n)) ∧
    (touchesOff k all = false → semsReady k q e = false ∨ p.holds = true → exec i s = .next s) ∧
    (touchesOff k all = false → semsReady k q e = true → p.holds = false →
      (¬ (u.ins.all (mayRead k) = true ∧ u.outs.all (mayTake k) = true ∧ u.acc.all (mayTakeInplace k) = true) →
        ∃ v, exec i s = .next v ∧ onlyCore s v c.val ∧ (getCore v c.val).spd = k.spd ∧ (getQ (getCore v c.val) q).flights = x.flights ∧ (getQ (getCore v c.val) q).issue = x.issue) ∧
      (u.ins.all (mayRead k) = true → u.outs.all (mayTake k) = true → u.acc.all (mayTakeInplace k) = true →
        ∃ v f, exec i s = .next v ∧ onlyCore s1 v c.val ∧ (getQ (getCore v c.val) q).flights = (getQ k1 q).flights ++ [f] ∧
          f.idx = (getQ k1 q).issue ∧ f.raw = raw ∧ f.loops = (getQ k1 q).loops ∧ f.ocnt = ocntOf raw ∧
          f.pins = taggedOf k1 u.ins ∧ f.held = taggedOf k1 u.outs ∧ f.inplace = taggedOf k1 u.acc ∧
          (∀ err, windowFail k1 q p u raw = some err → f.work = .failed err.code err.detail err.page) ∧
          (windowFail k1 q p u raw = none → f.work = .running ∧ f.null = p.null ∧ (p.null = true → f.ends = s1.now + windowOf q raw)) ∧
          (∀ n, n ∉ u.ins → n ∉ u.outs → n ∉ u.acc → tagOf (getCore v c.val) n = tagOf k1 n) ∧
          (∀ n ∈ u.outs ++ u.acc, untagged k1 n = false → (tagOf (getCore v c.val) n).st = .held ∧ (tagOf (getCore v c.val) n).owner = .queue q) ∧
          (∀ n ∈ u.ins, untagged k1 n = false → n ∉ u.outs → n ∉ u.acc →
            (tagOf (getCore v c.val) n).rdpin = (tagOf k1 n).rdpin + 1 ∧ (tagOf (getCore v c.val) n).st = (tagOf k1 n).st) ∧
          ∀ a, byteKept k1 (getCore v c.val) a))) ∧
  (∀ (k : Core) (q : QueueId) (n : Nat) (f : Flight) (e : Ev), (getQ k q).flights[n]? = some f →
    (e.act = .write → k.spd.bad = [] →
      let k' := runEv k q n f e
      let ws := (workOf k { f with todo := f.todo.drop 1 }).writes.filter fun w => f.start + f.load + w.step = e.cyc
      (∀ a b, lastWrite ws a = some b → memGet k'.spd.mem a = b) ∧ (∀ a, lastWrite ws a = none → byteKept k k' a) ∧ k'.spd.tags = k.spd.tags ∧
        ∃ g, (getQ k' q).flights[n]? = some g ∧ g.wrote = true ∧ g.work = f.work) ∧
    (∀ rs, e.act = .read rs → badInRegions (flushRegions k rs) rs = none →
      let k' := runEv k q n f e
      (∀ a, byteKept k k' a) ∧ k'.spd.tags = k.spd.tags ∧
        ∃ g, (getQ k' q).flights[n]? = some g ∧ g.work = f.work ∧ ∀ r ∈ rs, ∀ a, r.off ≤ a → a < r.off + r.len → memGet g.img a = memGet k'.spd.mem a) ∧
    (∀ rs w, e.act = .read rs → badInRegions (flushRegions k rs) rs = some w →
      ∃ g, (getQ (runEv k q n f e) q).flights[n]? = some g ∧ g.todo = [] ∧ g.work = .failed 1 (addrDetail w) 5)) ∧
  (∀ (k k' : Core) (loops : List LoopFrame) (raw : List Byte) (e : Fetched), raw.length = 64 → opOf raw = 0x31 →
    let p := mvfillPlan k loops raw e
    let n := extValue k loops (leAt raw 0x14 2)
    p.ins = [] ∧ (p.null = true ↔ n = 0) ∧ ∀ i, i < 32 * n → lastWrite (moveWork k' raw n).writes (leAt raw 0x10 3 + i) = raw[0x18 + i % 4]?.getD 0#8) ∧
  (∀ (k k' : Core) (loops : List LoopFrame) (raw : List Byte) (e : Fetched), opOf raw = 0x32 →
    let p := mvcopyPlan k loops raw e
    let n := extValue k loops (leAt raw 0x18 2)
    (p.null = true ↔ n = 0) ∧ ∀ i, i < 32 * n → lastWrite (moveWork k' raw n).writes (leAt raw 0x14 3 + i) = memGet k'.spd.mem (leAt raw 0x10 3 + i))

/-- Completion of the oldest descriptor of a queue, in the first cycle in which it may (not a fallback, with no history push, its slots tagged and distinct, those that it consumes FULL with a count left): its output slots become FULL with OCNT, its input slots lose its pin, a consumed slot loses one count and becomes EMPTY at the last one, and a slot that it does not name keeps its tag; every byte stays but those of its tally record; its signals are added; DONE moves and the descriptor leaves the flights. A null completion does the same and is counted in CQ counter 4. -/
def Obligations.CompletionEffect : Prop :=
  ∀ (s : State) (c : CoreId) (q : QueueId) (f : Flight),
    let s1 := untilEnd s c.val q
    let s2 := inOrder s1 c.val (rankDone q)
    let k := getCore s2 c.val
    (getQ (getCore s1 c.val) q).flights.head? = some f → (∀ g ∈ (getQ k q).flights.drop 1, g.isLoop = false) →
    f.isLoop = false → f.work = .finished → f.clipFires = false → f.fallback = false → f.hist = [] → f.posts = [] → f.bumps = [] → f.regs = [] → f.inplace = [] → f.endSigs = [] →
    (∀ n ∈ f.held ++ f.pins ++ f.consume, untagged k n = false) → (f.held ++ f.pins).Nodup → f.consume.Nodup →
    (∀ n ∈ f.consume, n ∈ f.pins ∧ (tagOf k n).st = .full ∧ 0 < (tagOf k n).count) →
    (getQ k q).mode = .run → (∀ e ∈ (getQ k q).buf, e.ok = true) →
    ∃ u, exec (.descriptorComplete c q) s = (if f.null then .next (settleHead s1 c.val q) else .next u) ∧
      exec (.nullCompletion c q) s = (if f.null then .next u else .next (settleHead s1 c.val q)) ∧ onlyCore s2 u c.val ∧
      let k' := getCore u c.val
      (getQ k' q).flights = (getQ k q).flights.drop 1 ∧ (getQ k' q).done = f.doneTo.getD (getQ k q).done ∧ (getQ k' q).issue = (getQ k q).issue ∧
      (∀ n ∈ f.held, (tagOf k' n).st = .full ∧ (tagOf k' n).count = f.ocnt) ∧
      (∀ n ∈ f.pins, (tagOf k' n).rdpin = (tagOf k n).rdpin - 1 ∧
        (n ∉ f.consume → (tagOf k' n).st = (tagOf k n).st ∧ (tagOf k' n).count = (tagOf k n).count) ∧
        (n ∈ f.consume → if (tagOf k n).count = 1 then (tagOf k' n).st = .empty else (tagOf k' n).st = .full ∧ (tagOf k' n).count = (tagOf k n).count - 1)) ∧
      (∀ n, n ∉ f.held → n ∉ f.pins → tagOf k' n = tagOf k n) ∧
      (∀ a, (∀ o, f.tally = some o → a < o ∨ o + 64 ≤ a) → byteKept k k' a) ∧
      (∀ n, n < 32 → semGet k' n = min 65535 (semGet k n + ((f.sigs.filter fun w => w.sem = n).map (·.amt)).sum)) ∧
      (f.null = true → (kPage k' 0).cnt = (bump (bump (kPage k 0) 0 1) 4 1).cnt) ∧ (f.null = false → (kPage k' 0).cnt = (bump (kPage k 0) 0 1).cnt) ∧
      (∀ r, r ≠ q → getQ k' r = getQ k r)

/-- The failure of an issued descriptor, the oldest of its queue. With tries left, and a code that is retried, the queue goes on: ISSUE and the loops return to the descriptor, the descriptors issued after it are abandoned and counted, its output slots become EMPTY and its pins go. Without, the queue halts with the code, and the record is escalated. A residue mismatch fails an array pass at its step, with counter 7 of the MXA page and the resident record gone. -/
def Obligations.DescriptorFailures : Prop :=
  (∀ (s : State) (c : CoreId) (q : QueueId) (f : Flight) (later : List Flight) (code : Nat) (detail : Word) (page : Nat),
    let s1 := inOrder s c.val 7
    let k := getCore s1 c.val
    let x := getQ k q
    hasFailed (getQ (getCore s c.val) q) = true → x.flights = f :: later → f.work = .failed code detail page →
    f.fallback = false → x.fb = none → f.acc = false → (∀ g ∈ later, g.acc = false) → f.inplace = [] → f.dead = false → code = 2 ∨ code = 3 ∨ code = 0x0E → (∀ e ∈ x.buf, e.ok = true) →
    let tries := fld (kReg k 13 0x40) 0 3
    (f.attempt ≤ tries →
      ∃ u, exec (.descriptorFail c q) s = .next u ∧
        let k' := getCore u c.val
        let y := getQ k' q
        y.mode = x.mode ∧ y.issue = f.idx ∧ y.loops = f.loops ∧ y.flights = [] ∧ y.retries = f.attempt ∧
        y.skipWaits = (if f.waited then 1 else 0) + later.length + x.skipWaits ∧ y.tail = x.tail ∧ y.done = x.done ∧
        (code ≠ 3 → (kPage k' 0).cnt = (bump (kPage k 0) 6 later.length).cnt) ∧
        (later = [] → (∀ n ∈ f.held, untagged k n = false → (tagOf k n).st = .held → (tagOf k' n).st = .empty) ∧
          (f.pins.Nodup → ∀ n ∈ f.pins, untagged k n = false → (tagOf k' n).rdpin = (tagOf k n).rdpin - 1) ∧
          ∀ n, n ∉ f.held → n ∉ f.pins → tagOf k' n = tagOf k n) ∧
        (∀ d, d ≠ c.val → getCore u d = getCore s1 d)) ∧
    (tries < f.attempt → code = 3 ∨ code = 0x0E → ∃ u, exec (.descriptorFail c q) s = .next u ∧
        let y := getQ (getCore u c.val) q
        y.mode = .halted code ∧ y.issue = f.idx ∧ y.loops = f.loops ∧ y.flights = [] ∧ y.tail = x.tail ∧ y.done = x.done ∧
        (∀ d, d ≠ c.val → getCore u d = getCore s1 d))) ∧
  (∀ (s : State) (c : CoreId) (n stepNo : Nat) (tree : BitVec 8) (a : Pass) (r : Resident) (f g : Flight),
    let s1 := atLeast s ((((getCore s c.val).mxq.flights[n]?).map (·.start)).getD 0)
    let s2 := atLeast s1 (f.start + f.load + stepNo * f.stepLen)
    let k := getCore s2 c.val
    (getCore s1 c.val).mxq.flights[n]? = some f → f.run = .mx a r → stepNo < a.nv → k.mxq.flights[n]? = some g → g.opened = f.opened → g.lines = [] → g.isFailed = false →
    exec (.residueMismatch c n stepNo tree) s = .next (putCore s2 c.val { modKPage k 2 (fun p => bump p 7 1) with
      mxa := none
      mxq := { k.mxq with flights := modNth (fun _ => { g with work := .failed 2 (BitVec.ofNat 32 tree.toNat) 2, clipFires := false, todo := [], tail := [], lines := [] }) k.mxq.flights n } }))

/-- A clip test that fires on the oldest descriptor of its queue: it does not complete, the descriptors issued after it are abandoned and counted in CQ counter 6, ISSUE returns to the entry after it, QNT counter 3 counts it, and its fallback is called for: an entry that came with the descriptor is taken, else it is fetched. The fallback issues once its inputs can be read, in the original's place and with the outputs that the original holds (R186). -/
def Obligations.ClipTestFires : Prop :=
  (∀ (s : State) (c : CoreId) (q : QueueId) (f : Flight) (later : List Flight),
    let s1 := untilEnd s c.val q
    let s2 := inOrder s1 c.val (rankDone q)
    let k := getCore s2 c.val
    let x := getQ k q
    (getQ (getCore s1 c.val) q).flights = f :: later → f.clipFires = true → f.work = .finished → f.fallback = false → f.loops = [] → (∀ g ∈ later, g.acc = false) →
    ∃ u, exec (.clipTestFire c q) s = .next u ∧
      let y := { x with
        flights := [], issue := (f.idx + 1) % 65536, loops := [], waitOn := [], skipWaits := x.skipWaits + later.length, seeds := later.map (·.seed) ++ x.seeds
        fb := some { orig := { f with clipFires := false }, entry := none, tries := 0 } }
      ((∀ e, fetchedAt x f.idx = some e → e.fb = none) →
        onlyCore s2 u c.val ∧ getQ (getCore u c.val) q = y ∧ (later = [] → (getCore u c.val).spd = k.spd) ∧
        (kPage (getCore u c.val) 9).cnt = (bump (kPage k 9) 3 1).cnt ∧ (kPage (getCore u c.val) 0).cnt = (bump (kPage k 0) 6 later.length).cnt) ∧
      (∀ e d, fetchedAt x f.idx = some e → e.fb = some d → d.length = 64 → leAt d 0x3C 4 = crc32c (d.take 0x3C) →
        onlyCore s2 u c.val ∧ getQ (getCore u c.val) q = { y with fb := some { orig := { f with clipFires := false }, entry := some d, tries := 0 } })) ∧
  (∀ (s : State) (c : CoreId) (i : Instr) (q : QueueId) (op : Nat) (plan : Core → List LoopFrame → List Byte → Fetched → Plan) (b : Fallback) (d : List Byte),
    (i, q, op, plan) ∈ ([(.mxmul c, .mxq, 0x10, mxPlan), (.mxconv c, .mxq, 0x11, mxPlan), (.vquant c, .vxq, 0x24, qPlan)] :
      List (Instr × QueueId × Nat × (Core → List LoopFrame → List Byte → Fetched → Plan))) →
    let k := getCore s c.val
    let x := getQ k q
    x.fb = some b → b.entry = some d → opOf d = op → x.flights = [] → x.mode = .run → k.pwr.st = .active → (getOwner s c.val).felled = false → mayIssue s c.val q = true → x.waitRefetch = [] →
    let raw := fallbackRaw b d
    let p := plan k b.orig.loops raw { idx := b.orig.idx, raw := d, ok := true }
    let s1 := inOrder (atLeast s x.winEnd) c.val (rankIssue k q)
    fallbackLegal b.orig.raw raw = true → touchesOff k (p.ins ++ p.outs ++ trecRegion raw) = false → p.holds = false → (slotsOfAll p.ins).all (mayRead k) = true →
    ∃ v f, exec i s = .next v ∧ onlyCore s1 v c.val ∧ (getQ (getCore v c.val) q).flights = [f] ∧ f.fallback = true ∧ f.idx = b.orig.idx ∧ f.held = b.orig.held ∧ f.loops = b.orig.loops ∧
      (getQ (getCore v c.val) q).issue = (getQ (getCore s1 c.val) q).issue)

/-! The scratchpad (R189 to R215). -/

/-- On-chip arrivals, behind the other events of their cycle, that have reached a core that is not FELLED, in a segment that is up and inside the scratchpad, in a scratchpad without wrong parity. One that the slot's tag admits is written whole and acknowledged on channel 1: a SLOTSTART takes an EMPTY, unpinned slot, which becomes HELD by the arrival's source; a SLOTEND marker makes the slot FULL with the count it carries; no other tag changes, nor any byte outside the write. One that the tag does not admit writes nothing and changes no tag: E_TAG_PROTOCOL is recorded in the SPD page and the sender receives a NACK with it. -/
def Obligations.ArrivalRule : Prop :=
  ∀ (s s0 : State) (id : Nat) (f : Flit) (c : Nat), takeFlit s id = some (f, s0) → f.dst = .core c → f.hdr = none → (getOwner s0 c).felled = false →
    let s1 := inOrder (modCore s0 c fun k => noteWork (touchData k s.now) s.now) c 9
    f.kind = .arrival ∨ f.kind = .marker → f.off ≤ 0xBFFFF → f.off + f.data.length ≤ 0xC0000 → segUp (getCore s1 c) (f.off / 65536) = true → (getCore s1 c).spd.bad = [] →
    lockedSlot (getCore s1 c) (f.off / 1024) = false → untagged (getCore s1 c) (f.off / 1024) = false → 
    let k := getCore s1 c
    let n := f.off / 1024
    let t := tagOf k n
    let admits := if f.start then t.st = .empty ∧ t.rdpin = 0 else t.st = .held ∧ t.owner = .onchip ∧ t.src = f.core
    let back : Flit := { id := s1.nextFlit, vc := 1, src := f.dst, dst := .core f.core, route := routeOf (nodeXY f.dst) (nodeXY (.core f.core)), kind := .ack,
                         core := f.core, ctx := f.ctx, seq := f.seq, addr := f.addr }
    (admits → ∃ u, exec (.arrivalWrite id) s = .next u ∧ u.mesh = s1.mesh ++ [back] ∧ u.nextFlit = s1.nextFlit + 1 ∧
      (∀ d, d ≠ c → getCore u d = getCore s1 d) ∧
      (∀ m, m ≠ n → tagOf (getCore u c) m = tagOf k m) ∧
      (tagOf (getCore u c) n =
        if f.kind = .marker then { t with st := .full, count := f.ocnt, saved := 0, owner := .none, src := 0, backed := false }
        else if f.start then { t with st := .held, count := 0, saved := 0, owner := .onchip, src := f.core, fromChip := torusHere s, fromCore := f.core, fromCtx := f.ctx }
        else t) ∧
      (∀ a, a < f.off ∨ f.off + f.data.length ≤ a → byteKept k (getCore u c) a)) ∧
    (¬ admits → ∃ u, exec (.arrivalWrite id) s = .next u ∧ u.mesh = s1.mesh ++ [{ back with kind := .nack, code := 8 }] ∧
      (∀ d, d ≠ c → getCore u d = getCore s1 d) ∧ (getCore u c).spd = k.spd ∧
      (k.err.fifo.length < 16 → ∃ r ∈ (getCore u c).err.fifo, r.code = 8 ∧ r.page = 5 ∧ r.cls = 1))

/-- The gather buffer's own commands: GBFLUSH writes and frees every entry; an entry goes no later than 64 FCLK cycles after its allocation, and SPD counter 5 counts it. No tag changes, and no byte but those that the entries hold. -/
def Obligations.GatherBufferWrites : Prop :=
  (∀ (s u : State) (p : Port) (c : CoreId), reaches s p (.core c 5) 0x68 u →
    let k := getCore u c.val
    ∃ v, exec (.gbflush p c) s = .next v ∧ onlyCore u v c.val ∧ (getCore v c.val).spd.gather = [] ∧ (getCore v c.val).spd.tags = k.spd.tags ∧
      (∀ a, byteKept k (getCore v c.val) a) ∧ (getCore v c.val).pages = k.pages ∧
      ∀ g, k.spd.gather = [g] → ∀ i, i < 32 → memGet (getCore v c.val).spd.mem (32 * g.row + i) =
        if g.mask.testBit i then g.bytes[i]?.getD 0#8 else memGet k.spd.mem (32 * g.row + i)) ∧
  (∀ (s : State) (c : CoreId) (g : Gather) (l : List Gather), (getCore s c.val).spd.gather = g :: l →
    let u := atLeast s (g.since + 64)
    let k := getCore u c.val
    ((k.spd.gather.any fun e => e.row == g.row && e.since == g.since) = false → exec (.gatherTimeout c) s = .next (putCore u c.val k)) ∧
    ((k.spd.gather.any fun e => e.row == g.row && e.since == g.since) = true →
      ∃ v, exec (.gatherTimeout c) s = .next v ∧ onlyCore u v c.val ∧
        (getCore v c.val).spd.gather = k.spd.gather.filter (fun e => e.row ≠ g.row) ∧ (getCore v c.val).spd.tags = k.spd.tags ∧
        (∀ a, byteKept k (getCore v c.val) a) ∧ (kPage (getCore v c.val) 5).cnt = (bump (kPage k 5) 5 1).cnt))

/-- Segments. Clearing an ON bit while a slot of the segment is HELD or pinned leaves ON, sets the REFUSED bit, and SPD counter 8 counts it; otherwise the segment's bytes become 0, its slots lose their tags, its gather entries go, and nothing of another segment changes. Setting an ON bit starts the ramp, unless a tenant sets one that ALLOW does not name; zeroing begins 3,400 FCLK cycles later and takes 128 more at least, after which the segment is up with zeros and EMPTY slots. -/
def Obligations.SegmentPower : Prop :=
  (∀ (s u : State) (p : Port) (c : CoreId) (g : Fin 12), reaches s p (.core c 5) 0x50 u → segOn (getCore u c.val) g.val = true → segBusy (getCore u c.val) g.val = true →
    ∃ v, exec (.segmentPowerOff p c g) s = .next v ∧ onlyCore u v c.val ∧ (getCore v c.val).spd = (getCore u c.val).spd ∧
      segOn (getCore v c.val) g.val = true ∧ (kReg (getCore v c.val) 5 0x54).testBit (16 + g.val) = true ∧
      (kPage (getCore v c.val) 5).cnt = (bump (kPage (getCore u c.val) 5) 8 1).cnt) ∧
  (∀ (s u : State) (p : Port) (c : CoreId) (g : Fin 12), reaches s p (.core c 5) 0x50 u → segOn (getCore u c.val) g.val = true → segBusy (getCore u c.val) g.val = false →
    ∃ v, exec (.segmentPowerOff p c g) s = .next v ∧ onlyCore u v c.val ∧
      let k := getCore u c.val
      let k' := getCore v c.val
      segOn k' g.val = false ∧ segUp k' g.val = false ∧ (∀ h, h < 12 → h ≠ g.val → segOn k' h = segOn k h ∧ segUp k' h = segUp k h) ∧
      (∀ a, memGet k'.spd.mem a = if a / 65536 = g.val then 0#8 else memGet k.spd.mem a) ∧
      (∀ n, tagOf k' n = if n / 64 = g.val then {} else tagOf k n) ∧ k'.spd.gather = k.spd.gather.filter fun e => e.row / 2048 ≠ g.val) ∧
  (∀ (s u : State) (p : Port) (c : CoreId) (g : Fin 12), reaches s p (.core c 5) 0x50 u → segOn (getCore u c.val) g.val = false →
    (p = .mgmt ∨ segAllowed (getCore u c.val) g.val = true) →
    exec (.segmentPowerOn p c g) s = .next (putCore u c.val (
      let k := setKReg (getCore u c.val) 5 0x50 (kReg (getCore u c.val) 5 0x50 + 2 ^ g.val)
      { k with spd := { k.spd with segs := fset k.spd.segs g.val { phase := .ramping, since := u.now } } }))) ∧
  (∀ (s u : State) (p : Port) (c : CoreId) (g : Fin 12), reaches s p (.core c 5) 0x50 u → segOn (getCore u c.val) g.val = false → p ≠ .mgmt →
    segAllowed (getCore u c.val) g.val = false → exec (.segmentPowerOn p c g) s = .next (putCore u c.val (getCore u c.val))) ∧
  (∀ (s : State) (c : CoreId) (g : Fin 12) (n : Nat), fget (getCore s c.val).spd.segs g.val {} = { phase := .ramping, since := n } →
    let u := atLeast s (n + 3400)
    exec (.segmentSettled c g) s = .next (putCore u c.val { getCore u c.val with
      spd := { (getCore u c.val).spd with segs := fset (getCore u c.val).spd.segs g.val { phase := .zeroing, since := u.now } } }) ∧ n + 3400 ≤ u.now) ∧
  (∀ (s : State) (c : CoreId) (g : Fin 12) (n : Nat), fget (getCore s c.val).spd.segs g.val {} = { phase := .zeroing, since := n } →
    let u := atLeast s (n + 128)
    let k := getCore u c.val
    ∃ v, exec (.segmentUp c g) s = .next v ∧ onlyCore u v c.val ∧ n + 128 ≤ v.now ∧
      segUp (getCore v c.val) g.val = true ∧ (∀ h, h ≠ g.val → segUp (getCore v c.val) h = segUp k h) ∧
      (∀ a, memGet (getCore v c.val).spd.mem a = if a / 65536 = g.val then 0#8 else memGet k.spd.mem a) ∧
      (∀ m, tagOf (getCore v c.val) m = if m / 64 = g.val then {} else tagOf k m))

/-- Tag commands, in a core that has none in progress. A command begins in the cycle of its write; eight slots of its range are reached in each cycle after that. Every slot from FIRST to LAST that is not HELD, pinned, untagged or locked is changed: OP 1 makes it EMPTY, OP 2 FULL with COUNT, both with BACKED 0, OP 3 clears BACKED. Every other slot keeps its tag, and SPD counter 9 and SKIPPED count those of the range. No byte changes but those that gather entries hold. A command with FIRST above LAST, LAST above 767 or OP 2 with COUNT 0, or while one is in progress, changes nothing but counter 9. A command ends when its range is walked. A write of SPD_UTAGn: the register takes the range; a slot that becomes untagged or tagged by it loses its tag, and every descriptor in flight its tag effects on it; every other slot keeps its tag, and no byte changes but those that gather entries hold. -/
def Obligations.TagCommandsAndUntaggedRanges : Prop :=
  (∀ (s u : State) (p : Port) (c : CoreId) (a b : BitVec 10) (n : BitVec 4), reaches s p (.core c 5) 0x60 u →
    let k := getCore u c.val
    let begun := fun op count : Nat => Host.Outcome.next (putCore u c.val { k with
      spd := { k.spd with cmd := some { op := op, count := count, first := a.toNat, last := b.toNat, since := u.now, next := a.toNat }, skipped := 0 } })
    let ignored := Host.Outcome.next (putCore u c.val (modKPage k 5 fun g => bump g 9 1))
    (k.spd.cmd = none → a.toNat ≤ b.toNat → b.toNat ≤ 767 →
      exec (.tagcmdSetEmpty p c a b) s = begun 1 0 ∧ exec (.tagcmdClearBacked p c a b) s = begun 3 0 ∧
      (n ≠ 0#4 → exec (.tagcmdSetFull p c a b n) s = begun 2 n.toNat)) ∧
    (b.toNat < a.toNat ∨ 767 < b.toNat ∨ k.spd.cmd ≠ none →
      exec (.tagcmdSetEmpty p c a b) s = ignored ∧ exec (.tagcmdClearBacked p c a b) s = ignored ∧ exec (.tagcmdSetFull p c a b n) s = ignored) ∧
    (n = 0#4 → exec (.tagcmdSetFull p c a b n) s = ignored)) ∧
  (∀ (k : Core) (m : TagCmd) (t : Nat), notDozing k → k.spd.cmd = some m → m.next = m.first → m.first ≤ m.last → m.last ≤ 767 → m.op = 1 ∨ m.op = 2 ∨ m.op = 3 →
    m.last < m.first + 8 * (t - m.since) →
    let k' := tagTo k t
    (∀ n, tagOf k' n =
      if m.first ≤ n ∧ n ≤ m.last ∧ tagSkips k n = false then
        (if m.op = 1 then { tagOf k n with st := .empty, count := 0, backed := false }
         else if m.op = 2 then { tagOf k n with st := .full, count := m.count, backed := false } else { tagOf k n with backed := false })
      else tagOf k n) ∧
    (let skips := (((List.range (m.last + 1 - m.first)).map (m.first + ·)).filter (tagSkips k)).length
     k'.spd.skipped = k.spd.skipped + skips ∧ (kPage k' 5).cnt = (bump (kPage k 5) 9 skips).cnt) ∧
    (∀ x, byteKept k k' x)) ∧
  (∀ (s : State) (c : CoreId) (t : TagCmd), (getCore s c.val).spd.cmd = some t →
    let u := inOrder (atLeast s (t.since + (t.last + 8 - t.first) / 8)) c.val 8
    let k := tagTo (getCore u c.val) u.now
    exec (.tagcmdDone c) s = .next (putCore u c.val { k with spd := { k.spd with cmd := none } })) ∧
  (∀ (s u : State) (p : Port) (c : CoreId) (n : Fin 4) (v : Word), reaches s p (.core c 5) (0x40 + 4 * n.val) u → notDozing (getCore u c.val) →
    let k := getCore u c.val
    ∃ w, exec (.spdUtagWrite p c n v) s = .next w ∧ onlyCore u w c.val ∧
      let k' := getCore w c.val
      kReg k' 5 (0x40 + 4 * n.val) = (v &&& 0x83FF03FF#32).toNat ∧
      (∀ off, off ≠ 0x40 + 4 * n.val → kReg k' 5 off = kReg k 5 off) ∧
      (∀ m, m < 768 → untagged k' m = untagged k m → tagOf k' m = tagOf k m) ∧ (∀ m, m < 768 → untagged k' m ≠ untagged k m → tagOf k' m = {}) ∧
      (∀ q, ∀ f ∈ (getQ k' q).flights, ∀ m ∈ f.pins ++ f.held ++ f.inplace ++ f.consume, m < 768 → untagged k' m = untagged k m) ∧
      (∀ a, byteKept k k' a) ∧ ∀ j, j ≠ 5 → kPage k' j = kPage k j)

/-- Parity. Bits that flip in a word of a powered segment make its parity wrong when they are odd in number (the parity bit alone, where none is named), and right again the next time; a port read that meets it counts in SPD counter 3 and records E_PARITY in the SPD page; no other byte changes. A descriptor that meets it does so in the cycle of its next read of the word, where it fails with E_PARITY and reads nothing. One in a loop buffer records E_PARITY in the CQ page, and the entry is to be fetched again. A refetch of a BACKED slot: with its context and its bytes read, here one run, they lie in the slot again where the stream delivered them, and what waited goes on; one that met a fault halts each queue that waited with E_PARITY; one still under way goes on. The slot's tag stays. -/
def Obligations.ParityErrorsAndRefetches : Prop :=
  (∀ (s : State) (c : CoreId) (w : Fin 196608) (m : Word), (getOwner s c.val).felled = false → segUp (getCore s c.val) (w.val / 16384) = true →
    w.val ∉ (getCore s c.val).spd.bad → (m = 0#32 ∨ parityBit m.toNat = true) → 
    ∃ u, exec (.parityError c w m .port) s = .next u ∧ (∀ d, d ≠ c.val → getCore u d = getCore s d) ∧
      (∀ a, a / 4 ≠ w.val → memGet (getCore u c.val).spd.mem a = memGet (getCore s c.val).spd.mem a) ∧
      leNat (spdBytes (getCore u c.val) (4 * w.val) 4) = leNat (spdBytes (getCore s c.val) (4 * w.val) 4) ^^^ m.toNat ∧
      (getCore u c.val).spd.bad = w.val :: (getCore s c.val).spd.bad ∧ (getCore u c.val).spd.tags = (getCore s c.val).spd.tags ∧
      ((getCore s c.val).err.fifo.length < 16 → ∃ r ∈ (getCore u c.val).err.fifo, r.code = 1 ∧ r.page = 5 ∧ r.cls = 1)) ∧
  (∀ (s : State) (c : CoreId) (w : Fin 196608) (m : Word) (r : ParityReader), (∀ q i, r ≠ .loopBuffer q i) → (getOwner s c.val).felled = false →
    segUp (getCore s c.val) (w.val / 16384) = true → w.val ∉ (getCore s c.val).spd.bad → m ≠ 0#32 → parityBit m.toNat = false →
    ∃ u, exec (.parityError c w m r) s = .next u ∧ onlyCore s u c.val ∧ getCore u c.val = { getCore s c.val with spd := { (getCore s c.val).spd with mem := (getCore u c.val).spd.mem } } ∧
      ∀ a, a / 4 ≠ w.val → memGet (getCore u c.val).spd.mem a = memGet (getCore s c.val).spd.mem a) ∧
  (∀ (s : State) (c : CoreId) (w : Fin 196608) (q : QueueId) (n : Nat) (f : Flight), (getOwner s c.val).felled = false → segUp (getCore s c.val) (w.val / 16384) = true →
    w.val ∉ (getCore s c.val).spd.bad → (getQ (getCore s c.val) q).flights[n]? = some f → f.lines = [] → f.tail = [] →
    let u := putCore s c.val (upsetWord (getCore s c.val) w.val 0#32)
    (∀ t, nextRead f w.val = some t → exec (.parityError c w 0#32 (.flight q n)) s = .next (atLeast u t)) ∧
    (nextRead f w.val = none → exec (.parityError c w 0#32 (.flight q n)) s = .next u)) ∧
  (∀ (k : Core) (q : QueueId) (n : Nat) (f : Flight) (rs : List Region8) (w : Nat), badInRegions (flushRegions k rs) rs = some w → (getQ k q).flights[n]? = some f →
    (getQ (readInto k q n f rs) q).flights = modNth (fun _ => { f with work := .failed 1 (addrDetail w) 5, todo := [], tail := [], lines := [] }) (getQ k q).flights n ∧
    (readInto k q n f rs).spd = (flushRegions k rs).spd) ∧
  (∀ (s : State) (c : CoreId) (w : Fin 196608) (m : Word) (q : QueueId) (i : BitVec 16) (e : Fetched), inActiveBody (getQ (getCore s c.val) q) i.toNat = true →
    fetchedAt (getQ (getCore s c.val) q) i.toNat = some e →
    exec (.parityError c w m (.loopBuffer q i)) s = .next (coreErr
      (putCore s c.val (putQ (getCore s c.val) q { getQ (getCore s c.val) q with buf := (getQ (getCore s c.val) q).buf.filter fun e => e.idx ≠ i.toNat })) c.val
      { code := 1, cls := 1, page := 0, queue := qIdx q, ringidx := i.toNat })) ∧
  (∀ (s : State) (c : CoreId) (n : SlotId) (cb : List Byte) (o : Nat) (bs : List Byte), n.val ∈ (getCore s c.val).skd.refetch → refetchEnd (getCore s c.val) n.val = some true →
    refetchCtx (getCore s c.val) n.val = some (some cb) → (tagOf (getCore s c.val) n.val).st = .full → (tagOf (getCore s c.val) n.val).backed = true →
    refetchWrites (getCore s c.val) n.val cb = [(o, bs)] → n.val * 1024 ≤ o → o + bs.length ≤ n.val * 1024 + 1024 →
    ∃ u, exec (.refetchComplete c n) s = .next u ∧ onlyCore s u c.val ∧
      (∀ i, i < bs.length → memGet (getCore u c.val).spd.mem (o + i) = bs.getD i 0#8) ∧
      (∀ a, a < o ∨ o + bs.length ≤ a → byteKept (getCore s c.val) (getCore u c.val) a) ∧
      tagOf (getCore u c.val) n.val = tagOf (getCore s c.val) n.val ∧ n.val ∉ (getCore u c.val).skd.refetch ∧
      ∀ q, n.val ∉ (getQ (getCore u c.val) q).waitRefetch) ∧
  (∀ (s : State) (c : CoreId) (n : SlotId), n.val ∈ (getCore s c.val).skd.refetch →
    (refetchEnd (getCore s c.val) n.val = none → exec (.refetchComplete c n) s = .next s) ∧
    (refetchEnd (getCore s c.val) n.val = some false →
      ∃ u, exec (.refetchComplete c n) s = .next u ∧ (getCore u c.val).spd = (getCore s c.val).spd ∧ n.val ∉ (getCore u c.val).skd.refetch ∧
        ∀ q, n.val ∈ (getQ (getCore s c.val) q).waitRefetch → (getQ (getCore u c.val) q).mode = .halted 1))


/-! The skidder and its streams (R216 to R250). -/

/-- SKSTREAM at the head of SKQ. One that reads a slot, or writes a tally record, in a segment that is off fails with E_SEGMENT_OFF. One whose waits cannot be taken, whose context or destination is in use, or whose slots are not ready changes no slot and starts nothing. Otherwise its window opens: one that fails a check fails with that check's code and starts no stream; another's stream joins the streams at the first byte of its walk with the slots that it takes at its issue. Those slots and the tally slots are HELD by SKQ, its source and gate slots are pinned, its context names no backing any more, and no byte changes but those that gather entries hold. -/
def Obligations.StreamsStart : Prop :=
  ∀ (s : State) (c : CoreId) (e : Fetched), readyHead s c.val .skq = some e → opOf e.raw = 0x30 →
    let k := getCore s c.val
    let raw := effective k.skq.loops k.skq.issue e.raw
    let p := skPlan k k.skq.loops raw e
    let u := skSlots k p
    let both := (dedup (u.src ++ u.gate)).filter fun n => u.takes.contains n || u.tally.contains n
    let rest := fun l : List Nat => l.filter fun n => !both.contains n
    let reads := rest (dedup (u.src ++ u.gate))
    let s1 := inOrder (atLeast s k.skq.winEnd) c.val (rankIssue k .skq)
    let k1 := getCore s1 c.val
    let free := streamFree s c.val { p.st with target := targetOf s c.val p.st.cbytes p.st.raw }
    (skSegsUp k raw u = false →
      ∃ v f, exec (.skstream c) s = .next v ∧ onlyCore s1 v c.val ∧ (getCore v c.val).skq.flights = k1.skq.flights ++ [f] ∧ f.work = .failed 0x0E 0#32 5 ∧
        (getCore v c.val).skd.streams = k1.skd.streams) ∧
    (skSegsUp k raw u = true → semsReady k .skq e = false ∨ (p.walks = true ∧ free = false) → exec (.skstream c) s = .next s) ∧
    (skSegsUp k raw u = true → semsReady k .skq e = true → (p.walks = true → free = true) →
      (¬ (reads.all (mayRead k) = true ∧ (rest (dedup (u.takes ++ u.tally))).all (mayTake k) = true) →
        ∃ v, exec (.skstream c) s = .next v ∧ onlyCore s v c.val ∧ (getCore v c.val).spd = k.spd ∧ (getCore v c.val).skd.streams = k.skd.streams ∧ (getCore v c.val).skq.flights = k.skq.flights) ∧
      (reads.all (mayRead k) = true → (rest (dedup (u.takes ++ u.tally))).all (mayTake k) = true →
        (∀ err, skFail k1 p both = some err →
          ∃ v f, exec (.skstream c) s = .next v ∧ onlyCore s1 v c.val ∧ (getCore v c.val).skq.flights = k1.skq.flights ++ [f] ∧ f.work = .failed err.code err.detail err.page ∧
            (getCore v c.val).skd.streams = k1.skd.streams) ∧
        (skFail k1 p both = none → p.st.total ≠ 0 →
          ∃ v f, exec (.skstream c) s = .next v ∧ onlyCore s1 v c.val ∧ (getCore v c.val).skq.flights = k1.skq.flights ++ [f] ∧ f.work = .running ∧
            (getCore v c.val).skd.streams = k1.skd.streams ++ [{ p.st with
              target := targetOf s c.val p.st.cbytes p.st.raw, order := k1.skd.issued, opened := s1.now, held := rest u.takes, null := false, nullMarks := [] }] ∧
            (∀ n, n ∈ rest (u.takes ++ u.tally) → untagged k1 n = false → (tagOf (getCore v c.val) n).st = .held ∧ (tagOf (getCore v c.val) n).owner = .queue .skq) ∧
            (∀ n ∈ reads, untagged k1 n = false → (tagOf (getCore v c.val) n).st = (tagOf k1 n).st ∧ (tagOf (getCore v c.val) n).rdpin = (tagOf k1 n).rdpin + 1) ∧
            (∀ n, n ∉ rest (u.takes ++ u.tally) → n ∉ reads →
              tagOf (getCore v c.val) n = (if (tagOf k1 n).backed ∧ (tagOf k1 n).backCtx = p.st.ctx then { tagOf k1 n with backed := false } else tagOf k1 n)) ∧
            (∀ a, byteKept k1 (getCore v c.val) a))))

/-- The skidder's local port takes one flit in a cycle; a FELLED core sends nothing, and on a core that is not ACTIVE only the fetches of a retained image take part. The first stream whose next byte misses its translation asks the service for its page, unless that page is asked for already; the first whose next byte halts it takes the halt. With neither, and no fetch that misses its translation, the requester that the rotations of R216 pick sends: a read of n bytes leaves for the nearest router of the landing port of its address, a write to a yard leaves there with its bytes, an arrival leaves for its destination, or as one multicast flit for its group, with its bytes; the share pays n bytes, the walk moves on by n bytes, but for a write of a block in hand, and a request waits for its answers. A fetch takes its turn in the READ share as the requester behind the contexts. With nothing ready, nothing leaves. -/
def Obligations.InjectionRule : Prop :=
  (∀ (s : State) (c : CoreId), (getOwner s c.val).felled = true → exec (.skidderInject c) s = .next s) ∧
  (∀ (k : Core) (a : Fetch × Next), k.pwr.st ≠ .active → a ∈ fetchCands k → a.1.kind.ofImage = true) ∧
  ∀ (s : State) (c : CoreId), (getOwner s c.val).felled = false →
    let s1 := if (getCore s c.val).skd.lastOut = some s.now then atLeast s (s.now + 1) else s
    let k := getCore s1 c.val
    let acts := if k.pwr.st = .active then k.skd.streams.map fun o => (o.ctx, peek s1 c.val o) else []
    let cand := (fetchCands k).head?
    let all := acts ++ (cand.map fun a => (1024, a.2)).toList
    let shares := accrue k.skd.shares s1.now
    (∀ (st : Stream), findStream k st.ctx = some st →
      (∀ va wr, acts.find? (fun a => a.2.first) = some (st.ctx, .lookup va wr) →
        ∃ z, exec (.skidderInject c) s = .next (
          let k1 := modKPage (putStream k { st with trans := some (va / 65536) }) 6 fun p => bump p 11 1
          let go := fun asked : List Nat => putCore s1 c.val { k1 with skd := { k1.skd with asked := asked, starved := z } }
          if k.skd.asked.contains (va / 65536) then go k.skd.asked else emit (go (k.skd.asked ++ [va / 65536])) (.lookup c.val (asidOf s1 c.val) va wr))) ∧
      (∀ h, acts.find? (fun a => a.2.first) = some (st.ctx, .halt h) → h.bad = none →
        ∃ z, exec (.skidderInject c) s = .next (putCore s1 c.val (
          let k1 := putStream k { st with halting := some h, st := .run }
          { k1 with skd := { k1.skd with starved := z } }))) ∧
      (∀ i mem sp n share, k.pwr.st = .active → acts.find? (fun a => a.2.first) = none → (∀ f va wr, cand ≠ some (f, .lookup va wr)) → pickRequester shares all = some (share, st.ctx) →
        peek s1 c.val st = .go i mem sp n →
        ∃ u st1 r, exec (.skidderInject c) s = .next u ∧ (∀ d, d ≠ c.val → getCore u d = getCore s1 d) ∧
          findStream (getCore u c.val) st.ctx = some st1 ∧ st1.pos = (if st.block = [] then st.pos + n else st.pos) ∧ st1.st = .run ∧
          st1.reqs = st.reqs ++ [r] ∧ r.seq = st.nextSeq ∧ (st.block = [] → r.pos = st.pos ∧ r.len = n) ∧ st1.nextSeq = st.nextSeq + 1 ∧
          (getCore u c.val).skd.shares = shareServe shares i st.ctx n ∧ (getCore u c.val).spd.tags = k.spd.tags ∧
          (∀ a, byteKept k (getCore u c.val) a) ∧
          let data := match st.block with
            | [] => sourceBytes (getCore u c.val) st st.pos n
            | b :: _ => b.2
          (skDir st.raw = 0 → xPull st.cbytes = false → ∃ f, u.mesh = s1.mesh ++ [f] ∧ f.kind = .readReq ∧ f.vc = 0 ∧ f.addr = mem ∧ f.len = n ∧ f.core = c.val ∧ f.ctx = st.ctx ∧ f.seq = st.nextSeq ∧
            f.dst = .land (mem / 4096 % 16) (nearestRouter (mem / 4096 % 16) (c.val / 40))) ∧
          (skDir st.raw = 1 → ∃ f, u.mesh = s1.mesh ++ [f] ∧ f.kind = .yardWrite ∧ f.vc = 1 ∧ f.addr = mem ∧ f.data = data ∧ f.core = c.val ∧ f.ctx = st.ctx ∧
            f.seq = st.nextSeq ∧ f.dst = .land (mem / 4096 % 16) (nearestRouter (mem / 4096 % 16) (c.val / 40))) ∧
          (skDir st.raw = 2 → ∃ f, u.mesh = s1.mesh ++ [f] ∧ f.kind = .arrival ∧ f.vc = 1 ∧ f.off = mem ∧ f.data = data ∧ f.core = c.val ∧
            f.ctx = st.ctx ∧ f.seq = st.nextSeq ∧ f.tree = st.group ∧ (st.group = [] → f.dst = .core (leAt st.raw 0x20 2))))) ∧
    (∀ f va wr, acts.find? (fun a => a.2.first) = none → cand = some (f, .lookup va wr) →
      ∃ u, exec (.skidderInject c) s = .next u ∧ f ∈ (getCore u c.val).skd.fetches ∧ va / 65536 ∈ (getCore u c.val).skd.asked ∧
        (getCore u c.val).spd = k.spd ∧ (getCore u c.val).skd.streams = k.skd.streams ∧ u.mesh = s1.mesh ∧
        u.outbox = (if k.skd.asked.contains (va / 65536) then s1.outbox else s1.outbox ++ [.lookup c.val (asidOf s1 c.val) va wr])) ∧
    (∀ f i mem sp n share, acts.find? (fun a => a.2.first) = none → cand = some (f, .go i mem sp n) → findStream k 1024 = none → pickRequester shares all = some (share, 1024) →
      ∃ u g, exec (.skidderInject c) s = .next u ∧ (∀ d, d ≠ c.val → getCore u d = getCore s1 d) ∧ u.mesh = s1.mesh ++ [g] ∧ g.kind = .readReq ∧ g.vc = 0 ∧ g.ctx = 1024 ∧ g.seq = f.n ∧
        g.addr = mem ∧ g.len = f.len ∧ g.dst = .land (mem / 4096 % 16) (nearestRouter (mem / 4096 % 16) (c.val / 40)) ∧
        { f with stage := .sent } ∈ (getCore u c.val).skd.fetches ∧ (getCore u c.val).spd = k.spd ∧ (getCore u c.val).skd.streams = k.skd.streams ∧
        (getCore u c.val).skd.shares = shareServe shares 0 1024 f.len ∧
        (getCore u c.val).grv.load = k.grv.load.map fun l => { l with asked := match f.kind with
          | .image off => off + f.len
          | _ => l.asked }) ∧
    (acts.find? (fun a => a.2.first) = none → (∀ f va wr, cand ≠ some (f, .lookup va wr)) → pickRequester shares all = none →
      ∃ z, exec (.skidderInject c) s = .next (putCore s1 c.val { k with skd := { k.skd with starved := z } }))

/-- Answers to the requests of a stream or a fetch. The bytes of a read response are in the scratchpad where the walk has them, where nothing has wrong parity, and its request is gone; in a segment that is off they are dropped and the stream is to halt with E_SEGMENT_OFF; those for a fetch wait with it, and those of an image that is being staged go to its staging slots. An acknowledgement takes its request away once every destination has answered; the acknowledged marker of a slot closes the slot's visits that began before it. A NACK takes the request away and sets the halt that it calls for, with its code or, from a landing port, E_PARITY, unless a halt is under way. A pull request that has reached a core: one for bytes of untagged slots in a segment that is up, with right parity, is answered with the bytes as stored; another is refused with a NACK that carries E_SHAPE_OVER, E_TAG_PROTOCOL, E_SEGMENT_OFF or E_PARITY, and E_FELLED where the core is FELLED. No tag changes, and no byte but those that gather entries hold. Translations. A page that was asked for and that the service returns enters the cache (with all 64 entries used it takes the place of one that the model leaves free), the streams that asked for it go on, and state bytes that waited for it leave for their yard, or are dropped where it may not be written; a failure halts each of those streams with E_PAGE_FAULT, and the fetches that waited are faulted. An answer that nobody asked for changes nothing. -/
def Obligations.StreamAnswers : Prop :=
  (∀ (s s1 : State) (id : Nat) (f : Flit) (c : Nat) (st : Stream) (r : Req), takeFlit s id = some (f, s1) → (f.kind = .readResp ∧ f.ctx ≠ 1024) ∨ (f.kind = .pullResp ∧ f.hdr = none) → f.dst = .core c →
    findStream (getCore s1 c) f.ctx = some st → findReq st f.seq = some r → r.waiting ≤ 1 → blockwise st = false →
    let o := (pieceAt st r.pos).2.1.toNat
    (writesOff (getCore s1 c) [(o, f.data)] = false → (getCore s1 c).spd.bad = [] → (∀ g ∈ (getCore s1 c).spd.gather, g.bytes.length = 32) →
      ∃ u st1, exec (.readResponse id) s = .next u ∧ onlyCore s1 u c ∧ findStream (getCore u c) f.ctx = some st1 ∧
        st1.reqs = st.reqs.filter (fun x => x.seq ≠ r.seq) ∧ st1.pos = st.pos ∧ (getCore u c).spd.tags = (getCore s1 c).spd.tags ∧
        (∀ a, a < o ∨ o + f.data.length ≤ a → byteKept (getCore s1 c) (getCore u c) a) ∧ spdPeek (getCore u c) o f.data.length = f.data) ∧
    (writesOff (getCore s1 c) [(o, f.data)] = true → st.halting = none →
      ∃ u st1 h, exec (.readResponse id) s = .next u ∧ onlyCore s1 u c ∧ findStream (getCore u c) f.ctx = some st1 ∧ (getCore u c).spd = (getCore s1 c).spd ∧
        st1.reqs = st.reqs.filter (fun x => x.seq ≠ r.seq) ∧ st1.halting = some h ∧ h.code = 0x0E ∧ h.pos = r.pos)) ∧
  (∀ (s s1 : State) (id : Nat) (f : Flit) (c : Nat), takeFlit s id = some (f, s1) → f.kind = .readResp → f.ctx = 1024 → f.dst = .core c →
    let k := getCore s1 c
    let fs := k.skd.fetches
    let got := fun (fs' : List Fetch) (u : State) => exec (.readResponse id) s = .next u ∧ onlyCore s1 u c ∧ (getCore u c).skd.streams = k.skd.streams ∧ (getCore u c).grv = k.grv ∧
      (getCore u c).skd.fetches = fs'
    ((∀ g ∈ fs, ¬ (g.n = f.seq ∧ g.stage = .sent)) → ∃ u, got fs u ∧ (getCore u c).spd = k.spd) ∧
    (∀ g, fs.find? (fun g => g.n = f.seq ∧ g.stage = .sent) = some g →
      (fetchStale k g = true → ∃ u, got (fs.filter fun x => x.n ≠ f.seq) u ∧ (getCore u c).spd = k.spd) ∧
      (fetchStale k g = false → (∀ off, g.kind ≠ .image off) → ∃ u, got (fs.map fun x => if x.n = f.seq then { x with stage := .here f.data } else x) u ∧ (getCore u c).spd = k.spd) ∧
      (∀ off l, g.kind = .image off → k.grv.load = some l → l.phase = 1 → l.slots.Nodup → f.data.length ≤ 256 → off + f.data.length ≤ 1024 * l.slots.length →
        let at_ := fun i => 1024 * l.slots.getD ((off + i) / 1024) 0 + (off + i) % 1024
        ∃ u, got (fs.filter fun x => x.n ≠ f.seq) u ∧ (getCore u c).spd.tags = k.spd.tags ∧
          (∀ i, i < f.data.length → memGet (getCore u c).spd.mem (at_ i) = f.data.getD i 0#8) ∧
          ∀ a, (∀ i, i < f.data.length → a ≠ at_ i) → byteKept k (getCore u c) a))) ∧
  (∀ (s s1 : State) (id : Nat) (f : Flit) (c : Nat) (st : Stream) (r : Req), takeFlit s id = some (f, s1) → f.kind = .ack → f.dst = .core c → f.hdr = none →
    findStream (getCore s1 c) f.ctx = some st → findReq st f.seq = some r →
    ∃ u st1, exec (.writeAck id) s = .next u ∧ onlyCore s1 u c ∧ findStream (getCore u c) f.ctx = some st1 ∧ (getCore u c).spd = (getCore s1 c).spd ∧
      (r.waiting ≤ 1 → st1.reqs = st.reqs.filter fun x => x.seq ≠ r.seq) ∧
      (r.marker = true → r.waiting ≤ 1 → r.refused = false → st1.visits = st.visits.filter fun v => v.slot ≠ r.slot ∨ r.pos ≤ v.first) ∧
      (r.marker = false → st1.visits = st.visits)) ∧
  (∀ (s s1 : State) (id : Nat) (f : Flit) (c : Nat) (st : Stream) (r : Req), takeFlit s id = some (f, s1) → f.kind = .nack → f.dst = .core c → f.hdr = none →
    (∃ d, f.src = .core d) ∨ (∃ p i, f.src = .land p i ∧ f.ctx ≠ 1024) → findStream (getCore s1 c) f.ctx = some st → findReq st f.seq = some r → st.halting = none → r.waiting ≤ 1 →
    ∃ u st1 h, exec (.nack id) s = .next u ∧ onlyCore s1 u c ∧ findStream (getCore u c) f.ctx = some st1 ∧ (getCore u c).spd = (getCore s1 c).spd ∧
      st1.reqs = st.reqs.filter (fun x => x.seq ≠ r.seq) ∧ st1.halting = some h ∧ ((∃ d, f.src = .core d) → h.code = f.code) ∧ ((∃ p i, f.src = .land p i) → h.code = 1) ∧
      st1.visits = st.visits ∧ st1.st ≠ .waitslot) ∧
  (∀ (s s1 : State) (id : Nat) (f : Flit) (c p i : Nat), takeFlit s id = some (f, s1) → f.kind = .nack → f.dst = .core c → f.hdr = none → f.src = .land p i → f.ctx = 1024 →
    ∃ u, exec (.nack id) s = .next u ∧ onlyCore s1 u c ∧ (getCore u c).spd = (getCore s1 c).spd ∧ (getCore u c).skd.streams = (getCore s1 c).skd.streams ∧
      (getCore u c).skd.fetches = (getCore s1 c).skd.fetches.map fun g => if g.n = f.seq ∧ g.stage = .sent then { g with stage := .faulted 1 } else g) ∧
  (∀ (s s1 : State) (id : Nat) (f : Flit) (c : Nat), takeFlit s id = some (f, s1) → f.kind = .pullReq → f.dst = .core c → f.hdr = none →
    let k := getCore s1 c
    let region : List Region8 := [{ off := f.off, len := f.len }]
    let nack := fun (u : State) (code : Nat) => ∃ g, u.mesh = s1.mesh ++ [g] ∧ g.kind = .nack ∧ g.vc = 1 ∧ g.dst = .core f.core ∧ g.ctx = f.ctx ∧ g.seq = f.seq ∧ g.code = code
    ∃ u, exec (.pullRequest id) s = .next u ∧ (∀ d, d ≠ c → getCore u d = getCore s1 d) ∧ (getCore u c).spd.tags = k.spd.tags ∧ (∀ a, byteKept k (getCore u c) a) ∧
      ((getOwner s1 c).felled = true → nack u 0x11) ∧
      ((getOwner s1 c).felled = false →
        (0xC0000 < f.off + f.len → nack u 4) ∧
        (f.off + f.len ≤ 0xC0000 → (∃ n ∈ slotsOf f.off f.len, untagged k n = false) → nack u 8) ∧
        (f.off + f.len ≤ 0xC0000 → (∀ n ∈ slotsOf f.off f.len, untagged k n = true) →
          (touchesOff k region = true → nack u 0x0E) ∧
          (touchesOff k region = false → badWords (flushRegions k region) f.off f.len ≠ none → nack u 1) ∧
          (touchesOff k region = false → badWords (flushRegions k region) f.off f.len = none →
            ∃ g, u.mesh = s1.mesh ++ [g] ∧ g.kind = .pullResp ∧ g.vc = 1 ∧ g.dst = .core f.core ∧ g.ctx = f.ctx ∧ g.seq = f.seq ∧ g.data = spdBytes (getCore u c) f.off f.len)))) ∧
  (∀ (s : State) (c : CoreId) (va : BitVec 44) (r : TransResult), va.toNat / 65536 ∉ (getCore s c.val).skd.asked → exec (.translationResponse c va r) s = .next s) ∧
  (∀ (s : State) (c : CoreId) (va : BitVec 44) (pa : BitVec 48) (large w : Bool), va.toNat / 65536 ∈ (getCore s c.val).skd.asked →
    let k := getCore s c.val
    let page := va.toNat / 65536
    let t : Trans := { large := large, vpage := if large then va.toNat / 2 ^ 21 else page, pa := pa.toNat, writable := w }
    let asked := k.skd.asked.filter fun n => n ≠ page
    let streams := k.skd.streams.map fun st => if st.trans = some page then { st with trans := none } else st
    ((∀ v ∈ k.skd.saves, v.va / 65536 ≠ page) → exec (.translationResponse c va (.page pa large w)) s = .next (
      if 64 ≤ k.skd.cache.length then
        putCore { s with free := s.free + 1 } c.val { k with skd := { k.skd with asked := asked, cache := k.skd.cache.eraseIdx (Config.freeChoice s.free % 64) ++ [t], streams := streams } }
      else putCore s c.val { k with skd := { k.skd with asked := asked, cache := k.skd.cache ++ [t], streams := streams } })) ∧
    (∀ v, k.skd.saves.filter (fun v => v.va / 65536 = page) = [v] →
      ∃ u, exec (.translationResponse c va (.page pa large w)) s = .next u ∧ (getCore u c.val).skd.streams = streams ∧ (getCore u c.val).skd.saves = k.skd.saves.filter (fun v => v.va / 65536 ≠ page) ∧
        (getCore u c.val).spd = k.spd ∧ (w = false → u.mesh = s.mesh) ∧
        (w = true → ∃ f, u.mesh = s.mesh ++ [f] ∧ f.kind = .yardWrite ∧ f.vc = 1 ∧ f.addr = transAddr t v.va ∧ f.data = v.data)) ∧
    (∃ u, exec (.translationResponse c va .fail) s = .next u ∧ onlyCore s u c.val ∧ (getCore u c.val).spd = k.spd ∧
      (getCore u c.val).skd.asked = asked ∧ (getCore u c.val).skd.saves = k.skd.saves.filter (fun v => v.va / 65536 ≠ page) ∧
      (getCore u c.val).skd.fetches = k.skd.fetches.map (fun f => if f.stage = .asked ∧ f.va % 2 ^ 44 / 65536 = page then { f with stage := .faulted 5 } else f) ∧
      (getCore u c.val).skd.streams.length = k.skd.streams.length ∧
      ∀ (i : Nat) (st : Stream), k.skd.streams[i]? = some st →
        ∃ st1, (getCore u c.val).skd.streams[i]? = some st1 ∧ (st.trans ≠ some page → st1 = st) ∧
          (st.trans = some page → st.halting ≠ none ∨ (st.st ≠ .run ∧ st.st ≠ .waitslot) → st1 = { st with trans := none }) ∧
          (st.trans = some page → st.halting = none → st.st = .run ∨ st.st = .waitslot →
            st1.trans = none ∧ st1.pos = st.pos ∧ st1.st = .run ∧ ∃ h, st1.halting = some h ∧ h.code = 5 ∧ h.pos = haltPos st)))


/-- Visits to slots of the stream's own core, and markers. A stream that comes to its next destination slot takes it, HELD by SKQ, where it may, else it waits in WAITSLOT and takes nothing. Once the walk has left the slot of a visit and every request of the visit is answered, the slot becomes FULL with OCNT, BACKED if the descriptor says so, and the visit is over, whatever the state of the stream. A stream that delivers to other cores sends a SLOTEND marker for the oldest visit whose writes are all acknowledged, to its destination, or to its group as one multicast flit; a null completion sends one with SLOTSTART for each slot of its first run. -/
def Obligations.SlotVisits : Prop :=
  (∀ (s : State) (c : CoreId) (x : CtxId) (st : Stream) (n : Nat), findStream (getCore s c.val) x.val = some st → peek s c.val st = .visit → unvisited (getCore s c.val) st = some n →
    let k := getCore s c.val
    (n ∉ st.held → mayTake k n = true → untagged k n = false →
      ∃ u st1, exec (.slotVisitEnter c x) s = .next u ∧ onlyCore s u c.val ∧ (tagOf (getCore u c.val) n).st = .held ∧ (tagOf (getCore u c.val) n).owner = .queue .skq ∧
        (∀ m, m ≠ n → tagOf (getCore u c.val) m = tagOf k m) ∧ (∀ a, byteKept k (getCore u c.val) a) ∧ findStream (getCore u c.val) x.val = some st1 ∧
        st1.st = .run ∧ st1.pos = st.pos ∧ st1.visits = st.visits ++ [{ slot := n, first := haltPos st, upto := haltPos st, left := false }]) ∧
    (n ∉ st.held → mayTake k n = false → st.st ≠ .waitslot →
      ∃ u, exec (.slotVisitEnter c x) s = .next u ∧ onlyCore s u c.val ∧ (getCore u c.val).spd = k.spd ∧ findStream (getCore u c.val) x.val = some { st with st := .waitslot }) ∧
    (n ∉ st.held → mayTake k n = false → st.st = .waitslot → exec (.slotVisitEnter c x) s = .next s) ∧
    (n ∈ st.held → ∃ u st1, exec (.slotVisitEnter c x) s = .next u ∧ onlyCore s u c.val ∧ (getCore u c.val).spd = k.spd ∧ findStream (getCore u c.val) x.val = some st1 ∧
      st1.st = .run ∧ st1.held = st.held.filter (fun m => m ≠ n) ∧ st1.visits = st.visits ++ [{ slot := n, first := haltPos st, upto := haltPos st, left := false }])) ∧
  (∀ (s : State) (c : CoreId) (x : CtxId) (st : Stream) (v : Visit), findStream (getCore s c.val) x.val = some st → deliversOwn st = true → st.visits.find? (visitDone st) = some v →
    untagged (getCore s c.val) v.slot = false →
    ∃ u, exec (.slotVisitComplete c x) s = .next u ∧ onlyCore s u c.val ∧ findStream (getCore u c.val) x.val = some { st with visits := st.visits.erase v } ∧
      (tagOf (getCore u c.val) v.slot).st = .full ∧ (tagOf (getCore u c.val) v.slot).count = ocntOf st.raw ∧
      ((tagOf (getCore u c.val) v.slot).backed = true ↔ skBacked st.raw = true ∧ xPull st.cbytes = false) ∧
      (∀ m, m ≠ v.slot → tagOf (getCore u c.val) m = tagOf (getCore s c.val) m) ∧ ∀ a, byteKept (getCore s c.val) (getCore u c.val) a) ∧
  (∀ (s : State) (c : CoreId) (x : CtxId) (st : Stream), findStream (getCore s c.val) x.val = some st → mayMark st = true →
    let sends := fun (u : State) (st1 : Stream) (slot : Nat) (start : Bool) =>
      (∀ d, d ≠ c.val → getCore u d = getCore s d) ∧ (getCore u c.val).spd = (getCore s c.val).spd ∧ findStream (getCore u c.val) x.val = some st1 ∧ st1.visits = st.visits ∧
      (∃ r, st1.reqs = st.reqs ++ [r] ∧ r.marker = true ∧ r.slot = slot ∧ r.waiting = answersOf st) ∧
      (skDir st.raw ≠ 3 → skDir st.raw = 2 ∨ st.group ≠ [] →
        ∃ f, u.mesh = s.mesh ++ [f] ∧ f.kind = .marker ∧ f.vc = 1 ∧ f.off = 1024 * slot ∧ f.data = [] ∧ f.start = start ∧ f.ocnt = ocntOf st.raw ∧ f.tree = st.group ∧
          (st.group = [] → f.dst = .core (leAt st.raw 0x20 2))) ∧
      (∀ t, skDir st.raw = 3 → st.target = some t → ∃ f h, u.mesh = s.mesh ++ [f] ∧ f.kind = .marker ∧ f.vc = 2 ∧ f.hdr = some h ∧ h.kind = 1#4 ∧ h.slotStart = start ∧ h.slotEnd = true ∧ h.dstChip = t.chip)
    (∀ v, nextNull st = none → nextEnding st = some v → ∃ u st1, exec (.slotendSend c x) s = .next u ∧ sends u st1 v.slot false) ∧
    (∀ n, nextNull st = some n → (streamDests st).find? (foreign s c.val) = none → (skDir st.raw = 3 → targetBad s c.val st = false) →
      ∃ u st1, exec (.slotendSend c x) s = .next u ∧ sends u st1 n true))

/-- The end of a stream, its halt and its context commands. A stream with its walk done, nothing outstanding and no visit open completes once its issue window has closed: its context's state bytes leave for their yard, or wait for their translation, it leaves the streams, and its descriptor's work is finished. One with a halt to take, nothing outstanding and no visit to withdraw elsewhere becomes HALTED with the code, and its record goes to the SKD page and the FIFO; one that a destination refused first sends an abort report as a VC3 command and waits for its ANSWER. RESUME sets a HALTED or ABORTED stream running, with its target entry read again and, after E_PAGE_FAULT, the page's translation dropped; ABORT stops one in RUN, WAITSLOT or HALTED; FREE of a context with no stream clears the backing that names it; FREE of an ABORTED stream ends it. Any other is ignored and SKD counter 14 counts it. An abort that has nothing to report ends in ABORTED. The ANSWER to an abort report takes that report from those awaited. A wait group that has not advanced for TIMEOUT RCLK cycles records E_STALL_CYCLE in the SKD page, SKD counter 10 counts it, and the count starts again; nothing is aborted: no stream, no queue and no tag changes. With TIMEOUT 0, or no member, nothing happens. -/
def Obligations.StreamContextCommands : Prop :=
  (∀ (s : State) (c : CoreId) (x : CtxId) (st : Stream), findStream (getCore s c.val) x.val = some st → streamDone st = true →
    let u := atLeast s (st.opened + 8)
    let k := getCore u c.val
    let va := (ctxAddr k st.ctx + 0x60) % 2 ^ 44
    ∃ v, exec (.streamComplete c x) s = .next v ∧ (∀ d, d ≠ c.val → getCore v d = getCore u d) ∧ (st.null = false → (getCore v c.val).spd = k.spd) ∧
      (getCore v c.val).skd.streams = k.skd.streams.filter (fun o => o.ctx ≠ x.val) ∧
      (getCore v c.val).skq.flights = (k.skq.flights.map fun f =>
        if opOf f.raw = 0x30 ∧ skCtx f.raw = x.val ∧ f.work = .running then { f with work := .finished } else f) ∧
      (∀ t, findTrans k va = some t → t.writable = true →
        ∃ f, v.mesh = u.mesh ++ [f] ∧ f.kind = .yardWrite ∧ f.addr = transAddr t va ∧ f.data = stateBytes st 0 0 ∧ f.data.length = 28) ∧
      (∀ t, findTrans k va = some t → t.writable = false → v.mesh = u.mesh) ∧
      (findTrans k va = none → v.mesh = u.mesh ∧ (getCore v c.val).skd.saves = k.skd.saves ++ [{ va := va, data := stateBytes st 0 0 }] ∧ va / 65536 ∈ (getCore v c.val).skd.asked)) ∧
  (∀ (s : State) (c : CoreId) (x : CtxId) (st : Stream) (h : Halting), findStream (getCore s c.val) x.val = some st → st.halting = some h → st.st = .run ∨ st.st = .waitslot → st.reqs = [] →
    awaiting (getCore s c.val) st.ctx = false → h.report = false → h.bad = none → h.nack = false →
    ∃ u st1, exec (.streamHalt c x) s = .next u ∧ (∀ d, d ≠ c.val → getCore u d = getCore s d) ∧ (getCore u c.val).spd = (getCore s c.val).spd ∧
      findStream (getCore u c.val) x.val = some st1 ∧ st1.st = .halted ∧ st1.code = h.code ∧ st1.pos = h.pos ∧ st1.lo = h.lo ∧ st1.hi = h.hi ∧ st1.halting = none ∧
      ((getCore s c.val).err.fifo.length < 16 → ∃ r ∈ (getCore u c.val).err.fifo, r.code = h.code ∧ r.page = 6 ∧ r.ctx = st.ctx ∧ r.cls = 1)) ∧
  (∀ (s : State) (c : CoreId) (x : CtxId) (st : Stream) (h : Halting), findStream (getCore s c.val) x.val = some st → st.halting = some h → st.st = .run ∨ st.st = .waitslot → st.reqs = [] →
    awaiting (getCore s c.val) st.ctx = false → h.report = true → st.visits ≠ [] → skDir st.raw = 2 → st.group = [] →
    ∃ u f, exec (.streamHalt c x) s = .next u ∧ (∀ d, d ≠ c.val → getCore u d = getCore s d) ∧ (getCore u c.val).spd = (getCore s c.val).spd ∧
      findStream (getCore u c.val) x.val = some { st with halting := some { h with report := false } } ∧
      u.mesh = s.mesh ++ [f] ∧ f.kind = .command ∧ f.vc = 3 ∧ f.dst = .core (leAt st.raw 0x20 2) ∧ f.data = reportBody s c.val st.ctx ∧
      (getCore u c.val).skd.awaited = (getCore s c.val).skd.awaited ++ [{ chip := torusHere s, core := leAt st.raw 0x20 2, ctx := st.ctx }]) ∧
  (∀ (s u : State) (p : Port) (c : CoreId) (x : CtxId), reaches s p (.core c 6) 0x58 u →
    let k := getCore u c.val
    let ignored := Host.Outcome.next (putCore u c.val (modKPage k 6 fun g => bump g 14 1))
    (∀ st, findStream k x.val = some st →
      (st.st = .halted ∨ st.st = .aborted →
        let dropped := k.skd.cache.filter fun t => some t ≠ findTrans k (st.lo.toNat + fld st.hi.toNat 0 12 * 2 ^ 32)
        exec (.ctxResume p c x) s = .next (putCore u c.val (putStream (if st.code = 5 then { k with skd := { k.skd with cache := dropped } } else k)
          { st with st := .run, code := 0, lo := 0#32, hi := 0#32, halting := none, bad := none, freeing := false, trans := none, target := targetOf u c.val st.cbytes st.raw }))) ∧
      (st.st = .run ∨ st.st = .waitslot ∨ st.st = .halted → exec (.ctxAbort p c x) s = .next (putCore u c.val (putStream k
        (let code := if st.st = .halted then st.code else (st.halting.map (·.code)).getD 0
         { st with st := .aborting, code := code, trans := none, bad := none, halting := some { code := code, pos := st.pos, report := true } })))) ∧
      (st.st = .run ∨ st.st = .waitslot ∨ st.st = .aborting → exec (.ctxResume p c x) s = ignored) ∧
      (st.st = .aborting ∨ st.st = .aborted → exec (.ctxAbort p c x) s = ignored) ∧
      (st.st ≠ .aborted → exec (.ctxFree p c x) s = ignored) ∧
      (st.st = .aborted → ∃ v, exec (.ctxFree p c x) s = .next v ∧ findStream (getCore v c.val) x.val = none)) ∧
    (findStream k x.val = none →
      exec (.ctxResume p c x) s = ignored ∧ exec (.ctxAbort p c x) s = ignored ∧
      ∃ v, exec (.ctxFree p c x) s = .next v ∧ onlyCore u v c.val ∧
        (∀ n, tagOf (getCore v c.val) n = if (tagOf k n).backed ∧ (tagOf k n).backCtx = x.val then { tagOf k n with backed := false } else tagOf k n) ∧
        getCore v c.val = { k with spd := { k.spd with tags := (getCore v c.val).spd.tags } })) ∧
  (∀ (s : State) (c : CoreId) (x : CtxId) (st : Stream) (h : Halting), findStream (getCore s c.val) x.val = some st → st.st = .aborting → st.reqs = [] → awaiting (getCore s c.val) st.ctx = false →
    st.halting = some h → h.report = true → st.visits = [] → st.freeing = false → ownHeld st = [] → st.block = [] → st.xbuf = [] →
    let s1 := inOrder s c.val 7
    ∃ u st1, exec (.abortComplete c x) s = .next u ∧ (∀ d, d ≠ c.val → getCore u d = getCore s1 d) ∧ (getCore u c.val).spd = (getCore s1 c.val).spd ∧
      findStream (getCore u c.val) x.val = some st1 ∧ st1.st = .aborted ∧ st1.pos = st.pos ∧ st1.held = [] ∧ st1.code = (if st.code = 0 then 7 else st.code)) ∧
  (∀ (s s1 : State) (src : CmdSrc) (v : Via) (h : WinCmd) (body : List Byte) (a : Await), src.wf = true → takeCmd s src 0x3F = some (v, h, body, s1) → bodyArg body 9 1 = 5 →
    (getCore s1 h.core.val).skd.awaited.find? (fun a => a.chip = h.srcChip ∧ a.core = h.srcCore.toNat) = some a →
    ∃ u, exec (.cmdAnswer src) s = .next u ∧ onlyCore s1 u h.core.val ∧ (getCore u h.core.val).spd = (getCore s1 h.core.val).spd ∧
      (getCore u h.core.val).skd = { (getCore s1 h.core.val).skd with awaited := (getCore s1 h.core.val).skd.awaited.erase a }) ∧
  (∀ (s : State) (c : CoreId), 
    let k := getCore s c.val
    let n := fld (kReg k 6 0x50) 0 24
    let s1 := atLeast s (k.skd.stallSince + 17 * n)
    let k1 := getCore s1 c.val
    (n = 0 ∨ groupEmpty k = true → exec (.stallTimeout c) s = .next s) ∧
    (n ≠ 0 → groupEmpty k = false →
      ∃ u, exec (.stallTimeout c) s = .next u ∧ u.now = s1.now ∧ (∀ d, d ≠ c.val → getCore u d = getCore s1 d) ∧
        (getCore u c.val).spd = k1.spd ∧ (getCore u c.val).skd.streams = k1.skd.streams ∧ (∀ q, getQ (getCore u c.val) q = getQ k1 q) ∧
        (getCore u c.val).skd.stallSince = u.now ∧ (kPage (getCore u c.val) 6).cnt = (bump (kPage k1 6) 10 1).cnt ∧
        (k1.err.fifo.length < 16 → ∃ r ∈ (getCore u c.val).err.fifo, r.code = 7 ∧ r.page = 6)))

/-! The mesh, the landing ports and their yards (R23 to R31, R236 to R238, R411, R412, R440). -/

/-- A flit at its next router, where the link is free for it, in the next cycle where the link has carried one in this. With good parity it enters the router, whose branch runs; with bad parity it stays, to be resent; a link that has failed, or that another flit takes first, passes nothing. A multicast flit goes on in one direction of its tree at a time, with the members beyond, and leaves a copy at a router where a member stands. A resend puts a flit back on the link and counts in ERR counter 5 of the receiving router's core; eight failures in a row fail the link: a fatal E_PARITY with the router port on that core, and an ERROR record. A flit or command for another chip leaves at its torus port's last router. -/
def Obligations.LinkRule : Prop :=
  (∀ (s : State) (id : Nat) (f : Flit) (r : Nat × Nat) (rest : List (Nat × Nat)), findFlit s id = some f → f.route = r :: rest → (r, portInto f r) ∉ s.failedLinks →
    hasTurn s r (portInto f r) f = true →
    let s1 := useLink s r (portInto f r) f.vc
    (∃ u, exec (.flitArrival id false) s = .next u ∧ u = { s1 with mesh := u.mesh } ∧ findFlit u id = some { f with fails := f.fails + 1, resend := true } ∧
      ∀ n, n ≠ id → findFlit u n = findFlit s1 n) ∧
    (f.tree = [] → rest ≠ [] ∨ (∀ q, f.dst ≠ .torus q) → ∃ u, exec (.flitArrival id true) s = .next u ∧ u = { s1 with mesh := u.mesh, cores := u.cores } ∧
      findFlit u id = some { f with here := some r, inPort := portInto f r, route := rest, fails := 0 } ∧ (∀ n, n ≠ id → findFlit u n = findFlit s1 n) ∧
      (getCore u (coreAt r)).pwr.meshClk = true ∧
      ∀ d, getCore u d = { getCore s1 d with pwr := (getCore u d).pwr }) ∧
    (∀ p, f.tree = [] → rest = [] → f.dst = .torus p →
      ∃ u, exec (.flitArrival id true) s = .next u ∧ (∀ h, f.hdr = some h → u.outbox = s1.outbox ++ [.torus p h f.data]) ∧
        (∀ w, f.hdr = none → f.cmd = some w → u.outbox = s1.outbox ++ [.torusCmd p w f.data]) ∧ findFlit u id = none ∧ ∀ n, n ≠ id → findFlit u n = findFlit s1 n) ∧
    (f.tree ≠ [] → f.here = none → (∀ m ∈ f.tree, coreXY m ≠ r) →
      ∃ u, exec (.flitArrival id true) s = .next u ∧ u.mesh = s1.mesh.filter (fun g => g.id ≠ id) ++ [aimTree { f with id := s1.nextFlit, here := some r, inPort := portInto f r, fails := 0 }]) ∧
    (∀ h ms n bs, f.here = some h → treeBranches h f.tree = (ms, n) :: bs →
      ∃ u, exec (.flitArrival id true) s = .next u ∧
        (ms.filter (fun m => coreXY m ≠ r) ≠ [] → ∃ g ∈ u.mesh, g.here = some r ∧ g.tree = ms.filter (fun m => coreXY m ≠ r) ∧ g.data = f.data) ∧
        ((∃ m ∈ ms, coreXY m = r) → ∃ g ∈ u.mesh, g.here = some r ∧ g.dst = .core (coreAt r) ∧ g.route = [] ∧ g.tree = [] ∧ g.data = f.data))) ∧
  (∀ (s : State) (id : Nat) (f : Flit) (r : Nat × Nat) (rest : List (Nat × Nat)) (ok : Bool), findFlit s id = some f → f.route = r :: rest →
    hasTurn s r (portInto f r) f = false ∨ (r, portInto f r) ∈ s.failedLinks → exec (.flitArrival id ok) s = .next s) ∧
  (∀ (s : State) (id : Nat) (f : Flit) (r : Nat × Nat) (rest : List (Nat × Nat)), findFlit s id = some f → f.route = r :: rest → f.resend = true → f.fails < 8 →
    ∃ u, exec (.flitResend id) s = .next u ∧ findFlit u id = some { f with resend := false } ∧ (∀ n, n ≠ id → findFlit u n = findFlit s n) ∧
      u = putCore { s with mesh := u.mesh } (coreAt r) (modKPage (getCore s (coreAt r)) 13 fun p => bump p 5 1)) ∧
  (∀ (s : State) (id : Nat) (f : Flit) (r : Nat × Nat) (rest : List (Nat × Nat)), findFlit s id = some f → f.route = r :: rest → 8 ≤ f.fails → (r, portInto f r) ∉ s.failedLinks →
    exec (.linkFail id) s = .next (coreErr { s with failedLinks := s.failedLinks ++ [(r, portInto f r)] } (coreAt r)
      { code := 1, cls := 2, page := 13, detail := word (portInto f r) }))


/-- The yards. A read of a line that the yard holds is answered with its bytes, to its core or as one multicast flit to its group, and the line becomes the most recently used; one of a line that it does not hold waits for memory, asked once. A write of a whole line needs no memory: it is acknowledged, and the line is held and dirty; a narrower write to a line that is held lays its bytes over it. A line from memory serves those that wait for it. A read of a lost line is refused with E_PARITY. A write from outside takes the line out, a dirty one written back first; a read from outside of a dirty line is answered with the yard's bytes. -/
def Obligations.YardRule : Prop :=
  (∀ (s s1 : State) (id : Nat) (f : Flit) (p k : Nat), takeFlit s id = some (f, s1) → f.kind = .readReq → f.dst = .land p k → (getYard s p).stopped = false →
    let num := lineOf f.addr
    let y := getYard s1 p
    (num ∈ y.lost → ∃ u g, exec (.yardRead id .good) s = .next u ∧ u.mesh = s1.mesh ++ [g] ∧ g.kind = .nack ∧ g.dst = .core f.core ∧ g.seq = f.seq ∧ g.code = 1 ∧ u.yards = s1.yards) ∧
    (∀ l, num ∉ y.lost → findLine y num = some l →
      ∃ u g, exec (.yardRead id .good) s = .next u ∧ u.mesh = s1.mesh ++ [g] ∧ g.vc = 1 ∧ g.ctx = f.ctx ∧ g.seq = f.seq ∧
        g.data = slice l.data (f.addr % 256) f.len ∧ g.tree = f.group ∧ (f.group = [] → g.kind = .readResp ∧ g.dst = .core f.core) ∧ (f.group ≠ [] → g.kind = .arrival) ∧ (setOf (getYard u p) num).head? = some l ∧ (∀ n, (findLine (getYard u p) n).isSome = (findLine y n).isSome) ∧
        ∀ q, q ≠ p → getYard u q = getYard s1 q) ∧
    (num ∉ y.lost → findLine y num = none →
      ∃ u, exec (.yardRead id .good) s = .next u ∧ u.mesh = s1.mesh ∧ getYard u p = { y with waiting := y.waiting ++ [f] } ∧ (∀ q, q ≠ p → getYard u q = getYard s1 q) ∧
        u.outbox = (if y.waiting.any (fun g => lineOf g.addr == num) then s1.outbox else s1.outbox ++ [.memRead p num]))) ∧
  (∀ (s s1 : State) (id : Nat) (f : Flit) (p k : Nat), takeFlit s id = some (f, s1) → f.kind = .yardWrite → f.dst = .land p k → (getYard s p).stopped = false →
    let num := lineOf f.addr
    let y := getYard s1 p
    (f.data.length = 256 → ∃ u g, exec (.yardWrite id .good) s = .next u ∧ u.mesh = s1.mesh ++ [g] ∧ g.kind = .ack ∧ g.dst = .core f.core ∧ g.seq = f.seq ∧
      findLine (getYard u p) num = some { num := num, dirty := true, data := f.data } ∧ num ∉ (getYard u p).lost ∧ ∀ q, q ≠ p → getYard u q = getYard s1 q) ∧
    (∀ l, f.data.length ≠ 256 → findLine y num = some l → ∃ u g, exec (.yardWrite id .good) s = .next u ∧ u.mesh = s1.mesh ++ [g] ∧ g.kind = .ack ∧ g.dst = .core f.core ∧ g.seq = f.seq ∧
      findLine (getYard u p) num = some { l with dirty := true, data := splice l.data (f.addr % 256) f.data } ∧ u.outbox = s1.outbox)) ∧
  (∀ (s : State) (p : LandingPort) (num : Nat) (data : List Byte) (f : Flit), data.length = 256 → (getYard s p.val).stopped = false →
    (getYard s p.val).waiting.filter (fun g => lineOf g.addr == num) = [f] → findLine (getYard s p.val) num = none → f.kind = .readReq → f.group = [] → f.hint = 0 →
    (setOf (getYard s p.val) num).length < 16 →
    ∃ u g, exec (.yardFill p num data) s = .next u ∧ u.mesh = s.mesh ++ [g] ∧ g.kind = .readResp ∧ g.dst = .core f.core ∧ g.seq = f.seq ∧ g.data = slice data (f.addr % 256) f.len ∧
      findLine (getYard u p.val) num = some { num := num, dirty := false, data := data } ∧ (getYard u p.val).waiting = (getYard s p.val).waiting.filter (fun g => lineOf g.addr != num) ∧
      u.outbox = s.outbox) ∧
  (∀ (s : State) (pa : BitVec 48) (l : Line), findLine (getYard s (pa.toNat / 4096 % 16)) (lineOf pa.toNat) = some l →
    (∃ u, exec (.externalWrite pa) s = .next u ∧ findLine (getYard u (pa.toNat / 4096 % 16)) (lineOf pa.toNat) = none ∧
      (∀ n, n ≠ lineOf pa.toNat → findLine (getYard u (pa.toNat / 4096 % 16)) n = findLine (getYard s (pa.toNat / 4096 % 16)) n) ∧
      u.outbox = (if l.dirty then s.outbox ++ [.memWrite (pa.toNat / 4096 % 16) l.num l.data] else s.outbox) ∧ u = { s with yards := u.yards, outbox := u.outbox }) ∧
    exec (.externalRead pa) s = .next (if l.dirty then { s with outbox := s.outbox ++ [.external pa.toNat l.data] } else s)) ∧
  (∀ (s : State) (pa : BitVec 48), findLine (getYard s (pa.toNat / 4096 % 16)) (lineOf pa.toNat) = none →
    exec (.externalWrite pa) s = .next s ∧ exec (.externalRead pa) s = .next s)

/-! Windows and the commands that pass through them (R254 to R265). -/

/-- OPEN and CLOSE. OPEN takes effect on a closed window out of its guard interval with 0 ≤ FIRST ≤ LAST ≤ 767, a PERM other than 0, and REMOTEOK where AXES is not 0: the window is open with the epoch it had or, with SETEP, the one written. Otherwise it is ignored and WIN counter 9 counts it. CLOSE of an open window advances the epoch, starts a guard interval of 8,192 RCLK cycles and empties the slots that arrivals through the window hold, no other slot and no other window changing; of a closed one it is ignored and counted. The guard ends by itself. -/
def Obligations.WindowOpenClose : Prop :=
  (∀ (s u : State) (p : Port) (c : CoreId) (w : WinId) (se : Bool) (ep : BitVec 16), reaches s p (.core c 7) 0x740 u →
    (winAxes (getCore u c.val) w.val = 0 ∨ remoteOk u c.val = true) →
    let k := getCore u c.val
    exec (.windowOpen p c w se ep) s = .next (putCore u c.val (
      if (getWin k w.val).open_ = false ∧ (getWin k w.val).guard = false ∧ winFirst k w.val ≤ winLast k w.val ∧ winLast k w.val ≤ 767 ∧ winPerm k w.val ≠ 0 then
        modKPage { k with wins := fset k.wins w.val { getWin k w.val with open_ := true, epoch := if se then ep.toNat else (getWin k w.val).epoch, stale := 0 } } 7 fun g => bump g 4 1
      else modKPage k 7 fun g => bump g 9 1))) ∧
  (∀ (s u : State) (p : Port) (c : CoreId) (w : WinId) (se : Bool) (ep : BitVec 16), reaches s p (.core c 7) 0x740 u → winAxes (getCore u c.val) w.val ≠ 0 → remoteOk u c.val = false →
    ∃ v, exec (.windowOpen p c w se ep) s = .next v ∧ (getCore v c.val).wins = (getCore u c.val).wins ∧ (kPage (getCore v c.val) 7).cnt = (bump (kPage (getCore u c.val) 7) 9 1).cnt) ∧
  (∀ (s u : State) (p : Port) (c : CoreId) (w : WinId), reaches s p (.core c 7) 0x740 u →
    let s1 := inOrder u c.val 7
    let k := getCore s1 c.val
    ((getWin k w.val).open_ = false → exec (.windowClose p c w) s = .next (putCore s1 c.val (modKPage k 7 fun g => bump g 9 1))) ∧
    ((getWin k w.val).open_ = true →
      ∃ v, exec (.windowClose p c w) s = .next v ∧ onlyCore s1 v c.val ∧
        let k' := getCore v c.val
        getWin k' w.val = { getWin k w.val with open_ := false, epoch := ((getWin k w.val).epoch + 1) % 65536, guard := true, guardEnd := s1.now + 8192 * 17 } ∧
        (∀ v, v ≠ w.val → getWin k' v = getWin k v) ∧
        (∀ n, (tagOf k n).st = .held → (tagOf k n).owner = .remote → (tagOf k n).src = w.val → untagged k n = false → (tagOf k' n).st = .empty) ∧
        (∀ n, ¬ ((tagOf k n).st = .held ∧ (tagOf k n).owner = .remote ∧ (tagOf k n).src = w.val) → tagOf k' n = tagOf k n) ∧
        ∀ a, byteKept k k' a)) ∧
  (∀ (s : State) (c : CoreId) (w : WinId), (getWin (getCore s c.val) w.val).guard = true →
    let u := atLeast s (getWin (getCore s c.val) w.val).guardEnd
    exec (.guardExpiry c w) s = .next (putCore u c.val { getCore u c.val with wins := fset (getCore u c.val).wins w.val { getWin (getCore u c.val) w.val with guard := false } }))

/-- A write of another chip that arrives by a torus port for a core of this chip. A core that is FELLED refuses it with E_FELLED. Another refuses it by the first of the checks of R257 that it fails, with that check's counter and NACK code, and then changes no byte and no tag: a window closed or of another epoch (STALE counts it too), another tenant (E_TENANT in the BLK page), an axis or a permission that is not given, bytes past the window, a segment that is off, the slot's tag rule. One that passes them is written at FIRST + OFFSET and acknowledged on VC2 by the port it came by; where a forwarding window takes it at its X, Z or W port, its copy goes on to the next chip of the node first, and the acknowledgement waits for that copy's. -/
def Obligations.WindowChecks : Prop :=
  ∀ (s : State) (p : TorusPort) (h : RemoteHdr) (data : List Byte), h.kind = 0#4 → data.length = h.len.toNat → 1 ≤ data.length → data.length ≤ 256 → h.dstCore.toNat < 1200 →
    let c := h.dstCore.toNat
    let k := getCore s c
    let w := getWin k h.window.val
    let at_ := 1024 * winFirst k h.window.val + h.offset.toNat
    let nack := fun (u v : State) (code : Nat) => ∃ g, v.mesh = u.mesh ++ [g] ∧ g.kind = .nack ∧ g.vc = 2 ∧ g.dst = .torus p.val ∧ g.code = code
    let refused := fun (u : State) (counter code : Nat) =>
      exec (.remoteArrival (.torus p h data)) s = .next u ∧ (getCore u c).spd = k.spd ∧ (∀ d, d ≠ c → getCore u d = getCore s d) ∧
      (kPage (getCore u c) 7).cnt = (bump (kPage k 7) counter 1).cnt ∧ nack s u code
    let c1 := w.open_ = false ∨ w.epoch ≠ h.epoch.toNat
    let c2 := h.tenant.toNat ≠ winTenant k h.window.val
    let c3 := (winAxes k h.window.val).testBit (p.val / 2) = false
    let c4 := (winPerm k h.window.val).testBit 0 = false
    let c5 := winBytes k h.window.val < h.offset.toNat + data.length
    let c6 := segUp k (at_ / 65536) = false ∨ segUp k ((at_ + data.length - 1) / 65536) = false
    ((getOwner s c).felled = true → ∃ u, exec (.remoteArrival (.torus p h data)) s = .next u ∧ u = { s with mesh := u.mesh, nextFlit := u.nextFlit } ∧ nack s u 0x11) ∧
    ((getOwner s c).felled = false →
      (c1 → ∃ u, refused u 3 6 ∧ getWin (getCore u c) h.window.val = { w with stale := min 1023 (w.stale + 1) }) ∧
      (¬ c1 → c2 → ∃ u, refused u 1 6 ∧ u.blk.cnt = (bump s.blk 1 1).cnt) ∧
      (¬ c1 → ¬ c2 → c3 → ∃ u, refused u 1 6) ∧
      (¬ c1 → ¬ c2 → ¬ c3 → c4 → ∃ u, refused u 1 6) ∧
      (¬ c1 → ¬ c2 → ¬ c3 → ¬ c4 → c5 → ∃ u, refused u 2 4) ∧
      (¬ c1 → ¬ c2 → ¬ c3 → ¬ c4 → ¬ c5 → c6 → ∃ u, refused u 2 0x0E) ∧
      (¬ c1 → ¬ c2 → ¬ c3 → ¬ c4 → ¬ c5 → ¬ c6 →
        let s1 := inOrder (putCore s c (noteWork (touchData k s.now) s.now)) c 9
        let k1 := getCore s1 c
        let at1 := 1024 * winFirst k1 h.window.val + h.offset.toNat
        let t := tagOf k1 (at1 / 1024)
        let admits := lockedSlot k1 (at1 / 1024) = false ∧ (untagged k1 (at1 / 1024) = true ∨
          if h.slotStart then t.st = .empty ∧ t.rdpin = 0 else t.st = .held ∧ t.owner = .remote ∧ t.src = h.window.val)
        let stored := fun u : State => (∀ d, d ≠ c → getCore u d = getCore s1 d) ∧ (∀ n, n ≠ at1 / 1024 → tagOf (getCore u c) n = tagOf k1 n) ∧
          (untagged k1 (at1 / 1024) = true → tagOf (getCore u c) (at1 / 1024) = t) ∧ (∀ a, a < at1 ∨ at1 + data.length ≤ a → byteKept k1 (getCore u c) a) ∧
          (untagged k1 (at1 / 1024) = true → spdPeek (getCore u c) at1 data.length = data)
        (¬ admits → ∃ u, exec (.remoteArrival (.torus p h data)) s = .next u ∧ (∀ d, d ≠ c → getCore u d = getCore s1 d) ∧ (getCore u c).spd = k1.spd ∧
          (kPage (getCore u c) 7).cnt = (bump (kPage k1 7) 2 1).cnt ∧ nack s1 u 8) ∧
        (admits → k1.spd.bad = [] → (∀ g ∈ k1.spd.gather, g.bytes.length = 32) → p.val / 2 = 1 ∨ winFwd k1 h.window.val = false → h.fwdLeft = 0#2 →
          ∃ u g, exec (.remoteArrival (.torus p h data)) s = .next u ∧ stored u ∧ u.mesh = s1.mesh ++ [g] ∧ g.kind = .ack ∧ g.vc = 2 ∧ g.dst = .torus p.val) ∧
        (admits → k1.spd.bad = [] → (∀ g ∈ k1.spd.gather, g.bytes.length = 32) → p.val / 2 ≠ 1 → winFwd k1 h.window.val = true →
          ∃ u, exec (.remoteArrival (.torus p h data)) s = .next u ∧ stored u ∧ u.mesh = s1.mesh ∧
            u.outbox = s1.outbox ++ [.torus (nextInNode (torusHere s1)).2 { h with dstChip := (nextInNode (torusHere s1)).1, fwdLeft := 2#2 } data] ∧
            u.forwards = s1.forwards ++ [{ n := s1.nextForward, hdr := some h, report := none, port := p.val, own := 0 }])))

/-- VC3 commands to a core. Through a window that is open, of the header's epoch and tenant, and takes the axis, STOP and START set and clear STOP of the masked queues, CLOSE closes the window, CTXCMD acts as a write to SKD_CTXCMD, and each is answered with code 0; where not, each is answered with E_WINDOW_CLOSED, WIN counter 6 counts it, and nothing else changes. A FELLED core answers E_FELLED. An abort report needs no open window, only its tenant, and one of a core of this chip needs none: it empties the slots that arrivals of the stream hold; through a forwarding window it goes on to the next copy first. The answer to the copy of a flit or report: it is passed upstream by the port that the flit came by, with the code of the refusal if any copy refused it. An OP that the receiver does not take is refused: by a core as above, by the chip with E_TENANT and BLK counter 1. A core's command sent to the chip is refused so too. An ANSWER is never answered. The answer goes back the way the command came, with the code and the OP. -/
def Obligations.RemoteCommands : Prop :=
  (∀ (s : State) (v : Via) (h : WinCmd) (body : List Byte) (code : Nat),
    ∃ g, answerCmd s v h body code = { s with mesh := s.mesh ++ [g], nextFlit := s.nextFlit + 1 } ∧ g.vc = 3 ∧ g.kind = .command ∧ g.src = .core h.core.val ∧
      g.data = cmdBody 0x3F (bodyJob body) (natLe 1 code ++ natLe 1 (bodyOp body)) ∧ (∀ p, v = .port p → g.dst = .torus p) ∧ (∀ d, v = .loop d → g.dst = .core d)) ∧
  (∀ (s s1 : State) (src : CmdSrc) (v : Via) (h : WinCmd) (body : List Byte), src.wf = true → 
    let c := h.core.val
    let takes := fun op : Nat => takeCmd s src op = some (v, h, body, s1)
    let passes := fun k : Core => (getWin k h.win.val).open_ = true ∧ (getWin k h.win.val).epoch = h.epoch.toNat ∧ h.tenant.toNat = winTenant k h.win.val ∧
      ∀ p, v = .port p → (winAxes k h.win.val).testBit (p / 2) = true
    let answered := fun (u : State) (code : Nat) => answerCmd u v h body code
    let turned := fun i : Fin 14 => let e := cmdEnter s1 h i; answered (putCore e c (modKPage (getCore e c) 7 fun g => bump g 6 1)) 6
    ((getOwner s1 c).felled = true →
      (takes 1 → exec (.cmdStop src) s = .next (answered s1 0x11)) ∧ (takes 2 → exec (.cmdStart src) s = .next (answered s1 0x11)) ∧ (takes 3 → exec (.cmdClose src) s = .next (answered s1 0x11)) ∧
      (takes 4 → exec (.cmdCtxcmd src) s = .next (answered s1 0x11)) ∧
      (takes 5 → reportCopies (getCore s1 c) v h = 0 → exec (.cmdAbortrep src) s = .next (answered s1 0x11)) ∧
      (∀ op, srcOp s src = op → op ≠ 0x3F → op = 0 ∨ 5 < op → takes op → exec (.cmdRefused src) s = .next (answered s1 0x11))) ∧
    ((getOwner s1 c).felled = false →
      (let e := cmdEnter s1 h 0
       let k := getCore e c
       (takes 1 → passes k → ∃ u, exec (.cmdStop src) s = .next (answered u 0) ∧ onlyCore e u c ∧ (getCore u c).spd = k.spd ∧
         ∀ q, getQ (getCore u c) q = if (bodyArg body 8 1).testBit (qIdx q) then { getQ k q with stop := true } else getQ k q) ∧
       (takes 2 → passes k → ∃ u, exec (.cmdStart src) s = .next (answered u 0) ∧ onlyCore e u c ∧ (getCore u c).spd = k.spd ∧
         ∀ q, getQ (getCore u c) q = if (bodyArg body 8 1).testBit (qIdx q) then { getQ k q with stop := false, stoppedSeen := false } else getQ k q) ∧
       (takes 1 → ¬ passes k → exec (.cmdStop src) s = .next (turned 0)) ∧ (takes 2 → ¬ passes k → exec (.cmdStart src) s = .next (turned 0))) ∧
      (let e := cmdEnter s1 h 7
       let s2 := inOrder e c 7
       let w := getWin (getCore s2 c) h.win.val
       (takes 3 → passes (getCore e c) → w.open_ = true → ∃ u, exec (.cmdClose src) s = .next (answered u 0) ∧ onlyCore s2 u c ∧
         getWin (getCore u c) h.win.val = { w with open_ := false, epoch := (w.epoch + 1) % 65536, guard := true, guardEnd := s2.now + 8192 * 17 } ∧
         (∀ x, x ≠ h.win.val → getWin (getCore u c) x = getWin (getCore s2 c) x)) ∧
       (takes 3 → ¬ passes (getCore e c) → exec (.cmdClose src) s = .next (turned 7))) ∧
      (let e := cmdEnter s1 h 6
       (takes 4 → passes (getCore e c) → exec (.cmdCtxcmd src) s = .next (answered (ctxCommand e c (bodyArg body 8 4)) 0)) ∧
       (takes 4 → ¬ passes (getCore e c) → exec (.cmdCtxcmd src) s = .next (turned 6))) ∧
      (takes 5 →
        let e := cmdEnter s1 h 7
        let s2 := inOrder e c 7
        let k2 := getCore s2 c
        let onchip := h.direct = true ∧ ∃ d, v = .loop d
        let holds := fun n => (tagOf k2 n).st = .held ∧ (tagOf k2 n).fromCore = h.srcCore.toNat ∧ (tagOf k2 n).fromCtx = bodyArg body 8 2 % 1024 ∧
          ((onchip ∧ (tagOf k2 n).owner = .onchip) ∨ (¬ onchip ∧ (tagOf k2 n).owner = .remote ∧ (tagOf k2 n).src = h.win.val ∧ (tagOf k2 n).fromChip = h.srcChip))
        let empties := fun u : State => (∀ d, d ≠ c → getCore u d = getCore s2 d) ∧
          ∀ n, (holds n → untagged k2 n = false → (tagOf (getCore u c) n).st = .empty) ∧ (¬ holds n → tagOf (getCore u c) n = tagOf k2 n)
        (onchip ∨ h.tenant.toNat = winTenant (getCore e c) h.win.val →
          (reportCopies (getCore s1 c) v h = 0 → ∃ u, exec (.cmdAbortrep src) s = .next (answered u 0) ∧ onlyCore s2 u c ∧ empties u) ∧
          (∀ n p, v = .port p → reportCopies (getCore s1 c) v h = n + 1 →
            ∃ u, exec (.cmdAbortrep src) s = .next u ∧ empties u ∧ u.mesh = s2.mesh ∧
              u.outbox = s2.outbox ++ [.torusCmd (nextInNode (torusHere s1)).2 { h with dstChip := (nextInNode (torusHere s1)).1, fwdLeft := BitVec.ofNat 2 n } body] ∧
              u.forwards = s2.forwards ++ [{ n := s2.nextForward, hdr := none, report := some (h, body), port := p, own := 0 }])) ∧
        (¬ onchip → h.tenant.toNat ≠ winTenant (getCore e c) h.win.val → reportCopies (getCore s1 c) v h = 0 → exec (.cmdAbortrep src) s = .next (answered e 6))) ∧
      (∀ op, srcOp s src = op → op ≠ 0x3F → op = 0 ∨ 5 < op → takes op → exec (.cmdRefused src) s = .next (turned 7)))) ∧
  (∀ (s : State) (n : Nat) (code : Byte) (f : Forward), s.forwards.find? (fun f => f.n == n) = some f →
    let s1 := { s with forwards := s.forwards.filter fun g => g.n != n }
    let c := if f.own ≠ 0 then f.own else code.toNat
    (∀ h, f.hdr = some h →
      ∃ g, exec (.forwardAck n code) s = .next { s1 with mesh := s.mesh ++ [g], nextFlit := s.nextFlit + 1 } ∧
        g.vc = 2 ∧ g.dst = .torus f.port ∧ g.kind = (if c = 0 then .ack else .nack) ∧ g.code = c ∧ g.ctx = h.ctx.toNat ∧ g.seq = h.seq.toNat) ∧
    (∀ h body, f.hdr = none → f.report = some (h, body) → exec (.forwardAck n code) s = .next (answerCmd s1 (.port f.port) h body c))) ∧
  (∀ (s : State) (a : ChipId) (body : List Byte), body.length = 32 →
    let refused := Host.Outcome.next { s with blk := bump s.blk 1 1, outbox := s.outbox ++ [.chipCmd a (cmdBody 0x3F (bodyJob body) (natLe 1 9 ++ natLe 1 (bodyOp body)))] }
    (bodyOp body = 1 → exec (.cmdStop (.chip a body)) s = refused) ∧ (bodyOp body = 2 → exec (.cmdStart (.chip a body)) s = refused) ∧
    (bodyOp body = 3 → exec (.cmdClose (.chip a body)) s = refused) ∧ (bodyOp body = 4 → exec (.cmdCtxcmd (.chip a body)) s = refused) ∧
    (bodyOp body = 5 → exec (.cmdAbortrep (.chip a body)) s = refused) ∧
    (bodyOp body ≠ 0x3F → bodyOp body < 0x10 ∨ (0x16 < bodyOp body ∧ bodyOp body < 0x20) ∨ 0x23 < bodyOp body → exec (.cmdRefused (.chip a body)) s = refused)) ∧
  (∀ (s : State) (src : CmdSrc), src.wf = true → srcOp s src = 0x3F → exec (.cmdRefused src) s = .next s)

/-! Seeds, epochs and barriers of a job (R265 to R269). -/

/-- What a job shares. SEED, from the job's head chip or by WIN_JOBCMD, writes the VEC seed registers of every core of the job and no other register; EPOCH writes WIN_JEPOCH of each in the same way. WIN_JOBCMD on the head chip also sends the command to the other chips; on a member chip, or on a core of no job, it is ignored and WIN counter 9 counts it. A barrier: an enabled core takes 1 from its arrival semaphore and has arrived; with the last core of a member chip the chip sends ARRIVE of the next generation to the head chip, with the last core of the head chip it counts its own. The head chip counts each chip once for a generation, and the last one sends PASS; PASS adds 1 to the departure semaphore of every enabled core of the job that is not FELLED, takes its arrival back and gives it the generation. (Cores that do not doze.) A chip command of a job that is not loaded here is refused with E_TENANT, and BLK counter 1 counts it. -/
def Obligations.JobBroadcasts : Prop :=
  (∀ (s : State) (a : ChipId) (b : List Byte) (j : Job), b.length = 32 → jobById s (bodyJob b) = some j → a = headChip s j →
    (bodyOp b = 0x20 → ∃ u, exec (.cmdSeed (.chip a b)) s = .next (answerChip u a b 0) ∧ u = { s with cores := u.cores } ∧ (∀ c, c ∉ j.cores → getCore u c = getCore s c) ∧
      ∀ c ∈ j.cores, getCore u c = { getCore s c with pages := (getCore u c).pages } ∧ (∀ i, i ≠ 3 → kPage (getCore u c) i = kPage (getCore s c) i) ∧
        (∀ i, i < 4 → kReg (getCore u c) 3 (0x40 + 4 * i) = bodyArg b 8 16 / 2 ^ (32 * i) % 2 ^ 32) ∧ ∀ off, off < 0x40 ∨ 0x50 ≤ off → kReg (getCore u c) 3 off = kReg (getCore s c) 3 off) ∧
    (bodyOp b = 0x21 → ∃ u, exec (.cmdEpoch (.chip a b)) s = .next (answerChip u a b 0) ∧ u = { s with cores := u.cores } ∧ (∀ c, c ∉ j.cores → getCore u c = getCore s c) ∧
      ∀ c ∈ j.cores, getCore u c = { getCore s c with pages := (getCore u c).pages } ∧ (∀ i, i ≠ 7 → kPage (getCore u c) i = kPage (getCore s c) i) ∧
        kReg (getCore u c) 7 0x74C = bodyArg b 8 2 ∧ ∀ off, off ≠ 0x74C → kReg (getCore u c) 7 off = kReg (getCore s c) 7 off)) ∧
  (∀ (s u : State) (p : Port) (c : CoreId) (v : BitVec 16) (j : Job), reaches s p (.core c 7) 0x750 u → jobOfCore u c.val = some j → j.role ≠ 2 →
    (∃ w, exec (.jobcmdSeed p c) s = .next w ∧ (∀ d, d ∉ j.cores → getCore w d = getCore u d) ∧
      (∀ d ∈ j.cores, ∀ i, i < 4 → kReg (getCore w d) 3 (0x40 + 4 * i) = kReg (getCore u c.val) 3 (0x40 + 4 * i)) ∧
      w = { u with cores := w.cores, outbox := w.outbox } ∧
      w.outbox = if j.role = 1 then u.outbox ++ [.jobCmd j.jobid (cmdBody 0x20 j.jobid (natLe 16 (seedOf (getCore u c.val)) ++ natLe 2 j.gen))] else u.outbox) ∧
    (∃ w, exec (.jobcmdEpoch p c v) s = .next w ∧ (∀ d, d ∉ j.cores → getCore w d = getCore u d) ∧ (∀ d ∈ j.cores, kReg (getCore w d) 7 0x74C = v.toNat) ∧
      w = { u with cores := w.cores, outbox := w.outbox } ∧
      w.outbox = if j.role = 1 then u.outbox ++ [.jobCmd j.jobid (cmdBody 0x21 j.jobid (natLe 2 v.toNat))] else u.outbox)) ∧
  (∀ (s u : State) (p : Port) (c : CoreId) (v : BitVec 16), reaches s p (.core c 7) 0x750 u → (∀ j, jobOfCore u c.val = some j → j.role = 2) →
    exec (.jobcmdSeed p c) s = .next (putCore u c.val (modKPage (getCore u c.val) 7 fun g => bump g 9 1)) ∧
    exec (.jobcmdEpoch p c v) s = .next (putCore u c.val (modKPage (getCore u c.val) 7 fun g => bump g 9 1))) ∧
  (∀ (s : State) (c : CoreId) (j : Job), jobOfCore s c.val = some j → jobById s j.jobid = some j → notDozing (getCore s c.val) →
    let k := getCore s c.val
    let cfg := kReg k 7 0x744
    let sem := fld cfg 0 5
    let here := putCore s c.val { semPut k sem (semGet k sem - 1) with barrier := { k.barrier with arrived := true } }
    let gen := (k.barrier.gen + 1) % 65536
    cfg.testBit 31 = true → k.barrier.arrived = false → (getOwner s c.val).felled = false → 1 ≤ semGet k sem →
    ((∃ d ∈ j.cores, d ≠ c.val ∧ (getCore s d).barrier.arrived = false ∧ (getOwner s d).felled = false) → exec (.barrierCoreArrive c) s = .next here) ∧
    ((∀ d ∈ j.cores, d ≠ c.val → (getCore s d).barrier.arrived = true ∨ (getOwner s d).felled = true) → (∀ d ∈ j.cores, (getCore s d).barrier.gen = k.barrier.gen) → j.chipArrived = false →
      (j.role = 2 → exec (.barrierCoreArrive c) s = .next (emit (modJob here j.jobid fun j => { j with chipArrived := true }) (.chipCmd j.head (cmdBody 0x22 j.jobid (natLe 2 gen))))) ∧
      (j.role ≠ 2 → (gen, torusHere s) ∉ j.arrived → (j.arrived.filter fun a => a.1 = gen).length + 1 < j.nchips →
        exec (.barrierCoreArrive c) s = .next (modJob here j.jobid fun j => { j with chipArrived := true, arrived := j.arrived ++ [(gen, torusHere s)] })) ∧
      (j.role = 0 → (gen, torusHere s) ∉ j.arrived → j.nchips ≤ 1 →
        exec (.barrierCoreArrive c) s = .next (barrierPass (modJob here j.jobid fun j => { j with chipArrived := true, arrived := j.arrived ++ [(gen, torusHere s)] }) j.jobid gen)))) ∧
  (∀ (s : State) (a : ChipId) (b : List Byte) (j : Job), b.length = 32 → bodyOp b = 0x22 → jobById s (bodyJob b) = some j → j.role ≠ 2 →
    (a = torusHere s ∨ (j.role = 1 ∧ Config.jobChip a j.jobid = true)) →
    let gen := bodyArg b 8 2
    let counted := modJob s j.jobid fun j => { j with arrived := j.arrived ++ [(gen, a)] }
    ((gen, a) ∈ j.arrived → exec (.cmdArrive (.chip a b)) s = .next (answerChip s a b 0)) ∧
    ((gen, a) ∉ j.arrived → (j.arrived.filter fun a => a.1 = gen).length + 1 < j.nchips → exec (.cmdArrive (.chip a b)) s = .next (answerChip counted a b 0)) ∧
    ((gen, a) ∉ j.arrived → j.nchips ≤ (j.arrived.filter fun a => a.1 = gen).length + 1 →
      exec (.cmdArrive (.chip a b)) s = .next (answerChip (barrierPass (if j.role = 1 then emit counted (.jobCmd j.jobid (cmdBody 0x23 j.jobid (natLe 2 gen))) else counted) j.jobid gen) a b 0))) ∧
  (∀ (s : State) (a : ChipId) (b : List Byte) (j : Job), b.length = 32 → bodyOp b = 0x23 → jobById s (bodyJob b) = some j → a = headChip s j → j.cores.Nodup → (∀ c ∈ j.cores, notDozing (getCore s c)) →
    let gen := bodyArg b 8 2
    ∃ u, exec (.cmdPass (.chip a b)) s = .next (answerChip u a b 0) ∧ u = barrierPass s j.jobid gen ∧
      (j.role = 0 ∨ (∃ c ∈ j.cores, (getOwner s c).felled = false) →
        u = { s with cores := u.cores, jobs := (modJob s j.jobid fun j => { j with chipArrived := false, barGen := gen, arrived := j.arrived.filter fun a => a.1 ≠ gen }).jobs }) ∧
      (∀ c, c ∉ j.cores → getCore u c = getCore s c) ∧
      ∀ c ∈ j.cores, getCore u c =
        if (kReg (getCore s c) 7 0x744).testBit 31 = true ∧ (getOwner s c).felled = false then
          modKPage { semAdd (getCore s c) (fld (kReg (getCore s c) 7 0x744) 5 5) 1 with barrier := { gen := gen, arrived := false } } 7 fun g => bump g 8 1
        else getCore s c) ∧
  (∀ (s : State) (a : ChipId) (b : List Byte), b.length = 32 → jobById s (bodyJob b) = none →
    let refused := Host.Outcome.next { s with blk := bump s.blk 1 1, outbox := s.outbox ++ [.chipCmd a (cmdBody 0x3F (bodyJob b) (natLe 1 9 ++ natLe 1 (bodyOp b)))] }
    (bodyOp b = 0x10 → exec (.cmdPrepare (.chip a b)) s = refused) ∧ (bodyOp b = 0x11 → exec (.cmdReady (.chip a b)) s = refused) ∧
    (bodyOp b = 0x12 → exec (.cmdCommit (.chip a b)) s = refused) ∧ (bodyOp b = 0x13 → exec (.cmdDone (.chip a b)) s = refused) ∧
    (bodyOp b = 0x14 → exec (.cmdRelease (.chip a b)) s = refused) ∧ (bodyOp b = 0x15 → exec (.cmdAbort (.chip a b)) s = refused) ∧
    (bodyOp b = 0x16 → exec (.cmdSwapreq (.chip a b)) s = refused) ∧ (bodyOp b = 0x20 → exec (.cmdSeed (.chip a b)) s = refused) ∧
    (bodyOp b = 0x21 → exec (.cmdEpoch (.chip a b)) s = refused) ∧ (bodyOp b = 0x22 → exec (.cmdArrive (.chip a b)) s = refused) ∧
    (bodyOp b = 0x23 → exec (.cmdPass (.chip a b)) s = refused))

/-! The scale file, the history slots, the tally totals (R106, R281, R295, R296, R306). -/

/-- A port's write of QNT_SRSCALE, QNT_SRFLATV or QNT_SRZP changes the selected entry of the selected bank and no other entry; while a descriptor in flight uses the bank it changes none, QNT_STATUS.SRDROP is set and QNT counter 8 counts it. SRZP, written or read, moves INDEX on under INC, and a read returns the entry's FLAT and ZP. CLR empties a history slot; a change of LEN empties it and sets LEN, with 0 and values above 16 taken as 16. TLY_CTRL.CLR sets the six totals and TLY_AMAX to 0. Nothing else changes. -/
def Obligations.QuantiserRegisters : Prop :=
  (∀ (s s1 : State) (p : Port) (c : CoreId) (r : ScaleReg) (v : Word),
    let k := getCore s1 c.val
    let b := selBank k
    let i := fld (kReg k 9 0x4C) 0 10
    reaches s p (.core c 9) (match r with | .srscale => 0x50 | .srflatv => 0x54 | .srzp => 0x58) s1 →
    ∃ u, exec (.scaleFileWrite p c r v) s = .next u ∧ onlyCore s1 u c.val ∧
      let k' := getCore u c.val
      (kReg k' 9 0x4C = if r = .srzp ∧ (kReg k 9 0x4C).testBit 30 then kReg k 9 0x4C - i + (i + 1) % 1024 else kReg k 9 0x4C) ∧
      (bankBusy k b = false →
        (∀ a n, fileEntry k' a n =
          if (a = 0 ↔ b = 0) ∧ n = i then
            (match r with
             | .srscale => { fileEntry k b i with scale := v }
             | .srflatv => { fileEntry k b i with flatv := v }
             | .srzp => { fileEntry k b i with zp := BitVec.ofNat 8 v.toNat, flat := v.toNat.testBit 8 })
          else fileEntry k a n) ∧ (kPage k' 9).cnt = (kPage k 9).cnt) ∧
      (bankBusy k b = true → k'.qnt = k.qnt ∧ (kReg k' 9 0x44).testBit 3 = true ∧ (kPage k' 9).cnt = (bump (kPage k 9) 8 1).cnt) ∧
      k' = { k with pages := k'.pages, qnt := k'.qnt } ∧ ∀ j, j ≠ 9 → kPage k' j = kPage k j) ∧
  (∀ (s : State) (p : Port) (c : CoreId), readable s p (.core c 9) 0x58 →
    let k := getCore s c.val
    let w := kReg k 9 0x4C
    let e := fileEntry k (selBank k) (fld w 0 10)
    exec (.srzpAccess p c) s = .next (modLatch
      (putCore s c.val (if w.testBit 30 then setKReg k 9 0x4C (w - fld w 0 10 + (fld w 0 10 + 1) % 1024) else k)) p
      fun l => { l with data := natLe 4 ((if e.flat then 256 else 0) + e.zp.toNat) })) ∧
  (∀ (s s1 : State) (p : Port) (c : CoreId) (h : Fin 16) (len : BitVec 5), reaches s p (.core c 9) (0x64 + 4 * h.val) s1 →
    let k := getCore s1 c.val
    let n := if len = 0#5 ∨ 16 < len.toNat then 16 else len.toNat
    (∃ u, exec (.histClr p c h) s = .next u ∧ onlyCore s1 u c.val ∧ getCore u c.val = { k with qnt := { k.qnt with hist := (getCore u c.val).qnt.hist } } ∧
      ∀ m, fget (getCore u c.val).qnt.hist m [] = if m = h.val then [] else fget k.qnt.hist m []) ∧
    (fld (kReg k 9 (0x64 + 4 * h.val)) 0 5 = n → exec (.histLenWrite p c h len) s = .next (putCore s1 c.val k)) ∧
    (fld (kReg k 9 (0x64 + 4 * h.val)) 0 5 ≠ n →
      ∃ u, exec (.histLenWrite p c h len) s = .next u ∧ onlyCore s1 u c.val ∧ kReg (getCore u c.val) 9 (0x64 + 4 * h.val) = n ∧
        (∀ off, off ≠ 0x64 + 4 * h.val → kReg (getCore u c.val) 9 off = kReg k 9 off) ∧ (∀ j, j ≠ 9 → kPage (getCore u c.val) j = kPage k j) ∧
        ∀ m, fget (getCore u c.val).qnt.hist m [] = if m = h.val then [] else fget k.qnt.hist m [])) ∧
  (∀ (s s1 : State) (p : Port) (c : CoreId), reaches s p (.core c 8) 0x5C s1 →
    ∃ u, exec (.tlyClr p c) s = .next u ∧ onlyCore s1 u c.val ∧ getCore u c.val = { getCore s1 c.val with pages := (getCore u c.val).pages } ∧
      (∀ i, i < 7 → kReg (getCore u c.val) 8 (0x40 + 4 * i) = 0) ∧ (∀ off, off < 0x40 ∨ 0x5C ≤ off → kReg (getCore u c.val) 8 off = kReg (getCore s1 c.val) 8 off) ∧
      ∀ j, j ≠ 8 → kPage (getCore u c.val) j = kPage (getCore s1 c.val) j)

/-! The grove: its clocks and its port (R356 to R366). -/

/-- The clocks of a grove. A write to GRV_CLKn that R358 turns away changes nothing, and GRV counter 8 counts it. Any other is stored and, with no switch of the region under way, begins one. A switch whose sources give edges ends on its new source, counted in GRV counter 6; a setting written meanwhile begins its own. A source that is silent for 64 RCLK cycles loses the region that waits for it or that it clocks, with its LOST bit and GRV counter 7. -/
def Obligations.GroveClocks : Prop :=
  (∀ (s s1 : State) (p : Port) (c : CoreId) (n : Fin 4) (v : Word), reaches s p (.core c 10) (0x40 + 4 * n.val) s1 →
    let k := getCore s1 c.val
    let lim := kReg k 10 0x58
    let div := v.toNat / 16 % 32
    let refused := (v.toNat % 4 = 0 ∧ div < fld lim (4 * n.val) 4 + 1) ∨ div < 2 ∨ 16 < div ∨ (v.toNat % 4 = 2 ∧ (lim.testBit (16 + n.val) = false ∨ 40 ≤ c.val))
    (refused → exec (.clockSwitch p c n v) s = .next (putCore s1 c.val (modKPage k 10 fun g => bump g 8 1))) ∧
    (¬ refused → ∃ u, exec (.clockSwitch p c n v) s = .next u ∧ onlyCore s1 u c.val ∧ kReg (getCore u c.val) 10 (0x40 + 4 * n.val) = v.toNat % 4 + 16 * div ∧
      getRegion (getCore u c.val) n.val =
        (if (getRegion k n.val).switching then getRegion k n.val
         else { getRegion k n.val with switching := true, since := s1.now, target := v &&& 0x1F3#32 }) ∧
      (∀ m, m ≠ n.val → getRegion (getCore u c.val) m = getRegion k m) ∧ (kPage (getCore u c.val) 10).cnt = (kPage k 10).cnt)) ∧
  (∀ (s : State) (c : CoreId) (n : Fin 4),
    let r := getRegion (getCore s c.val) n.val
    let s1 := atLeast s (r.since + switchTime r)
    let k := getCore s1 c.val
    let r1 := getRegion k n.val
    let stuck := (clkSrc r.target = 2 ∧ bankClock s c.val = false) ∨ (r.lost = false ∧ clkSrc r.cur = 2 ∧ bankClock s c.val = false)
    (r.switching = false ∨ stuck → exec (.clockSwitchDone c n) s = .next s) ∧
    (r.switching = true → ¬ stuck → kReg k 10 (0x40 + 4 * n.val) = r.target.toNat →
      exec (.clockSwitchDone c n) s = .next (putCore s1 c.val (modKPage { k with grv := { k.grv with
        regions := fset k.grv.regions n.val { r1 with switching := false, cur := r1.target, lost := false } } } 10 fun g => bump g 6 1))) ∧
    (r.switching = true → ¬ stuck → kReg k 10 (0x40 + 4 * n.val) ≠ r.target.toNat →
      ∃ u, exec (.clockSwitchDone c n) s = .next u ∧ onlyCore s1 u c.val ∧
        getRegion (getCore u c.val) n.val = { r1 with switching := true, since := s1.now, cur := r1.target, lost := false, target := word (kReg k 10 (0x40 + 4 * n.val)) } ∧
        (kPage (getCore u c.val) 10).cnt = (bump (kPage k 10) 6 1).cnt)) ∧
  (∀ (s : State) (c : CoreId) (n : Fin 4),
    let r := getRegion (getCore s c.val) n.val
    let stuck := (clkSrc r.target = 2 ∧ bankClock s c.val = false) ∨ (r.lost = false ∧ clkSrc r.cur = 2 ∧ bankClock s c.val = false)
    let loses := fun s1 : State => let k := getCore s1 c.val
      ∃ u, exec (.clockLost c n) s = .next u ∧ onlyCore s1 u c.val ∧
        getRegion (getCore u c.val) n.val = (let q := getRegion k n.val; { q with switching := false, lost := true, cur := if q.switching then q.target else q.cur }) ∧
        (∀ m, m ≠ n.val → getRegion (getCore u c.val) m = getRegion k m) ∧ (kReg (getCore u c.val) 10 0x50).testBit (8 + n.val) = true ∧
        (kPage (getCore u c.val) 10).cnt = (bump (kPage k 10) 7 1).cnt ∧ (getCore u c.val).spd = k.spd
    (r.switching = true → stuck → loses (atLeast s (r.since + 17 * 64))) ∧
    (r.switching = false → r.lost = false → clkSrc r.cur = 2 → bankClock s c.val = false → loses s) ∧
    ((r.switching = true ∧ ¬ stuck) ∨ (r.switching = false ∧ (r.lost = true ∨ clkSrc r.cur ≠ 2 ∨ bankClock s c.val = true)) → exec (.clockLost c n) s = .next s))

/-- The grove port. GVOP waits while the grove blanks or an ABORT has no answer; on a halted grove it fails in its window with E_SCRUB_MISMATCH; one that fails its checks fails in its window with their code; one that issues takes its output slots, pins its input slots and sends its command with a tag. PORT_IN_BEAT: the next operand beat of the oldest GVOP that has one left is read and leaves while a credit is there, with its markers; wrong parity fails the GVOP. PORT_IN_CREDIT: the grove takes the oldest one at an edge of GCLK0, and its credit comes back. PORT_OUT_BEAT: a result beat stands in the OUT buffer for its row and column, one past the rows or the row's end, or of no GVOP that runs, is discarded and counted in GRV counter 9; a SCATTER beat where the slot does not allow it is discarded and counted; a beat of the buffer is written when it is due and its credit comes back. PORT_DONE with OK finishes the GVOP of its tag, with ERR fails it with E_RESIDUE, counted in GRV counter 5; PORT_ABORTED frees an aborted tag. PORT_TIMEOUT: a silent port fails the oldest GVOP that has not been answered with E_STALL_CYCLE, counted in GRV counter 4, unless TIMEOUT is 0. The grove's side acts only while GCLK0 runs. -/
def Obligations.GrovePortRule : Prop :=
  (∀ (s : State) (c : CoreId) (e : Fetched), readyHead s c.val .gvq = some e → opOf e.raw = 0x50 → (getCore s c.val).gvq.fb = none →
    let k := getCore s c.val
    let raw := effective k.gvq.loops k.gvq.issue e.raw
    let p := gvopPlan k k.gvq.loops raw e
    let u := slotUse k p raw
    let s1 := inOrder (atLeast s k.gvq.winEnd) c.val (rankIssue k .gvq)
    let k1 := getCore s1 c.val
    let waits := (∃ o ∈ k.grv.port.ops, o.aborting = true) ∨ k.grv.blanking ≠ none
    let fails := fun (code : Nat) (detail : Word) (page : Nat) =>
      ∃ v f, exec (.gvop c) s = .next v ∧ onlyCore s1 v c.val ∧ (getCore v c.val).gvq.flights = k1.gvq.flights ++ [f] ∧ f.raw = raw ∧ f.work = .failed code detail page
    (waits → exec (.gvop c) s = .next s) ∧
    (¬ waits → k.grv.halted = true → (semsReady k .gvq e = true → fails 0x0D 0#32 10) ∧ (semsReady k .gvq e = false → exec (.gvop c) s = .next s)) ∧
    (¬ waits → k.grv.halted = false →
      (touchesOff k (p.ins ++ p.outs ++ trecRegion raw) = true → fails 0x0E 0#32 5) ∧
      (touchesOff k (p.ins ++ p.outs ++ trecRegion raw) = false → semsReady k .gvq e = false → exec (.gvop c) s = .next s) ∧
      (touchesOff k (p.ins ++ p.outs ++ trecRegion raw) = false → semsReady k .gvq e = true →
        (¬ (u.ins.all (mayRead k) = true ∧ u.outs.all (mayTake k) = true) →
          ∃ v, exec (.gvop c) s = .next v ∧ onlyCore s v c.val ∧ (getCore v c.val).spd = k.spd ∧ (getCore v c.val).gvq.flights = k.gvq.flights) ∧
        (u.ins.all (mayRead k) = true → u.outs.all (mayTake k) = true →
          (∀ err, windowFail k1 .gvq p u raw = some err → fails err.code err.detail err.page) ∧
          (windowFail k1 .gvq p u raw = none → p.null = true →
            ∃ v f, exec (.gvop c) s = .next v ∧ onlyCore s1 v c.val ∧ (getCore v c.val).gvq.flights = k1.gvq.flights ++ [f] ∧ f.raw = raw ∧ f.null = true ∧ f.ends = s1.now + 8) ∧
          (windowFail k1 .gvq p u raw = none → p.null = false →
            ∃ v f t, exec (.gvop c) s = .next v ∧ v = { s1 with cores := v.cores, outbox := v.outbox } ∧ (∀ d, d ≠ c.val → getCore v d = getCore s1 d) ∧
              (∀ a, byteKept k1 (getCore v c.val) a) ∧ (getCore v c.val).gvq.flights = k1.gvq.flights ++ [f] ∧ f.raw = raw ∧ f.work = .running ∧ f.tag = t ∧
              v.outbox = s1.outbox ++ [.groveCmd c.val t (gvSlot raw) (slice raw 0x10 44 ++ natLe 2 (gvExts k1 k1.gvq.loops raw).1 ++ natLe 2 (gvExts k1 k1.gvq.loops raw).2 ++ natLe 1 (leAt raw 1 1))] ∧
              (∃ o, (getCore v c.val).grv.port.ops = k1.grv.port.ops ++ [o] ∧ o.tag = t ∧ o.raw = raw ∧ o.beats = [] ∧ o.answered = false ∧ o.aborting = false) ∧
              (∀ n ∈ u.outs, untagged k1 n = false → (tagOf (getCore v c.val) n).st = .held ∧ (tagOf (getCore v c.val) n).owner = .queue .gvq)))))) ∧
  (∀ (s : State) (c : CoreId),
    let k := getCore s c.val
    (nextSender k = none ∨ inCredits k ≤ k.grv.port.inBuf.length → exec (.portInBeat c) s = .next s) ∧
    ∀ o, nextSender k = some o → portOp k o.tag = some o → k.grv.port.inBuf.length < inCredits k →
      let i := o.beats.length
      let per := gvPerRow o.raw o.cols
      let rs := (beatRegions o.raw o.cols i).1 :: (beatRegions o.raw o.cols i).2
      (badInRegions (flushRegions k rs) rs = none →
        ∃ u bs, exec (.portInBeat c) s = .next u ∧ (∀ d, d ≠ c.val → getCore u d = getCore s d) ∧ bs = gvBeat (flushRegions k rs) o.raw o.cols i ∧
          u.outbox = s.outbox ++ [.groveBeat c.val o.tag ((i + 1) % per = 0) (i + 1 = o.rows * per) bs] ∧ portOp (getCore u c.val) o.tag = some { o with beats := o.beats ++ [bs] } ∧
          (getCore u c.val).grv.port.inBuf = k.grv.port.inBuf ++ [bs] ∧ (∀ a, byteKept k (getCore u c.val) a) ∧ (getCore u c.val).spd.tags = k.spd.tags) ∧
      (∀ w, badInRegions (flushRegions k rs) rs = some w →
        ∃ u, exec (.portInBeat c) s = .next u ∧ onlyCore s u c.val ∧ (getCore u c.val).gvq.flights = k.gvq.flights.map fun f =>
          if f.work = .running ∧ f.null = false ∧ f.tag = o.tag then { f with work := .failed 1 (addrDetail w) 5 } else f)) ∧
  (∀ (s : State) (c : CoreId),
    let g := (getCore s c.val).grv.port
    let s1 := atEdge s c.val ((g.taken.map (· + 1)).getD 0)
    let k := getCore s1 c.val
    (g.inBuf = [] ∨ clkRuns s c.val 0 = false → exec (.portInCredit c) s = .next s) ∧
    (g.inBuf ≠ [] → clkRuns s c.val 0 = true →
      exec (.portInCredit c) s = .next (putCore s1 c.val (modKPage { k with grv := { k.grv with
        port := { k.grv.port with inBuf := k.grv.port.inBuf.drop 1, taken := some s1.now } } } 10 fun g => bump g 1 1)))) ∧
  (∀ (s : State) (c : CoreId) (t : Fin 4) (beat : OutBeat), beat.wf = true →
    let u := withCredit (atEdge s c.val s.now) c.val
    let k := getCore u c.val
    let done := fun (k1 : Core) => Host.Outcome.next (putCore u c.val { k1 with grv := { k1.grv with port := { k1.grv.port with last := u.now } } })
    let dropped := modKPage k 10 fun g => bump g 9 1
    (clkRuns s c.val 0 = false → exec (.portOutBeat c t beat) s = .next s) ∧
    (clkRuns s c.val 0 = true →
      (portOp k t.val = none → exec (.portOutBeat c t beat) s = .next (putCore u c.val dropped)) ∧
      (∀ o, portOp k t.val = some o → o.aborting = true → exec (.portOutBeat c t beat) s = .next (putCore u c.val dropped)) ∧
      (∀ o, liveOp k t.val = some o →
        let stands := fun (n : Nat) (rowEnd : Bool) (bs : List Byte) =>
          (o.rows ≤ o.row ∨ o.cols ≤ o.col ∨ o.cols < o.col + n →
            ∃ v, exec (.portOutBeat c t beat) s = .next v ∧ onlyCore u v c.val ∧ (getCore v c.val).spd = k.spd ∧ (getCore v c.val).grv.port.outBuf = k.grv.port.outBuf ∧
              (kPage (getCore v c.val) 10).cnt = (bump (kPage k 10) 9 1).cnt) ∧
          (o.row < o.rows → o.col < o.cols → o.col + n ≤ o.cols →
            ∃ v o1, exec (.portOutBeat c t beat) s = .next v ∧ onlyCore u v c.val ∧ (getCore v c.val).spd = k.spd ∧ portOp (getCore v c.val) t.val = some o1 ∧
              o1 = { o with counts := o1.counts, row := if rowEnd then o.row + 1 else o.row, col := if rowEnd then 0 else o.col + n } ∧
              (getCore v c.val).grv.port.outFree = k.grv.port.outFree - 1 ∧
              let off := gvOoff o.raw + o.row * gvOstride o.raw + o.col * typeBits (gvO o.raw) / 8
              ∃ d, (getCore v c.val).grv.port.outBuf = k.grv.port.outBuf ++ [{ tag := t.val, due := d, body := .result off (bs.take (rowBytes (gvO o.raw) n)) n }])
        (operatorOf k (gvSlot o.raw) = none →
          (∀ re l bs, beat = .result re l bs → stands (if re then min (beatElems (typeBits (gvO o.raw))) (o.cols - o.col) else beatElems (typeBits (gvO o.raw))) re bs) ∧
          (∀ ws, beat = .scatter ws →
            ((slotDecl k (gvSlot o.raw)).info.toNat.testBit 29 = false → exec (.portOutBeat c t beat) s = done dropped) ∧
            ((slotDecl k (gvSlot o.raw)).info.toNat.testBit 29 = true →
              ∃ v d, exec (.portOutBeat c t beat) s = .next v ∧ onlyCore u v c.val ∧ (getCore v c.val).spd = k.spd ∧
                (getCore v c.val).grv.port.outBuf = k.grv.port.outBuf ++ [{ tag := t.val, due := d, body := .scatter ws }]))) ∧
        (∀ op, operatorOf k (gvSlot o.raw) = some op →
          (operBeat o op = none → exec (.portOutBeat c t beat) s = done k) ∧
          (∀ n bs cs, operBeat o op = some (n, bs, cs) → stands n (o.col + n = o.cols) bs))))) ∧
  (∀ (k : Core) (e : OutEntry) (o : PortOp) (off : Nat) (bs : List Byte) (n : Nat), portOp k e.tag = some o → o.aborting = false → e.body = .result off bs n → k.spd.bad = [] →
    let k' := writeEntry k e
    (∀ i, i < bs.length → memGet k'.spd.mem (off + i) = bs.getD i 0#8) ∧ (∀ a, a < off ∨ off + bs.length ≤ a → byteKept k k' a) ∧ k'.spd.tags = k.spd.tags ∧
      portOp k' e.tag = some { o with elems := o.elems + n } ∧ (kPage k' 10).cnt = (bump (kPage k 10) 2 1).cnt) ∧
  (∀ (s : State) (c : CoreId) (t : Fin 4) (tally : List Byte), tally.length = 32 →
    let s1 := outWritten (atEdge s c.val s.now) c.val t.val
    let k := getCore s1 c.val
    let may := (liveOp (getCore s c.val) t.val).any (mayAnswer (getCore s c.val)) = true ∧ clkRuns s c.val 0 = true
    let mine := fun f : Flight => f.work = .running ∧ f.null = false ∧ f.tag = t.val
    (∀ ok, ¬ may → exec (.portDone c t ok tally) s = .next s) ∧
    (∀ o, may → liveOp k t.val = some o →
      (∃ u, exec (.portDone c t true tally) s = .next u ∧ onlyCore s1 u c.val ∧ (∀ q, q ≠ .gvq → getQ (getCore u c.val) q = getQ k q) ∧
        (getCore u c.val).gvq.flights = k.gvq.flights.map (fun f => if mine f then { f with work := .finished, counts := gvCounts k o tally } else f) ∧
        portOp (getCore u c.val) t.val = some { o with answered := true } ∧ (getCore u c.val).spd.tags = k.spd.tags ∧ ∀ a, byteKept k (getCore u c.val) a) ∧
      (∃ u, exec (.portDone c t false tally) s = .next u ∧ onlyCore s1 u c.val ∧
        (getCore u c.val).gvq.flights = k.gvq.flights.map (fun f => if mine f then { f with work := .failed 2 0#32 10 } else f) ∧
        (getCore u c.val).spd = k.spd ∧ (kPage (getCore u c.val) 10).cnt = (bump (kPage k 10) 5 1).cnt))) ∧
  (∀ (s : State) (c : CoreId) (t : Fin 4),
    let s1 := atEdge s c.val s.now
    let k := getCore s1 c.val
    (clkRuns s c.val 0 = false → exec (.portAborted c t) s = .next s) ∧
    (∀ o, clkRuns s c.val 0 = true → portOp k t.val = some o → o.aborting = true →
      exec (.portAborted c t) s = .next (putCore s1 c.val { k with grv := { k.grv with port := { k.grv.port with
        ops := k.grv.port.ops.filter fun o => o.tag ≠ t.val, last := s1.now } } }))) ∧
  (∀ (s : State) (c : CoreId),
    let k := getCore s c.val
    let to_ := fld (kReg k 10 0x54) 0 20
    let u := atLeast s (k.grv.port.last + 17 * to_)
    (to_ = 0 ∨ (∀ f ∈ k.gvq.flights, f.work ≠ .running ∨ f.null = true) → exec (.portTimeout c) s = .next s) ∧
    (∀ f, to_ ≠ 0 → k.gvq.flights.find? (fun f => f.work = .running && !f.null) = some f →
      ∃ v, exec (.portTimeout c) s = .next v ∧ onlyCore u v c.val ∧
        (getCore v c.val).gvq.flights = (getCore u c.val).gvq.flights.map (fun g => if g.work = .running ∧ g.null = false ∧ g.tag = f.tag then { g with work := .failed 7 0#32 10 } else g) ∧
        (kPage (getCore v c.val) 10).cnt = (bump (kPage (getCore u c.val) 10) 4 1).cnt))

/-! Fabric I/O (R371 to R378). -/

/-- The fabric I/O block. A bank whose supply goes away or disagrees sets MISMATCH, raises FIO and counts in FIO counter 5, once; one that agrees clears it. A bank clock that stops clears CLKOK, sets CLKLOST, counts in FIO counter 6, and each region that it clocks in the bank's ten cores is lost. An accepted change of a pin's level that EDGE does not admit only moves the level; one that it admits is an event, with the time of its first sample. An event of an ARMED pin within LIMIT waits for delivery; the one that exceeds LIMIT is a rate storm and is suppressed; any event of a masked pin is suppressed. A delivery raises FIO, counts in FIO counter 0, goes to the owner's tenant, and with TSEN is captured in the bank's timestamp registers. A window's end restarts the count. A pin stuck for its time storms. REARM clears STORM, STUCK and SUPP, sets ARMED and restarts the window and the stuck timer; commanded after an event of its pin in the same RCLK cycle, it takes effect in the next one. A read of FIO_TSLOb latches FIO_TSHIb for its port. Nothing else changes. -/
def Obligations.FabricIo : Prop :=
  (∀ (s : State) (b : BankId),
    let k := getBank s b.val
    exec (.supplyStatusChange b true) s = .next { s with banks := fset s.banks b.val { k with supplyOk := true, mismatch := false } } ∧
    (k.mismatch = true → exec (.supplyStatusChange b false) s = .next { s with banks := fset s.banks b.val { k with supplyOk := false } }) ∧
    (k.mismatch = false → exec (.supplyStatusChange b false) s = .next { s with
      banks := fset s.banks b.val { k with supplyOk := false, mismatch := true }, fioPage := bump s.fioPage 5 1, evPend := s.evPend ||| 0x80#8 }) ∧
    (k.clkOk = false → exec (.bankClockLost b) s = .next s) ∧
    (k.clkOk = true → ∃ u, exec (.bankClockLost b) s = .next u ∧ u = { s with banks := u.banks, fioPage := u.fioPage, cores := u.cores } ∧
      u.banks = fset s.banks b.val { k with clkOk := false } ∧ u.fioPage.cnt = (bump s.fioPage 6 1).cnt ∧ gReg u .fio (0x50 + 4 * b.val) = 8 ∧
      (∀ d, d / 10 ≠ b.val → getCore u d = getCore s d) ∧
      ∀ d n, d / 10 = b.val → n < 4 → getRegion (getCore u d) n =
        (let r := getRegion (getCore s d) n
         if r.switching = false ∧ r.lost = false ∧ clkSrc r.cur = 2 then { r with lost := true } else r)) ∧
    ((bankCfg s b.val).testBit 31 = true → fld (bankCfg s b.val) 24 2 = 1 ∨ fld (bankCfg s b.val) 24 2 = 2 →
      exec (.bankClockRunning b) s = .next { s with banks := fset s.banks b.val { k with clkOk := true } })) ∧
  (∀ (s : State) (pin : PinId) (level : Bool), pinSampled s pin.val = true → (getPin s pin.val).level ≠ level →
    let x := getPin s pin.val
    let cfg := evCfg s pin.val
    let minw := fld cfg 20 8
    let limit := fld cfg 12 8
    let s1 := atLeast s (x.lastChange + 17 * (minw + 1))
    let now := s1.now
    let matches_ := fld cfg 29 2 = 0 ∧ level = true ∨ fld cfg 29 2 = 1 ∧ level = false ∨ 2 ≤ fld cfg 29 2
    (¬ matches_ → exec (.pinEvent pin level) s = .next { s1 with
      pins := fset s.pins pin.val { x with level := level, lastChange := now, stuckFrom := none } }) ∧
    (matches_ → now < x.winStart + winLen cfg → x.armed = true → limit = 0 ∨ x.winCount + 1 ≤ limit →
      ∃ u, exec (.pinEvent pin level) s = .next u ∧ u = { s1 with pins := u.pins } ∧ (∀ q, q ≠ pin.val → getPin u q = getPin s q) ∧
        getPin u pin.val = { x with level := level, lastChange := now, stuckFrom := some now, winCount := x.winCount + 1
                                    deliver := x.deliver ++ [((now - s.origin) / 17 - minw, now)] }) ∧
    (matches_ → now < x.winStart + winLen cfg → x.armed = true → limit ≠ 0 → limit < x.winCount + 1 →
      ∃ u, exec (.pinEvent pin level) s = .next u ∧ (∀ q, q ≠ pin.val → getPin u q = getPin s q) ∧
        getPin u pin.val = { x with level := level, lastChange := now, stuckFrom := some now, armed := false, storm := true, stuck := false, supp := min 65535 (x.supp + 1) } ∧
        u.fioPage.errCode = (if s.fioPage.errCode = 0#8 then 0x12#8 else s.fioPage.errCode) ∧ u.evPend = s.evPend ||| 0x80#8 ∧
        u.fioPage.cnt = (bump (bump s.fioPage 1 1) 3 1).cnt ∧ u = { s1 with pins := u.pins, fioPage := u.fioPage, evPend := u.evPend, outbox := u.outbox }) ∧
    (matches_ → now < x.winStart + winLen cfg → x.armed = false →
      ∃ u, exec (.pinEvent pin level) s = .next u ∧ (∀ q, q ≠ pin.val → getPin u q = getPin s q) ∧
        getPin u pin.val = { x with level := level, lastChange := now, stuckFrom := some now, supp := min 65535 (x.supp + 1) } ∧
        u = { s1 with pins := u.pins, fioPage := bump s.fioPage 3 1 })) ∧
  (∀ (s : State) (pin : PinId) (time at_ : Nat) (rest : List (Nat × Nat)), (getPin s pin.val).deliver = (time, at_) :: rest →
    let b := pin.val / 24
    let again := (getBank s b).tsInfo.toNat.testBit 31
    ∃ u, exec (.fioEventDeliver pin) s = .next u ∧ u = { atLeast s (at_ + 34) with pins := u.pins, fioPage := u.fioPage, evPend := s.evPend ||| 0x80#8, banks := u.banks, outbox := u.outbox } ∧
      getPin u pin.val = { getPin s pin.val with deliver := rest } ∧ (∀ q, q ≠ pin.val → getPin u q = getPin s q) ∧
      (∀ c t, pinOwner s pin.val = some c → ownerOf s c = some t → u.outbox = s.outbox ++ [.tenantEvent (BitVec.ofNat 8 t) (7 * 4096 + c % 4096)]) ∧
      ((evCfg s pin.val).testBit 28 = false → u.banks = s.banks ∧ u.fioPage = bump s.fioPage 0 1) ∧
      ((evCfg s pin.val).testBit 28 = true → u.fioPage = (if again then bump (bump s.fioPage 0 1) 4 1 else bump s.fioPage 0 1) ∧
        u.banks = fset s.banks b { getBank s b with
          tsLo := word time, tsHi := word (time / 2 ^ 32)
          tsInfo := word (2 ^ 31 + (if again ∨ (getBank s b).tsInfo.toNat.testBit 30 then 2 ^ 30 else 0) + pin.val % 24) })) ∧
  (∀ (s : State) (pin : PinId), (evCfg s pin.val).testBit 31 = true →
    let x := getPin s pin.val
    let len := winLen (evCfg s pin.val)
    let s1 := atLeast s (x.winStart + len)
    exec (.stormWindowExpiry pin) s = .next { s1 with pins := fset s.pins pin.val { x with winStart := x.winStart + (s1.now - x.winStart) / len * len, winCount := 0 } }) ∧
  (∀ (s : State) (pin : PinId) (t : Nat), pinSampled s pin.val = true → (getPin s pin.val).armed = true → (getPin s pin.val).stuckFrom = some t →
    (evCfg s pin.val).testBit 3 = true → fld (evCfg s pin.val) 29 2 < 2 →
    ∃ u, exec (.stuckStorm pin) s = .next u ∧ u = { atLeast s (t + 17 * (65536 * 2 ^ fld (evCfg s pin.val) 4 4)) with pins := u.pins, fioPage := u.fioPage, evPend := s.evPend ||| 0x80#8, outbox := u.outbox } ∧
      (∀ q, q ≠ pin.val → getPin u q = getPin s q) ∧ getPin u pin.val = { getPin s pin.val with armed := false, storm := true, stuck := true } ∧
      u.fioPage.cnt = (bump s.fioPage 2 1).cnt ∧ u.fioPage.errCode = (if s.fioPage.errCode = 0#8 then 0x12#8 else s.fioPage.errCode)) ∧
  (∀ (s u : State) (p : Port) (pin : PinId), reaches s p .fio (0x360 + 4 * pin.val) u →
    let w := beforeEvents u pin.val
    exec (.pinRearm p pin) s = .next { w with pins := fset w.pins pin.val { getPin w pin.val with
      armed := true, storm := false, stuck := false, supp := 0, winStart := w.now, winCount := 0, stuckFrom := (getPin w pin.val).stuckFrom.map fun _ => w.now } }) ∧
  (∀ (s : State) (p : Port) (b : BankId), readable s p .fio (0x4E0 + 12 * b.val) →
    exec (.tsloRead p b) s = .next (modLatch s p fun l => { l with
      tsHi := fset l.tsHi b.val (getBank s b.val).tsHi, data := natLe 4 (getBank s b.val).tsLo.toNat }))

/-! Images, the scrubber, the keys (R383 to R407). -/

/-- The load of an image, with no other load or blanking under way on the core and no command that waits for it. GO begins to stage in the highest powered slots and locks them, if there are enough and, on a core in use, all are untagged; else the load is refused with E_CONFIG_AUTH. The skidder asks for the image from its retained copy, line by line; once all of it has been asked for and has come, pass 1 begins; a line that is lost ends the load with E_PARITY. Pass 1 refuses it with the code of the first check that fails, E_CONFIG_AUTH, E_CONFIG_IDENTITY or E_CONFIG_REGION, and then no frame, signature or declaration changes; else the quiesce begins, and after it no target frame has a valid signature. Pass 2 writes each target frame with bytes whose CRC-32C agrees with pass 1's, or blank where the image does not carry it, and no other frame; it stops at a frame that disagrees, which is fetched again once, from its place in the retained copy; when that one disagrees or is lost too, the load ends with the grove halted. The release takes the declarations, clears BLANK and HALTED, unlocks the slots. BLANK begins a blanking, which 256 RCLK cycles later leaves every frame blank with the declarations at reset. -/
def Obligations.ImageLoads : Prop :=
  (∀ (u : State) (c : CoreId) (code : Nat), (∀ tk ∈ u.taken, leAt tk.block 0 2 = 1 ∨ leAt tk.block 0 2 = 3 → c.val ∉ tk.ending) → loadEnded u c.val code = u) ∧
  (∀ (s u : State) (p : Port) (c : CoreId) (v : Word), reaches s p (.core c 11) 0x68 u →
    let k := getCore u c.val
    let ns := stagingSlots k (fld v.toNat 0 17)
    let fits := ceilDiv (fld v.toNat 0 17) 1024 ≤ ns.length ∧ (freshCore k = true ∨ ∀ n ∈ ns, untagged k n = true)
    (loadBusy k = true ∨ v.toNat.testBit 30 = true → exec (.imageLoad p c v) s = .next (putCore u c.val (modKPage k 11 fun g => bump g 9 1))) ∧
    (loadBusy k = false → v.toNat.testBit 30 = false → fits →
      ∃ t l, exec (.imageLoad p c v) s = .next t ∧ onlyCore u t c.val ∧ (getCore t c.val).grv = { k.grv with load := some l } ∧
        l.phase = 1 ∧ l.handle = fld v.toNat 28 2 ∧ l.len = fld v.toNat 0 17 ∧ l.slots = ns ∧ l.since = u.now ∧
        (getCore t c.val).spd.lock = ns ∧ (getCore t c.val).spd.tags = k.spd.tags ∧ ∀ a, byteKept k (getCore t c.val) a) ∧
    (loadBusy k = false → v.toNat.testBit 30 = false → ¬ fits →
      ∃ t, exec (.imageLoad p c v) s = .next (loadEnded t c.val 0x0A) ∧ t.taken = u.taken ∧ (∀ d, d ≠ c.val → getCore t d = getCore u d) ∧
        (getCore t c.val).grv = { k.grv with load := none, loadCode := 0x0A } ∧
        (kPage (getCore t c.val) 11).cnt = (bump (kPage k 11) 7 1).cnt ∧ (getCore t c.val).spd = k.spd)) ∧
  (∀ (k : Core) (l : Load), k.grv.load = some l →
    let copy := fun off : Nat => (kReg k 11 (0x48 + 8 * l.handle) / 64 * 64 + fld (kReg k 11 (0x4C + 8 * l.handle)) 0 16 * 2 ^ 32 + off) % 2 ^ 48
    (l.phase = 1 → l.asked < l.len → (imageWants k).head? = some (.gvq, .image l.asked, copy l.asked, min (l.len - l.asked) (256 - copy l.asked % 256))) ∧
    (∀ f p, l.phase ≠ 1 → l.refetch = some f → pendOf l f = some p → (∀ g ∈ k.skd.fetches, g.kind ≠ .frame f) →
      (imageWants k).head? = some (.gvq, .frame f, copy (256 + tableBytes (hdrNframes l.hdr) + 64 * p.pos), 64))) ∧
  (∀ (s : State) (c : CoreId) (l : Load), (getCore s c.val).grv.load = some l → l.phase = 1 →
    let lost := ∃ f ∈ (getCore s c.val).skd.fetches, (∃ off, f.kind = .image off) ∧ f.stage = .faulted 1
    let some_ := ∃ f ∈ (getCore s c.val).skd.fetches, ∃ off, f.kind = .image off
    (lost → ∃ u, exec (.stagingComplete c) s = .next (loadEnded u c.val 1) ∧ u.taken = s.taken ∧ (∀ d, d ≠ c.val → getCore u d = getCore s d) ∧
      (getCore u c.val).grv = { (getCore s c.val).grv with load := none, loadCode := 1 } ∧ (getCore u c.val).spd.lock = [] ∧ (getCore u c.val).spd.tags = (getCore s c.val).spd.tags) ∧
    (¬ lost → l.asked < l.len ∨ some_ → exec (.stagingComplete c) s = .next s) ∧
    (l.len ≤ l.asked → ¬ some_ →
      let s1 := atLeast s (l.since + (l.len + 127) / 128)
      ∃ u, exec (.stagingComplete c) s = .next u ∧ onlyCore s1 u c.val ∧ (getCore u c.val).spd = (getCore s1 c.val).spd ∧
        (getCore u c.val).grv = { (getCore s1 c.val).grv with load := (getCore s1 c.val).grv.load.map fun l => { l with phase := 2, since := s1.now } })) ∧
  (∀ (k : Core) (l : Load) (img : List Byte),
    let h := slice img 0 256
    (check1 l h = false → pass1 k l img = .error 0x0A) ∧
    (check1 l h = true → check2 h = false → pass1 k l img = .error 0x0C) ∧
    (check1 l h = true → check2 h = true → check3 h = false ∨ check4 h = false → pass1 k l img = .error 0x0B) ∧
    (check1 l h = true → check2 h = true → check3 h = true → check4 h = true → imageKey l h = none → pass1 k l img = .error 0x0A) ∧
    (∀ key, check1 l h = true → check2 h = true → check3 h = true → check4 h = true → imageKey l h = some key →
      gcmTag (roundKeys (keyBytes key)) (nats (hdrIv h)) h ((img.drop 256).take (hdrBody h)) ≠ slice img (256 + hdrBody h) 16 → pass1 k l img = .error 0x0A)) ∧
  (∀ (s : State) (c : CoreId) (l : Load), (getCore s c.val).grv.load = some l → l.phase = 2 →
    let k := getCore s c.val
    let at1 := fun (u : State) => u.now = s.now ∨ u.now = l.since + 17 ∨ u.now = l.since + 17 * ((256 + hdrBody (slice (stagedImage k l) 0 256) + 15) / 16 + 2)
    (∀ code, pass1 k l (stagedImage k l) = .error code →
      ∃ w u, at1 w ∧ w = atLeast s w.now ∧ exec (.pass1Complete c) s = .next (loadEnded u c.val code) ∧ u.taken = s.taken ∧ (∀ d, d ≠ c.val → getCore u d = getCore w d) ∧
        (getCore u c.val).grv = { (getCore w c.val).grv with load := none, loadCode := code } ∧
        (kPage (getCore u c.val) 11).cnt = (bump (kPage (getCore w c.val) 11) 7 1).cnt ∧ (getCore u c.val).spd.tags = (getCore w c.val).spd.tags ∧
        ((getCore w c.val).grv.load.isSome = true → (getCore u c.val).spd.lock = [])) ∧
    (∀ key pend, pass1 k l (stagedImage k l) = .ok (key, pend) →
      ∃ w u, at1 w ∧ w = atLeast s w.now ∧ exec (.pass1Complete c) s = .next u ∧ onlyCore w u c.val ∧ (getCore u c.val).spd = (getCore w c.val).spd ∧
        (getCore u c.val).grv = { (getCore w c.val).grv with
          load := (getCore w c.val).grv.load.map fun l => { l with phase := 3, hdr := slice (stagedImage k l) 0 256, key := key, pend := pend, todo := targetFrames (slice (stagedImage k l) 0 256), since := w.now }
          passOn := false, repair := none })) ∧
  (∀ (s : State) (c : CoreId) (l : Load), (getCore s c.val).grv.load = some l → l.phase = 3 → (∀ f ∈ (getCore s c.val).gvq.flights, opOf f.raw ≠ 0x50) →
    (histChanges (getCore s c.val) l = true → (∀ f ∈ (getCore s c.val).vxq.flights, usesHist f.raw = false) ∧ ∀ b, (getCore s c.val).vxq.fb = some b → usesHist b.orig.raw = false) →
    ∃ u, exec (.quiesceComplete c) s = .next u ∧ onlyCore s u c.val ∧ (getCore u c.val).grv = { (getCore s c.val).grv with
        load := some { l with phase := 4, since := s.now }, loadFrames := 0, sigs := (getCore u c.val).grv.sigs } ∧
      ∀ f, sigOf (getCore u c.val) f = if f ∈ l.todo then { sigOf (getCore s c.val) f with kind := 0 } else sigOf (getCore s c.val) f) ∧
  (∀ (s : State) (c : CoreId) (l : Load), (getCore s c.val).grv.load = some l → l.phase = 4 → l.refetch = none →
    let k := getCore s c.val
    let n := hdrNframes l.hdr
    let good := fun f => ∀ p, pendOf l f = some p →
      crc32c (decryptFrame l.key (hdrIv l.hdr) n p.pos (slice (stagedImage k l) (256 + tableBytes n + 64 * p.pos) 64)) = p.crc
    ((∀ f ∈ l.todo, good f) →
      let s1 := atLeast s (l.since + 17 * (4 * (targetFrames l.hdr).length + 1))
      let k1 := getCore s1 c.val
      ∃ u, exec (.imageRelease c) s = .next (loadEnded u c.val 0) ∧ onlyCore s1 u c.val ∧
        let g := (getCore u c.val).grv
        g.load = none ∧ g.loadCode = 0 ∧ g.blank = false ∧ g.halted = false ∧ g.tmrFail = false ∧ g.engine = word (hdrEngine l.hdr) ∧ g.histAvail = !hdrHist l.hdr ∧
        (∀ m, m < 16 → slotDecl (getCore u c.val) m = hdrSlot l.hdr m) ∧ (getCore u c.val).spd.tags = k1.spd.tags ∧ (k1.grv.load.isSome = true → (getCore u c.val).spd.lock = []) ∧
        (∀ f, f ∉ l.todo → frameOf (getCore u c.val) f = frameOf k1 f) ∧
        ∀ f ∈ l.todo, (pendOf l f = none → frameOf (getCore u c.val) f = blankFrame) ∧ ∀ p, pendOf l f = some p → crc32c (frameOf (getCore u c.val) f) = p.crc) ∧
    (∀ pre f post, l.todo = pre ++ f :: post → (∀ x ∈ pre, good x) → ¬ good f →
      ∃ u, exec (.imageRelease c) s = .next u ∧ onlyCore s u c.val ∧ (getCore u c.val).grv.load = some { l with todo := f :: post, refetch := some f } ∧
        (getCore u c.val).grv.blank = k.grv.blank ∧ (getCore u c.val).grv.decls = k.grv.decls ∧ ∀ x, x ∉ pre → frameOf (getCore u c.val) x = frameOf k x)) ∧
  (∀ (s : State) (c : CoreId) (l : Load) (f : Nat) (p : PendFrame), (getCore s c.val).grv.load = some l → l.refetch = some f → pendOf l f = some p →
    (fetchedImage (getCore s c.val) (.frame f) = none → exec (.frameRefetchDone c) s = .next s) ∧
    ∀ frame, fetchedImage (getCore s c.val) (.frame f) = some frame →
      let bs := decryptFrame l.key (hdrIv l.hdr) (hdrNframes l.hdr) p.pos frame
      (frame ≠ [] ∧ crc32c bs = p.crc → ∃ u, exec (.frameRefetchDone c) s = .next u ∧ onlyCore s u c.val ∧ (getCore u c.val).grv.load = some { l with todo := l.todo.drop 1, refetch := none } ∧
        ∀ x, frameOf (getCore u c.val) x = if x = f then bs else frameOf (getCore s c.val) x) ∧
      (frame = [] ∨ crc32c bs ≠ p.crc → ∃ u, exec (.frameRefetchDone c) s = .next (loadEnded u c.val 0x0A) ∧ u.taken = s.taken ∧ (∀ d, d ≠ c.val → getCore u d = getCore s d) ∧ (getCore u c.val).grv.load = none ∧
        (getCore u c.val).grv.loadCode = 0x0A ∧ (getCore u c.val).grv.halted = true ∧ (getCore u c.val).grv.frames = (getCore s c.val).grv.frames)) ∧
  (∀ (s u : State) (p : Port) (c : CoreId), reaches s p (.core c 11) 0x68 u →
    let k := getCore u c.val
    (loadBusy k = true → exec (.groveBlank p c) s = .next (putCore u c.val (modKPage k 11 fun g => bump g 9 1))) ∧
    (loadBusy k = false → exec (.groveBlank p c) s = .next (putCore u c.val { k with
      grv := { k.grv with blanking := some u.now, port := {}, load := none, passOn := false, repair := none }, spd := { k.spd with lock := [] } }))) ∧
  (∀ (s : State) (c : CoreId) (t : Nat), (getCore s c.val).grv.blanking = some t →
    let s1 := atLeast s (t + 17 * 256)
    ∃ u, exec (.groveBlankDone c) s = .next u ∧ onlyCore s1 u c.val ∧
      let g := (getCore u c.val).grv
      (∀ f, frameOf (getCore u c.val) f = blankFrame) ∧ (∀ f, sigOf (getCore u c.val) f = blankSig f) ∧ (∀ m, slotDecl (getCore u c.val) m = {}) ∧ g.engine = 0#32 ∧
      g.halted = false ∧ g.blank = true ∧ g.blanking = none ∧ g.histAvail = true ∧ kReg (getCore u c.val) 10 0x58 = 0xF1111 ∧ (getCore u c.val).spd = (getCore s1 c.val).spd)

/-- The scrubber of a core where it runs. A pass starts 800,000 RCLK cycles after the one before, or at FORCE. In a frame's slot: KIND 0 is skipped; a read that agrees with its entry changes nothing but the counts; a blank frame that disagrees is rewritten blank, an image frame is fetched for repair from its place in the retained copy, and no frame is repaired while pass 1 of a load runs, and a critical one halts the grove first; an uncorrectable signature halts it with no repair. A repair whose CRC-32C agrees is written; one that disagrees halts the grove, counted in SCB counter 4. SCB_LASTMIS names the frame and the action. Of three copies of an item one that disagrees is rewritten, counted in SCB counter 5; three different ones set TMRFAIL, stop the scrubber and raise SCRUB. -/
def Obligations.ScrubberRule : Prop :=
  (∀ (s : State) (c : CoreId), scrubRuns s c.val = true → (getCore s c.val).grv.passOn = false →
    let u := atLeast s ((getCore s c.val).grv.passStart + 17 * 800000)
    exec (.scrubPassStart c) s = .next (putCore u c.val
      { getCore u c.val with grv := { (getCore u c.val).grv with passOn := true, passStart := u.now, frame := 0, repair := none } })) ∧
  (∀ (s u : State) (p : Port) (c : CoreId), reaches s p (.core c 11) 0x40 u →
    exec (.scrubForce p c) s = .next (if scrubRuns u c.val then
      putCore u c.val { getCore u c.val with grv := { (getCore u c.val).grv with passOn := true, passStart := u.now, frame := 0, repair := none } } else u)) ∧
  (∀ (s : State) (c : CoreId) (bs : List Byte), scrubRuns s c.val = true → (getCore s c.val).grv.passOn = true → (getCore s c.val).grv.repair = none → bs.length = 64 →
    let f := (getCore s c.val).grv.frame
    let g := sigOf (getCore s c.val) f
    let s1 := atLeast s ((getCore s c.val).grv.passStart + 17 * (480 * f))
    let k := getCore s1 c.val
    let read := fun (sig : EccResult) (u : State) => exec (.scrubFrameRead c bs sig) s = .next u ∧ u.now = s1.now ∧ (∀ d, d ≠ c.val → getCore u d = getCore s1 d) ∧ (getCore u c.val).spd = k.spd
    (∃ u, read .double u ∧ (getCore u c.val).grv.halted = true ∧ (getCore u c.val).grv.frames = k.grv.frames ∧ (getCore u c.val).grv.lastMis = word (2 ^ 31 + 3 * 2 ^ 28 + f)) ∧
    (∀ sig, sig = .good ∨ sig = .single →
      (g.kind = 0 → ∃ u, read sig u ∧ (getCore u c.val).grv.frames = k.grv.frames ∧ (getCore u c.val).grv.halted = k.grv.halted ∧ (getCore u c.val).grv.lastMis = k.grv.lastMis ∧
        (f + 1 < 1664 → k.grv.frame = f → (getCore u c.val).grv.frame = f + 1) ∧ (1664 ≤ f + 1 → k.grv.frame = f → (getCore u c.val).grv.passOn = false)) ∧
      (g.kind ≠ 0 → word (crc32c bs) = g.crc → ∃ u, read sig u ∧ (∀ x, frameOf (getCore u c.val) x = if x = f then bs else frameOf k x) ∧
        (getCore u c.val).grv.halted = k.grv.halted ∧ (getCore u c.val).grv.lastMis = k.grv.lastMis) ∧
      (g.kind = 2 → word (crc32c bs) ≠ g.crc → framesHeld k = false → ∃ u, read sig u ∧ (∀ x, frameOf (getCore u c.val) x = if x = f then blankFrame else frameOf k x) ∧
        (getCore u c.val).grv.halted = (k.grv.halted || g.crit) ∧ (getCore u c.val).grv.lastMis = word (2 ^ 31 + (if g.crit then 2 ^ 28 else 0) + f)) ∧
      (g.kind = 1 ∨ (g.kind = 2 ∧ framesHeld k = true) → word (crc32c bs) ≠ g.crc → ∃ u, read sig u ∧ (∀ x, frameOf (getCore u c.val) x = if x = f then bs else frameOf k x) ∧
        (getCore u c.val).grv.halted = (k.grv.halted || g.crit) ∧ (getCore u c.val).grv.repair = some { frame := f, since := u.now }))) ∧
  (∀ (s : State) (c : CoreId) (r : Repair), (getCore s c.val).grv.repair = some r →
    let k := getCore s c.val
    let g := sigOf k r.frame
    let done := fun (u : State) => exec (.scrubRepairDone c) s = .next u ∧ (∀ d, d ≠ c.val → getCore u d = getCore s d) ∧ (getCore u c.val).grv.repair = none
    let repaired := fun (bs : List Byte) => ∃ u, done u ∧ (∀ x, frameOf (getCore u c.val) x = if x = r.frame then bs else frameOf k x) ∧ (getCore u c.val).grv.halted = k.grv.halted ∧
      (getCore u c.val).grv.lastMis = word (2 ^ 31 + (if g.crit then 2 ^ 28 else 0) + r.frame)
    (framesHeld k = true ∨ (g.kind ≠ 2 ∧ fetchedImage k (.repair r.frame r.since) = none) → exec (.scrubRepairDone c) s = .next s) ∧
    (framesHeld k = false → g.kind = 2 → repaired blankFrame) ∧
    ∀ frame img, framesHeld k = false → g.kind ≠ 2 → fetchedImage k (.repair r.frame r.since) = some frame → fget? k.grv.images g.handle = some img →
      let bs := decryptFrame img.key img.iv img.nframes g.pos frame
      (frame ≠ [] → word (crc32c bs) = g.crc → repaired bs) ∧
      (frame = [] ∨ word (crc32c bs) ≠ g.crc →
        ∃ u, done u ∧ (getCore u c.val).grv.frames = k.grv.frames ∧ (getCore u c.val).grv.halted = true ∧ (getCore u c.val).grv.lastMis = word (2 ^ 31 + 2 * 2 ^ 28 + r.frame))) ∧
  (∀ (k : Core) (r : Repair), k.grv.load = none → k.grv.repair = some r → (sigOf k r.frame).kind = 1 → (∀ f ∈ k.skd.fetches, f.kind ≠ .repair r.frame r.since) →
    ∀ img, fget? k.grv.images (sigOf k r.frame).handle = some img →
      let h := (sigOf k r.frame).handle
      imageWants k = [(.gvq, .repair r.frame r.since,
        (kReg k 11 (0x48 + 8 * h) / 64 * 64 + fld (kReg k 11 (0x4C + 8 * h)) 0 16 * 2 ^ 32 + (256 + tableBytes img.nframes + 64 * (sigOf k r.frame).pos)) % 2 ^ 48, 64)]) ∧
  (∀ (s : State) (c : CoreId) (i : TmrItem) (a b d : Word), (getOwner s c.val).felled = false →
    let k := getCore s c.val
    (a = b → b = d → exec (.tmrVote c i a b d) s = .next (putCore s c.val (flipItem k i a))) ∧
    (∀ m, (a = b ∧ b ≠ d ∧ m = a) ∨ (a = d ∧ b ≠ d ∧ m = a) ∨ (b = d ∧ a ≠ b ∧ m = b) →
      exec (.tmrVote c i a b d) s = .next (putCore s c.val (modKPage (flipItem k i m) 11 fun g => bump g 5 1))) ∧
    (a ≠ b → a ≠ d → b ≠ d → ∃ u, exec (.tmrVote c i a b d) s = .next u ∧ (∀ x, x ≠ c.val → getCore u x = getCore s x) ∧ (u.evPend &&& 0x20#8) = 0x20#8 ∧
      (getCore u c.val).grv = { k.grv with tmrFail := true, passOn := false, repair := none } ∧ (getCore u c.val).spd = k.spd)) ∧
  (∀ (k : Core) (m : Word),
    kReg (flipItem k .ctl m) 11 0x40 = (word (kReg k 11 0x40) ^^^ m).toNat % 2 ∧
    (flipItem k .framePtr m).grv = { k.grv with frame := (k.grv.frame ^^^ m.toNat) % 2048 } ∧
    (flipItem k .passTimer m).grv = { k.grv with passStart := k.grv.passStart ^^^ m.toNat } ∧
    flipItem k .sigPtr m = k)

/-- The key store, through the management port. With LOCK 0: a write to JNL_KEYDATA stages a word, a ninth is ignored; COMMIT with eight words staged moves them into the key register, the first as bits 31:0 and the eighth as bits 255:224, sets REGVALID and clears the staging, and is ignored otherwise; ERASE clears the register, REGVALID and the staging. With LOCK 1 all three are ignored. LOCK sets it. Nothing else changes. -/
def Obligations.KeyStore : Prop :=
  ∀ (s u : State) (v : Word),
    (reaches s .mgmt .jnl 0x7C4 u →
      (u.keys.lock = false → u.keys.staged.length < 8 → exec (.keyDataWrite .mgmt v) s = .next { u with keys := { u.keys with staged := u.keys.staged ++ [v] } }) ∧
      (u.keys.lock = true ∨ 8 ≤ u.keys.staged.length → exec (.keyDataWrite .mgmt v) s = .next u)) ∧
    (reaches s .mgmt .jnl 0x7C0 u →
      (u.keys.lock = false → u.keys.staged.length = 8 →
        ∃ r, exec (.keyCommit .mgmt) s = .next { u with keys := { u.keys with reg := r, regValid := true, staged := [] } } ∧ r < 2 ^ 256 ∧
          ∀ i, i < 8 → r / 2 ^ (32 * i) % 2 ^ 32 = (u.keys.staged.getD i 0#32).toNat) ∧
      (u.keys.lock = true ∨ u.keys.staged.length ≠ 8 → exec (.keyCommit .mgmt) s = .next u) ∧
      (u.keys.lock = false → exec (.keyErase .mgmt) s = .next { u with keys := { u.keys with reg := 0, regValid := false, staged := [] } }) ∧
      (u.keys.lock = true → exec (.keyErase .mgmt) s = .next u) ∧
      exec (.keyLock .mgmt) s = .next { u with keys := { u.keys with lock := true } }) ∧
    (2 ≤ s.boot.step → ∀ off, off = 0x7C0 ∨ off = 0x7C4 → ∃ u, reaches s .mgmt .jnl off u ∧ u.keys = s.keys)

/-! Errors, felling, the journal, cruise (R414 to R437). -/

/-- R417. A read of ERR_REC0 returns word 0 of the head record and latches words 1 to 3 for the port that read; ERR_REC1 to ERR_REC3 read through a port are the words that this port latched, and the other ports' latches stay. A write to ERR_POP with GO removes the head record if its SEQ equals the SEQ written, and is ignored otherwise. Nothing else changes. -/
def Obligations.ErrorRecordReads : Prop :=
  (∀ (s : State) (p : Port) (c : CoreId) (r : ErrRec) (rs : List ErrRec), readable s p (.core c 13) 0x48 → (getCore s c.val).err.fifo = r :: rs →
    exec (.errRecRead p c) s = .next (modLatch s p fun l => { l with errRec := fset l.errRec c.val (recWords r).2, data := natLe 4 (recWords r).1.toNat })) ∧
  (∀ (s : State) (p : Port) (c : CoreId) (v : Word × Word × Word), readable s p (.core c 13) 0x4C → fget (getLatch s p).errRec c.val (0#32, 0#32, 0#32) = v →
    regRead s p (.core c 13) 0x4C = v.1 ∧ regRead s p (.core c 13) 0x50 = v.2.1 ∧ regRead s p (.core c 13) 0x54 = v.2.2) ∧
  (∀ (s : State) (f : Latch → Latch) (t u : TenantId),
    getLatch (modLatch s .mgmt f) .mgmt = f (getLatch s .mgmt) ∧ getLatch (modLatch s .mgmt f) (.host t) = getLatch s (.host t) ∧ getLatch (modLatch s .mgmt f) (.vc3 t) = getLatch s (.vc3 t) ∧
    getLatch (modLatch s (.host t) f) (.host u) = f (getLatch s (.host u)) ∧ getLatch (modLatch s (.host t) f) .mgmt = getLatch s .mgmt ∧ getLatch (modLatch s (.host t) f) (.vc3 u) = getLatch s (.vc3 u) ∧
    getLatch (modLatch s (.vc3 t) f) (.vc3 u) = f (getLatch s (.vc3 u)) ∧ getLatch (modLatch s (.vc3 t) f) .mgmt = getLatch s .mgmt ∧ getLatch (modLatch s (.vc3 t) f) (.host u) = getLatch s (.host u)) ∧
  (∀ (s : State) (p : Port) (c : CoreId), readable s p (.core c 13) 0x48 → (getCore s c.val).err.fifo = [] →
    exec (.errRecRead p c) s = .next (modLatch s p fun l => { l with errRec := fset l.errRec c.val (0#32, 0#32, 0#32), data := natLe 4 0 })) ∧
  (∀ (s u : State) (p : Port) (c : CoreId) (n : Byte), reaches s p (.core c 13) 0x58 u →
    let k := getCore u c.val
    (∀ r rs, k.err.fifo = r :: rs → exec (.errPop p c n) s = .next (putCore u c.val (if r.seq % 256 = n.toNat then { k with err := { k.err with fifo := rs } } else k))) ∧
    (k.err.fifo = [] → exec (.errPop p c n) s = .next (putCore u c.val k)))

/-- The error FIFO of a core. A record with room enters behind every record of its own class or a higher one and ahead of every other, so that a FIFO in order of class stays so; at a full FIFO it enters in place of the last record if that one's class is lower or the new one is fatal, and is dropped otherwise; either way OVF is set and LOST counts one more, up to 65,535. Each record takes the next SEQ. A fatal record sets ERR_FATAL with its code and page, or counts in MORE when VALID is set. Clearing OVF clears LOST with it. -/
def Obligations.ErrorFifoOrder : Prop :=
  (∀ (k : Core) (r : ErrRec), k.err.fifo.length < 16 →
    (∃ a b, k.err.fifo = a ++ b ∧ (errEnter k r).err.fifo = a ++ r :: b ∧ (∀ x ∈ a, r.cls ≤ x.cls) ∧ ∀ x, b.head? = some x → x.cls < r.cls) ∧
    (errEnter k r).err.lost = k.err.lost ∧ (kPage (errEnter k r) 13).cnt = (bump (kPage k 13) 0 1).cnt) ∧
  (∀ (k : Core) (r x : ErrRec) (l : List ErrRec), k.err.fifo = l ++ [x] → l.length = 15 →
    ((errEnter k r).err.fifo = if x.cls < r.cls ∨ r.cls = 2 then fifoInsert r l else l ++ [x]) ∧
    (errEnter k r).err.lost = min 65535 (k.err.lost + 1) ∧ (kReg (errEnter k r) 13 0x44).testBit 31 = true) ∧
  (∀ (k : Core) (r : ErrRec), k.err.fifo.Pairwise (fun a b => b.cls ≤ a.cls) → (errEnter k r).err.fifo.Pairwise (fun a b => b.cls ≤ a.cls)) ∧
  (∀ (k : Core) (r : ErrRec), (errEnter k r).err.seq = (k.err.seq + 1) % 256 ∧ (errEnter k r).spd = k.spd ∧ (∀ i, i ≠ 13 → kPage (errEnter k r) i = kPage k i) ∧
    (r.cls ≠ 2 → kReg (errEnter k r) 13 0x5C = kReg k 13 0x5C) ∧
    (r.cls = 2 → (kReg k 13 0x5C).testBit 31 = false → r.code < 256 → r.page < 16 → kReg (errEnter k r) 13 0x5C = 2 ^ 31 + r.code * 65536 + r.page * 16) ∧
    (r.cls = 2 → (kReg k 13 0x5C).testBit 31 = true →
      fld (kReg (errEnter k r) 13 0x5C) 8 8 = min 255 (fld (kReg k 13 0x5C) 8 8 + 1) ∧ fld (kReg (errEnter k r) 13 0x5C) 16 16 = fld (kReg k 13 0x5C) 16 16 ∧
      fld (kReg (errEnter k r) 13 0x5C) 0 8 = fld (kReg k 13 0x5C) 0 8)) ∧
  (∀ (s u : State) (p : Port) (c : CoreId), reaches s p (.core c 13) 0x44 u →
    let k := getCore u c.val
    ∃ t, exec (.fifoOvfClear p c) s = .next t ∧ onlyCore u t c.val ∧ (getCore t c.val).err = { k.err with lost := 0 } ∧
      (kReg (getCore t c.val) 13 0x44).testBit 31 = false ∧ (∀ off, off ≠ 0x44 → kReg (getCore t c.val) 13 off = kReg k 13 off) ∧
      (getCore t c.val).spd = k.spd ∧ ∀ i, i ≠ 13 → kPage (getCore t c.val) i = kPage k i)

/-- Felling. FELL of a core that is not FELLED sets FELLED and begins to fell it; of a core FELLED, or above 1,199, it does nothing. With no job loaded, no command waiting for an image load and room in the journal's queue, it stops and empties the core's queues, aborts its streams, closes its windows, begins to blank its grove, and a FENCE record waits to be written. Once its streams are gone and that record has been written, OWNED clears, the core enters FELLED, a fatal E_FELLED record enters its FIFO, FELL is raised and goes to the tenant. RESTORE of a core FELLED makes a FENCE record that clears it, and does nothing else; of any other core it does nothing. No other core changes. -/
def Obligations.FellingRule : Prop :=
  (∀ (s u : State) (p : Port) (c : BitVec 11), reaches s p .jnl 0x50 u →
    (1199 < c.toNat ∨ (getOwner u c.toNat).felled = true → exec (.fellCommand p c) s = .next u) ∧
    (c.toNat < 1200 → (getOwner u c.toNat).felled = false → ∃ t, exec (.fellCommand p c) s = .next t ∧ (getOwner t c.toNat).felled = true) ∧
    (c.toNat < 1200 → (getOwner u c.toNat).felled = false → u.jobs = [] → u.taken = [] → u.jnl.queue.length < 16 →
      ∃ t, exec (.fellCommand p c) s = .next t ∧ getOwner t c.toNat = { getOwner u c.toNat with felled := true } ∧ (∀ d, d ≠ c.toNat → getOwner t d = getOwner u d) ∧
        (∀ d, d ≠ c.toNat → getCore t d = getCore u d) ∧
        (let k := getCore t c.toNat
         k.err.felling = true ∧ (∀ st ∈ k.skd.streams, st.st = .aborting ∧ st.freeing = true) ∧ (∀ q, (getQ k q).stop = true ∧ (getQ k q).flights = [] ∧ (getQ k q).fb = none) ∧
         (∀ n, (getWin k n).open_ = false) ∧ k.grv.blanking = some u.now ∧ k.cruise.running = false) ∧
        ∃ r, t.jnl = { u.jnl with queue := u.jnl.queue ++ [r] } ∧ r.ty = 2 ∧ r.payload.take 4 = natLe 2 c.toNat ++ [1#8, 0#8] ∧ r.entered = u.now)) ∧
  (∀ (s : State) (c : CoreId), (getCore s c.val).err.felling = true → (getCore s c.val).skd.streams = [] → (∀ r ∈ s.jnl.queue ++ s.jnl.fences, ¬ (r.ty = 2 ∧ leAt r.payload 0 2 = c.val)) →
    ∃ u, exec (.fellingComplete c) s = .next u ∧ getOwner u c.val = { getOwner s c.val with owned := false, zeroed := false } ∧ (∀ d, d ≠ c.val → getOwner u d = getOwner s d) ∧
      (∀ d, d ≠ c.val → getCore u d = getCore s d) ∧ (getCore u c.val).pwr.st = .felled ∧ (getCore u c.val).err.felling = false ∧ (getCore u c.val).spd = {} ∧
      (∃ r ∈ (getCore u c.val).err.fifo, r.code = 0x11 ∧ r.cls = 2 ∧ r.page = 13) ∧ (u.evPend &&& 0x10#8) = 0x10#8 ∧
      (∀ t, ownerOf s c.val = some t → u.outbox = s.outbox ++ [.tenantEvent (BitVec.ofNat 8 t) (4 * 4096 + c.val)])) ∧
  (∀ (s u : State) (p : Port) (c : BitVec 11), reaches s p .jnl 0x50 u →
    let r : JRec := { ty := 2, payload := natLe 2 c.toNat ++ [2#8] ++ natLe 9 0, rtime := word ((u.now - u.origin) / 17), entered := u.now }
    (c.toNat < 1200 → (getOwner u c.toNat).felled = true → u.jnl.queue.length < 16 →
      exec (.restoreCommand p c) s = .next { u with jnl := { u.jnl with queue := u.jnl.queue ++ [r] } }) ∧
    (c.toNat < 1200 → (getOwner u c.toNat).felled = true → 16 ≤ u.jnl.queue.length →
      exec (.restoreCommand p c) s = .next { u with jnl := { u.jnl with fences := u.jnl.fences ++ [r] } }) ∧
    (1199 < c.toNat ∨ (getOwner u c.toNat).felled = false → exec (.restoreCommand p c) s = .next u))

/-- The journal. The writer finishes the oldest record in 20 RCLK cycles for each 8 bytes after the one before it: its bytes, ending in their CRC-32C, lie at the fill of the active half, which moves on by LEN, SEQ counts one more, JNL counter 0 counts it, JNL is raised, and a FENCE record that waits for room enters the queue; a half 75 % full is compacted; a compaction under way, or a half without room, holds the queue. COMPACT starts a snapshot in the other half, or is kept while one is under way or the retired half is being zeroed. The SEAL ends it: the halves change places and the zeroing of the old one begins, 8 bytes each 2,000 RCLK cycles; a compaction that waits starts at its end. A read of JNL_RDDATA returns the four bytes at JNL_RDADDR, which moves on by 4 modulo 2 MiB. No other byte of the MRAM changes. -/
def Obligations.JournalRule : Prop :=
  (∀ (s : State) (r : JRec) (rest : List JRec), s.jnl.queue = r :: rest →
    let j := s.jnl
    let n := recLen r.ty
    let s1 := atLeast s (max j.lastEnd r.entered + 17 * (n / 8 * 20))
    let wrote := fun (u : State) =>
      (∀ i, i < n → memGet u.jnl.mram (j.half * 0x100000 + j.fill + i) = (recordBytes r.ty j.seq j.boot r.rtime r.payload).getD i 0#8) ∧
      (∀ a, a < j.half * 0x100000 + j.fill ∨ j.half * 0x100000 + j.fill + n ≤ a → memGet u.jnl.mram a = memGet j.mram a) ∧
      u.jnl = { j with mram := u.jnl.mram, fill := j.fill + n, seq := (j.seq + 1) % 2 ^ 32, lastEnd := s1.now, fences := j.fences.drop 1,
                       queue := rest ++ (j.fences.take 1).map fun f => { f with rtime := word ((s1.now - s1.origin) / 17), entered := s1.now } } ∧
      u = { s1 with jnl := u.jnl, jnlPage := u.jnlPage, evPend := s.evPend ||| 0x40#8 } ∧
      u.jnlPage = if r.ty = 2 then bump (bump s.jnlPage 0 1) 4 1 else bump s.jnlPage 0 1
    (j.compacting = true ∨ 0x100000 < j.fill + n → exec .journalWriteDone s = .next s) ∧
    (j.compacting = false → j.fill + n < 786432 → rest.length < 16 → ∃ u, exec .journalWriteDone s = .next u ∧ wrote u) ∧
    (j.compacting = false → 786432 ≤ j.fill + n → j.fill + n ≤ 0x100000 → rest.length < 16 → ∃ u, exec .journalWriteDone s = .next (startCompaction u) ∧ wrote u)) ∧
  (∀ (ty seq boot : Nat) (t : Word) (p : List Byte), let b := recordBytes ty seq boot t p
    b.length = recLen ty ∧ leAt b 0 2 = recLen ty ∧ leAt b 2 1 = ty % 256 ∧ leAt b 4 4 = seq % 2 ^ 32 ∧ leAt b 8 4 = boot % 2 ^ 32 ∧ leAt b 12 4 = t.toNat ∧
    leAt b (recLen ty - 4) 4 = crc32c (b.take (recLen ty - 4)) % 2 ^ 32) ∧
  (∀ (s u : State) (p : Port), reaches s p .jnl 0x4C u → exec (.jnlCompact p) s = .next (startCompaction u)) ∧
  (∀ s : State,
    (s.jnl.compacting = true ∨ s.jnl.zeroing ≠ none → startCompaction s = { s with jnl := { s.jnl with compactReq := true } }) ∧
    (s.jnl.compacting = false → s.jnl.zeroing = none →
      let u := startCompaction s
      u.jnl.compacting = true ∧ u.jnl.half = s.jnl.half ∧ u.jnl.fill = s.jnl.fill ∧ u.jnl.queue = s.jnl.queue ∧ u.jnl.snapSeq = s.jnl.seq ∧ u.jnl.snapSince = s.now ∧
      u = { s with jnl := u.jnl, jnlPage := u.jnlPage, evPend := s.evPend ||| 0x40#8 } ∧
      ∀ i, i < 192 → memGet u.jnl.mram ((1 - s.jnl.half) * 0x100000 + i) =
        (recordBytes 3 s.jnl.seq s.jnl.boot (word ((s.now - s.origin) / 17)) (natLe 150 (fenceMap (scanOf s.jnl s.jnl.half).1))).getD i 0#8)) ∧
  (∀ s : State, s.jnl.compacting = true →
    let s1 := atLeast s (s.jnl.snapSince + 17 * ((s.jnl.snapFill + 32) / 8 * 20))
    ∃ u, exec .compactionSeal s = .next u ∧
      u.jnl = { s.jnl with mram := u.jnl.mram, half := 1 - s.jnl.half, fill := s.jnl.snapFill + 32, seq := (s.jnl.seq + 1) % 2 ^ 32, compacting := false
                           lastEnd := s1.now, zeroing := some (0, s1.now), compactReq := s.jnl.compactReq || decide (786432 ≤ s.jnl.snapFill + 32) } ∧
      (∀ a, a < (1 - s.jnl.half) * 0x100000 + s.jnl.snapFill ∨ (1 - s.jnl.half) * 0x100000 + s.jnl.snapFill + 32 ≤ a → memGet u.jnl.mram a = memGet s.jnl.mram a) ∧
      u = { s1 with jnl := u.jnl, jnlPage := bump (bump s.jnlPage 0 1) 1 1, evPend := s.evPend ||| 0x40#8 }) ∧
  (∀ (s : State) (n t : Nat), s.jnl.zeroing = some (n, t) →
    let s1 := atLeast s (t + 17 * 2000)
    ∃ u, exec .zeroWord s = .next (if n + 1 < 131072 ∨ s.jnl.compactReq = false then u else startCompaction u) ∧
      u = { s1 with jnl := { s.jnl with mram := u.jnl.mram, zeroing := u.jnl.zeroing } } ∧
      (u.jnl.zeroing = if n + 1 < 131072 then some (n + 1, s1.now) else none) ∧
      ∀ a, memGet u.jnl.mram a = if (1 - s.jnl.half) * 0x100000 + 8 * n ≤ a ∧ a < (1 - s.jnl.half) * 0x100000 + 8 * n + 8 then 0#8 else memGet s.jnl.mram a) ∧
  (∀ (s : State) (p : Port), readable s p .jnl 0x58 →
    let a := gReg s .jnl 0x54
    exec (.jnlRddataRead p) s = .next (modLatch { s with jnlPage := { s.jnlPage with act := fset s.jnlPage.act 0x54 (word ((a + 4) % 0x200000)) } } p fun l =>
      { l with data := (List.range 4).map fun i => memGet s.jnl.mram (a + i) }))

/-- Cruise. A core that may run it begins a step once it has been idle for its time, which wakes it from DOZE, and not otherwise. A step that ends goes on to the next, the last of the 444 to the first with one more pass; one that failed once is recorded as advisory and counted; one that failed twice is recorded as a hard error, sets FAILED, and with AUTO fells the core. Work that has arrived ends a step without a result, to run again. No other core changes. -/
def Obligations.CruiseRule : Prop :=
  (∀ (s : State) (c : CoreId),
    (cruiseMay s c.val = false ∨ (getCore s c.val).cruise.running = true → exec (.cruiseStepStart c) s = .next s) ∧
    (cruiseMay s c.val = true → (getCore s c.val).cruise.running = false →
      let u := atLeast s ((getCore s c.val).pwr.idleSince + 17 * fld (kReg (getCore s c.val) 13 0x68) 0 20)
      let k := { getCore u c.val with cruise := { (getCore u c.val).cruise with running := true, since := u.now, work := false } }
      exec (.cruiseStepStart c) s = .next (putCore u c.val (wakeDoze k u.now 4)) ∧ (notDozing k → wakeDoze k u.now 4 = k) ∧
      (k.pwr.st = .doze → k.pwr.waking = none → k.pwr.descending = none →
        (wakeDoze k u.now 4).pwr = { k.pwr with waking := some .active, deadline := u.now + 40, lastWake := 4 } ∧ (wakeDoze k u.now 4).cruise = k.cruise))) ∧
  (∀ (s : State) (c : CoreId), (getCore s c.val).cruise.running = true → (getCore s c.val).cruise.work = false →
    let x := (getCore s c.val).cruise
    let s1 := atLeast s (x.since + cruiseCycles x.step)
    let s2 := atLeast s (x.since + cruiseCycles x.step * 2)
    let k1 := getCore s1 c.val
    let k2 := getCore s2 c.val
    let y := k1.cruise
    let march := if 396 ≤ y.step then (y.march + 1) % 768 else y.march
    let fails := ¬ (396 ≤ x.step ∧ marchSkips (getCore s c.val) x.march = true)
    (y.step + 1 < 444 → exec (.cruiseStepDone c .pass) s = .next (putCore s1 c.val { k1 with cruise := { y with running := false, step := y.step + 1, march := march } })) ∧
    (444 ≤ y.step + 1 → exec (.cruiseStepDone c .pass) s = .next (putCore s1 c.val
      (modKPage { k1 with cruise := { y with running := false, step := 0, march := march, passes := (y.passes + 1) % 2 ^ 32 } } 13 fun p => bump p 7 1))) ∧
    (∀ (code : Byte) (d : Word), fails →
      ∃ u, exec (.cruiseStepDone c (.passOnRepeat code d)) s = .next u ∧ u.now = s2.now ∧ (∀ e, e ≠ c.val → getCore u e = getCore s2 e) ∧
        (getCore u c.val).cruise.running = false ∧ (getCore u c.val).cruise.failed = k2.cruise.failed ∧ getOwner u c.val = getOwner s c.val ∧
        (k2.err.fifo.length < 16 → ∃ r ∈ (getCore u c.val).err.fifo, r.cls = 0 ∧ r.cruise = true ∧ r.code = cruiseCode x.step code.toNat ∧ r.page = cruisePage x.step ∧ r.detail = d)) ∧
    (∀ (code : Byte) (d : Word), fails → (kReg k2 13 0x60).testBit 31 = false →
      ∃ u, exec (.cruiseStepDone c (.confirmed code d)) s = .next u ∧ (∀ e, e ≠ c.val → getCore u e = getCore s2 e) ∧ (getCore u c.val).cruise.running = false ∧
        (getCore u c.val).cruise.failed = true ∧ (getCore u c.val).err.hardTotal = min 65535 (k2.err.hardTotal + 1) ∧ (getOwner u c.val).felled = (getOwner s c.val).felled ∧
        (k2.err.fifo.length < 16 → ∃ r ∈ (getCore u c.val).err.fifo, r.cls = 1 ∧ r.cruise = true ∧ r.code = cruiseCode x.step code.toNat ∧ r.page = cruisePage x.step ∧ r.detail = d)) ∧
    (∀ (code : Byte) (d : Word), fails → (kReg k2 13 0x60).testBit 31 = true →
      ∃ u, exec (.cruiseStepDone c (.confirmed code d)) s = .next u ∧ (getOwner u c.val).felled = true ∧ (s.taken = [] → s.jobs = [] → ∀ e, e ≠ c.val → getCore u e = getCore s2 e)) ∧
    (¬ fails → ∀ r, ∃ u, exec (.cruiseStepDone c r) s = .next u ∧ u = putCore (if r = .pass then s1 else s2) c.val (getCore u c.val) ∧ (getCore u c.val).cruise.running = false ∧
      (getCore u c.val).err = (if r = .pass then k1 else k2).err)) ∧
  (∀ (s : State) (c : CoreId),
    ((getCore s c.val).cruise.work = false → exec (.cruisePreempt c) s = .next s) ∧
    ((getCore s c.val).cruise.work = true → exec (.cruisePreempt c) s = .next (putCore s c.val (cruiseYield (getCore s c.val)))) ∧
    ∀ k : Core, (k.cruise.running = false → cruiseYield k = k) ∧
      (k.cruise.running = true → cruiseYield k = modKPage { k with cruise := { k.cruise with running := false, work := false }, mxa := none } 13 fun p => bump p 8 1))

/-! Power and reset (R440 to R454). -/

/-- Power states of a core with no change of state under way. With AUTODOZE an ACTIVE core with nothing in flight goes down to DOZE after its time, with AUTOSLEEP an idle core in DOZE to SLEEP; an entry takes 8 FCLK cycles to DOZE, 256 to SLEEP or SHUT, abandons a cruise step but for DOZE, and ends in its state; in SHUT every segment has lost its contents and its tags. TARGET asks for a deeper state, which is refused with REFUSED and PWR counter 7 unless the core is quiet for DOZE, idle for SLEEP, and without a HELD or pinned slot for SHUT; for the present state it does nothing; for a shallower one it wakes the core with cause 5, in 40, 3,400 or 34,000 FCLK cycles; a core FELLED refuses every one. A wake ends in its state; from SHUT each segment whose ON bit is 1 is up, and holds zeros. A data branch stops 64 FCLK cycles after the last event that started it, a router's branch 16 after its last flit. No other core changes but by the time that passes. -/
def Obligations.PowerStates : Prop :=
  (∀ (s : State) (c : CoreId), (getCore s c.val).pwr.waking = none → (getCore s c.val).pwr.descending = none → (getOwner s c.val).felled = false →
    let k := getCore s c.val
    let down := fun (u : State) (goal : PState) (n : Nat) => putCore u c.val
      { (if goal = .doze then getCore u c.val else cruiseYield (getCore u c.val)) with pwr := { (getCore u c.val).pwr with descending := some goal, deadline := u.now + n } }
    (k.pwr.st = .active → (kReg k 12 0x44).testBit 31 = true → quietUnits k = true →
      exec (.autoDoze c) s = .next (down (atLeast s (k.pwr.busyUntil + fld (kReg k 12 0x48) 0 16)) .doze 8)) ∧
    (k.pwr.st = .doze → (kReg k 12 0x44).testBit 30 = true → idleUnits k = true →
      exec (.autoSleep c) s = .next (down (atLeast s (k.pwr.idleSince + 17 * fld (kReg k 12 0x4C) 0 24)) .sleep 256))) ∧
  (∀ (s u : State) (p : Port) (c : CoreId), reaches s p (.core c 12) 0x44 u →
    let k := getCore u c.val
    let down := fun (goal : PState) (n : Nat) => putCore u c.val
      { (if goal = .doze then k else cruiseYield k) with pwr := { k.pwr with descending := some goal, deadline := u.now + n } }
    let refused := fun (i : Instr) => ∃ t, exec i s = .next t ∧ onlyCore u t c.val ∧ (getCore t c.val).pwr = k.pwr ∧ (kReg (getCore t c.val) 12 0x44).testBit 3 = true ∧
      (kPage (getCore t c.val) 12).cnt = (bump (kPage k 12) 7 1).cnt ∧ (getCore t c.val).spd = k.spd
    let up := fun (i : Instr) (goal : PState) => ∃ t, exec i s = .next t ∧ onlyCore u t c.val ∧ (getCore t c.val).spd = k.spd ∧ (getCore t c.val).pwr =
      { k.pwr with waking := some goal, lastWake := 5, deadline := u.now + (if k.pwr.st = .doze then 40 else if k.pwr.st = .sleep then 3400 else 34000) }
    (k.pwr.st = .felled → refused (.targetDoze p c) ∧ refused (.targetSleep p c) ∧ refused (.targetShut p c) ∧ refused (.targetActive p c)) ∧
    (k.pwr.st = .doze → exec (.targetDoze p c) s = .next (putCore u c.val k)) ∧
    (k.pwr.st = .sleep → exec (.targetSleep p c) s = .next (putCore u c.val k)) ∧
    (k.pwr.st = .shut → exec (.targetShut p c) s = .next (putCore u c.val k)) ∧
    (k.pwr.st = .active → k.pwr.descending = none → exec (.targetActive p c) s = .next (putCore u c.val k)) ∧
    (k.pwr.waking = none → k.pwr.descending = none →
      (k.pwr.st = .active → quietUnits k = true → exec (.targetDoze p c) s = .next (down .doze 8)) ∧
      (k.pwr.st = .active → quietUnits k = false → refused (.targetDoze p c)) ∧
      (k.pwr.st = .active ∨ k.pwr.st = .doze → idleUnits k = true → exec (.targetSleep p c) s = .next (down .sleep 256)) ∧
      (k.pwr.st = .active ∨ k.pwr.st = .doze → idleUnits k = false → refused (.targetSleep p c)) ∧
      (k.pwr.st = .active ∨ k.pwr.st = .doze ∨ k.pwr.st = .sleep → idleUnits k = true → slotsBusy k = false → exec (.targetShut p c) s = .next (down .shut 256)) ∧
      (k.pwr.st = .active ∨ k.pwr.st = .doze ∨ k.pwr.st = .sleep → idleUnits k = false ∨ slotsBusy k = true → refused (.targetShut p c)) ∧
      (k.pwr.st = .sleep ∨ k.pwr.st = .shut → up (.targetDoze p c) .doze) ∧
      (k.pwr.st = .shut → up (.targetSleep p c) .sleep) ∧
      (k.pwr.st = .doze ∨ k.pwr.st = .sleep ∨ k.pwr.st = .shut → up (.targetActive p c) .active))) ∧
  (∀ (s : State) (c : CoreId) (st : PState), (getCore s c.val).pwr.descending = some st →
    let s1 := atLeast s (getCore s c.val).pwr.deadline
    let k := getCore s1 c.val
    ∃ u, exec (.stateEntryDone c) s = .next u ∧ onlyCore s1 u c.val ∧
      (getCore u c.val).pwr.st = st ∧ (getCore u c.val).pwr.descending = none ∧ (getCore u c.val).pwr.dataClk = false ∧
      (st ≠ .shut → (getCore u c.val).spd = k.spd) ∧ (st = .sleep ∨ st = .shut → (getCore u c.val).mxa = none) ∧
      (st = .shut → (∀ g, g < 12 → segUp (getCore u c.val) g = false) ∧ (∀ n, n < 768 → tagOf (getCore u c.val) n = {}) ∧ ∀ a, a < 0xC0000 → memGet (getCore u c.val).spd.mem a = 0#8)) ∧
  (∀ (s : State) (c : CoreId) (st : PState), (getCore s c.val).pwr.waking = some st → (getCore s c.val).pwr.descending = none →
    let s1 := atLeast s (getCore s c.val).pwr.deadline
    let k := getCore s1 c.val
    ∃ u, exec (.wakeComplete c) s = .next u ∧ onlyCore s1 u c.val ∧
      (getCore u c.val).pwr.st = st ∧ (getCore u c.val).pwr.waking = none ∧
      (k.pwr.st ≠ .shut → (getCore u c.val).spd = k.spd) ∧
      (k.pwr.st = .shut → ∀ g, g < 12 → segOn k g = true → segUp (getCore u c.val) g = true ∧ ∀ a, a / 65536 = g → memGet (getCore u c.val).spd.mem a = 0#8)) ∧
  (∀ (s : State) (c : CoreId), (getCore s c.val).pwr.dataClk = true →
    let u := atLeast s ((getCore s c.val).pwr.dataLast + 64)
    exec (.dataBranchStop c) s = .next (putCore u c.val { getCore u c.val with pwr := { (getCore u c.val).pwr with dataClk := false } })) ∧
  (∀ (s : State) (c : CoreId), (getCore s c.val).pwr.meshClk = true → (∀ f ∈ s.mesh, f.here ≠ some (c.val % 40, c.val / 40)) →
    let u := atLeast s ((getCore s c.val).pwr.meshLast + 16)
    exec (.meshBranchStop c) s = .next (putCore u c.val { getCore u c.val with pwr := { (getCore u c.val).pwr with meshClk := false } }))

/-- Reset. Power-good begins step 1 with BLK_RTIME at 0; a warm reset writes the dirty yard lines back, BLK_RTIME going on; both leave everything else as after reset but the MRAM, the key register with REGVALID, BATTLOST and LOCK, and what waits or has left the block. Loss of power keeps the MRAM, keeps the key register only while the battery holds, and clears LOCK. The initialisation steps end in order: step 3 replays the journal, so that the cores of its fence map are FELLED; a link that fails its training stops at STEP 3; step 5 leaves every other core unowned, zeroed, in DOZE; step 6 takes FUSEVALID; step 7 sets READY and raises JNL. A core that does not come up in step 5 is felled. -/
def Obligations.InitialisationRule : Prop :=
  (∀ s : State,
    let kept : State := { State.reset with
      pending := s.pending, now := s.now, origin := s.origin, jnl := { mram := s.jnl.mram }, outbox := s.outbox, free := s.free
      keys := { s.keys with fuseValid := 0#4, staged := [] } }
    (s.boot.powered = false → exec .powerGood s = .next { kept with origin := s.now, boot := { powered := true, since := s.now } }) ∧
    (s.boot.powered = true → exec .powerGood s = .next s) ∧
    (s.boot.powered = true → s.boot.writeback = false →
      exec .warmReset s = .next { kept with yards := s.yards, boot := { powered := true, warm := true, writeback := true, since := s.now } }) ∧
    (s.boot.writeback = true → ∃ u, exec .warmWritebackDone s = .next u ∧
      u = { s with outbox := u.outbox, yards := [], boot := { powered := true, warm := true, step := 1, since := s.now } } ∧
      (∀ p y l, s.yards = [(p, y)] → y.stopped = false → y.sets.flatMap (·.2) = [l] → u.outbox = if l.dirty then s.outbox ++ [.memWrite p l.num l.data] else s.outbox)) ∧
    (s.boot.powered = true → exec (.powerLoss true) s = .next { kept with keys := { s.keys with fuseValid := 0#4, staged := [], lock := false }, boot := {} }) ∧
    (s.boot.powered = true → exec (.powerLoss false) s = .next { kept with
      keys := { s.keys with fuseValid := 0#4, staged := [], lock := false, reg := 0, regValid := false, battLost := true }, boot := {} })) ∧
  (∀ s : State, s.boot.powered = true → s.boot.ready = false → s.boot.stopped = false → s.boot.writeback = false →
    let on := fun (u : State) => { u with boot := { s.boot with step := s.boot.step + 1, since := s.now } }
    (s.boot.step = 0 ∨ s.boot.step = 1 ∨ s.boot.step = 3 → exec (.initStepDone .done) s = .next (on s)) ∧
    (s.boot.step = 2 → ∃ u, exec (.initStepDone .done) s = .next u ∧ u.boot = { s.boot with step := 3, since := s.now } ∧
      ∀ c, (getOwner u c).felled = (decide (c < 1200) && (replay s.jnl s.now (!s.boot.warm)).2.1.testBit c)) ∧
    (s.boot.step = 3 → ∃ u, exec (.initStepDone .linkFailed) s = .next u ∧ u.boot = { s.boot with stopped := true } ∧ u.evPend = s.evPend ||| 0x40#8 ∧
      (s.jnl.queue.length < 16 → ∃ r, u.jnl.queue = s.jnl.queue ++ [r] ∧ r.ty = 4 ∧ leAt r.payload 0 2 = 0xFFFF)) ∧
    (s.boot.step = 4 → ∃ u, exec (.initStepDone .done) s = .next u ∧ u = { on s with cores := u.cores, owners := u.owners } ∧
      ∀ c, c < 1200 → if (getOwner s c).felled then getOwner u c = getOwner s c ∧ getCore u c = getCore s c
        else getOwner u c = { zeroed := true } ∧ (getCore u c).pwr.st = .doze ∧ (getCore u c).spd = {} ∧ (getCore u c).pages = [] ∧ (getCore u c).grv.blank = true) ∧
    (∀ v, s.boot.step = 5 → exec (.initStepDone (.keys v)) s = .next (on { s with keys := { s.keys with fuseValid := v } })) ∧
    (s.boot.step = 6 → exec (.initStepDone .done) s = .next { on s with
      boot := { s.boot with step := 7, since := s.now, ready := true }, evPend := s.evPend ||| 0x40#8 })) ∧
  (∀ (s : State) (c : CoreId), s.boot.powered = true → s.boot.stopped = false → s.boot.step = 4 → (getOwner s c.val).felled = false →
    let s1 := atLeast s (s.boot.since + 10000 * (2 * (c.val / 400) + c.val % 40 / 20) + 60000)
    ∃ u, exec (.corePowerupTimeout c) s = .next u ∧ (getOwner u c.val).felled = true ∧
      (s.jobs = [] → s.taken = [] → s.jnl.queue.length < 16 →
        getOwner u c.val = { getOwner s c.val with felled := true } ∧ (∀ d, d ≠ c.val → getOwner u d = getOwner s d) ∧ (∀ d, d ≠ c.val → getCore u d = getCore s1 d) ∧ u.now = s1.now ∧
        ∃ r, u.jnl.queue = s.jnl.queue ++ [r] ∧ r.ty = 2 ∧ r.payload.take 4 = natLe 2 c.val ++ [1#8, 0x11#8]))
end

