-- ==== Sys2Proof/Laws/Maps.lean ====
section
/-! SUPPORT. The laws of sparse data and memories: what a read gives after a write, that every memory operation keeps the canonical form. -/

namespace Sys2Proof.Machine

/-- The value just listed. -/
@[simp] theorem fget?_fset_same {α : Type} (m : FMap α) (k : Nat) (a : α) : fget? (fset m k a) k = some a := by
  induction m with
  | nil => simp [fset, fget?]
  | cons e m ih =>
    unfold fset
    split
    · simp [fget?]
    · split
      · simp [fget?]
      · rename_i h _
        simp [fget?, h, ih]

/-- Listing a value leaves the others. -/
theorem fget?_fset_ne {α : Type} (m : FMap α) {k j : Nat} (a : α) (h : j ≠ k) : fget? (fset m k a) j = fget? m j := by
  induction m with
  | nil => simp [fset, fget?, h]
  | cons e m ih =>
    unfold fset
    split
    · rename_i h1
      subst h1
      simp [fget?, h]
    · split
      · simp [fget?, h]
      · simp [fget?, ih]

/-- The value for a key just listed. -/
@[simp] theorem fget_fset_same {α : Type} (m : FMap α) (k : Nat) (a d : α) : fget (fset m k a) k d = a := by
  simp [fget]

/-- The value for another key. -/
theorem fget_fset_ne {α : Type} (m : FMap α) {k j : Nat} (a d : α) (h : j ≠ k) : fget (fset m k a) j d = fget m j d := by
  simp [fget, fget?_fset_ne m a h]

/-- A key taken out is not listed. -/
@[simp] theorem fget?_fdel_same {α : Type} (m : FMap α) (k : Nat) : fget? (fdel m k) k = none := by
  induction m with
  | nil => rfl
  | cons e m ih =>
    unfold fdel at ih ⊢
    by_cases h : e.1 = k
    · simpa [List.filter, h] using ih
    · have h2 : k ≠ e.1 := fun x => h x.symm
      simp only [List.filter, h, decide_not, decide_false, Bool.not_false]
      simpa [fget?, h2] using ih

/-- Taking a key out leaves the others. -/
theorem fget?_fdel_ne {α : Type} (m : FMap α) {k j : Nat} (h : j ≠ k) : fget? (fdel m k) j = fget? m j := by
  induction m with
  | nil => rfl
  | cons e m ih =>
    unfold fdel at ih ⊢
    by_cases h1 : e.1 = k
    · have h2 : j ≠ e.1 := by omega
      simp only [List.filter, h1, ne_eq, not_true, decide_false]
      simpa [fget?, h2] using ih
    · simp only [List.filter, ne_eq, h1, not_false_eq_true, decide_true]
      unfold fget?
      split
      · rfl
      · exact ih

/-- A byte written is read back (R190). -/
@[simp] theorem memGet_memSet_same (m : Memory) (a : Nat) (b : BitVec 8) : memGet (memSet m a b) a = b := by
  unfold memGet memSet
  split
  · rename_i h
    simp [fget, h]
  · simp

/-- A write leaves every other byte (R190). -/
theorem memGet_memSet_ne (m : Memory) {a x : Nat} (b : BitVec 8) (h : x ≠ a) : memGet (memSet m a b) x = memGet m x := by
  unfold memGet memSet
  split
  · simp [fget, fget?_fdel_ne m h]
  · exact fget_fset_ne m b _ h

/-- A run of bytes leaves every byte outside it. -/
theorem memGet_memWrite_out (bs : List (BitVec 8)) (m : Memory) (a x : Nat) (h : x < a ∨ a + bs.length ≤ x) : memGet (memWrite m a bs) x = memGet m x := by
  induction bs generalizing m a with
  | nil => rfl
  | cons b bs ih =>
    simp only [List.length_cons] at h
    rw [memWrite, ih _ _ (by omega), memGet_memSet_ne _ _ (by omega)]

/-- Byte i of a run written at a is read back at a + i. -/
theorem memGet_memWrite_in (bs : List (BitVec 8)) (m : Memory) (a i : Nat) (h : i < bs.length) : memGet (memWrite m a bs) (a + i) = bs.getD i 0#8 := by
  induction bs generalizing m a i with
  | nil => simp at h
  | cons b bs ih =>
    cases i with
    | zero => rw [memWrite, memGet_memWrite_out _ _ _ _ (by omega)]; simp
    | succ i =>
      have := ih (memSet m a b) (a + 1) i (by simpa using h)
      rw [memWrite, show a + (i + 1) = a + 1 + i by omega, this]
      simp

/-- Zeroed bytes read 0, the others stay. -/
theorem memGet_memZero (m : Memory) (a n x : Nat) : memGet (memZero m a n) x = if a ≤ x ∧ x < a + n then 0#8 else memGet m x := by
  unfold memGet memZero fget
  induction m with
  | nil => simp [fget?]
  | cons e m ih =>
    rw [List.filter_cons]
    split
    · rename_i h
      unfold fget?
      split
      · rename_i hx
        simp only [Bool.or_eq_true, decide_eq_true_eq] at h
        rw [if_neg (by omega)]
      · simpa using ih
    · rename_i h
      simp only [Bool.or_eq_true, decide_eq_true_eq, not_or, Nat.not_lt, Nat.not_le] at h
      rw [ih]
      split
      · rfl
      · rename_i hx
        rw [show fget? (e :: m) x = if x = e.1 then some e.2 else fget? m x from rfl, if_neg (by omega)]

/-! The canonical form. -/

/-- A looser bound keeps the form. -/
theorem memWfFrom_mono (m : Memory) {lo lo' : Nat} (h : lo' ≤ lo) (hm : memWfFrom lo m = true) : memWfFrom lo' m = true := by
  cases m with
  | nil => rfl
  | cons e m =>
    simp only [memWfFrom, Bool.and_eq_true, decide_eq_true_eq] at hm ⊢
    exact ⟨⟨by omega, hm.1.2⟩, hm.2⟩

/-- Any filter of a canonical memory is canonical. -/
theorem memWfFrom_filter (f : Host.Cell → Bool) (m : Memory) (lo : Nat) (hm : memWfFrom lo m = true) : memWfFrom lo (m.filter f) = true := by
  induction m generalizing lo with
  | nil => rfl
  | cons e m ih =>
    simp only [memWfFrom, Bool.and_eq_true, decide_eq_true_eq] at hm
    rw [List.filter_cons]
    split
    · simp only [memWfFrom, Bool.and_eq_true, decide_eq_true_eq]
      exact ⟨hm.1, ih _ hm.2⟩
    · exact memWfFrom_mono _ (by omega) (ih _ hm.2)

/-- Listing a byte other than 0 keeps the form. -/
theorem memWfFrom_fset (m : Memory) (lo a : Nat) (b : BitVec 8) (hb : b ≠ 0#8) (ha : lo ≤ a) (hm : memWfFrom lo m = true) : memWfFrom lo (fset m a b) = true := by
  induction m generalizing lo with
  | nil => simp [fset, memWfFrom, hb, ha]
  | cons e m ih =>
    simp only [memWfFrom, Bool.and_eq_true, decide_eq_true_eq] at hm
    unfold fset
    split
    · rename_i h
      subst h
      simp only [memWfFrom, Bool.and_eq_true, decide_eq_true_eq]
      exact ⟨⟨ha, hb⟩, hm.2⟩
    · split
      · simp only [memWfFrom, Bool.and_eq_true, decide_eq_true_eq]
        exact ⟨⟨ha, hb⟩, ⟨by omega, hm.1.2⟩, hm.2⟩
      · simp only [memWfFrom, Bool.and_eq_true, decide_eq_true_eq]
        exact ⟨hm.1, ih _ (by omega) hm.2⟩

/-- A write of one byte keeps the canonical form. -/
theorem memSet_wf (m : Memory) (a : Nat) (b : BitVec 8) (h : m.wf = true) : (memSet m a b).wf = true := by
  unfold memSet
  split
  · exact memWfFrom_filter _ m 0 h
  · rename_i hb
    exact memWfFrom_fset m 0 a b hb (Nat.zero_le a) h

/-- A write of a run of bytes keeps the canonical form. -/
theorem memWrite_wf (bs : List (BitVec 8)) (m : Memory) (a : Nat) (h : m.wf = true) : (memWrite m a bs).wf = true := by
  induction bs generalizing m a with
  | nil => exact h
  | cons b bs ih => exact ih _ _ (memSet_wf m a b h)

/-- Zeroing a run of bytes keeps the canonical form. -/
theorem memZero_wf (m : Memory) (a n : Nat) (h : m.wf = true) : (memZero m a n).wf = true := memWfFrom_filter _ m 0 h

/-- The MRAM and every scratchpad are canonical at reset. -/
theorem reset_memory_wf : State.reset.jnl.mram.wf = true ∧ ∀ e ∈ State.reset.cores, e.2.spd.mem.wf = true := by
  constructor
  · rfl
  · intro e he
    cases he

end Sys2Proof.Machine
end

