-- ==== Sys2Proof/Laws/State.lean ====
section
/-! SUPPORT. The fields of a state and of a core after each named update, so that no proof unfolds one. -/

namespace Sys2Proof.Machine

/-! Reading back what was replaced. -/

/-- The core just replaced. -/
@[simp] theorem getCore_putCore_same (s : State) (c : Nat) (k : Core) : getCore (putCore s c k) c = k := by
  simp [getCore, putCore]

/-- Replacing a core leaves the others. -/
theorem getCore_putCore_ne (s : State) {c d : Nat} (k : Core) (h : d ≠ c) : getCore (putCore s c k) d = getCore s d :=
  fget_fset_ne _ _ _ h

/-- The core just changed. -/
@[simp] theorem getCore_modCore_same (s : State) (c : Nat) (f : Core → Core) : getCore (modCore s c f) c = f (getCore s c) := by
  simp [modCore]

/-- Changing a core leaves the others. -/
theorem getCore_modCore_ne (s : State) {c d : Nat} (f : Core → Core) (h : d ≠ c) : getCore (modCore s c f) d = getCore s d :=
  getCore_putCore_ne s _ h

/-- The page just changed. -/
@[simp] theorem kPage_modKPage_same (k : Core) (i : Nat) (f : Page → Page) : kPage (modKPage k i f) i = f (kPage k i) := by
  simp [kPage, modKPage]

/-- Changing a page leaves the others. -/
theorem kPage_modKPage_ne (k : Core) {i j : Nat} (f : Page → Page) (h : j ≠ i) : kPage (modKPage k i f) j = kPage k j :=
  fget_fset_ne _ _ _ h

/-- The register just set reads the value, modulo its width. -/
theorem kReg_setKReg_same (k : Core) (i off v : Nat) : kReg (setKReg k i off v) i off = v % 2 ^ 32 := by
  simp [kReg, setKReg, setAct, actWord, word]

/-- Setting a register leaves the others of the page and of the core. -/
theorem kReg_setKReg_ne (k : Core) {i j off o : Nat} (v : Nat) (h : j ≠ i ∨ o ≠ off) : kReg (setKReg k i off v) j o = kReg k j o := by
  by_cases hi : j = i
  · subst hi
    have ho : o ≠ off := by simpa using h
    simp [kReg, setKReg, setAct, actWord, fget?_fset_ne _ _ ho]
  · simp [kReg, setKReg, kPage_modKPage_ne k _ hi]

/-- The queue just replaced. -/
@[simp] theorem getQ_putQ_same (k : Core) (q : QueueId) (x : Queue) : getQ (putQ k q x) q = x := by
  cases q <;> rfl

/-- Replacing a queue leaves the others. -/
theorem getQ_putQ_ne (k : Core) {q r : QueueId} (x : Queue) (h : r ≠ q) : getQ (putQ k q x) r = getQ k r := by
  cases q <;> cases r <;> first | rfl | exact absurd rfl h

/-- The owner just changed. -/
@[simp] theorem getOwner_modOwner_same (s : State) (c : Nat) (f : Ownership → Ownership) : getOwner (modOwner s c f) c = f (getOwner s c) := by
  simp [getOwner, modOwner]

/-- Changing an owner leaves the others. -/
theorem getOwner_modOwner_ne (s : State) {c d : Nat} (f : Ownership → Ownership) (h : d ≠ c) : getOwner (modOwner s c f) d = getOwner s d :=
  fget_fset_ne _ _ _ h

/-! What an update leaves alone. -/

/-- Replacing a core changes the cores alone. -/
@[simp] theorem putCore_fields (s : State) (c : Nat) (k : Core) :
    (putCore s c k).pending = s.pending ∧ (putCore s c k).now = s.now ∧ (putCore s c k).origin = s.origin ∧ (putCore s c k).boot = s.boot ∧ (putCore s c k).blk = s.blk ∧ (putCore s c k).evt = s.evt ∧ (putCore s c k).jnlPage = s.jnlPage ∧ (putCore s c k).fioPage = s.fioPage ∧ (putCore s c k).tenPages = s.tenPages ∧ (putCore s c k).evPend = s.evPend ∧ (putCore s c k).tenants = s.tenants ∧ (putCore s c k).owners = s.owners ∧ (putCore s c k).jobs = s.jobs ∧ (putCore s c k).swaps = s.swaps ∧ (putCore s c k).pageOrder = s.pageOrder ∧ (putCore s c k).mbxNext = s.mbxNext ∧ (putCore s c k).taken = s.taken ∧ (putCore s c k).mesh = s.mesh ∧ (putCore s c k).nextFlit = s.nextFlit ∧ (putCore s c k).failedLinks = s.failedLinks ∧ (putCore s c k).links = s.links ∧ (putCore s c k).yards = s.yards ∧ (putCore s c k).forwards = s.forwards ∧ (putCore s c k).nextForward = s.nextForward ∧ (putCore s c k).jnl = s.jnl ∧ (putCore s c k).keys = s.keys ∧ (putCore s c k).banks = s.banks ∧ (putCore s c k).pins = s.pins ∧ (putCore s c k).latchM = s.latchM ∧ (putCore s c k).latchH = s.latchH ∧ (putCore s c k).latchV = s.latchV ∧ (putCore s c k).outbox = s.outbox ∧ (putCore s c k).free = s.free := by refine ⟨?_, ?_, ?_, ?_, ?_, ?_, ?_, ?_, ?_, ?_, ?_, ?_, ?_, ?_, ?_, ?_, ?_, ?_, ?_, ?_, ?_, ?_, ?_, ?_, ?_, ?_, ?_, ?_, ?_, ?_, ?_, ?_, ?_⟩ <;> rfl

/-- Changing a core changes the cores alone. -/
@[simp] theorem modCore_fields (s : State) (c : Nat) (f : Core → Core) :
    (modCore s c f).pending = s.pending ∧ (modCore s c f).now = s.now ∧ (modCore s c f).origin = s.origin ∧ (modCore s c f).boot = s.boot ∧ (modCore s c f).blk = s.blk ∧ (modCore s c f).evt = s.evt ∧ (modCore s c f).jnlPage = s.jnlPage ∧ (modCore s c f).fioPage = s.fioPage ∧ (modCore s c f).tenPages = s.tenPages ∧ (modCore s c f).evPend = s.evPend ∧ (modCore s c f).tenants = s.tenants ∧ (modCore s c f).owners = s.owners ∧ (modCore s c f).jobs = s.jobs ∧ (modCore s c f).swaps = s.swaps ∧ (modCore s c f).pageOrder = s.pageOrder ∧ (modCore s c f).mbxNext = s.mbxNext ∧ (modCore s c f).taken = s.taken ∧ (modCore s c f).mesh = s.mesh ∧ (modCore s c f).nextFlit = s.nextFlit ∧ (modCore s c f).failedLinks = s.failedLinks ∧ (modCore s c f).links = s.links ∧ (modCore s c f).yards = s.yards ∧ (modCore s c f).forwards = s.forwards ∧ (modCore s c f).nextForward = s.nextForward ∧ (modCore s c f).jnl = s.jnl ∧ (modCore s c f).keys = s.keys ∧ (modCore s c f).banks = s.banks ∧ (modCore s c f).pins = s.pins ∧ (modCore s c f).latchM = s.latchM ∧ (modCore s c f).latchH = s.latchH ∧ (modCore s c f).latchV = s.latchV ∧ (modCore s c f).outbox = s.outbox ∧ (modCore s c f).free = s.free := by refine ⟨?_, ?_, ?_, ?_, ?_, ?_, ?_, ?_, ?_, ?_, ?_, ?_, ?_, ?_, ?_, ?_, ?_, ?_, ?_, ?_, ?_, ?_, ?_, ?_, ?_, ?_, ?_, ?_, ?_, ?_, ?_, ?_, ?_⟩ <;> rfl

/-- Changing a core with its wake changes the cores alone. -/
@[simp] theorem modCoreW_fields (s : State) (c : Nat) (f : Core → Core) :
    (modCoreW s c f).pending = s.pending ∧ (modCoreW s c f).now = s.now ∧ (modCoreW s c f).origin = s.origin ∧ (modCoreW s c f).boot = s.boot ∧ (modCoreW s c f).blk = s.blk ∧ (modCoreW s c f).evt = s.evt ∧ (modCoreW s c f).jnlPage = s.jnlPage ∧ (modCoreW s c f).fioPage = s.fioPage ∧ (modCoreW s c f).tenPages = s.tenPages ∧ (modCoreW s c f).evPend = s.evPend ∧ (modCoreW s c f).tenants = s.tenants ∧ (modCoreW s c f).owners = s.owners ∧ (modCoreW s c f).jobs = s.jobs ∧ (modCoreW s c f).swaps = s.swaps ∧ (modCoreW s c f).pageOrder = s.pageOrder ∧ (modCoreW s c f).mbxNext = s.mbxNext ∧ (modCoreW s c f).taken = s.taken ∧ (modCoreW s c f).mesh = s.mesh ∧ (modCoreW s c f).nextFlit = s.nextFlit ∧ (modCoreW s c f).failedLinks = s.failedLinks ∧ (modCoreW s c f).links = s.links ∧ (modCoreW s c f).yards = s.yards ∧ (modCoreW s c f).forwards = s.forwards ∧ (modCoreW s c f).nextForward = s.nextForward ∧ (modCoreW s c f).jnl = s.jnl ∧ (modCoreW s c f).keys = s.keys ∧ (modCoreW s c f).banks = s.banks ∧ (modCoreW s c f).pins = s.pins ∧ (modCoreW s c f).latchM = s.latchM ∧ (modCoreW s c f).latchH = s.latchH ∧ (modCoreW s c f).latchV = s.latchV ∧ (modCoreW s c f).outbox = s.outbox ∧ (modCoreW s c f).free = s.free := by refine ⟨?_, ?_, ?_, ?_, ?_, ?_, ?_, ?_, ?_, ?_, ?_, ?_, ?_, ?_, ?_, ?_, ?_, ?_, ?_, ?_, ?_, ?_, ?_, ?_, ?_, ?_, ?_, ?_, ?_, ?_, ?_, ?_, ?_⟩ <;> rfl

/-- An event bit changes EVT_PEND alone. -/
@[simp] theorem evSet_fields (s : State) (b : Nat) :
    (evSet s b).pending = s.pending ∧ (evSet s b).now = s.now ∧ (evSet s b).origin = s.origin ∧ (evSet s b).boot = s.boot ∧ (evSet s b).blk = s.blk ∧ (evSet s b).evt = s.evt ∧ (evSet s b).jnlPage = s.jnlPage ∧ (evSet s b).fioPage = s.fioPage ∧ (evSet s b).tenPages = s.tenPages ∧ (evSet s b).tenants = s.tenants ∧ (evSet s b).owners = s.owners ∧ (evSet s b).cores = s.cores ∧ (evSet s b).jobs = s.jobs ∧ (evSet s b).swaps = s.swaps ∧ (evSet s b).pageOrder = s.pageOrder ∧ (evSet s b).mbxNext = s.mbxNext ∧ (evSet s b).taken = s.taken ∧ (evSet s b).mesh = s.mesh ∧ (evSet s b).nextFlit = s.nextFlit ∧ (evSet s b).failedLinks = s.failedLinks ∧ (evSet s b).links = s.links ∧ (evSet s b).yards = s.yards ∧ (evSet s b).forwards = s.forwards ∧ (evSet s b).nextForward = s.nextForward ∧ (evSet s b).jnl = s.jnl ∧ (evSet s b).keys = s.keys ∧ (evSet s b).banks = s.banks ∧ (evSet s b).pins = s.pins ∧ (evSet s b).latchM = s.latchM ∧ (evSet s b).latchH = s.latchH ∧ (evSet s b).latchV = s.latchV ∧ (evSet s b).outbox = s.outbox ∧ (evSet s b).free = s.free := by refine ⟨?_, ?_, ?_, ?_, ?_, ?_, ?_, ?_, ?_, ?_, ?_, ?_, ?_, ?_, ?_, ?_, ?_, ?_, ?_, ?_, ?_, ?_, ?_, ?_, ?_, ?_, ?_, ?_, ?_, ?_, ?_, ?_, ?_⟩ <;> rfl

/-- Sending changes what has left the block alone. -/
@[simp] theorem emit_fields (s : State) (x : Out) :
    (emit s x).pending = s.pending ∧ (emit s x).now = s.now ∧ (emit s x).origin = s.origin ∧ (emit s x).boot = s.boot ∧ (emit s x).blk = s.blk ∧ (emit s x).evt = s.evt ∧ (emit s x).jnlPage = s.jnlPage ∧ (emit s x).fioPage = s.fioPage ∧ (emit s x).tenPages = s.tenPages ∧ (emit s x).evPend = s.evPend ∧ (emit s x).tenants = s.tenants ∧ (emit s x).owners = s.owners ∧ (emit s x).cores = s.cores ∧ (emit s x).jobs = s.jobs ∧ (emit s x).swaps = s.swaps ∧ (emit s x).pageOrder = s.pageOrder ∧ (emit s x).mbxNext = s.mbxNext ∧ (emit s x).taken = s.taken ∧ (emit s x).mesh = s.mesh ∧ (emit s x).nextFlit = s.nextFlit ∧ (emit s x).failedLinks = s.failedLinks ∧ (emit s x).links = s.links ∧ (emit s x).yards = s.yards ∧ (emit s x).forwards = s.forwards ∧ (emit s x).nextForward = s.nextForward ∧ (emit s x).jnl = s.jnl ∧ (emit s x).keys = s.keys ∧ (emit s x).banks = s.banks ∧ (emit s x).pins = s.pins ∧ (emit s x).latchM = s.latchM ∧ (emit s x).latchH = s.latchH ∧ (emit s x).latchV = s.latchV ∧ (emit s x).free = s.free := by refine ⟨?_, ?_, ?_, ?_, ?_, ?_, ?_, ?_, ?_, ?_, ?_, ?_, ?_, ?_, ?_, ?_, ?_, ?_, ?_, ?_, ?_, ?_, ?_, ?_, ?_, ?_, ?_, ?_, ?_, ?_, ?_, ?_, ?_⟩ <;> rfl

/-- A tenant event changes what has left the block alone. -/
@[simp] theorem tenEvent_fields (s : State) (t cls low : Nat) :
    (tenEvent s t cls low).pending = s.pending ∧ (tenEvent s t cls low).now = s.now ∧ (tenEvent s t cls low).origin = s.origin ∧ (tenEvent s t cls low).boot = s.boot ∧ (tenEvent s t cls low).blk = s.blk ∧ (tenEvent s t cls low).evt = s.evt ∧ (tenEvent s t cls low).jnlPage = s.jnlPage ∧ (tenEvent s t cls low).fioPage = s.fioPage ∧ (tenEvent s t cls low).tenPages = s.tenPages ∧ (tenEvent s t cls low).evPend = s.evPend ∧ (tenEvent s t cls low).tenants = s.tenants ∧ (tenEvent s t cls low).owners = s.owners ∧ (tenEvent s t cls low).cores = s.cores ∧ (tenEvent s t cls low).jobs = s.jobs ∧ (tenEvent s t cls low).swaps = s.swaps ∧ (tenEvent s t cls low).pageOrder = s.pageOrder ∧ (tenEvent s t cls low).mbxNext = s.mbxNext ∧ (tenEvent s t cls low).taken = s.taken ∧ (tenEvent s t cls low).mesh = s.mesh ∧ (tenEvent s t cls low).nextFlit = s.nextFlit ∧ (tenEvent s t cls low).failedLinks = s.failedLinks ∧ (tenEvent s t cls low).links = s.links ∧ (tenEvent s t cls low).yards = s.yards ∧ (tenEvent s t cls low).forwards = s.forwards ∧ (tenEvent s t cls low).nextForward = s.nextForward ∧ (tenEvent s t cls low).jnl = s.jnl ∧ (tenEvent s t cls low).keys = s.keys ∧ (tenEvent s t cls low).banks = s.banks ∧ (tenEvent s t cls low).pins = s.pins ∧ (tenEvent s t cls low).latchM = s.latchM ∧ (tenEvent s t cls low).latchH = s.latchH ∧ (tenEvent s t cls low).latchV = s.latchV ∧ (tenEvent s t cls low).free = s.free := by refine ⟨?_, ?_, ?_, ?_, ?_, ?_, ?_, ?_, ?_, ?_, ?_, ?_, ?_, ?_, ?_, ?_, ?_, ?_, ?_, ?_, ?_, ?_, ?_, ?_, ?_, ?_, ?_, ?_, ?_, ?_, ?_, ?_, ?_⟩ <;> rfl

/-- Waiting changes the time and the cores alone. -/
@[simp] theorem atLeast_fields (s : State) (n : Nat) :
    (atLeast s n).pending = s.pending ∧ (atLeast s n).origin = s.origin ∧ (atLeast s n).boot = s.boot ∧ (atLeast s n).blk = s.blk ∧ (atLeast s n).evt = s.evt ∧ (atLeast s n).jnlPage = s.jnlPage ∧ (atLeast s n).fioPage = s.fioPage ∧ (atLeast s n).tenPages = s.tenPages ∧ (atLeast s n).evPend = s.evPend ∧ (atLeast s n).tenants = s.tenants ∧ (atLeast s n).owners = s.owners ∧ (atLeast s n).jobs = s.jobs ∧ (atLeast s n).swaps = s.swaps ∧ (atLeast s n).pageOrder = s.pageOrder ∧ (atLeast s n).mbxNext = s.mbxNext ∧ (atLeast s n).taken = s.taken ∧ (atLeast s n).mesh = s.mesh ∧ (atLeast s n).nextFlit = s.nextFlit ∧ (atLeast s n).failedLinks = s.failedLinks ∧ (atLeast s n).links = s.links ∧ (atLeast s n).yards = s.yards ∧ (atLeast s n).forwards = s.forwards ∧ (atLeast s n).nextForward = s.nextForward ∧ (atLeast s n).jnl = s.jnl ∧ (atLeast s n).keys = s.keys ∧ (atLeast s n).banks = s.banks ∧ (atLeast s n).pins = s.pins ∧ (atLeast s n).latchM = s.latchM ∧ (atLeast s n).latchH = s.latchH ∧ (atLeast s n).latchV = s.latchV ∧ (atLeast s n).outbox = s.outbox ∧ (atLeast s n).free = s.free := by
  unfold atLeast
  split <;> refine ⟨?_, ?_, ?_, ?_, ?_, ?_, ?_, ?_, ?_, ?_, ?_, ?_, ?_, ?_, ?_, ?_, ?_, ?_, ?_, ?_, ?_, ?_, ?_, ?_, ?_, ?_, ?_, ?_, ?_, ?_, ?_, ?_⟩ <;> rfl

/-- After waiting it is that cycle or a later one. -/
theorem le_atLeast (s : State) (n : Nat) : n ≤ (atLeast s n).now := by
  unfold atLeast
  split <;> (try dsimp only) <;> omega

/-- Waiting does not take time back. -/
theorem now_atLeast (s : State) (n : Nat) : s.now ≤ (atLeast s n).now := by
  unfold atLeast
  split <;> (try dsimp only) <;> omega

/-- Changing a tenant entry changes the tenant table alone. -/
@[simp] theorem modTenant_fields (s : State) (t : Nat) (f : Tenant → Tenant) :
    (modTenant s t f).pending = s.pending ∧ (modTenant s t f).now = s.now ∧ (modTenant s t f).origin = s.origin ∧ (modTenant s t f).boot = s.boot ∧ (modTenant s t f).blk = s.blk ∧ (modTenant s t f).evt = s.evt ∧ (modTenant s t f).jnlPage = s.jnlPage ∧ (modTenant s t f).fioPage = s.fioPage ∧ (modTenant s t f).tenPages = s.tenPages ∧ (modTenant s t f).evPend = s.evPend ∧ (modTenant s t f).owners = s.owners ∧ (modTenant s t f).cores = s.cores ∧ (modTenant s t f).jobs = s.jobs ∧ (modTenant s t f).swaps = s.swaps ∧ (modTenant s t f).pageOrder = s.pageOrder ∧ (modTenant s t f).mbxNext = s.mbxNext ∧ (modTenant s t f).taken = s.taken ∧ (modTenant s t f).mesh = s.mesh ∧ (modTenant s t f).nextFlit = s.nextFlit ∧ (modTenant s t f).failedLinks = s.failedLinks ∧ (modTenant s t f).links = s.links ∧ (modTenant s t f).yards = s.yards ∧ (modTenant s t f).forwards = s.forwards ∧ (modTenant s t f).nextForward = s.nextForward ∧ (modTenant s t f).jnl = s.jnl ∧ (modTenant s t f).keys = s.keys ∧ (modTenant s t f).banks = s.banks ∧ (modTenant s t f).pins = s.pins ∧ (modTenant s t f).latchM = s.latchM ∧ (modTenant s t f).latchH = s.latchH ∧ (modTenant s t f).latchV = s.latchV ∧ (modTenant s t f).outbox = s.outbox ∧ (modTenant s t f).free = s.free := by refine ⟨?_, ?_, ?_, ?_, ?_, ?_, ?_, ?_, ?_, ?_, ?_, ?_, ?_, ?_, ?_, ?_, ?_, ?_, ?_, ?_, ?_, ?_, ?_, ?_, ?_, ?_, ?_, ?_, ?_, ?_, ?_, ?_, ?_⟩ <;> rfl

/-- Changing an owner changes the ownership registers alone. -/
@[simp] theorem modOwner_fields (s : State) (c : Nat) (f : Ownership → Ownership) :
    (modOwner s c f).pending = s.pending ∧ (modOwner s c f).now = s.now ∧ (modOwner s c f).origin = s.origin ∧ (modOwner s c f).boot = s.boot ∧ (modOwner s c f).blk = s.blk ∧ (modOwner s c f).evt = s.evt ∧ (modOwner s c f).jnlPage = s.jnlPage ∧ (modOwner s c f).fioPage = s.fioPage ∧ (modOwner s c f).tenPages = s.tenPages ∧ (modOwner s c f).evPend = s.evPend ∧ (modOwner s c f).tenants = s.tenants ∧ (modOwner s c f).cores = s.cores ∧ (modOwner s c f).jobs = s.jobs ∧ (modOwner s c f).swaps = s.swaps ∧ (modOwner s c f).pageOrder = s.pageOrder ∧ (modOwner s c f).mbxNext = s.mbxNext ∧ (modOwner s c f).taken = s.taken ∧ (modOwner s c f).mesh = s.mesh ∧ (modOwner s c f).nextFlit = s.nextFlit ∧ (modOwner s c f).failedLinks = s.failedLinks ∧ (modOwner s c f).links = s.links ∧ (modOwner s c f).yards = s.yards ∧ (modOwner s c f).forwards = s.forwards ∧ (modOwner s c f).nextForward = s.nextForward ∧ (modOwner s c f).jnl = s.jnl ∧ (modOwner s c f).keys = s.keys ∧ (modOwner s c f).banks = s.banks ∧ (modOwner s c f).pins = s.pins ∧ (modOwner s c f).latchM = s.latchM ∧ (modOwner s c f).latchH = s.latchH ∧ (modOwner s c f).latchV = s.latchV ∧ (modOwner s c f).outbox = s.outbox ∧ (modOwner s c f).free = s.free := by refine ⟨?_, ?_, ?_, ?_, ?_, ?_, ?_, ?_, ?_, ?_, ?_, ?_, ?_, ?_, ?_, ?_, ?_, ?_, ?_, ?_, ?_, ?_, ?_, ?_, ?_, ?_, ?_, ?_, ?_, ?_, ?_, ?_, ?_⟩ <;> rfl

/-- Changing a job changes the jobs alone. -/
@[simp] theorem modJob_fields (s : State) (id : Word) (f : Job → Job) :
    (modJob s id f).pending = s.pending ∧ (modJob s id f).now = s.now ∧ (modJob s id f).origin = s.origin ∧ (modJob s id f).boot = s.boot ∧ (modJob s id f).blk = s.blk ∧ (modJob s id f).evt = s.evt ∧ (modJob s id f).jnlPage = s.jnlPage ∧ (modJob s id f).fioPage = s.fioPage ∧ (modJob s id f).tenPages = s.tenPages ∧ (modJob s id f).evPend = s.evPend ∧ (modJob s id f).tenants = s.tenants ∧ (modJob s id f).owners = s.owners ∧ (modJob s id f).cores = s.cores ∧ (modJob s id f).swaps = s.swaps ∧ (modJob s id f).pageOrder = s.pageOrder ∧ (modJob s id f).mbxNext = s.mbxNext ∧ (modJob s id f).taken = s.taken ∧ (modJob s id f).mesh = s.mesh ∧ (modJob s id f).nextFlit = s.nextFlit ∧ (modJob s id f).failedLinks = s.failedLinks ∧ (modJob s id f).links = s.links ∧ (modJob s id f).yards = s.yards ∧ (modJob s id f).forwards = s.forwards ∧ (modJob s id f).nextForward = s.nextForward ∧ (modJob s id f).jnl = s.jnl ∧ (modJob s id f).keys = s.keys ∧ (modJob s id f).banks = s.banks ∧ (modJob s id f).pins = s.pins ∧ (modJob s id f).latchM = s.latchM ∧ (modJob s id f).latchH = s.latchH ∧ (modJob s id f).latchV = s.latchV ∧ (modJob s id f).outbox = s.outbox ∧ (modJob s id f).free = s.free := by refine ⟨?_, ?_, ?_, ?_, ?_, ?_, ?_, ?_, ?_, ?_, ?_, ?_, ?_, ?_, ?_, ?_, ?_, ?_, ?_, ?_, ?_, ?_, ?_, ?_, ?_, ?_, ?_, ?_, ?_, ?_, ?_, ?_, ?_⟩ <;> rfl

/-- A BLK counter changes the BLK page alone. -/
@[simp] theorem blkBump_fields (s : State) (n : Nat) :
    (blkBump s n).pending = s.pending ∧ (blkBump s n).now = s.now ∧ (blkBump s n).origin = s.origin ∧ (blkBump s n).boot = s.boot ∧ (blkBump s n).evt = s.evt ∧ (blkBump s n).jnlPage = s.jnlPage ∧ (blkBump s n).fioPage = s.fioPage ∧ (blkBump s n).tenPages = s.tenPages ∧ (blkBump s n).evPend = s.evPend ∧ (blkBump s n).tenants = s.tenants ∧ (blkBump s n).owners = s.owners ∧ (blkBump s n).cores = s.cores ∧ (blkBump s n).jobs = s.jobs ∧ (blkBump s n).swaps = s.swaps ∧ (blkBump s n).pageOrder = s.pageOrder ∧ (blkBump s n).mbxNext = s.mbxNext ∧ (blkBump s n).taken = s.taken ∧ (blkBump s n).mesh = s.mesh ∧ (blkBump s n).nextFlit = s.nextFlit ∧ (blkBump s n).failedLinks = s.failedLinks ∧ (blkBump s n).links = s.links ∧ (blkBump s n).yards = s.yards ∧ (blkBump s n).forwards = s.forwards ∧ (blkBump s n).nextForward = s.nextForward ∧ (blkBump s n).jnl = s.jnl ∧ (blkBump s n).keys = s.keys ∧ (blkBump s n).banks = s.banks ∧ (blkBump s n).pins = s.pins ∧ (blkBump s n).latchM = s.latchM ∧ (blkBump s n).latchH = s.latchH ∧ (blkBump s n).latchV = s.latchV ∧ (blkBump s n).outbox = s.outbox ∧ (blkBump s n).free = s.free := by refine ⟨?_, ?_, ?_, ?_, ?_, ?_, ?_, ?_, ?_, ?_, ?_, ?_, ?_, ?_, ?_, ?_, ?_, ?_, ?_, ?_, ?_, ?_, ?_, ?_, ?_, ?_, ?_, ?_, ?_, ?_, ?_, ?_, ?_⟩ <;> rfl

/-- Changing the keys changes the key store alone. -/
@[simp] theorem modKeys_fields (s : State) (f : Keys → Keys) :
    (modKeys s f).pending = s.pending ∧ (modKeys s f).now = s.now ∧ (modKeys s f).origin = s.origin ∧ (modKeys s f).boot = s.boot ∧ (modKeys s f).blk = s.blk ∧ (modKeys s f).evt = s.evt ∧ (modKeys s f).jnlPage = s.jnlPage ∧ (modKeys s f).fioPage = s.fioPage ∧ (modKeys s f).tenPages = s.tenPages ∧ (modKeys s f).evPend = s.evPend ∧ (modKeys s f).tenants = s.tenants ∧ (modKeys s f).owners = s.owners ∧ (modKeys s f).cores = s.cores ∧ (modKeys s f).jobs = s.jobs ∧ (modKeys s f).swaps = s.swaps ∧ (modKeys s f).pageOrder = s.pageOrder ∧ (modKeys s f).mbxNext = s.mbxNext ∧ (modKeys s f).taken = s.taken ∧ (modKeys s f).mesh = s.mesh ∧ (modKeys s f).nextFlit = s.nextFlit ∧ (modKeys s f).failedLinks = s.failedLinks ∧ (modKeys s f).links = s.links ∧ (modKeys s f).yards = s.yards ∧ (modKeys s f).forwards = s.forwards ∧ (modKeys s f).nextForward = s.nextForward ∧ (modKeys s f).jnl = s.jnl ∧ (modKeys s f).banks = s.banks ∧ (modKeys s f).pins = s.pins ∧ (modKeys s f).latchM = s.latchM ∧ (modKeys s f).latchH = s.latchH ∧ (modKeys s f).latchV = s.latchV ∧ (modKeys s f).outbox = s.outbox ∧ (modKeys s f).free = s.free := by refine ⟨?_, ?_, ?_, ?_, ?_, ?_, ?_, ?_, ?_, ?_, ?_, ?_, ?_, ?_, ?_, ?_, ?_, ?_, ?_, ?_, ?_, ?_, ?_, ?_, ?_, ?_, ?_, ?_, ?_, ?_, ?_, ?_, ?_⟩ <;> rfl

/-- Changing the journal changes the journal alone. -/
@[simp] theorem modJnl_fields (s : State) (f : Journal → Journal) :
    (modJnl s f).pending = s.pending ∧ (modJnl s f).now = s.now ∧ (modJnl s f).origin = s.origin ∧ (modJnl s f).boot = s.boot ∧ (modJnl s f).blk = s.blk ∧ (modJnl s f).evt = s.evt ∧ (modJnl s f).jnlPage = s.jnlPage ∧ (modJnl s f).fioPage = s.fioPage ∧ (modJnl s f).tenPages = s.tenPages ∧ (modJnl s f).evPend = s.evPend ∧ (modJnl s f).tenants = s.tenants ∧ (modJnl s f).owners = s.owners ∧ (modJnl s f).cores = s.cores ∧ (modJnl s f).jobs = s.jobs ∧ (modJnl s f).swaps = s.swaps ∧ (modJnl s f).pageOrder = s.pageOrder ∧ (modJnl s f).mbxNext = s.mbxNext ∧ (modJnl s f).taken = s.taken ∧ (modJnl s f).mesh = s.mesh ∧ (modJnl s f).nextFlit = s.nextFlit ∧ (modJnl s f).failedLinks = s.failedLinks ∧ (modJnl s f).links = s.links ∧ (modJnl s f).yards = s.yards ∧ (modJnl s f).forwards = s.forwards ∧ (modJnl s f).nextForward = s.nextForward ∧ (modJnl s f).keys = s.keys ∧ (modJnl s f).banks = s.banks ∧ (modJnl s f).pins = s.pins ∧ (modJnl s f).latchM = s.latchM ∧ (modJnl s f).latchH = s.latchH ∧ (modJnl s f).latchV = s.latchV ∧ (modJnl s f).outbox = s.outbox ∧ (modJnl s f).free = s.free := by refine ⟨?_, ?_, ?_, ?_, ?_, ?_, ?_, ?_, ?_, ?_, ?_, ?_, ?_, ?_, ?_, ?_, ?_, ?_, ?_, ?_, ?_, ?_, ?_, ?_, ?_, ?_, ?_, ?_, ?_, ?_, ?_, ?_, ?_⟩ <;> rfl

/-- Changing a bank changes the banks alone. -/
@[simp] theorem modBank_fields (s : State) (b : Nat) (f : Bank → Bank) :
    (modBank s b f).pending = s.pending ∧ (modBank s b f).now = s.now ∧ (modBank s b f).origin = s.origin ∧ (modBank s b f).boot = s.boot ∧ (modBank s b f).blk = s.blk ∧ (modBank s b f).evt = s.evt ∧ (modBank s b f).jnlPage = s.jnlPage ∧ (modBank s b f).fioPage = s.fioPage ∧ (modBank s b f).tenPages = s.tenPages ∧ (modBank s b f).evPend = s.evPend ∧ (modBank s b f).tenants = s.tenants ∧ (modBank s b f).owners = s.owners ∧ (modBank s b f).cores = s.cores ∧ (modBank s b f).jobs = s.jobs ∧ (modBank s b f).swaps = s.swaps ∧ (modBank s b f).pageOrder = s.pageOrder ∧ (modBank s b f).mbxNext = s.mbxNext ∧ (modBank s b f).taken = s.taken ∧ (modBank s b f).mesh = s.mesh ∧ (modBank s b f).nextFlit = s.nextFlit ∧ (modBank s b f).failedLinks = s.failedLinks ∧ (modBank s b f).links = s.links ∧ (modBank s b f).yards = s.yards ∧ (modBank s b f).forwards = s.forwards ∧ (modBank s b f).nextForward = s.nextForward ∧ (modBank s b f).jnl = s.jnl ∧ (modBank s b f).keys = s.keys ∧ (modBank s b f).pins = s.pins ∧ (modBank s b f).latchM = s.latchM ∧ (modBank s b f).latchH = s.latchH ∧ (modBank s b f).latchV = s.latchV ∧ (modBank s b f).outbox = s.outbox ∧ (modBank s b f).free = s.free := by refine ⟨?_, ?_, ?_, ?_, ?_, ?_, ?_, ?_, ?_, ?_, ?_, ?_, ?_, ?_, ?_, ?_, ?_, ?_, ?_, ?_, ?_, ?_, ?_, ?_, ?_, ?_, ?_, ?_, ?_, ?_, ?_, ?_, ?_⟩ <;> rfl

/-- Changing a pin changes the pins alone. -/
@[simp] theorem modPin_fields (s : State) (p : Nat) (f : Pin → Pin) :
    (modPin s p f).pending = s.pending ∧ (modPin s p f).now = s.now ∧ (modPin s p f).origin = s.origin ∧ (modPin s p f).boot = s.boot ∧ (modPin s p f).blk = s.blk ∧ (modPin s p f).evt = s.evt ∧ (modPin s p f).jnlPage = s.jnlPage ∧ (modPin s p f).fioPage = s.fioPage ∧ (modPin s p f).tenPages = s.tenPages ∧ (modPin s p f).evPend = s.evPend ∧ (modPin s p f).tenants = s.tenants ∧ (modPin s p f).owners = s.owners ∧ (modPin s p f).cores = s.cores ∧ (modPin s p f).jobs = s.jobs ∧ (modPin s p f).swaps = s.swaps ∧ (modPin s p f).pageOrder = s.pageOrder ∧ (modPin s p f).mbxNext = s.mbxNext ∧ (modPin s p f).taken = s.taken ∧ (modPin s p f).mesh = s.mesh ∧ (modPin s p f).nextFlit = s.nextFlit ∧ (modPin s p f).failedLinks = s.failedLinks ∧ (modPin s p f).links = s.links ∧ (modPin s p f).yards = s.yards ∧ (modPin s p f).forwards = s.forwards ∧ (modPin s p f).nextForward = s.nextForward ∧ (modPin s p f).jnl = s.jnl ∧ (modPin s p f).keys = s.keys ∧ (modPin s p f).banks = s.banks ∧ (modPin s p f).latchM = s.latchM ∧ (modPin s p f).latchH = s.latchH ∧ (modPin s p f).latchV = s.latchV ∧ (modPin s p f).outbox = s.outbox ∧ (modPin s p f).free = s.free := by refine ⟨?_, ?_, ?_, ?_, ?_, ?_, ?_, ?_, ?_, ?_, ?_, ?_, ?_, ?_, ?_, ?_, ?_, ?_, ?_, ?_, ?_, ?_, ?_, ?_, ?_, ?_, ?_, ?_, ?_, ?_, ?_, ?_, ?_⟩ <;> rfl

/-- Changing a yard changes the yards alone. -/
@[simp] theorem modYard_fields (s : State) (p : Nat) (f : Yard → Yard) :
    (modYard s p f).pending = s.pending ∧ (modYard s p f).now = s.now ∧ (modYard s p f).origin = s.origin ∧ (modYard s p f).boot = s.boot ∧ (modYard s p f).blk = s.blk ∧ (modYard s p f).evt = s.evt ∧ (modYard s p f).jnlPage = s.jnlPage ∧ (modYard s p f).fioPage = s.fioPage ∧ (modYard s p f).tenPages = s.tenPages ∧ (modYard s p f).evPend = s.evPend ∧ (modYard s p f).tenants = s.tenants ∧ (modYard s p f).owners = s.owners ∧ (modYard s p f).cores = s.cores ∧ (modYard s p f).jobs = s.jobs ∧ (modYard s p f).swaps = s.swaps ∧ (modYard s p f).pageOrder = s.pageOrder ∧ (modYard s p f).mbxNext = s.mbxNext ∧ (modYard s p f).taken = s.taken ∧ (modYard s p f).mesh = s.mesh ∧ (modYard s p f).nextFlit = s.nextFlit ∧ (modYard s p f).failedLinks = s.failedLinks ∧ (modYard s p f).links = s.links ∧ (modYard s p f).forwards = s.forwards ∧ (modYard s p f).nextForward = s.nextForward ∧ (modYard s p f).jnl = s.jnl ∧ (modYard s p f).keys = s.keys ∧ (modYard s p f).banks = s.banks ∧ (modYard s p f).pins = s.pins ∧ (modYard s p f).latchM = s.latchM ∧ (modYard s p f).latchH = s.latchH ∧ (modYard s p f).latchV = s.latchV ∧ (modYard s p f).outbox = s.outbox ∧ (modYard s p f).free = s.free := by refine ⟨?_, ?_, ?_, ?_, ?_, ?_, ?_, ?_, ?_, ?_, ?_, ?_, ?_, ?_, ?_, ?_, ?_, ?_, ?_, ?_, ?_, ?_, ?_, ?_, ?_, ?_, ?_, ?_, ?_, ?_, ?_, ?_, ?_⟩ <;> rfl

/-- Changing a swap changes the swaps alone. -/
@[simp] theorem modSwap_fields (s : State) (t : Nat) (f : Swap → Swap) :
    (modSwap s t f).pending = s.pending ∧ (modSwap s t f).now = s.now ∧ (modSwap s t f).origin = s.origin ∧ (modSwap s t f).boot = s.boot ∧ (modSwap s t f).blk = s.blk ∧ (modSwap s t f).evt = s.evt ∧ (modSwap s t f).jnlPage = s.jnlPage ∧ (modSwap s t f).fioPage = s.fioPage ∧ (modSwap s t f).tenPages = s.tenPages ∧ (modSwap s t f).evPend = s.evPend ∧ (modSwap s t f).tenants = s.tenants ∧ (modSwap s t f).owners = s.owners ∧ (modSwap s t f).cores = s.cores ∧ (modSwap s t f).jobs = s.jobs ∧ (modSwap s t f).pageOrder = s.pageOrder ∧ (modSwap s t f).mbxNext = s.mbxNext ∧ (modSwap s t f).taken = s.taken ∧ (modSwap s t f).mesh = s.mesh ∧ (modSwap s t f).nextFlit = s.nextFlit ∧ (modSwap s t f).failedLinks = s.failedLinks ∧ (modSwap s t f).links = s.links ∧ (modSwap s t f).yards = s.yards ∧ (modSwap s t f).forwards = s.forwards ∧ (modSwap s t f).nextForward = s.nextForward ∧ (modSwap s t f).jnl = s.jnl ∧ (modSwap s t f).keys = s.keys ∧ (modSwap s t f).banks = s.banks ∧ (modSwap s t f).pins = s.pins ∧ (modSwap s t f).latchM = s.latchM ∧ (modSwap s t f).latchH = s.latchH ∧ (modSwap s t f).latchV = s.latchV ∧ (modSwap s t f).outbox = s.outbox ∧ (modSwap s t f).free = s.free := by refine ⟨?_, ?_, ?_, ?_, ?_, ?_, ?_, ?_, ?_, ?_, ?_, ?_, ?_, ?_, ?_, ?_, ?_, ?_, ?_, ?_, ?_, ?_, ?_, ?_, ?_, ?_, ?_, ?_, ?_, ?_, ?_, ?_, ?_⟩ <;> rfl

/-- Ending a swap changes the swaps alone. -/
@[simp] theorem dropSwap_fields (s : State) (t : Nat) :
    (dropSwap s t).pending = s.pending ∧ (dropSwap s t).now = s.now ∧ (dropSwap s t).origin = s.origin ∧ (dropSwap s t).boot = s.boot ∧ (dropSwap s t).blk = s.blk ∧ (dropSwap s t).evt = s.evt ∧ (dropSwap s t).jnlPage = s.jnlPage ∧ (dropSwap s t).fioPage = s.fioPage ∧ (dropSwap s t).tenPages = s.tenPages ∧ (dropSwap s t).evPend = s.evPend ∧ (dropSwap s t).tenants = s.tenants ∧ (dropSwap s t).owners = s.owners ∧ (dropSwap s t).cores = s.cores ∧ (dropSwap s t).jobs = s.jobs ∧ (dropSwap s t).pageOrder = s.pageOrder ∧ (dropSwap s t).mbxNext = s.mbxNext ∧ (dropSwap s t).taken = s.taken ∧ (dropSwap s t).mesh = s.mesh ∧ (dropSwap s t).nextFlit = s.nextFlit ∧ (dropSwap s t).failedLinks = s.failedLinks ∧ (dropSwap s t).links = s.links ∧ (dropSwap s t).yards = s.yards ∧ (dropSwap s t).forwards = s.forwards ∧ (dropSwap s t).nextForward = s.nextForward ∧ (dropSwap s t).jnl = s.jnl ∧ (dropSwap s t).keys = s.keys ∧ (dropSwap s t).banks = s.banks ∧ (dropSwap s t).pins = s.pins ∧ (dropSwap s t).latchM = s.latchM ∧ (dropSwap s t).latchH = s.latchH ∧ (dropSwap s t).latchV = s.latchV ∧ (dropSwap s t).outbox = s.outbox ∧ (dropSwap s t).free = s.free := by refine ⟨?_, ?_, ?_, ?_, ?_, ?_, ?_, ?_, ?_, ?_, ?_, ?_, ?_, ?_, ?_, ?_, ?_, ?_, ?_, ?_, ?_, ?_, ?_, ?_, ?_, ?_, ?_, ?_, ?_, ?_, ?_, ?_, ?_⟩ <;> rfl

/-- Changing a page changes the pages alone. -/
@[simp] theorem modKPage_fields (k : Core) (i : Nat) (f : Page → Page) :
    (modKPage k i f).spd = k.spd ∧ (modKPage k i f).mxq = k.mxq ∧ (modKPage k i f).vxq = k.vxq ∧ (modKPage k i f).skq = k.skq ∧ (modKPage k i f).upq = k.upq ∧ (modKPage k i f).gvq = k.gvq ∧ (modKPage k i f).bankAged = k.bankAged ∧ (modKPage k i f).mxa = k.mxa ∧ (modKPage k i f).gatedRem = k.gatedRem ∧ (modKPage k i f).drawRem = k.drawRem ∧ (modKPage k i f).skd = k.skd ∧ (modKPage k i f).wins = k.wins ∧ (modKPage k i f).barrier = k.barrier ∧ (modKPage k i f).qnt = k.qnt ∧ (modKPage k i f).grv = k.grv ∧ (modKPage k i f).err = k.err ∧ (modKPage k i f).cruise = k.cruise ∧ (modKPage k i f).pwr = k.pwr ∧ (modKPage k i f).hold = k.hold ∧ (modKPage k i f).releasing = k.releasing ∧ (modKPage k i f).order = k.order := by
  refine ⟨?_, ?_, ?_, ?_, ?_, ?_, ?_, ?_, ?_, ?_, ?_, ?_, ?_, ?_, ?_, ?_, ?_, ?_, ?_, ?_, ?_⟩ <;> rfl

/-- Setting a register changes the pages alone. -/
@[simp] theorem setKReg_fields (k : Core) (i off v : Nat) :
    (setKReg k i off v).spd = k.spd ∧ (setKReg k i off v).mxq = k.mxq ∧ (setKReg k i off v).vxq = k.vxq ∧ (setKReg k i off v).skq = k.skq ∧ (setKReg k i off v).upq = k.upq ∧ (setKReg k i off v).gvq = k.gvq ∧ (setKReg k i off v).bankAged = k.bankAged ∧ (setKReg k i off v).mxa = k.mxa ∧ (setKReg k i off v).gatedRem = k.gatedRem ∧ (setKReg k i off v).drawRem = k.drawRem ∧ (setKReg k i off v).skd = k.skd ∧ (setKReg k i off v).wins = k.wins ∧ (setKReg k i off v).barrier = k.barrier ∧ (setKReg k i off v).qnt = k.qnt ∧ (setKReg k i off v).grv = k.grv ∧ (setKReg k i off v).err = k.err ∧ (setKReg k i off v).cruise = k.cruise ∧ (setKReg k i off v).pwr = k.pwr ∧ (setKReg k i off v).hold = k.hold ∧ (setKReg k i off v).releasing = k.releasing ∧ (setKReg k i off v).order = k.order := by
  refine ⟨?_, ?_, ?_, ?_, ?_, ?_, ?_, ?_, ?_, ?_, ?_, ?_, ?_, ?_, ?_, ?_, ?_, ?_, ?_, ?_, ?_⟩ <;> rfl

/-- A counter changes the pages alone. -/
@[simp] theorem kBump_fields (k : Core) (i n amt : Nat) :
    (kBump k i n amt).spd = k.spd ∧ (kBump k i n amt).mxq = k.mxq ∧ (kBump k i n amt).vxq = k.vxq ∧ (kBump k i n amt).skq = k.skq ∧ (kBump k i n amt).upq = k.upq ∧ (kBump k i n amt).gvq = k.gvq ∧ (kBump k i n amt).bankAged = k.bankAged ∧ (kBump k i n amt).mxa = k.mxa ∧ (kBump k i n amt).gatedRem = k.gatedRem ∧ (kBump k i n amt).drawRem = k.drawRem ∧ (kBump k i n amt).skd = k.skd ∧ (kBump k i n amt).wins = k.wins ∧ (kBump k i n amt).barrier = k.barrier ∧ (kBump k i n amt).qnt = k.qnt ∧ (kBump k i n amt).grv = k.grv ∧ (kBump k i n amt).err = k.err ∧ (kBump k i n amt).cruise = k.cruise ∧ (kBump k i n amt).pwr = k.pwr ∧ (kBump k i n amt).hold = k.hold ∧ (kBump k i n amt).releasing = k.releasing ∧ (kBump k i n amt).order = k.order := by
  refine ⟨?_, ?_, ?_, ?_, ?_, ?_, ?_, ?_, ?_, ?_, ?_, ?_, ?_, ?_, ?_, ?_, ?_, ?_, ?_, ?_, ?_⟩ <;> rfl

/-- Changing the scratchpad changes it alone. -/
@[simp] theorem modSpd_fields (k : Core) (f : Spd → Spd) :
    (modSpd k f).pages = k.pages ∧ (modSpd k f).mxq = k.mxq ∧ (modSpd k f).vxq = k.vxq ∧ (modSpd k f).skq = k.skq ∧ (modSpd k f).upq = k.upq ∧ (modSpd k f).gvq = k.gvq ∧ (modSpd k f).bankAged = k.bankAged ∧ (modSpd k f).mxa = k.mxa ∧ (modSpd k f).gatedRem = k.gatedRem ∧ (modSpd k f).drawRem = k.drawRem ∧ (modSpd k f).skd = k.skd ∧ (modSpd k f).wins = k.wins ∧ (modSpd k f).barrier = k.barrier ∧ (modSpd k f).qnt = k.qnt ∧ (modSpd k f).grv = k.grv ∧ (modSpd k f).err = k.err ∧ (modSpd k f).cruise = k.cruise ∧ (modSpd k f).pwr = k.pwr ∧ (modSpd k f).hold = k.hold ∧ (modSpd k f).releasing = k.releasing ∧ (modSpd k f).order = k.order := by
  refine ⟨?_, ?_, ?_, ?_, ?_, ?_, ?_, ?_, ?_, ?_, ?_, ?_, ?_, ?_, ?_, ?_, ?_, ?_, ?_, ?_, ?_⟩ <;> rfl

/-- Setting a tag changes the scratchpad alone. -/
@[simp] theorem setTag_fields (k : Core) (n : Nat) (t : Tag) :
    (setTag k n t).pages = k.pages ∧ (setTag k n t).mxq = k.mxq ∧ (setTag k n t).vxq = k.vxq ∧ (setTag k n t).skq = k.skq ∧ (setTag k n t).upq = k.upq ∧ (setTag k n t).gvq = k.gvq ∧ (setTag k n t).bankAged = k.bankAged ∧ (setTag k n t).mxa = k.mxa ∧ (setTag k n t).gatedRem = k.gatedRem ∧ (setTag k n t).drawRem = k.drawRem ∧ (setTag k n t).skd = k.skd ∧ (setTag k n t).wins = k.wins ∧ (setTag k n t).barrier = k.barrier ∧ (setTag k n t).qnt = k.qnt ∧ (setTag k n t).grv = k.grv ∧ (setTag k n t).err = k.err ∧ (setTag k n t).cruise = k.cruise ∧ (setTag k n t).pwr = k.pwr ∧ (setTag k n t).hold = k.hold ∧ (setTag k n t).releasing = k.releasing ∧ (setTag k n t).order = k.order := by
  refine ⟨?_, ?_, ?_, ?_, ?_, ?_, ?_, ?_, ?_, ?_, ?_, ?_, ?_, ?_, ?_, ?_, ?_, ?_, ?_, ?_, ?_⟩ <;> rfl

/-- Changing a window changes the windows alone. -/
@[simp] theorem modWin_fields (k : Core) (n : Nat) (f : Win → Win) :
    (modWin k n f).pages = k.pages ∧ (modWin k n f).spd = k.spd ∧ (modWin k n f).mxq = k.mxq ∧ (modWin k n f).vxq = k.vxq ∧ (modWin k n f).skq = k.skq ∧ (modWin k n f).upq = k.upq ∧ (modWin k n f).gvq = k.gvq ∧ (modWin k n f).bankAged = k.bankAged ∧ (modWin k n f).mxa = k.mxa ∧ (modWin k n f).gatedRem = k.gatedRem ∧ (modWin k n f).drawRem = k.drawRem ∧ (modWin k n f).skd = k.skd ∧ (modWin k n f).barrier = k.barrier ∧ (modWin k n f).qnt = k.qnt ∧ (modWin k n f).grv = k.grv ∧ (modWin k n f).err = k.err ∧ (modWin k n f).cruise = k.cruise ∧ (modWin k n f).pwr = k.pwr ∧ (modWin k n f).hold = k.hold ∧ (modWin k n f).releasing = k.releasing ∧ (modWin k n f).order = k.order := by
  refine ⟨?_, ?_, ?_, ?_, ?_, ?_, ?_, ?_, ?_, ?_, ?_, ?_, ?_, ?_, ?_, ?_, ?_, ?_, ?_, ?_, ?_⟩ <;> rfl

/-- Changing the power control changes it alone. -/
@[simp] theorem modPwr_fields (k : Core) (f : Pwr → Pwr) :
    (modPwr k f).pages = k.pages ∧ (modPwr k f).spd = k.spd ∧ (modPwr k f).mxq = k.mxq ∧ (modPwr k f).vxq = k.vxq ∧ (modPwr k f).skq = k.skq ∧ (modPwr k f).upq = k.upq ∧ (modPwr k f).gvq = k.gvq ∧ (modPwr k f).bankAged = k.bankAged ∧ (modPwr k f).mxa = k.mxa ∧ (modPwr k f).gatedRem = k.gatedRem ∧ (modPwr k f).drawRem = k.drawRem ∧ (modPwr k f).skd = k.skd ∧ (modPwr k f).wins = k.wins ∧ (modPwr k f).barrier = k.barrier ∧ (modPwr k f).qnt = k.qnt ∧ (modPwr k f).grv = k.grv ∧ (modPwr k f).err = k.err ∧ (modPwr k f).cruise = k.cruise ∧ (modPwr k f).hold = k.hold ∧ (modPwr k f).releasing = k.releasing ∧ (modPwr k f).order = k.order := by
  refine ⟨?_, ?_, ?_, ?_, ?_, ?_, ?_, ?_, ?_, ?_, ?_, ?_, ?_, ?_, ?_, ?_, ?_, ?_, ?_, ?_, ?_⟩ <;> rfl

/-- Changing a queue changes no other kind of state. -/
@[simp] theorem modQ_fields (k : Core) (q : QueueId) (f : Queue → Queue) :
    (modQ k q f).pages = k.pages ∧ (modQ k q f).spd = k.spd ∧ (modQ k q f).bankAged = k.bankAged ∧ (modQ k q f).mxa = k.mxa ∧ (modQ k q f).gatedRem = k.gatedRem ∧ (modQ k q f).drawRem = k.drawRem ∧ (modQ k q f).skd = k.skd ∧ (modQ k q f).wins = k.wins ∧ (modQ k q f).barrier = k.barrier ∧ (modQ k q f).qnt = k.qnt ∧ (modQ k q f).grv = k.grv ∧ (modQ k q f).err = k.err ∧ (modQ k q f).cruise = k.cruise ∧ (modQ k q f).pwr = k.pwr ∧ (modQ k q f).hold = k.hold ∧ (modQ k q f).releasing = k.releasing ∧ (modQ k q f).order = k.order := by
  cases q <;> refine ⟨?_, ?_, ?_, ?_, ?_, ?_, ?_, ?_, ?_, ?_, ?_, ?_, ?_, ?_, ?_, ?_, ?_⟩ <;> rfl

/-- Replacing a queue changes no other kind of state. -/
@[simp] theorem putQ_fields (k : Core) (q : QueueId) (x : Queue) :
    (putQ k q x).pages = k.pages ∧ (putQ k q x).spd = k.spd ∧ (putQ k q x).bankAged = k.bankAged ∧ (putQ k q x).mxa = k.mxa ∧ (putQ k q x).gatedRem = k.gatedRem ∧ (putQ k q x).drawRem = k.drawRem ∧ (putQ k q x).skd = k.skd ∧ (putQ k q x).wins = k.wins ∧ (putQ k q x).barrier = k.barrier ∧ (putQ k q x).qnt = k.qnt ∧ (putQ k q x).grv = k.grv ∧ (putQ k q x).err = k.err ∧ (putQ k q x).cruise = k.cruise ∧ (putQ k q x).pwr = k.pwr ∧ (putQ k q x).hold = k.hold ∧ (putQ k q x).releasing = k.releasing ∧ (putQ k q x).order = k.order := by
  cases q <;> refine ⟨?_, ?_, ?_, ?_, ?_, ?_, ?_, ?_, ?_, ?_, ?_, ?_, ?_, ?_, ?_, ?_, ?_⟩ <;> rfl

end Sys2Proof.Machine
end

