-- ==== Sys2Proof/Laws/Rest.lean ====
section
/-! SUPPORT. What the named operations over the state leave alone: the queue of commands, the origin of the time, the boot record, the key store, the MRAM. One lemma per operation, cited in place of unfolding it. -/

namespace Sys2Proof.Machine

/-- The queue of commands, the origin of BLK_RTIME, the boot record. -/
def State.base (s : State) : List Instr × Nat × Boot := (s.pending, s.origin, s.boot)

/-- What most operations leave alone: the base, the key store, the MRAM. -/
def State.rest (s : State) : (List Instr × Nat × Boot) × Keys × Memory := (s.base, s.keys, s.jnl.mram)

/-- A fold of an operation that leaves the rest alone leaves it alone. -/
@[simp] theorem rest_foldl {α : Type} (f : State → α → State) (h : ∀ s a, (f s a).rest = s.rest) (l : List α) (s : State) : (l.foldl f s).rest = s.rest := by
  induction l generalizing s with
  | nil => rfl
  | cons a l ih => rw [List.foldl_cons, ih, h]

/-- The rest of a state given by its fields. -/
@[simp] theorem rest_ctor (pending : List Instr) (now : Nat) (origin : Nat) (boot : Boot) (blk : Page) (evt : Page) (jnlPage : Page) (fioPage : Page) (tenPages : FMap Page) (evPend : Byte) (tenants : FMap Tenant) (owners : FMap Ownership) (cores : FMap Core) (jobs : List Job) (swaps : List Swap) (pageOrder : FMap (Nat × Nat)) (mbxNext : Nat) (taken : List Taken) (mesh : List Flit) (nextFlit : Nat) (failedLinks : List ((Nat × Nat) × Nat)) (links : FMap (Nat × Nat)) (yards : FMap Yard) (forwards : List Forward) (nextForward : Nat) (jnl : Journal) (keys : Keys) (banks : FMap Bank) (pins : FMap Pin) (latchM : Latch) (latchH : Latch) (latchV : Latch) (outbox : List Out) (free : Nat) :
    State.rest (State.mk pending now origin boot blk evt jnlPage fioPage tenPages evPend tenants owners cores jobs swaps pageOrder mbxNext taken mesh nextFlit failedLinks links yards forwards nextForward jnl keys banks pins latchM latchH latchV outbox free) = ((pending, origin, boot), keys, jnl.mram) := rfl

/-- The rest put together from its parts. -/
@[simp] theorem rest_fold (s : State) : ((s.pending, s.origin, s.boot), s.keys, s.jnl.mram) = s.rest := rfl

/-- Waiting leaves the rest alone. -/
@[simp] theorem rest_atLeast (s : State) (n : Nat) : (atLeast s n).rest = s.rest := by
  unfold atLeast
  split <;> rfl

@[simp] theorem rest_putCore (s : State) (c : Nat) (k : Core)  : (putCore s c k).rest = s.rest := by
  unfold putCore
  try dsimp only
  repeat' split
  all_goals first | (simp; done) | rfl

@[simp] theorem rest_modCore (s : State) (c : Nat) (f : Core → Core)  : (modCore s c f).rest = s.rest := by
  unfold modCore
  try dsimp only
  repeat' split
  all_goals first | (simp; done) | rfl

@[simp] theorem rest_modPage (s : State) (pg : PageRef) (f : Page → Page)  : (modPage s pg f).rest = s.rest := by
  unfold modPage
  try dsimp only
  repeat' split
  all_goals first | (simp; done) | rfl

@[simp] theorem rest_blkBump (s : State) (n : Nat)  : (blkBump s n).rest = s.rest := by
  unfold blkBump
  try dsimp only
  repeat' split
  all_goals first | (simp; done) | rfl

@[simp] theorem rest_modTenant (s : State) (t : Nat) (f : Tenant → Tenant)  : (modTenant s t f).rest = s.rest := by
  unfold modTenant
  try dsimp only
  repeat' split
  all_goals first | (simp; done) | rfl

@[simp] theorem rest_modOwner (s : State) (c : Nat) (f : Ownership → Ownership)  : (modOwner s c f).rest = s.rest := by
  unfold modOwner
  try dsimp only
  repeat' split
  all_goals first | (simp; done) | rfl

@[simp] theorem rest_modJob (s : State) (id : Word) (f : Job → Job)  : (modJob s id f).rest = s.rest := by
  unfold modJob
  try dsimp only
  repeat' split
  all_goals first | (simp; done) | rfl

@[simp] theorem rest_evSet (s : State) (b : Nat)  : (evSet s b).rest = s.rest := by
  unfold evSet
  try dsimp only
  repeat' split
  all_goals first | (simp; done) | rfl

@[simp] theorem rest_emit (s : State) (x : Out)  : (emit s x).rest = s.rest := by
  unfold emit
  try dsimp only
  repeat' split
  all_goals first | (simp; done) | rfl

@[simp] theorem rest_tenEvent (s : State) (t cls low : Nat)  : (tenEvent s t cls low).rest = s.rest := by
  unfold tenEvent
  try dsimp only
  repeat' split
  all_goals first | (simp; done) | rfl

@[simp] theorem rest_ownerEvent (s : State) (c cls : Nat)  : (ownerEvent s c cls).rest = s.rest := by
  unfold ownerEvent
  try dsimp only
  repeat' split
  all_goals first | (simp; done) | rfl

@[simp] theorem rest_jnlPush (s : State) (ty : Nat) (payload : List Byte)  : (jnlPush s ty payload).rest = s.rest := by
  unfold jnlPush
  try dsimp only
  repeat' split
  all_goals first | (simp; done) | rfl

@[simp] theorem rest_jnlError (s : State) (c : Nat) (r : ErrRec)  : (jnlError s c r).rest = s.rest := by
  unfold jnlError
  try dsimp only
  repeat' split
  all_goals first | (simp; done) | rfl

@[simp] theorem rest_blkErr (s : State) (code cls tenant : Nat)  : (blkErr s code cls tenant).rest = s.rest := by
  unfold blkErr
  try dsimp only
  repeat' split
  all_goals first | (simp; done) | rfl

@[simp] theorem rest_refuseBlk (s : State) (code tenant : Nat)  : (refuseBlk s code tenant).rest = s.rest := by
  unfold refuseBlk
  try dsimp only
  repeat' split
  all_goals first | (simp; done) | rfl

@[simp] theorem rest_coreErr (s : State) (c : Nat) (r0 : ErrRec)  : (coreErr s c r0).rest = s.rest := by
  unfold coreErr
  try dsimp only
  repeat' split
  all_goals first | (simp; done) | rfl

@[simp] theorem rest_modCoreW (s : State) (c : Nat) (f : Core → Core)  : (modCoreW s c f).rest = s.rest := by
  unfold modCoreW
  try dsimp only
  repeat' split
  all_goals first | (simp; done) | rfl

@[simp] theorem rest_parityRecord (s : State) (c w : Nat) (r : ErrRec)  : (parityRecord s c w r).rest = s.rest := by
  unfold parityRecord
  try dsimp only
  repeat' split
  all_goals first | (simp; done) | rfl

@[simp] theorem rest_modLatch (s : State) (p : Port) (f : Latch → Latch)  : (modLatch s p f).rest = s.rest := by
  unfold modLatch
  try dsimp only
  repeat' split
  all_goals first | (simp; done) | rfl

@[simp] theorem rest_answerRead (s : State) (p : Port) (bs : List Byte)  : (answerRead s p bs).rest = s.rest := by
  unfold answerRead
  try dsimp only
  repeat' split
  all_goals first | (simp; done) | rfl

@[simp] theorem rest_takeFree (s : State)  : (takeFree s).2.rest = s.rest := by
  unfold takeFree
  try dsimp only
  repeat' split
  all_goals first | (simp; done) | rfl

@[simp] theorem rest_takeChoice (s : State)  : (takeChoice s).2.rest = s.rest := by
  unfold takeChoice
  try dsimp only
  repeat' split
  all_goals first | (simp; done) | rfl

@[simp] theorem rest_drainCore (s : State) (c : Nat)  : (drainCore s c).rest = s.rest := by
  unfold drainCore
  try dsimp only
  repeat' split
  all_goals first | (simp; done) | rfl

@[simp] theorem rest_noteArrival (s : State) (j : Job) (gen : Nat)  : (noteArrival s j gen).rest = s.rest := by
  unfold noteArrival
  try dsimp only
  repeat' split
  all_goals first | (simp; done) | rfl

@[simp] theorem rest_barrierPass (s : State) (job : Word) (gen : Nat)  : (barrierPass s job gen).rest = s.rest := by
  unfold barrierPass
  try dsimp only
  repeat' split
  all_goals first | (simp; done) | rfl

@[simp] theorem rest_headArrive (s : State) (job chip : Word) (gen : Nat)  : (headArrive s job chip gen).rest = s.rest := by
  unfold headArrive
  try dsimp only
  repeat' split
  all_goals first | (simp; done) | rfl

@[simp] theorem rest_chipArrives (s : State) (job : Word)  : (chipArrives s job).rest = s.rest := by
  unfold chipArrives
  try dsimp only
  repeat' split
  all_goals first | (simp; done) | rfl

@[simp] theorem rest_leaveJobs (s : State) (c : Nat)  : (leaveJobs s c).rest = s.rest := by
  unfold leaveJobs
  try dsimp only
  repeat' split
  all_goals first | (simp; done) | rfl

@[simp] theorem rest_dropPins (s : State) (c : Nat) : (dropPins s c).rest = s.rest := by
  unfold dropPins
  refine rest_foldl _ ?_ _ _
  intro s p
  rfl

@[simp] theorem rest_recheckBarriers (s : State)  : (recheckBarriers s).rest = s.rest := by
  unfold recheckBarriers
  try dsimp only
  repeat' split
  all_goals first | (simp; done) | rfl

@[simp] theorem rest_releaseCore (s : State) (c : Nat)  : (releaseCore s c).rest = s.rest := by
  unfold releaseCore
  try dsimp only
  repeat' split
  all_goals first | (simp; done) | rfl

@[simp] theorem rest_endAwait (s : State) (c : Nat)  : (endAwait s c).rest = s.rest := by
  unfold endAwait
  try dsimp only
  repeat' split
  all_goals first | (simp; done) | rfl

@[simp] theorem rest_finishRelease (s : State) (c : Nat)  : (finishRelease s c).rest = s.rest := by
  unfold finishRelease
  try dsimp only
  repeat' split
  all_goals first | (simp; done) | rfl

@[simp] theorem rest_answerMbx (s : State) (t slot : Nat) (result : Word) (reason state : Nat)  : (answerMbx s t slot result reason state).rest = s.rest := by
  unfold answerMbx
  try dsimp only
  repeat' split
  all_goals first | (simp; done) | rfl

@[simp] theorem rest_refuseMbx (s : State) (t slot reason : Nat)  : (refuseMbx s t slot reason).rest = s.rest := by
  unfold refuseMbx
  try dsimp only
  repeat' split
  all_goals first | (simp; done) | rfl

@[simp] theorem rest_loadEndedFor (code c : Nat) (s : State) (tk : Taken)  : (loadEndedFor code c s tk).rest = s.rest := by
  unfold loadEndedFor
  dsimp only
  repeat' split
  all_goals first | (simp [apply_ite State.rest]; done) | rfl

@[simp] theorem rest_loadEnded (s : State) (c code : Nat)  : (loadEnded s c code).rest = s.rest := by
  unfold loadEnded
  try dsimp only
  repeat' split
  all_goals first | (simp; done) | rfl

@[simp] theorem rest_releaseOwned (s : State) (c : Nat)  : (releaseOwned s c).rest = s.rest := by
  unfold releaseOwned
  try dsimp only
  repeat' split
  all_goals first | (simp; done) | rfl

@[simp] theorem rest_fell (s : State) (c cause : Nat)  : (fell s c cause).rest = s.rest := by
  unfold fell
  try dsimp only
  repeat' split
  all_goals first | (simp; done) | rfl

@[simp] theorem rest_hardError (s : State) (c : Nat) (r : ErrRec)  : (hardError s c r).rest = s.rest := by
  unfold hardError
  try dsimp only
  repeat' split
  all_goals first | (simp; done) | rfl

@[simp] theorem rest_untilEnd (s : State) (c : Nat) (q : QueueId)  : (untilEnd s c q).rest = s.rest := by
  unfold untilEnd
  try dsimp only
  repeat' split
  all_goals first | (simp; done) | rfl

@[simp] theorem rest_inOrder (s : State) (c r : Nat)  : (inOrder s c r).rest = s.rest := by
  unfold inOrder
  try dsimp only
  repeat' split
  all_goals first | (simp; done) | rfl

@[simp] theorem rest_portOrder (s : State) (p : Port) (pg : PageRef)  : (portOrder s p pg).rest = s.rest := by
  unfold portOrder
  try dsimp only
  repeat' split
  all_goals first | (simp; done) | rfl

theorem rest_ite_fst (b : Prop) [Decidable b] (x y : State × Bool) (s : State) (hx : x.1.rest = s.rest) (hy : y.1.rest = s.rest) : (if b then x else y).1.rest = s.rest := by
  split
  · exact hx
  · exact hy

@[simp] theorem rest_pageAccess (s : State) (p : Port) (pg : PageRef) (off : Nat) (wr : Bool) : (pageAccess s p pg off wr).1.rest = s.rest := by
  unfold pageAccess
  refine rest_ite_fst _ _ _ _ rfl (rest_ite_fst _ _ _ _ (rest_blkBump _ _) ?_)
  cases pg with
  | core c i =>
    refine rest_ite_fst _ _ _ _ (rest_blkBump _ _) ?_
    cases p <;> dsimp only [portTenant] <;> first | rfl | (cases coreRefusal _ _ _ _ <;> first | rfl | exact rest_refuseBlk _ _ _)
  | blk => cases p <;> dsimp only [portTenant] <;> first | rfl | exact rest_ite_fst _ _ _ _ rfl (rest_refuseBlk _ _ _)
  | _ => cases p <;> first | rfl | exact rest_refuseBlk _ _ _

@[simp] theorem rest_pageGate (s : State) (p : Port) (pg : PageRef) (off : Nat) (wr : Bool) : (pageGate s p pg off wr).1.rest = s.rest := by
  unfold pageGate
  cases wr <;> simp

@[simp] theorem rest_spdGate (s : State) (p : Port) (c : Nat)  : (spdGate s p c).1.rest = s.rest := by
  unfold spdGate
  try dsimp only
  repeat' split
  all_goals first | (simp; done) | rfl

@[simp] theorem rest_gated (g : State × Bool) (f : State → State) (hf : ∀ s, (f s).rest = s.rest) : (gated g f).rest = g.1.rest := by
  unfold gated
  split
  · exact hf g.1
  · rfl

@[simp] theorem rest_coreWrite (s : State) (p : Port) (c : CoreId) (i : Fin 14) (off : Nat) (f : State → State) (hf : ∀ s , (f s ).rest = s.rest) : (coreWrite s p c i off f).rest = s.rest := by
  unfold coreWrite
  try dsimp only
  repeat' split
  all_goals first | (simp [hf]; done) | rfl

@[simp] theorem rest_openHead (s : State) (c : Nat) (q : QueueId) (e : Fetched) (take : Bool) (skip : Nat) (prep : Core → Nat → Core × Flight)  : (openHead s c q e take skip prep).rest = s.rest := by
  unfold openHead
  try dsimp only
  repeat' split
  all_goals first | (simp; done) | rfl

@[simp] theorem rest_issueDead (s : State) (c : Nat) (q : QueueId) (e : Fetched) (raw : List Byte) (err : Fail)  : (issueDead s c q e raw err).rest = s.rest := by
  unfold issueDead
  try dsimp only
  repeat' split
  all_goals first | (simp; done) | rfl

@[simp] theorem rest_issuePlan (s : State) (c : Nat) (q : QueueId) (e : Fetched) (raw : List Byte) (p : Plan)  : (issuePlan s c q e raw p).rest = s.rest := by
  unfold issuePlan
  try dsimp only
  repeat' split
  all_goals first | (simp; done) | rfl

@[simp] theorem rest_issueFallback (s : State) (c : Nat) (q : QueueId) (op : Nat) (b : Fallback) (plan : Core → List LoopFrame → List Byte → Fetched → Plan)  : (issueFallback s c q op b plan).rest = s.rest := by
  unfold issueFallback
  try dsimp only
  repeat' split
  all_goals first | (simp; done) | rfl

@[simp] theorem rest_issueOp (s : State) (c : Nat) (q : QueueId) (op : Nat) (plan : Core → List LoopFrame → List Byte → Fetched → Plan)  : (issueOp s c q op plan).rest = s.rest := by
  unfold issueOp
  try dsimp only
  repeat' split
  all_goals first | (simp; done) | rfl

@[simp] theorem rest_underflows (s : State) (c n : Nat) : (underflows s c n).rest = s.rest := by
  induction n generalizing s with
  | zero => rfl
  | succ n ih =>
    unfold underflows
    rw [ih]
    simp

@[simp] theorem rest_completeFlight (s : State) (c : Nat) (q : QueueId) (f : Flight) (orig : Option Flight)  : (completeFlight s c q f orig).rest = s.rest := by
  unfold completeFlight
  simp

@[simp] theorem rest_completeOldest (s : State) (c : Nat) (q : QueueId) (null : Bool)  : (completeOldest s c q null).rest = s.rest := by
  unfold completeOldest
  try dsimp only
  repeat' split
  all_goals first | (simp; done) | rfl

@[simp] theorem rest_haltQueue (s : State) (c : Nat) (q : QueueId) (code : Nat)  : (haltQueue s c q code).rest = s.rest := by
  unfold haltQueue
  try dsimp only
  repeat' split
  all_goals first | (simp; done) | rfl

@[simp] theorem rest_abortTags (s : State) (c : Nat) (fs : List Flight)  : (abortTags s c fs).rest = s.rest := by
  unfold abortTags
  try dsimp only
  repeat' split
  all_goals first | (simp; done) | rfl

/-- Halting a queue or not, and a hard error or not, leaves the rest. -/
theorem rest_ite (b : Prop) [Decidable b] (x y s : State) (hx : x.rest = s.rest) (hy : y.rest = s.rest) : (if b then x else y).rest = s.rest := by
  split
  · exact hx
  · exact hy

@[simp] theorem rest_failOldest (s0 : State) (c : Nat) (q : QueueId) : (failOldest s0 c q).rest = s0.rest := by
  have h0 : (if hasFailed (getQ (getCore s0 c) q) = true then inOrder s0 c rankFail else s0).rest = s0.rest := rest_ite _ _ _ _ (by simp) rfl
  unfold failOldest
  dsimp only
  split
  · exact h0
  · split
    · refine Eq.trans ?_ h0
      simp only [apply_ite State.rest, rest_hardError, rest_haltQueue, ite_self, rest_foldl, rest_coreErr, implies_true]
      repeat' split
      all_goals simp
    · exact h0

@[simp] theorem rest_settleHead (s : State) (c : Nat) (q : QueueId)  : (settleHead s c q).rest = s.rest := by
  unfold settleHead
  try dsimp only
  repeat' split
  all_goals first | (simp; done) | rfl

@[simp] theorem rest_bellWrite (s : State) (p : Port) (c : CoreId) (q : QueueId) (t : Nat)  : (bellWrite s p c q t).rest = s.rest := by
  unfold bellWrite
  try dsimp only
  repeat' split
  all_goals first | (simp; done) | rfl

@[simp] theorem rest_storeFetch (s : State) (c : Nat) (q : QueueId) (i : Nat) (d : List Byte)  : (storeFetch s c q i d).rest = s.rest := by
  unfold storeFetch
  try dsimp only
  repeat' split
  all_goals first | (simp; done) | rfl

@[simp] theorem rest_storeFallback (s : State) (c : Nat) (q : QueueId) (b : Fallback) (d : List Byte)  : (storeFallback s c q b d).rest = s.rest := by
  unfold storeFallback
  try dsimp only
  repeat' split
  all_goals first | (simp; done) | rfl

@[simp] theorem rest_fetchFault (s : State) (c : Nat) (q : QueueId) (i : Nat)  : (fetchFault s c q i).rest = s.rest := by
  unfold fetchFault
  try dsimp only
  repeat' split
  all_goals first | (simp; done) | rfl

@[simp] theorem rest_takeFetch (s : State) (c : Nat) (q : QueueId) (kind : FetchKind) (d : Option (List Byte))  : (takeFetch s c q kind d).rest = s.rest := by
  unfold takeFetch
  try dsimp only
  repeat' split
  all_goals first | (simp; done) | rfl

@[simp] theorem rest_issueControl (s : State) (c : Nat) (q : QueueId) (e : Fetched) (regs : List RegWrite)  : (issueControl s c q e regs).rest = s.rest := by
  unfold issueControl
  try dsimp only
  repeat' split
  all_goals first | (simp; done) | rfl

@[simp] theorem rest_issueStray (s : State) (c : Nat) (q : QueueId) (sel : Nat → Bool) (b : Fallback)  : (issueStray s c q sel b).rest = s.rest := by
  unfold issueStray
  try dsimp only
  repeat' split
  all_goals first | (simp; done) | rfl

@[simp] theorem rest_controlOp (s : State) (c : Nat) (q : QueueId) (op : Nat) (f : Fetched → State) (h : ∀ e, (f e).rest = s.rest) : (controlOp s c q op f).rest = s.rest := by
  unfold controlOp
  repeat' split
  all_goals first | exact h _ | rfl | simp

@[simp] theorem rest_startLoop (s : State) (c : Nat) (q : QueueId) (e : Fetched)  : (startLoop s c q e).rest = s.rest := by
  unfold startLoop
  try dsimp only
  repeat' split
  all_goals first | (simp; done) | rfl

@[simp] theorem rest_issueLoop (s : State) (c : Nat) (q : QueueId) (e : Fetched)  : (issueLoop s c q e).rest = s.rest := by
  unfold issueLoop
  try dsimp only
  repeat' split
  all_goals first | (simp; done) | rfl

@[simp] theorem rest_fireEscalates (s : State) (c : Nat) (q : QueueId) (b : Fallback) (chains : List Flight)  : (fireEscalates s c q b chains).rest = s.rest := by
  unfold fireEscalates
  try dsimp only
  repeat' split
  all_goals first | (simp; done) | rfl

@[simp] theorem rest_clipFire (s : State) (c : Nat) (q : QueueId) (f : Flight) (later : List Flight)  : (clipFire s c q f later).rest = s.rest := by
  unfold clipFire
  try dsimp only
  repeat' split
  all_goals first | (simp; done) | rfl

@[simp] theorem rest_ctlWrite (s : State) (p : Port) (c : CoreId) (q : QueueId) (f : Core → Core)  : (ctlWrite s p c q f).rest = s.rest := by
  unfold ctlWrite
  try dsimp only
  repeat' split
  all_goals first | (simp; done) | rfl

@[simp] theorem rest_flushQueue (s : State) (c : Nat) (q : QueueId)  : (flushQueue s c q).rest = s.rest := by
  unfold flushQueue
  try dsimp only
  repeat' split
  all_goals first | (simp; done) | rfl

@[simp] theorem rest_send (s : State) (f : Flit)  : (send s f).rest = s.rest := by
  unfold send
  try dsimp only
  repeat' split
  all_goals first | (simp; done) | rfl

@[simp] theorem rest_sendTree (s : State) (f : Flit) (ms : List Nat)  : (sendTree s f ms).rest = s.rest := by
  unfold sendTree
  try dsimp only
  repeat' split
  all_goals first | (simp; done) | rfl

@[simp] theorem rest_modFlit (s : State) (id : Nat) (f : Flit → Flit)  : (modFlit s id f).rest = s.rest := by
  unfold modFlit
  try dsimp only
  repeat' split
  all_goals first | (simp; done) | rfl

@[simp] theorem rest_leaveRouter (s : State) (r : Option (Nat × Nat))  : (leaveRouter s r).rest = s.rest := by
  unfold leaveRouter
  try dsimp only
  repeat' split
  all_goals first | (simp; done) | rfl

@[simp] theorem rest_useLink (s : State) (r : Nat × Nat) (p vc : Nat)  : (useLink s r p vc).rest = s.rest := by
  unfold useLink
  try dsimp only
  repeat' split
  all_goals first | (simp; done) | rfl

@[simp] theorem rest_enterRouter (s : State) (f : Flit) (r : Nat × Nat) (p : Nat) (rest : List (Nat × Nat))  : (enterRouter s f r p rest).rest = s.rest := by
  unfold enterRouter
  try dsimp only
  repeat' split
  all_goals first | (simp; done) | rfl

@[simp] theorem rest_leaveChip (s : State) (f : Flit) (r : Nat × Nat)  : (leaveChip s f r).rest = s.rest := by
  unfold leaveChip
  try dsimp only
  repeat' split
  all_goals first | (simp; done) | rfl

@[simp] theorem rest_hopUnicast (s : State) (f : Flit) (r : Nat × Nat) (p : Nat) (rest : List (Nat × Nat))  : (hopUnicast s f r p rest).rest = s.rest := by
  unfold hopUnicast
  try dsimp only
  repeat' split
  all_goals first | (simp; done) | rfl

@[simp] theorem rest_remainTree (s : State) (f : Flit) (ms : List Nat)  : (remainTree s f ms).rest = s.rest := by
  unfold remainTree
  try dsimp only
  repeat' split
  all_goals first | (simp; done) | rfl

@[simp] theorem rest_hopTree (s : State) (f : Flit) (r : Nat × Nat) (p : Nat)  : (hopTree s f r p).rest = s.rest := by
  unfold hopTree
  try dsimp only
  repeat' split
  all_goals first | (simp; done) | rfl

@[simp] theorem rest_portStore (s : State) (c off : Nat) (data : List Byte)  : (portStore s c off data).rest = s.rest := by
  unfold portStore
  try dsimp only
  repeat' split
  all_goals first | (simp; done) | rfl

@[simp] theorem rest_arrRefusal (s : State) (c code : Nat) (w : Option Nat)  : (arrRefusal s c code w).rest = s.rest := by
  unfold arrRefusal
  try dsimp only
  repeat' split
  all_goals first | (simp; done) | rfl

@[simp] theorem rest_answerFlit (s : State) (f : Flit) (vc code : Nat)  : (answerFlit s f vc code).rest = s.rest := by
  unfold answerFlit
  try dsimp only
  repeat' split
  all_goals first | (simp; done) | rfl

@[simp] theorem rest_startTagCmd (s : State) (c op count first last : Nat)  : (startTagCmd s c op count first last).rest = s.rest := by
  unfold startTagCmd
  try dsimp only
  repeat' split
  all_goals first | (simp; done) | rfl

@[simp] theorem rest_issueStream (s : State) (c : Nat) (e : Fetched) (p : SkPlan)  : (issueStream s c e p).rest = s.rest := by
  unfold issueStream
  try dsimp only
  repeat' split
  all_goals first | (simp; done) | rfl

@[simp] theorem rest_askPage (s : State) (c va : Nat) (wr : Bool)  : (askPage s c va wr).rest = s.rest := by
  unfold askPage
  try dsimp only
  repeat' split
  all_goals first | (simp; done) | rfl

@[simp] theorem rest_sendSave (s : State) (c : Nat) (v : Save) (t : Trans)  : (sendSave s c v t).rest = s.rest := by
  unfold sendSave
  try dsimp only
  repeat' split
  all_goals first | (simp; done) | rfl

@[simp] theorem rest_saveCtx (s : State) (c : Nat) (st : Stream) (state code : Nat)  : (saveCtx s c st state code).rest = s.rest := by
  unfold saveCtx
  try dsimp only
  repeat' split
  all_goals first | (simp; done) | rfl

@[simp] theorem rest_settleSaves (s : State) (c page : Nat) (t : Option Trans)  : (settleSaves s c page t).rest = s.rest := by
  unfold settleSaves
  try dsimp only
  repeat' split
  all_goals first | (simp; done) | rfl

@[simp] theorem rest_sendFetch (s : State) (c : Nat) (f : Fetch) (pa : Nat)  : (sendFetch s c f pa).rest = s.rest := by
  unfold sendFetch
  try dsimp only
  repeat' split
  all_goals first | (simp; done) | rfl

@[simp] theorem rest_sendRemote (s : State) (c : Nat) (st : Stream) (t : Target) (kind : FlitKind) (h : RemoteHdr) (data : List Byte)  : (sendRemote s c st t kind h data).rest = s.rest := by
  unfold sendRemote
  try dsimp only
  repeat' split
  all_goals first | (simp; done) | rfl

@[simp] theorem rest_sendArrivals (s : State) (c : Nat) (st : Stream) (kind : FlitKind) (off : Nat) (data : List Byte) (start : Bool)  : (sendArrivals s c st kind off data start).rest = s.rest := by
  unfold sendArrivals
  try dsimp only
  repeat' split
  all_goals first | (simp; done) | rfl

@[simp] theorem rest_injectGo (s : State) (c : Nat) (st : Stream) (i mem sp n : Nat)  : (injectGo s c st i mem sp n).rest = s.rest := by
  unfold injectGo
  try dsimp only
  repeat' split
  all_goals first | (simp; done) | rfl

@[simp] theorem rest_injectBlock (s : State) (c : Nat) (st : Stream) (off : Nat) (data : List Byte)  : (injectBlock s c st off data).rest = s.rest := by
  unfold injectBlock
  try dsimp only
  repeat' split
  all_goals first | (simp; done) | rfl

@[simp] theorem rest_spdParity (s : State) (c w : Nat)  : (spdParity s c w).rest = s.rest := by
  unfold spdParity
  try dsimp only
  repeat' split
  all_goals first | (simp; done) | rfl

@[simp] theorem rest_meetHalt (s : State) (c : Nat) (st : Stream) (h : Halting)  : (meetHalt s c st h).rest = s.rest := by
  unfold meetHalt
  try dsimp only
  repeat' split
  all_goals first | (simp; done) | rfl

@[simp] theorem rest_moveFirst (s : State) (c : Nat) (st : Stream) (a : Next) : (moveFirst s c st a).rest = s.rest := by
  cases a <;> simp [moveFirst]

/-- The state that an optional change leaves. -/
theorem rest_map_getD {α : Type} (o : Option α) (f : α → State) (s : State) (h : ∀ a, (f a).rest = s.rest) : ((o.map f).getD s).rest = s.rest := by
  cases o
  · rfl
  · exact h _

@[simp] theorem rest_skidderMove (s : State) (c : Nat) : (skidderMove s c).rest = s.rest := by
  unfold skidderMove
  dsimp only
  rw [rest_modCore]
  repeat' split
  all_goals first | rfl | (simp; done) | exact rest_map_getD _ _ _ fun st => rest_moveFirst _ _ _ _

@[simp] theorem rest_cacheTrans (s : State) (c : Nat) (t : Trans)  : (cacheTrans s c t).rest = s.rest := by
  unfold cacheTrans
  try dsimp only
  repeat' split
  all_goals first | (simp; done) | rfl

@[simp] theorem rest_sendMarker (s : State) (c : Nat) (st : Stream) (slot : Nat) (start : Bool)  : (sendMarker s c st slot start).rest = s.rest := by
  unfold sendMarker
  try dsimp only
  repeat' split
  all_goals first | (simp; done) | rfl

@[simp] theorem rest_respStream (s : State) (c ctx seq : Nat) (bs : List Byte)  : (respStream s c ctx seq bs).rest = s.rest := by
  unfold respStream
  try dsimp only
  repeat' split
  all_goals first | (simp; done) | rfl

@[simp] theorem rest_respFetch (s : State) (c n : Nat) (bs : List Byte)  : (respFetch s c n bs).rest = s.rest := by
  unfold respFetch
  try dsimp only
  repeat' split
  all_goals first | (simp; done) | rfl

@[simp] theorem rest_ackStream (s : State) (c ctx seq : Nat)  : (ackStream s c ctx seq).rest = s.rest := by
  unfold ackStream
  try dsimp only
  repeat' split
  all_goals first | (simp; done) | rfl

@[simp] theorem rest_nackStream (s : State) (c ctx seq code lo : Nat)  : (nackStream s c ctx seq code lo).rest = s.rest := by
  unfold nackStream
  try dsimp only
  repeat' split
  all_goals first | (simp; done) | rfl

@[simp] theorem rest_lostStream (s : State) (c ctx seq pa : Nat)  : (lostStream s c ctx seq pa).rest = s.rest := by
  unfold lostStream
  try dsimp only
  repeat' split
  all_goals first | (simp; done) | rfl

@[simp] theorem rest_lostFetch (s : State) (c n : Nat)  : (lostFetch s c n).rest = s.rest := by
  unfold lostFetch
  try dsimp only
  repeat' split
  all_goals first | (simp; done) | rfl

@[simp] theorem rest_endStream (s : State) (c : Nat) (st : Stream)  : (endStream s c st).rest = s.rest := by
  unfold endStream
  try dsimp only
  repeat' split
  all_goals first | (simp; done) | rfl

@[simp] theorem rest_sendCmd (s : State) (c : Nat) (dst : Node) (h : WinCmd) (body : List Byte)  : (sendCmd s c dst h body).rest = s.rest := by
  unfold sendCmd
  try dsimp only
  repeat' split
  all_goals first | (simp; done) | rfl

@[simp] theorem rest_awaitAnswer (s : State) (c : Nat) (chip : Word) (d ctx : Nat)  : (awaitAnswer s c chip d ctx).rest = s.rest := by
  unfold awaitAnswer
  try dsimp only
  repeat' split
  all_goals first | (simp; done) | rfl

@[simp] theorem rest_sendReports (s : State) (c : Nat) (st : Stream)  : (sendReports s c st).rest = s.rest := by
  unfold sendReports
  try dsimp only
  repeat' split
  all_goals first | (simp; done) | rfl

@[simp] theorem rest_freeStream (s : State) (c : Nat) (st : Stream)  : (freeStream s c st).rest = s.rest := by
  unfold freeStream
  try dsimp only
  repeat' split
  all_goals first | (simp; done) | rfl

@[simp] theorem rest_finishAbort (s : State) (c : Nat) (st : Stream)  : (finishAbort s c st).rest = s.rest := by
  unfold finishAbort
  try dsimp only
  repeat' split
  all_goals first | (simp; done) | rfl

@[simp] theorem rest_goAbort (s : State) (c : Nat) (st : Stream)  : (goAbort s c st).rest = s.rest := by
  unfold goAbort
  try dsimp only
  repeat' split
  all_goals first | (simp; done) | rfl

@[simp] theorem rest_parityHalted (s : State) (c : Nat) (st : Stream) (w : Nat)  : (parityHalted s c st w).rest = s.rest := by
  unfold parityHalted
  try dsimp only
  repeat' split
  all_goals first | (simp; done) | rfl

@[simp] theorem rest_takeHalt (s : State) (c : Nat) (st : Stream) (h : Halting)  : (takeHalt s c st h).rest = s.rest := by
  unfold takeHalt
  try dsimp only
  repeat' split
  all_goals first | (simp; done) | rfl

@[simp] theorem rest_goHalt (s : State) (c : Nat) (st : Stream) (h : Halting)  : (goHalt s c st h).rest = s.rest := by
  unfold goHalt
  try dsimp only
  repeat' split
  all_goals first | (simp; done) | rfl

@[simp] theorem rest_resumeStream (s : State) (c : Nat) (st : Stream)  : (resumeStream s c st).rest = s.rest := by
  unfold resumeStream
  try dsimp only
  repeat' split
  all_goals first | (simp; done) | rfl

@[simp] theorem rest_ctxResume (s : State) (c ctx : Nat)  : (ctxResume s c ctx).rest = s.rest := by
  unfold ctxResume
  try dsimp only
  repeat' split
  all_goals first | (simp; done) | rfl

@[simp] theorem rest_ctxFree (s : State) (c ctx : Nat)  : (ctxFree s c ctx).rest = s.rest := by
  unfold ctxFree
  try dsimp only
  repeat' split
  all_goals first | (simp; done) | rfl

@[simp] theorem rest_ctxCommand (s : State) (c : Nat) (w : Nat)  : (ctxCommand s c w).rest = s.rest := by
  unfold ctxCommand
  try dsimp only
  repeat' split
  all_goals first | (simp; done) | rfl

@[simp] theorem rest_afterRefetch (s : State) (c n : Nat) (ok : Bool)  : (afterRefetch s c n ok).rest = s.rest := by
  unfold afterRefetch
  try dsimp only
  repeat' split
  all_goals first | (simp; done) | rfl

@[simp] theorem rest_modYard (s : State) (p : Nat) (f : Yard → Yard)  : (modYard s p f).rest = s.rest := by
  unfold modYard
  try dsimp only
  repeat' split
  all_goals first | (simp; done) | rfl

@[simp] theorem rest_writeBack (s : State) (p : Nat) (g : Option Line)  : (writeBack s p g).rest = s.rest := by
  unfold writeBack
  try dsimp only
  repeat' split
  all_goals first | (simp; done) | rfl

@[simp] theorem rest_allocIn (s : State) (p : Nat) (l : Line) (mru : Bool)  : (allocIn s p l mru).rest = s.rest := by
  unfold allocIn
  try dsimp only
  repeat' split
  all_goals first | (simp; done) | rfl

@[simp] theorem rest_answerYard (s : State) (f : Flit) (line : List Byte)  : (answerYard s f line).rest = s.rest := by
  unfold answerYard
  try dsimp only
  repeat' split
  all_goals first | (simp; done) | rfl

@[simp] theorem rest_waitMemory (s : State) (p : Nat) (f : Flit)  : (waitMemory s p f).rest = s.rest := by
  unfold waitMemory
  try dsimp only
  repeat' split
  all_goals first | (simp; done) | rfl

@[simp] theorem rest_loseLine (s : State) (p num : Nat)  : (loseLine s p num).rest = s.rest := by
  unfold loseLine
  try dsimp only
  repeat' split
  all_goals first | (simp; done) | rfl

@[simp] theorem rest_checkLine (s : State) (p : Nat) (f : Flit) (l : Line) (ecc : EccResult) : (checkLine s p f l ecc).1.rest = s.rest := by
  unfold checkLine
  repeat' split
  all_goals first | (simp; done) | rfl

theorem rest_of_checkLine {s s1 : State} {p : Nat} {f : Flit} {l : Line} {ecc : EccResult} {x : Option Line} (h : checkLine s p f l ecc = (s1, x)) : s1.rest = s.rest := by
  rw [← rest_checkLine s p f l ecc, h]

@[simp] theorem rest_countRead (s : State) (f : Flit) (hit : Bool)  : (countRead s f hit).rest = s.rest := by
  unfold countRead
  try dsimp only
  repeat' split
  all_goals first | (simp; done) | rfl

@[simp] theorem rest_yardRead (s : State) (p : Nat) (f : Flit) (ecc : EccResult)  : (yardRead s p f ecc).rest = s.rest := by
  unfold yardRead
  dsimp only
  repeat' split
  all_goals first | (simp; done) | rfl | (rename_i h _; simp [rest_of_checkLine h]) | (rename_i h; simp [rest_of_checkLine h])

@[simp] theorem rest_yardWrite (s : State) (p : Nat) (f : Flit) (ecc : EccResult)  : (yardWrite s p f ecc).rest = s.rest := by
  unfold yardWrite
  dsimp only
  repeat' split
  all_goals first | (simp; done) | rfl | (rename_i h _; simp [rest_of_checkLine h]) | (rename_i h; simp [rest_of_checkLine h])

@[simp] theorem rest_serveWaiting (p num : Nat) (data : List Byte) (s : State) (f : Flit)  : (serveWaiting p num data s f).rest = s.rest := by
  unfold serveWaiting
  try dsimp only
  repeat' split
  all_goals first | (simp; done) | rfl

@[simp] theorem rest_openWin (s : State) (c n : Nat) (setep : Bool) (ep : Nat)  : (openWin s c n setep ep).rest = s.rest := by
  unfold openWin
  try dsimp only
  repeat' split
  all_goals first | (simp; done) | rfl

@[simp] theorem rest_closeAt (s : State) (c n : Nat)  : (closeAt s c n).rest = s.rest := by
  unfold closeAt
  try dsimp only
  repeat' split
  all_goals first | (simp; done) | rfl

@[simp] theorem rest_answerRemote (s : State) (c : Nat) (v : Via) (h : RemoteHdr) (kind code : Nat) (data : List Byte)  : (answerRemote s c v h kind code data).rest = s.rest := by
  unfold answerRemote
  try dsimp only
  repeat' split
  all_goals first | (simp; done) | rfl

@[simp] theorem rest_refuseRemote (s : State) (c : Nat) (v : Via) (h : RemoteHdr) (counter code : Nat)  : (refuseRemote s c v h counter code).rest = s.rest := by
  unfold refuseRemote
  try dsimp only
  repeat' split
  all_goals first | (simp; done) | rfl

@[simp] theorem rest_acceptRemote (s : State) (c : Nat) (v : Via) (h : RemoteHdr) (data : List Byte)  : (acceptRemote s c v h data).rest = s.rest := by
  unfold acceptRemote
  try dsimp only
  repeat' split
  all_goals first | (simp; done) | rfl

@[simp] theorem rest_windowStore (s : State) (c : Nat) (v : Via) (h : RemoteHdr) (data : List Byte)  : (windowStore s c v h data).rest = s.rest := by
  unfold windowStore
  try dsimp only
  repeat' split
  all_goals first | (simp; done) | rfl

@[simp] theorem rest_windowWrite (s : State) (c : Nat) (v : Via) (h : RemoteHdr) (data : List Byte)  : (windowWrite s c v h data).rest = s.rest := by
  unfold windowWrite
  try dsimp only
  repeat' split
  all_goals first | (simp; done) | rfl

@[simp] theorem rest_windowRead (s : State) (c : Nat) (v : Via) (h : RemoteHdr)  : (windowRead s c v h).rest = s.rest := by
  unfold windowRead
  try dsimp only
  repeat' split
  all_goals first | (simp; done) | rfl

@[simp] theorem rest_windowFlit (s : State) (v : Via) (h : RemoteHdr) (data : List Byte)  : (windowFlit s v h data).rest = s.rest := by
  unfold windowFlit
  try dsimp only
  repeat' split
  all_goals first | (simp; done) | rfl

@[simp] theorem rest_remoteAnswer (s : State) (h : RemoteHdr) (data : List Byte)  : (remoteAnswer s h data).rest = s.rest := by
  unfold remoteAnswer
  try dsimp only
  repeat' split
  all_goals first | (simp; done) | rfl

@[simp] theorem rest_remoteFlit (s : State) (v : Via) (h : RemoteHdr) (data : List Byte)  : (remoteFlit s v h data).rest = s.rest := by
  unfold remoteFlit
  try dsimp only
  repeat' split
  all_goals first | (simp; done) | rfl

@[simp] theorem rest_answerCmd (s : State) (v : Via) (h : WinCmd) (body : List Byte) (code : Nat)  : (answerCmd s v h body code).rest = s.rest := by
  unfold answerCmd
  try dsimp only
  repeat' split
  all_goals first | (simp; done) | rfl

@[simp] theorem rest_cmdEnter (s : State) (h : WinCmd) (i : Fin 14)  : (cmdEnter s h i).rest = s.rest := by
  unfold cmdEnter
  try dsimp only
  repeat' split
  all_goals first | (simp; done) | rfl

@[simp] theorem rest_refuseCmd (s : State) (v : Via) (h : WinCmd) (body : List Byte)  : (refuseCmd s v h body).rest = s.rest := by
  unfold refuseCmd
  try dsimp only
  repeat' split
  all_goals first | (simp; done) | rfl

@[simp] theorem rest_windowCommand (i : Fin 14) (f : WinCmd → List Byte → State → State) (v : Via) (h : WinCmd) (body : List Byte) (s : State) (hf : ∀ a b s, (f a b s).rest = s.rest) :
    (windowCommand i f v h body s).rest = s.rest := by
  unfold windowCommand
  dsimp only
  repeat' split
  all_goals simp [hf]

@[simp] theorem rest_answerChip (s : State) (src : ChipId) (body : List Byte) (code : Nat)  : (answerChip s src body code).rest = s.rest := by
  unfold answerChip
  try dsimp only
  repeat' split
  all_goals first | (simp; done) | rfl

@[simp] theorem rest_refuseChip (s : State) (src : ChipId) (body : List Byte)  : (refuseChip s src body).rest = s.rest := by
  unfold refuseChip
  try dsimp only
  repeat' split
  all_goals first | (simp; done) | rfl

@[simp] theorem rest_applyReport (s : State) (h : WinCmd) (ctx : Nat)  : (applyReport s h ctx).rest = s.rest := by
  unfold applyReport
  try dsimp only
  repeat' split
  all_goals first | (simp; done) | rfl

@[simp] theorem rest_meetReport (s : State) (h : WinCmd) (direct : Bool) (ctx : Nat)  : (meetReport s h direct ctx).1.rest = s.rest := by
  unfold meetReport
  try dsimp only
  repeat' split
  all_goals first | (simp; done) | rfl

@[simp] theorem rest_takeReport (v : Via) (h : WinCmd) (body : List Byte) (s : State)  : (takeReport v h body s).rest = s.rest := by
  unfold takeReport
  try dsimp only
  repeat' split
  all_goals first | (simp; done) | rfl

@[simp] theorem rest_coreAnswer (v : Via) (h : WinCmd) (body : List Byte) (s : State) : (coreAnswer v h body s).rest = s.rest := by
  unfold coreAnswer
  split
  all_goals simp

@[simp] theorem rest_coreRefuses (v : Via) (h : WinCmd) (body : List Byte) (s : State)  : (coreRefuses v h body s).rest = s.rest := by
  unfold coreRefuses
  try dsimp only
  repeat' split
  all_goals first | (simp; done) | rfl

@[simp] theorem rest_startGvop (s : State) (c : Nat)  : (startGvop s c).rest = s.rest := by
  unfold startGvop
  try dsimp only
  repeat' split
  all_goals first | (simp; done) | rfl

@[simp] theorem rest_haltedGvop (s : State) (c : Nat)  : (haltedGvop s c).rest = s.rest := by
  unfold haltedGvop
  try dsimp only
  repeat' split
  all_goals first | (simp; done) | rfl

@[simp] theorem rest_sendBeat (s : State) (c : Nat) (o : PortOp)  : (sendBeat s c o).rest = s.rest := by
  unfold sendBeat
  try dsimp only
  repeat' split
  all_goals first | (simp; done) | rfl

@[simp] theorem rest_atEdge (s : State) (c t : Nat)  : (atEdge s c t).rest = s.rest := by
  unfold atEdge
  try dsimp only
  repeat' split
  all_goals first | (simp; done) | rfl

@[simp] theorem rest_withCredit (s : State) (c : Nat)  : (withCredit s c).rest = s.rest := by
  unfold withCredit
  try dsimp only
  repeat' split
  all_goals first | (simp; done) | rfl

@[simp] theorem rest_takeOut (s : State) (c tag : Nat) (beat : OutBeat)  : (takeOut s c tag beat).rest = s.rest := by
  unfold takeOut
  try dsimp only
  repeat' split
  all_goals first | (simp; done) | rfl

@[simp] theorem rest_outWritten (s : State) (c tag : Nat)  : (outWritten s c tag).rest = s.rest := by
  unfold outWritten
  try dsimp only
  repeat' split
  all_goals first | (simp; done) | rfl

@[simp] theorem rest_modBank (s : State) (b : Nat) (f : Bank → Bank)  : (modBank s b f).rest = s.rest := by
  unfold modBank
  try dsimp only
  repeat' split
  all_goals first | (simp; done) | rfl

@[simp] theorem rest_modPin (s : State) (p : Nat) (f : Pin → Pin)  : (modPin s p f).rest = s.rest := by
  unfold modPin
  try dsimp only
  repeat' split
  all_goals first | (simp; done) | rfl

@[simp] theorem rest_fioBump (s : State) (n : Nat)  : (fioBump s n).rest = s.rest := by
  unfold fioBump
  try dsimp only
  repeat' split
  all_goals first | (simp; done) | rfl

@[simp] theorem rest_storm (s : State) (p : Nat) (stuck : Bool)  : (storm s p stuck).rest = s.rest := by
  unfold storm
  try dsimp only
  repeat' split
  all_goals first | (simp; done) | rfl

@[simp] theorem rest_suppress (s : State) (p : Nat)  : (suppress s p).rest = s.rest := by
  unfold suppress
  try dsimp only
  repeat' split
  all_goals first | (simp; done) | rfl

@[simp] theorem rest_acceptEvent (s : State) (p time : Nat)  : (acceptEvent s p time).rest = s.rest := by
  unfold acceptEvent
  try dsimp only
  repeat' split
  all_goals first | (simp; done) | rfl

@[simp] theorem rest_capture (s : State) (p time : Nat)  : (capture s p time).rest = s.rest := by
  unfold capture
  try dsimp only
  repeat' split
  all_goals first | (simp; done) | rfl

@[simp] theorem rest_beforeEvents (s : State) (p : Nat)  : (beforeEvents s p).rest = s.rest := by
  unfold beforeEvents
  try dsimp only
  repeat' split
  all_goals first | (simp; done) | rfl

@[simp] theorem rest_rearm (s0 : State) (p : Nat)  : (rearm s0 p).rest = s0.rest := by
  unfold rearm
  try dsimp only
  repeat' split
  all_goals first | (simp; done) | rfl

@[simp] theorem rest_modSwap (s : State) (t : Nat) (f : Swap → Swap)  : (modSwap s t f).rest = s.rest := by
  unfold modSwap
  try dsimp only
  repeat' split
  all_goals first | (simp; done) | rfl

@[simp] theorem rest_dropSwap (s : State) (t : Nat)  : (dropSwap s t).rest = s.rest := by
  unfold dropSwap
  try dsimp only
  repeat' split
  all_goals first | (simp; done) | rfl

@[simp] theorem rest_swapEvent (s : State) (t : Nat)  : (swapEvent s t).rest = s.rest := by
  unfold swapEvent
  try dsimp only
  repeat' split
  all_goals first | (simp; done) | rfl

@[simp] theorem rest_ownTake (s : State) (c : Nat) (v : Word)  : (ownTake s c v).rest = s.rest := by
  unfold ownTake
  try dsimp only
  repeat' split
  all_goals first | (simp; done) | rfl

@[simp] theorem rest_ownWrite (s : State) (c : Nat) (v : Word)  : (ownWrite s c v).rest = s.rest := by
  unfold ownWrite
  try dsimp only
  repeat' split
  all_goals first | (simp; done) | rfl

@[simp] theorem rest_takeDeferred (s : State) (t : Nat) (sel : Nat → Bool)  : (takeDeferred s t sel).rest = s.rest := by
  unfold takeDeferred
  try dsimp only
  repeat' split
  all_goals first | (simp; done) | rfl

@[simp] theorem rest_beginSwap (s : State) (t : Nat) (job : Option Job) (gen : Nat)  : (beginSwap s t job gen).rest = s.rest := by
  unfold beginSwap
  try dsimp only
  repeat' split
  all_goals first | (simp; done) | rfl

@[simp] theorem rest_sendSwapat (s : State) (t : Nat)  : (sendSwapat s t).rest = s.rest := by
  unfold sendSwapat
  try dsimp only
  repeat' split
  all_goals first | (simp; done) | rfl

@[simp] theorem rest_abortSwap (s : State) (t : Nat)  : (abortSwap s t).rest = s.rest := by
  unfold abortSwap
  try dsimp only
  repeat' split
  all_goals first | (simp; done) | rfl

@[simp] theorem rest_toChips (s : State) (j : Job) (op gen : Nat)  : (toChips s j op gen).rest = s.rest := by
  unfold toChips
  try dsimp only
  repeat' split
  all_goals first | (simp; done) | rfl

@[simp] theorem rest_toHead (s : State) (j : Job) (op gen : Nat)  : (toHead s j op gen).rest = s.rest := by
  unfold toHead
  try dsimp only
  repeat' split
  all_goals first | (simp; done) | rfl

@[simp] theorem rest_takeDone (s : State) (job chip : Word) (gen : Nat)  : (takeDone s job chip gen).rest = s.rest := by
  unfold takeDone
  try dsimp only
  repeat' split
  all_goals first | (simp; done) | rfl

@[simp] theorem rest_answerDone (s : State) (j : Job) (gen : Nat)  : (answerDone s j gen).rest = s.rest := by
  unfold answerDone
  try dsimp only
  repeat' split
  all_goals first | (simp; done) | rfl

@[simp] theorem rest_takeCommit (s : State) (job : Word) (gen : Nat)  : (takeCommit s job gen).rest = s.rest := by
  unfold takeCommit
  try dsimp only
  repeat' split
  all_goals first | (simp; done) | rfl

@[simp] theorem rest_takeReady (s : State) (job chip : Word) (gen : Nat)  : (takeReady s job chip gen).rest = s.rest := by
  unfold takeReady
  try dsimp only
  repeat' split
  all_goals first | (simp; done) | rfl

@[simp] theorem rest_settleSwap (s : State) (t : Nat)  : (settleSwap s t).rest = s.rest := by
  unfold settleSwap
  try dsimp only
  repeat' split
  all_goals first | (simp; done) | rfl

@[simp] theorem rest_takePrepare (s : State) (job : Word) (gen : Nat)  : (takePrepare s job gen).rest = s.rest := by
  unfold takePrepare
  try dsimp only
  repeat' split
  all_goals first | (simp; done) | rfl

@[simp] theorem rest_takeAbort (s : State) (job : Word) (gen : Nat)  : (takeAbort s job gen).rest = s.rest := by
  unfold takeAbort
  try dsimp only
  repeat' split
  all_goals first | (simp; done) | rfl

@[simp] theorem rest_startJobSwap (s : State) (job : Word)  : (startJobSwap s job).rest = s.rest := by
  unfold startJobSwap
  try dsimp only
  repeat' split
  all_goals first | (simp; done) | rfl

@[simp] theorem rest_goChip (s : State) (c : Nat)  : (goChip s c).rest = s.rest := by
  unfold goChip
  try dsimp only
  repeat' split
  all_goals first | (simp; done) | rfl

@[simp] theorem rest_goJob (s : State) (c : Nat)  : (goJob s c).rest = s.rest := by
  unfold goJob
  try dsimp only
  repeat' split
  all_goals first | (simp; done) | rfl

@[simp] theorem rest_cancelSwap (s : State) (c : Nat)  : (cancelSwap s c).rest = s.rest := by
  unfold cancelSwap
  try dsimp only
  repeat' split
  all_goals first | (simp; done) | rfl

@[simp] theorem rest_takeRelease (s : State) (job : Word) (gen : Nat)  : (takeRelease s job gen).rest = s.rest := by
  unfold takeRelease
  try dsimp only
  repeat' split
  all_goals first | (simp; done) | rfl

@[simp] theorem rest_jobFatal (s : State)  : (jobFatal s).rest = s.rest := by
  unfold jobFatal
  try dsimp only
  repeat' split
  all_goals first | (simp; done) | rfl

@[simp] theorem rest_writeSeed (s : State) (j : Job) (seed : Nat)  : (writeSeed s j seed).rest = s.rest := by
  unfold writeSeed
  try dsimp only
  repeat' split
  all_goals first | (simp; done) | rfl

@[simp] theorem rest_writeEpoch (s : State) (j : Job) (v : Nat)  : (writeEpoch s j v).rest = s.rest := by
  unfold writeEpoch
  try dsimp only
  repeat' split
  all_goals first | (simp; done) | rfl

@[simp] theorem rest_jobCommand (s : State) (c : Nat) (f : State → Job → State) (hf : ∀ s a0, (f s a0).rest = s.rest) : (jobCommand s c f).rest = s.rest := by
  unfold jobCommand
  try dsimp only
  repeat' split
  all_goals first | (simp [hf]; done) | rfl

@[simp] theorem rest_jobSeed (s : State) (c : Nat)  : (jobSeed s c).rest = s.rest := by
  unfold jobSeed
  simp [apply_ite State.rest]

@[simp] theorem rest_jobEpoch (s : State) (c v : Nat)  : (jobEpoch s c v).rest = s.rest := by
  unfold jobEpoch
  simp [apply_ite State.rest]

@[simp] theorem rest_failLoad (s : State) (c code : Nat)  : (failLoad s c code).rest = s.rest := by
  unfold failLoad
  try dsimp only
  repeat' split
  all_goals first | (simp; done) | rfl

@[simp] theorem rest_startLoad (s : State) (c handle len : Nat)  : (startLoad s c handle len).rest = s.rest := by
  unfold startLoad
  try dsimp only
  repeat' split
  all_goals first | (simp; done) | rfl

@[simp] theorem rest_loadCmd (s : State) (c v : Nat)  : (loadCmd s c v).rest = s.rest := by
  unfold loadCmd
  try dsimp only
  repeat' split
  all_goals first | (simp; done) | rfl

@[simp] theorem rest_forcePass (s : State) (c : Nat)  : (forcePass s c).rest = s.rest := by
  unfold forcePass
  try dsimp only
  repeat' split
  all_goals first | (simp; done) | rfl

@[simp] theorem rest_recordMis (s : State) (c f action : Nat)  : (recordMis s c f action).rest = s.rest := by
  unfold recordMis
  try dsimp only
  repeat' split
  all_goals first | (simp; done) | rfl

@[simp] theorem rest_repairBlank (s : State) (c f : Nat) (g : Sig)  : (repairBlank s c f g).rest = s.rest := by
  unfold repairBlank
  try dsimp only
  repeat' split
  all_goals first | (simp; done) | rfl

@[simp] theorem rest_mismatch (s : State) (c f : Nat) (g : Sig)  : (mismatch s c f g).rest = s.rest := by
  unfold mismatch
  try dsimp only
  repeat' split
  all_goals first | (simp; done) | rfl

@[simp] theorem rest_repairImage (s : State) (c f : Nat) (g : Sig) (b : List Byte)  : (repairImage s c f g b).rest = s.rest := by
  unfold repairImage
  try dsimp only
  repeat' split
  all_goals first | (simp; done) | rfl

@[simp] theorem rest_wakeTenant (s : State) (t : Nat)  : (wakeTenant s t).rest = s.rest := by
  unfold wakeTenant
  try dsimp only
  repeat' split
  all_goals first | (simp; done) | rfl

@[simp] theorem rest_setCtrl (s : State) (t : Nat) (v : Word)  : (setCtrl s t v).rest = s.rest := by
  unfold setCtrl
  try dsimp only
  repeat' split
  all_goals first | (simp; done) | rfl

@[simp] theorem rest_writeTenCtrl (s : State) (t : Nat) (v : Word)  : (writeTenCtrl s t v).rest = s.rest := by
  unfold writeTenCtrl
  try dsimp only
  repeat' split
  all_goals first | (simp; done) | rfl

@[simp] theorem rest_writeTenAsid (s : State) (t : Nat) (v : Word)  : (writeTenAsid s t v).rest = s.rest := by
  unfold writeTenAsid
  try dsimp only
  repeat' split
  all_goals first | (simp; done) | rfl

@[simp] theorem rest_mailboxBell (s : State) (t : Option Nat) (slot : Nat)  : (mailboxBell s t slot).rest = s.rest := by
  unfold mailboxBell
  try dsimp only
  repeat' split
  all_goals first | (simp; done) | rfl

@[simp] theorem rest_modTaken (s : State) (t slot : Nat) (f : Taken → Taken)  : (modTaken s t slot f).rest = s.rest := by
  unfold modTaken
  try dsimp only
  repeat' split
  all_goals first | (simp; done) | rfl

@[simp] theorem rest_placeCore (t : Nat) (s : State) (e : List Byte)  : (placeCore t s e).rest = s.rest := by
  unfold placeCore
  try dsimp only
  repeat' split
  all_goals first | (simp; done) | rfl

@[simp] theorem rest_placeShape (s : State) (e : List Byte)  : (placeShape s e).rest = s.rest := by
  unfold placeShape
  try dsimp only
  repeat' split
  all_goals first | (simp; done) | rfl

@[simp] theorem rest_pickHandle (s : State) (c : Nat)  : (pickHandle s c).2.rest = s.rest := by
  unfold pickHandle
  try dsimp only
  repeat' split
  all_goals first | (simp; done) | rfl

@[simp] theorem rest_beginImage (s : State) (c len : Nat)  : (beginImage s c len).rest = s.rest := by
  unfold beginImage
  try dsimp only
  repeat' split
  all_goals first | (simp; done) | rfl

@[simp] theorem rest_beginImages (t slot : Nat) (m : List Byte) (s : State) (es : List (List Byte)) : (beginImages t slot m s es).rest = s.rest := by
  induction es generalizing s with
  | nil => rfl
  | cons e es ih =>
    unfold beginImages
    dsimp only
    split
    · exact ih s
    · rw [ih]; simp

@[simp] theorem rest_placeJob (s : State) (t slot : Nat) (m : List Byte)  : (placeJob s t slot m).rest = s.rest := by
  unfold placeJob
  try dsimp only
  repeat' split
  all_goals first | (simp; done) | rfl

@[simp] theorem rest_dropFelledJob (s : State) (job : Word) (t : TenantId)  : (dropFelledJob s job t).rest = s.rest := by
  unfold dropFelledJob
  try dsimp only
  repeat' split
  all_goals first | (simp; done) | rfl

@[simp] theorem rest_untilRead (s : State) (c : Nat) (q : QueueId) (n w : Nat)  : (untilRead s c q n w).rest = s.rest := by
  unfold untilRead
  try dsimp only
  repeat' split
  all_goals first | (simp; done) | rfl

@[simp] theorem rest_parityMet (s : State) (c w : Nat) (r : ParityReader) : (parityMet s c w r).rest = s.rest := by
  cases r <;> dsimp only [parityMet]
  all_goals repeat' split
  all_goals first | (simp; done) | rfl

@[simp] theorem rest_loopParity (s : State) (c : Nat) (q : QueueId) (idx : Nat)  : (loopParity s c q idx).rest = s.rest := by
  unfold loopParity
  try dsimp only
  repeat' split
  all_goals first | (simp; done) | rfl

@[simp] theorem rest_readRec (s : State) (p : Port) (c : Nat)  : (readRec s p c).rest = s.rest := by
  unfold readRec
  try dsimp only
  repeat' split
  all_goals first | (simp; done) | rfl

@[simp] theorem rest_jnlCruise (s : State) (c step result code : Nat)  : (jnlCruise s c step result code).rest = s.rest := by
  unfold jnlCruise
  try dsimp only
  repeat' split
  all_goals first | (simp; done) | rfl

@[simp] theorem rest_cruiseOnce (s : State) (c step code : Nat) (detail : Word)  : (cruiseOnce s c step code detail).rest = s.rest := by
  unfold cruiseOnce
  try dsimp only
  repeat' split
  all_goals first | (simp; done) | rfl

@[simp] theorem rest_cruiseTwice (s : State) (c step code : Nat) (detail : Word)  : (cruiseTwice s c step code detail).rest = s.rest := by
  unfold cruiseTwice
  try dsimp only
  repeat' split
  all_goals first | (simp; done) | rfl

@[simp] theorem rest_fellCommand (s : State) (op c : Nat)  : (fellCommand s op c).rest = s.rest := by
  unfold fellCommand
  try dsimp only
  repeat' split
  all_goals first | (simp; done) | rfl

@[simp] theorem rest_jnlBump (s : State) (n : Nat) (amt : Nat)  : (jnlBump s n amt).rest = s.rest := by
  unfold jnlBump
  try dsimp only
  repeat' split
  all_goals first | (simp; done) | rfl

@[simp] theorem rest_admitFences (s : State)  : (admitFences s).rest = s.rest := by
  unfold admitFences
  try dsimp only
  repeat' split
  all_goals first | (simp; done) | rfl

@[simp] theorem rest_readMram (s : State) (p : Port)  : (readMram s p).rest = s.rest := by
  unfold readMram
  try dsimp only
  repeat' split
  all_goals first | (simp; done) | rfl

@[simp] theorem rest_clearCounters (s : State) (pg : PageRef)  : (clearCounters s pg).rest = s.rest := by
  unfold clearCounters
  try dsimp only
  repeat' split
  all_goals first | (simp; done) | rfl

@[simp] theorem rest_shadowCopy (s : State) (pg : PageRef)  : (shadowCopy s pg).rest = s.rest := by
  unfold shadowCopy
  try dsimp only
  repeat' split
  all_goals first | (simp; done) | rfl

@[simp] theorem rest_clearErr (s : State) (pg : PageRef)  : (clearErr s pg).rest = s.rest := by
  unfold clearErr
  try dsimp only
  repeat' split
  all_goals first | (simp; done) | rfl

@[simp] theorem rest_writePageCtrl (s : State) (pg : PageRef) (v : Nat)  : (writePageCtrl s pg v).rest = s.rest := by
  unfold writePageCtrl
  try dsimp only
  repeat' split
  all_goals first | (simp; done) | rfl

@[simp] theorem rest_writePageSwap (s : State) (pg : PageRef) (v : Nat)  : (writePageSwap s pg v).rest = s.rest := by
  unfold writePageSwap
  try dsimp only
  repeat' split
  all_goals first | (simp; done) | rfl

@[simp] theorem rest_writeCommon (s : State) (pg : PageRef) (off v : Nat)  : (writeCommon s pg off v).rest = s.rest := by
  unfold writeCommon
  try dsimp only
  repeat' split
  all_goals first | (simp; done) | rfl

@[simp] theorem rest_plainGlobal (s : State) (pg : PageRef) (off v : Nat)  : (plainGlobal s pg off v).rest = s.rest := by
  unfold plainGlobal
  try dsimp only
  repeat' split
  all_goals first | (simp; done) | rfl

@[simp] theorem rest_writeBlk (s : State) (p : Port) (off v : Nat)  : (writeBlk s p off v).rest = s.rest := by
  unfold writeBlk
  try dsimp only
  repeat' split
  all_goals first | (simp; done) | rfl

@[simp] theorem rest_writeEvt (s : State) (off v : Nat)  : (writeEvt s off v).rest = s.rest := by
  unfold writeEvt
  try dsimp only
  repeat' split
  all_goals first | (simp; done) | rfl

@[simp] theorem rest_writeBankCfg (s : State) (b v : Nat)  : (writeBankCfg s b v).rest = s.rest := by
  unfold writeBankCfg
  try dsimp only
  repeat' split
  all_goals first | (simp; done) | rfl

@[simp] theorem rest_writePinCfg (s : State) (p v : Nat)  : (writePinCfg s p v).rest = s.rest := by
  unfold writePinCfg
  try dsimp only
  repeat' split
  all_goals first | (simp; done) | rfl

@[simp] theorem rest_writeEvCfg (s : State) (p v : Nat)  : (writeEvCfg s p v).rest = s.rest := by
  unfold writeEvCfg
  try dsimp only
  repeat' split
  all_goals first | (simp; done) | rfl

@[simp] theorem rest_writeFio (s : State) (off v : Nat)  : (writeFio s off v).rest = s.rest := by
  unfold writeFio
  try dsimp only
  repeat' split
  all_goals first | (simp; done) | rfl

@[simp] theorem rest_writeTen (s : State) (u off v : Nat)  : (writeTen s u off v).rest = s.rest := by
  unfold writeTen
  try dsimp only
  repeat' split
  all_goals first | (simp; done) | rfl

@[simp] theorem rest_writeQCtl (s : State) (c : Nat) (q : QueueId) (v : Nat)  : (writeQCtl s c q v).rest = s.rest := by
  unfold writeQCtl
  try dsimp only
  repeat' split
  all_goals first | (simp; done) | rfl

@[simp] theorem rest_writeCqSet (s0 : State) (c off v : Nat)  : (writeCqSet s0 c off v).rest = s0.rest := by
  unfold writeCqSet
  try dsimp only
  repeat' split
  all_goals first | (simp; done) | rfl

@[simp] theorem rest_writeCq (s : State) (c off v : Nat)  : (writeCq s c off v).rest = s.rest := by
  unfold writeCq
  try dsimp only
  repeat' split
  all_goals first | (simp; done) | rfl

@[simp] theorem rest_writeSema (s : State) (c off v : Nat)  : (writeSema s c off v).rest = s.rest := by
  unfold writeSema
  try dsimp only
  repeat' split
  all_goals first | (simp; done) | rfl

@[simp] theorem rest_writeSpd (s : State) (c off v : Nat) (tenant : Bool)  : (writeSpd s c off v tenant).rest = s.rest := by
  unfold writeSpd
  try dsimp only
  repeat' split
  all_goals first | (simp; done) | rfl

@[simp] theorem rest_writeSkd (s : State) (c off v : Nat) (tenant : Bool)  : (writeSkd s c off v tenant).rest = s.rest := by
  unfold writeSkd
  try dsimp only
  repeat' split
  all_goals first | (simp; done) | rfl

@[simp] theorem rest_writeWinCmd (s : State) (c v : Nat)  : (writeWinCmd s c v).rest = s.rest := by
  unfold writeWinCmd
  try dsimp only
  repeat' split
  all_goals first | (simp; done) | rfl

@[simp] theorem rest_writeJobCmd (s : State) (c v : Nat)  : (writeJobCmd s c v).rest = s.rest := by
  unfold writeJobCmd
  try dsimp only
  repeat' split
  all_goals first | (simp; done) | rfl

@[simp] theorem rest_writeWin (s : State) (c off v : Nat)  : (writeWin s c off v).rest = s.rest := by
  unfold writeWin
  try dsimp only
  repeat' split
  all_goals first | (simp; done) | rfl

@[simp] theorem rest_writeScb (s : State) (c off v : Nat)  : (writeScb s c off v).rest = s.rest := by
  unfold writeScb
  try dsimp only
  repeat' split
  all_goals first | (simp; done) | rfl

@[simp] theorem rest_writeUnit (s : State) (p : Port) (c i off v : Nat)  : (writeUnit s p c i off v).rest = s.rest := by
  unfold writeUnit
  try dsimp only
  repeat' split
  all_goals first | (simp; done) | rfl

@[simp] theorem rest_commonWrite (s : State) (p : Port) (pg : PageRef) (off : Nat) (f : State → State) (hf : ∀ s , (f s ).rest = s.rest) : (commonWrite s p pg off f).rest = s.rest := by
  unfold commonWrite
  try dsimp only
  repeat' split
  all_goals first | (simp [hf]; done) | rfl

end Sys2Proof.Machine
end

