-- ==== Sys2Proof/Laws/Now.lean ====
section
/-! SUPPORT. The time after the named operations: most leave it, and none takes it back. One lemma per operation, cited in place of unfolding it. -/

namespace Sys2Proof.Machine

/-- A fold of an operation that leaves the time leaves it. -/
@[simp] theorem now_foldl {α : Type} (f : State → α → State) (h : ∀ s a, (f s a).now = s.now) (l : List α) (s : State) : (l.foldl f s).now = s.now := by
  induction l generalizing s with
  | nil => rfl
  | cons a l ih => rw [List.foldl_cons, ih, h]

/-- A fold of an operation that does not take the time back does not. -/
theorem le_now_foldl {α : Type} (f : State → α → State) (h : ∀ s a t, t ≤ s.now → t ≤ (f s a).now) (l : List α) (s : State) {t : Nat} (ht : t ≤ s.now) : t ≤ (l.foldl f s).now := by
  induction l generalizing s with
  | nil => exact ht
  | cons a l ih => exact ih (f s a) (h s a t ht)

/-- Waiting does not take the time back. -/
@[simp] theorem le_now_atLeast (s : State) (n : Nat) {t : Nat} (ht : t ≤ s.now) : t ≤ (atLeast s n).now := Nat.le_trans ht (now_atLeast s n)

@[simp] theorem now_putCore (s : State) (c : Nat) (k : Core)  : (putCore s c k).now = s.now := by
  unfold putCore
  try dsimp only
  repeat' split
  all_goals first | (simp; done) | rfl

@[simp] theorem now_modCore (s : State) (c : Nat) (f : Core → Core)  : (modCore s c f).now = s.now := by
  unfold modCore
  try dsimp only
  repeat' split
  all_goals first | (simp; done) | rfl

@[simp] theorem now_modPage (s : State) (pg : PageRef) (f : Page → Page)  : (modPage s pg f).now = s.now := by
  unfold modPage
  try dsimp only
  repeat' split
  all_goals first | (simp; done) | rfl

@[simp] theorem now_blkBump (s : State) (n : Nat)  : (blkBump s n).now = s.now := by
  unfold blkBump
  try dsimp only
  repeat' split
  all_goals first | (simp; done) | rfl

@[simp] theorem now_modTenant (s : State) (t : Nat) (f : Tenant → Tenant)  : (modTenant s t f).now = s.now := by
  unfold modTenant
  try dsimp only
  repeat' split
  all_goals first | (simp; done) | rfl

@[simp] theorem now_modOwner (s : State) (c : Nat) (f : Ownership → Ownership)  : (modOwner s c f).now = s.now := by
  unfold modOwner
  try dsimp only
  repeat' split
  all_goals first | (simp; done) | rfl

@[simp] theorem now_modJob (s : State) (id : Word) (f : Job → Job)  : (modJob s id f).now = s.now := by
  unfold modJob
  try dsimp only
  repeat' split
  all_goals first | (simp; done) | rfl

@[simp] theorem now_evSet (s : State) (b : Nat)  : (evSet s b).now = s.now := by
  unfold evSet
  try dsimp only
  repeat' split
  all_goals first | (simp; done) | rfl

@[simp] theorem now_emit (s : State) (x : Out)  : (emit s x).now = s.now := by
  unfold emit
  try dsimp only
  repeat' split
  all_goals first | (simp; done) | rfl

@[simp] theorem now_tenEvent (s : State) (t cls low : Nat)  : (tenEvent s t cls low).now = s.now := by
  unfold tenEvent
  try dsimp only
  repeat' split
  all_goals first | (simp; done) | rfl

@[simp] theorem now_ownerEvent (s : State) (c cls : Nat)  : (ownerEvent s c cls).now = s.now := by
  unfold ownerEvent
  try dsimp only
  repeat' split
  all_goals first | (simp; done) | rfl

@[simp] theorem now_jnlPush (s : State) (ty : Nat) (payload : List Byte)  : (jnlPush s ty payload).now = s.now := by
  unfold jnlPush
  try dsimp only
  repeat' split
  all_goals first | (simp; done) | rfl

@[simp] theorem now_jnlError (s : State) (c : Nat) (r : ErrRec)  : (jnlError s c r).now = s.now := by
  unfold jnlError
  try dsimp only
  repeat' split
  all_goals first | (simp; done) | rfl

@[simp] theorem now_blkErr (s : State) (code cls tenant : Nat)  : (blkErr s code cls tenant).now = s.now := by
  unfold blkErr
  try dsimp only
  repeat' split
  all_goals first | (simp; done) | rfl

@[simp] theorem now_refuseBlk (s : State) (code tenant : Nat)  : (refuseBlk s code tenant).now = s.now := by
  unfold refuseBlk
  try dsimp only
  repeat' split
  all_goals first | (simp; done) | rfl

@[simp] theorem now_coreErr (s : State) (c : Nat) (r0 : ErrRec)  : (coreErr s c r0).now = s.now := by
  unfold coreErr
  try dsimp only
  repeat' split
  all_goals first | (simp; done) | rfl

@[simp] theorem now_modCoreW (s : State) (c : Nat) (f : Core → Core)  : (modCoreW s c f).now = s.now := by
  unfold modCoreW
  try dsimp only
  repeat' split
  all_goals first | (simp; done) | rfl

@[simp] theorem now_parityRecord (s : State) (c w : Nat) (r : ErrRec)  : (parityRecord s c w r).now = s.now := by
  unfold parityRecord
  try dsimp only
  repeat' split
  all_goals first | (simp; done) | rfl

@[simp] theorem now_modLatch (s : State) (p : Port) (f : Latch → Latch)  : (modLatch s p f).now = s.now := by
  unfold modLatch
  try dsimp only
  repeat' split
  all_goals first | (simp; done) | rfl

@[simp] theorem now_answerRead (s : State) (p : Port) (bs : List Byte)  : (answerRead s p bs).now = s.now := by
  unfold answerRead
  try dsimp only
  repeat' split
  all_goals first | (simp; done) | rfl

@[simp] theorem now_takeFree (s : State)  : (takeFree s).2.now = s.now := by
  unfold takeFree
  try dsimp only
  repeat' split
  all_goals first | (simp; done) | rfl

@[simp] theorem now_takeChoice (s : State)  : (takeChoice s).2.now = s.now := by
  unfold takeChoice
  try dsimp only
  repeat' split
  all_goals first | (simp; done) | rfl

@[simp] theorem now_drainCore (s : State) (c : Nat)  : (drainCore s c).now = s.now := by
  unfold drainCore
  try dsimp only
  repeat' split
  all_goals first | (simp; done) | rfl

@[simp] theorem now_noteArrival (s : State) (j : Job) (gen : Nat)  : (noteArrival s j gen).now = s.now := by
  unfold noteArrival
  try dsimp only
  repeat' split
  all_goals first | (simp; done) | rfl

@[simp] theorem now_barrierPass (s : State) (job : Word) (gen : Nat)  : (barrierPass s job gen).now = s.now := by
  unfold barrierPass
  try dsimp only
  repeat' split
  all_goals first | (simp; done) | rfl

@[simp] theorem now_headArrive (s : State) (job chip : Word) (gen : Nat)  : (headArrive s job chip gen).now = s.now := by
  unfold headArrive
  try dsimp only
  repeat' split
  all_goals first | (simp; done) | rfl

@[simp] theorem now_chipArrives (s : State) (job : Word)  : (chipArrives s job).now = s.now := by
  unfold chipArrives
  try dsimp only
  repeat' split
  all_goals first | (simp; done) | rfl

@[simp] theorem now_leaveJobs (s : State) (c : Nat)  : (leaveJobs s c).now = s.now := by
  unfold leaveJobs
  try dsimp only
  repeat' split
  all_goals first | (simp; done) | rfl

@[simp] theorem now_dropPins (s : State) (c : Nat) : (dropPins s c).now = s.now := by
  unfold dropPins
  try dsimp only
  repeat' split
  all_goals first | (simp; done) | rfl

@[simp] theorem now_recheckBarriers (s : State)  : (recheckBarriers s).now = s.now := by
  unfold recheckBarriers
  try dsimp only
  repeat' split
  all_goals first | (simp; done) | rfl

@[simp] theorem now_releaseCore (s : State) (c : Nat)  : (releaseCore s c).now = s.now := by
  unfold releaseCore
  try dsimp only
  repeat' split
  all_goals first | (simp; done) | rfl

@[simp] theorem now_endAwait (s : State) (c : Nat)  : (endAwait s c).now = s.now := by
  unfold endAwait
  try dsimp only
  repeat' split
  all_goals first | (simp; done) | rfl

@[simp] theorem now_finishRelease (s : State) (c : Nat)  : (finishRelease s c).now = s.now := by
  unfold finishRelease
  try dsimp only
  repeat' split
  all_goals first | (simp; done) | rfl

@[simp] theorem now_answerMbx (s : State) (t slot : Nat) (result : Word) (reason state : Nat)  : (answerMbx s t slot result reason state).now = s.now := by
  unfold answerMbx
  try dsimp only
  repeat' split
  all_goals first | (simp; done) | rfl

@[simp] theorem now_refuseMbx (s : State) (t slot reason : Nat)  : (refuseMbx s t slot reason).now = s.now := by
  unfold refuseMbx
  try dsimp only
  repeat' split
  all_goals first | (simp; done) | rfl

@[simp] theorem now_loadEndedFor (code c : Nat) (s : State) (tk : Taken)  : (loadEndedFor code c s tk).now = s.now := by
  unfold loadEndedFor
  dsimp only
  repeat' split
  all_goals first | (simp [apply_ite State.now]; done) | rfl

@[simp] theorem now_loadEnded (s : State) (c code : Nat)  : (loadEnded s c code).now = s.now := by
  unfold loadEnded
  try dsimp only
  repeat' split
  all_goals first | (simp; done) | rfl

@[simp] theorem now_releaseOwned (s : State) (c : Nat)  : (releaseOwned s c).now = s.now := by
  unfold releaseOwned
  try dsimp only
  repeat' split
  all_goals first | (simp; done) | rfl

@[simp] theorem now_fell (s : State) (c cause : Nat)  : (fell s c cause).now = s.now := by
  unfold fell
  try dsimp only
  repeat' split
  all_goals first | (simp; done) | rfl

@[simp] theorem now_hardError (s : State) (c : Nat) (r : ErrRec)  : (hardError s c r).now = s.now := by
  unfold hardError
  try dsimp only
  repeat' split
  all_goals first | (simp; done) | rfl

@[simp] theorem now_untilEnd (s : State) (c : Nat) (q : QueueId)  {tm : Nat} (ht : tm ≤ s.now) : tm ≤ (untilEnd s c q).now := by
  unfold untilEnd
  try dsimp only
  repeat' split
  all_goals first | (simp [ht]; done) | exact ht

@[simp] theorem now_inOrder (s : State) (c r : Nat)  {tm : Nat} (ht : tm ≤ s.now) : tm ≤ (inOrder s c r).now := by
  unfold inOrder
  try dsimp only
  repeat' split
  all_goals first | (simp [ht]; done) | exact ht

@[simp] theorem now_portOrder (s : State) (p : Port) (pg : PageRef)  {tm : Nat} (ht : tm ≤ s.now) : tm ≤ (portOrder s p pg).now := by
  unfold portOrder
  try dsimp only
  repeat' split
  all_goals first | (simp [ht]; done) | exact ht

theorem now_ite_fst (b : Prop) [Decidable b] (x y : State × Bool) (s : State) (hx : x.1.now = s.now) (hy : y.1.now = s.now) : (if b then x else y).1.now = s.now := by
  split
  · exact hx
  · exact hy

@[simp] theorem now_pageAccess (s : State) (p : Port) (pg : PageRef) (off : Nat) (wr : Bool) : (pageAccess s p pg off wr).1.now = s.now := by
  unfold pageAccess
  refine now_ite_fst _ _ _ _ rfl (now_ite_fst _ _ _ _ (now_blkBump _ _) ?_)
  cases pg with
  | core c i =>
    refine now_ite_fst _ _ _ _ (now_blkBump _ _) ?_
    cases p <;> dsimp only [portTenant] <;> first | rfl | (cases coreRefusal _ _ _ _ <;> first | rfl | exact now_refuseBlk _ _ _)
  | blk => cases p <;> dsimp only [portTenant] <;> first | rfl | exact now_ite_fst _ _ _ _ rfl (now_refuseBlk _ _ _)
  | _ => cases p <;> first | rfl | exact now_refuseBlk _ _ _

@[simp] theorem now_pageGate (s : State) (p : Port) (pg : PageRef) (off : Nat) (wr : Bool) {t : Nat} (ht : t ≤ s.now) : t ≤ (pageGate s p pg off wr).1.now := by
  unfold pageGate
  cases wr <;> simp [ht]

@[simp] theorem now_spdGate (s : State) (p : Port) (c : Nat)  : (spdGate s p c).1.now = s.now := by
  unfold spdGate
  try dsimp only
  repeat' split
  all_goals first | (simp; done) | rfl

@[simp] theorem now_gated (g : State × Bool) (f : State → State) {t : Nat} (hf : ∀ s, t ≤ s.now → t ≤ (f s).now) (ht : t ≤ g.1.now) : t ≤ (gated g f).now := by
  unfold gated
  split
  · exact hf g.1 ht
  · exact ht

@[simp] theorem now_coreWrite (s : State) (p : Port) (c : CoreId) (i : Fin 14) (off : Nat) (f : State → State) {t : Nat} (hf : ∀ s, t ≤ s.now → t ≤ (f s).now) (ht : t ≤ s.now) :
    t ≤ (coreWrite s p c i off f).now := by
  unfold coreWrite
  refine now_gated _ _ (fun s h => ?_) (now_pageGate s p _ off true ht)
  split <;> simp [hf s h]

@[simp] theorem now_openHead (s : State) (c : Nat) (q : QueueId) (e : Fetched) (take : Bool) (skip : Nat) (prep : Core → Nat → Core × Flight)  {tm : Nat} (ht : tm ≤ s.now) : tm ≤ (openHead s c q e take skip prep).now := by
  unfold openHead
  try dsimp only
  repeat' split
  all_goals first | (simp [ht]; done) | exact ht

@[simp] theorem now_issueDead (s : State) (c : Nat) (q : QueueId) (e : Fetched) (raw : List Byte) (err : Fail)  {tm : Nat} (ht : tm ≤ s.now) : tm ≤ (issueDead s c q e raw err).now := by
  unfold issueDead
  try dsimp only
  repeat' split
  all_goals first | (simp [ht]; done) | exact ht

@[simp] theorem now_issuePlan (s : State) (c : Nat) (q : QueueId) (e : Fetched) (raw : List Byte) (p : Plan)  {tm : Nat} (ht : tm ≤ s.now) : tm ≤ (issuePlan s c q e raw p).now := by
  unfold issuePlan
  try dsimp only
  repeat' split
  all_goals first | (simp [ht]; done) | exact ht

@[simp] theorem now_issueFallback (s : State) (c : Nat) (q : QueueId) (op : Nat) (b : Fallback) (plan : Core → List LoopFrame → List Byte → Fetched → Plan)  {tm : Nat} (ht : tm ≤ s.now) : tm ≤ (issueFallback s c q op b plan).now := by
  unfold issueFallback
  try dsimp only
  repeat' split
  all_goals first | (simp [ht]; done) | exact ht

@[simp] theorem now_issueOp (s : State) (c : Nat) (q : QueueId) (op : Nat) (plan : Core → List LoopFrame → List Byte → Fetched → Plan)  {tm : Nat} (ht : tm ≤ s.now) : tm ≤ (issueOp s c q op plan).now := by
  unfold issueOp
  try dsimp only
  repeat' split
  all_goals first | (simp [ht]; done) | exact ht

@[simp] theorem now_underflows (s : State) (c n : Nat) : (underflows s c n).now = s.now := by
  induction n generalizing s with
  | zero => rfl
  | succ n ih =>
    unfold underflows
    rw [ih]
    simp

@[simp] theorem now_completeFlight (s : State) (c : Nat) (q : QueueId) (f : Flight) (orig : Option Flight)  : (completeFlight s c q f orig).now = s.now := by
  unfold completeFlight
  try dsimp only
  repeat' split
  all_goals first | (simp; done) | rfl

@[simp] theorem now_completeOldest (s : State) (c : Nat) (q : QueueId) (null : Bool)  {tm : Nat} (ht : tm ≤ s.now) : tm ≤ (completeOldest s c q null).now := by
  unfold completeOldest
  try dsimp only
  repeat' split
  all_goals first | (simp [ht]; done) | exact ht

@[simp] theorem now_haltQueue (s : State) (c : Nat) (q : QueueId) (code : Nat)  : (haltQueue s c q code).now = s.now := by
  unfold haltQueue
  try dsimp only
  repeat' split
  all_goals first | (simp; done) | rfl

@[simp] theorem now_abortTags (s : State) (c : Nat) (fs : List Flight)  : (abortTags s c fs).now = s.now := by
  unfold abortTags
  try dsimp only
  repeat' split
  all_goals first | (simp; done) | rfl

@[simp] theorem now_failOldest (s0 : State) (c : Nat) (q : QueueId) {tm : Nat} (ht : tm ≤ s0.now) : tm ≤ (failOldest s0 c q).now := by
  unfold failOldest
  try dsimp only
  repeat' split
  all_goals first | (simp [ht]; done) | exact ht

@[simp] theorem now_settleHead (s : State) (c : Nat) (q : QueueId)  : (settleHead s c q).now = s.now := by
  unfold settleHead
  try dsimp only
  repeat' split
  all_goals first | (simp; done) | rfl

@[simp] theorem now_bellWrite (s : State) (p : Port) (c : CoreId) (q : QueueId) (t : Nat)  {tm : Nat} (ht : tm ≤ s.now) : tm ≤ (bellWrite s p c q t).now := by
  unfold bellWrite
  try dsimp only
  repeat' split
  all_goals first | (simp [ht]; done) | exact ht

@[simp] theorem now_storeFetch (s : State) (c : Nat) (q : QueueId) (i : Nat) (d : List Byte)  : (storeFetch s c q i d).now = s.now := by
  unfold storeFetch
  try dsimp only
  repeat' split
  all_goals first | (simp; done) | rfl

@[simp] theorem now_storeFallback (s : State) (c : Nat) (q : QueueId) (b : Fallback) (d : List Byte)  : (storeFallback s c q b d).now = s.now := by
  unfold storeFallback
  try dsimp only
  repeat' split
  all_goals first | (simp; done) | rfl

@[simp] theorem now_fetchFault (s : State) (c : Nat) (q : QueueId) (i : Nat)  : (fetchFault s c q i).now = s.now := by
  unfold fetchFault
  try dsimp only
  repeat' split
  all_goals first | (simp; done) | rfl

@[simp] theorem now_takeFetch (s : State) (c : Nat) (q : QueueId) (kind : FetchKind) (d : Option (List Byte))  : (takeFetch s c q kind d).now = s.now := by
  unfold takeFetch
  try dsimp only
  repeat' split
  all_goals first | (simp; done) | rfl

@[simp] theorem now_issueControl (s : State) (c : Nat) (q : QueueId) (e : Fetched) (regs : List RegWrite)  {tm : Nat} (ht : tm ≤ s.now) : tm ≤ (issueControl s c q e regs).now := by
  unfold issueControl
  try dsimp only
  repeat' split
  all_goals first | (simp [ht]; done) | exact ht

@[simp] theorem now_issueStray (s : State) (c : Nat) (q : QueueId) (sel : Nat → Bool) (b : Fallback)  {tm : Nat} (ht : tm ≤ s.now) : tm ≤ (issueStray s c q sel b).now := by
  unfold issueStray
  try dsimp only
  repeat' split
  all_goals first | (simp [ht]; done) | exact ht

@[simp] theorem now_controlOp (s : State) (c : Nat) (q : QueueId) (op : Nat) (f : Fetched → State) {t : Nat} (h : ∀ e, t ≤ (f e).now) (ht : t ≤ s.now) : t ≤ (controlOp s c q op f).now := by
  unfold controlOp
  repeat' split
  all_goals first | exact h _ | exact ht | simp [ht]

@[simp] theorem now_startLoop (s : State) (c : Nat) (q : QueueId) (e : Fetched)  {tm : Nat} (ht : tm ≤ s.now) : tm ≤ (startLoop s c q e).now := by
  unfold startLoop
  try dsimp only
  repeat' split
  all_goals first | (simp [ht]; done) | exact ht

@[simp] theorem now_issueLoop (s : State) (c : Nat) (q : QueueId) (e : Fetched)  {tm : Nat} (ht : tm ≤ s.now) : tm ≤ (issueLoop s c q e).now := by
  unfold issueLoop
  try dsimp only
  repeat' split
  all_goals first | (simp [ht]; done) | exact ht

@[simp] theorem now_fireEscalates (s : State) (c : Nat) (q : QueueId) (b : Fallback) (chains : List Flight)  : (fireEscalates s c q b chains).now = s.now := by
  unfold fireEscalates
  try dsimp only
  repeat' split
  all_goals first | (simp; done) | rfl

@[simp] theorem now_clipFire (s : State) (c : Nat) (q : QueueId) (f : Flight) (later : List Flight)  : (clipFire s c q f later).now = s.now := by
  unfold clipFire
  try dsimp only
  repeat' split
  all_goals first | (simp; done) | rfl

@[simp] theorem now_ctlWrite (s : State) (p : Port) (c : CoreId) (q : QueueId) (f : Core → Core)  {tm : Nat} (ht : tm ≤ s.now) : tm ≤ (ctlWrite s p c q f).now := by
  unfold ctlWrite
  exact now_coreWrite _ _ _ _ _ _ (fun s h => by simp [h]) ht

@[simp] theorem now_flushQueue (s : State) (c : Nat) (q : QueueId)  : (flushQueue s c q).now = s.now := by
  unfold flushQueue
  try dsimp only
  repeat' split
  all_goals first | (simp; done) | rfl

@[simp] theorem now_send (s : State) (f : Flit)  : (send s f).now = s.now := by
  unfold send
  try dsimp only
  repeat' split
  all_goals first | (simp; done) | rfl

@[simp] theorem now_sendTree (s : State) (f : Flit) (ms : List Nat)  : (sendTree s f ms).now = s.now := by
  unfold sendTree
  try dsimp only
  repeat' split
  all_goals first | (simp; done) | rfl

@[simp] theorem now_modFlit (s : State) (id : Nat) (f : Flit → Flit)  : (modFlit s id f).now = s.now := by
  unfold modFlit
  try dsimp only
  repeat' split
  all_goals first | (simp; done) | rfl

@[simp] theorem now_leaveRouter (s : State) (r : Option (Nat × Nat))  : (leaveRouter s r).now = s.now := by
  unfold leaveRouter
  try dsimp only
  repeat' split
  all_goals first | (simp; done) | rfl

@[simp] theorem now_useLink (s : State) (r : Nat × Nat) (p vc : Nat)  {tm : Nat} (ht : tm ≤ s.now) : tm ≤ (useLink s r p vc).now := by
  unfold useLink
  try dsimp only
  repeat' split
  all_goals first | (simp [ht]; done) | exact ht

@[simp] theorem now_enterRouter (s : State) (f : Flit) (r : Nat × Nat) (p : Nat) (rest : List (Nat × Nat))  : (enterRouter s f r p rest).now = s.now := by
  unfold enterRouter
  try dsimp only
  repeat' split
  all_goals first | (simp; done) | rfl

@[simp] theorem now_leaveChip (s : State) (f : Flit) (r : Nat × Nat)  : (leaveChip s f r).now = s.now := by
  unfold leaveChip
  try dsimp only
  repeat' split
  all_goals first | (simp; done) | rfl

@[simp] theorem now_hopUnicast (s : State) (f : Flit) (r : Nat × Nat) (p : Nat) (rest : List (Nat × Nat))  : (hopUnicast s f r p rest).now = s.now := by
  unfold hopUnicast
  try dsimp only
  repeat' split
  all_goals first | (simp; done) | rfl

@[simp] theorem now_remainTree (s : State) (f : Flit) (ms : List Nat)  : (remainTree s f ms).now = s.now := by
  unfold remainTree
  try dsimp only
  repeat' split
  all_goals first | (simp; done) | rfl

@[simp] theorem now_hopTree (s : State) (f : Flit) (r : Nat × Nat) (p : Nat)  : (hopTree s f r p).now = s.now := by
  unfold hopTree
  try dsimp only
  repeat' split
  all_goals first | (simp; done) | rfl

@[simp] theorem now_portStore (s : State) (c off : Nat) (data : List Byte)  : (portStore s c off data).now = s.now := by
  unfold portStore
  try dsimp only
  repeat' split
  all_goals first | (simp; done) | rfl

@[simp] theorem now_arrRefusal (s : State) (c code : Nat) (w : Option Nat)  : (arrRefusal s c code w).now = s.now := by
  unfold arrRefusal
  try dsimp only
  repeat' split
  all_goals first | (simp; done) | rfl

@[simp] theorem now_answerFlit (s : State) (f : Flit) (vc code : Nat)  : (answerFlit s f vc code).now = s.now := by
  unfold answerFlit
  try dsimp only
  repeat' split
  all_goals first | (simp; done) | rfl

@[simp] theorem now_startTagCmd (s : State) (c op count first last : Nat)  : (startTagCmd s c op count first last).now = s.now := by
  unfold startTagCmd
  try dsimp only
  repeat' split
  all_goals first | (simp; done) | rfl

@[simp] theorem now_issueStream (s : State) (c : Nat) (e : Fetched) (p : SkPlan)  {tm : Nat} (ht : tm ≤ s.now) : tm ≤ (issueStream s c e p).now := by
  unfold issueStream
  try dsimp only
  repeat' split
  all_goals first | (simp [ht]; done) | exact ht

@[simp] theorem now_askPage (s : State) (c va : Nat) (wr : Bool)  : (askPage s c va wr).now = s.now := by
  unfold askPage
  try dsimp only
  repeat' split
  all_goals first | (simp; done) | rfl

@[simp] theorem now_sendSave (s : State) (c : Nat) (v : Save) (t : Trans)  : (sendSave s c v t).now = s.now := by
  unfold sendSave
  try dsimp only
  repeat' split
  all_goals first | (simp; done) | rfl

@[simp] theorem now_saveCtx (s : State) (c : Nat) (st : Stream) (state code : Nat)  : (saveCtx s c st state code).now = s.now := by
  unfold saveCtx
  try dsimp only
  repeat' split
  all_goals first | (simp; done) | rfl

@[simp] theorem now_settleSaves (s : State) (c page : Nat) (t : Option Trans)  : (settleSaves s c page t).now = s.now := by
  unfold settleSaves
  try dsimp only
  repeat' split
  all_goals first | (simp; done) | rfl

@[simp] theorem now_sendFetch (s : State) (c : Nat) (f : Fetch) (pa : Nat)  : (sendFetch s c f pa).now = s.now := by
  unfold sendFetch
  try dsimp only
  repeat' split
  all_goals first | (simp; done) | rfl

@[simp] theorem now_sendRemote (s : State) (c : Nat) (st : Stream) (t : Target) (kind : FlitKind) (h : RemoteHdr) (data : List Byte)  : (sendRemote s c st t kind h data).now = s.now := by
  unfold sendRemote
  try dsimp only
  repeat' split
  all_goals first | (simp; done) | rfl

@[simp] theorem now_sendArrivals (s : State) (c : Nat) (st : Stream) (kind : FlitKind) (off : Nat) (data : List Byte) (start : Bool)  : (sendArrivals s c st kind off data start).now = s.now := by
  unfold sendArrivals
  try dsimp only
  repeat' split
  all_goals first | (simp; done) | rfl

@[simp] theorem now_injectGo (s : State) (c : Nat) (st : Stream) (i mem sp n : Nat)  : (injectGo s c st i mem sp n).now = s.now := by
  unfold injectGo
  try dsimp only
  repeat' split
  all_goals first | (simp; done) | rfl

@[simp] theorem now_injectBlock (s : State) (c : Nat) (st : Stream) (off : Nat) (data : List Byte)  : (injectBlock s c st off data).now = s.now := by
  unfold injectBlock
  try dsimp only
  repeat' split
  all_goals first | (simp; done) | rfl

@[simp] theorem now_spdParity (s : State) (c w : Nat)  : (spdParity s c w).now = s.now := by
  unfold spdParity
  try dsimp only
  repeat' split
  all_goals first | (simp; done) | rfl

@[simp] theorem now_meetHalt (s : State) (c : Nat) (st : Stream) (h : Halting)  : (meetHalt s c st h).now = s.now := by
  unfold meetHalt
  try dsimp only
  repeat' split
  all_goals first | (simp; done) | rfl

@[simp] theorem now_moveFirst (s : State) (c : Nat) (st : Stream) (a : Next) : (moveFirst s c st a).now = s.now := by
  cases a <;> simp [moveFirst]

/-- The time of the state that an optional change leaves. -/
theorem now_map_getD {α : Type} (o : Option α) (f : α → State) (s : State) {t : Nat} (ht : t ≤ s.now) (h : ∀ a, t ≤ (f a).now) : t ≤ ((o.map f).getD s).now := by
  cases o
  · exact ht
  · exact h _

@[simp] theorem now_skidderMove (s : State) (c : Nat) {t : Nat} (ht : t ≤ s.now) : t ≤ (skidderMove s c).now := by
  unfold skidderMove
  dsimp only
  rw [now_modCore]
  repeat' split
  all_goals first | exact ht | (simp [ht]; done) | exact now_map_getD _ _ _ ht fun st => by simp [ht]

@[simp] theorem now_cacheTrans (s : State) (c : Nat) (t : Trans)  : (cacheTrans s c t).now = s.now := by
  unfold cacheTrans
  try dsimp only
  repeat' split
  all_goals first | (simp; done) | rfl

@[simp] theorem now_sendMarker (s : State) (c : Nat) (st : Stream) (slot : Nat) (start : Bool)  : (sendMarker s c st slot start).now = s.now := by
  unfold sendMarker
  try dsimp only
  repeat' split
  all_goals first | (simp; done) | rfl

@[simp] theorem now_respStream (s : State) (c ctx seq : Nat) (bs : List Byte)  : (respStream s c ctx seq bs).now = s.now := by
  unfold respStream
  try dsimp only
  repeat' split
  all_goals first | (simp; done) | rfl

@[simp] theorem now_respFetch (s : State) (c n : Nat) (bs : List Byte)  : (respFetch s c n bs).now = s.now := by
  unfold respFetch
  try dsimp only
  repeat' split
  all_goals first | (simp; done) | rfl

@[simp] theorem now_ackStream (s : State) (c ctx seq : Nat)  : (ackStream s c ctx seq).now = s.now := by
  unfold ackStream
  try dsimp only
  repeat' split
  all_goals first | (simp; done) | rfl

@[simp] theorem now_nackStream (s : State) (c ctx seq code lo : Nat)  : (nackStream s c ctx seq code lo).now = s.now := by
  unfold nackStream
  try dsimp only
  repeat' split
  all_goals first | (simp; done) | rfl

@[simp] theorem now_lostStream (s : State) (c ctx seq pa : Nat)  : (lostStream s c ctx seq pa).now = s.now := by
  unfold lostStream
  try dsimp only
  repeat' split
  all_goals first | (simp; done) | rfl

@[simp] theorem now_lostFetch (s : State) (c n : Nat)  : (lostFetch s c n).now = s.now := by
  unfold lostFetch
  try dsimp only
  repeat' split
  all_goals first | (simp; done) | rfl

@[simp] theorem now_endStream (s : State) (c : Nat) (st : Stream)  : (endStream s c st).now = s.now := by
  unfold endStream
  try dsimp only
  repeat' split
  all_goals first | (simp; done) | rfl

@[simp] theorem now_sendCmd (s : State) (c : Nat) (dst : Node) (h : WinCmd) (body : List Byte)  : (sendCmd s c dst h body).now = s.now := by
  unfold sendCmd
  try dsimp only
  repeat' split
  all_goals first | (simp; done) | rfl

@[simp] theorem now_awaitAnswer (s : State) (c : Nat) (chip : Word) (d ctx : Nat)  : (awaitAnswer s c chip d ctx).now = s.now := by
  unfold awaitAnswer
  try dsimp only
  repeat' split
  all_goals first | (simp; done) | rfl

@[simp] theorem now_sendReports (s : State) (c : Nat) (st : Stream)  : (sendReports s c st).now = s.now := by
  unfold sendReports
  try dsimp only
  repeat' split
  all_goals first | (simp; done) | rfl

@[simp] theorem now_freeStream (s : State) (c : Nat) (st : Stream)  {tm : Nat} (ht : tm ≤ s.now) : tm ≤ (freeStream s c st).now := by
  unfold freeStream
  try dsimp only
  repeat' split
  all_goals first | (simp [ht]; done) | exact ht

@[simp] theorem now_finishAbort (s : State) (c : Nat) (st : Stream)  {tm : Nat} (ht : tm ≤ s.now) : tm ≤ (finishAbort s c st).now := by
  unfold finishAbort
  try dsimp only
  repeat' split
  all_goals first | (simp [ht]; done) | exact ht

@[simp] theorem now_goAbort (s : State) (c : Nat) (st : Stream)  {tm : Nat} (ht : tm ≤ s.now) : tm ≤ (goAbort s c st).now := by
  unfold goAbort
  try dsimp only
  repeat' split
  all_goals first | (simp [ht]; done) | exact ht

@[simp] theorem now_parityHalted (s : State) (c : Nat) (st : Stream) (w : Nat)  : (parityHalted s c st w).now = s.now := by
  unfold parityHalted
  try dsimp only
  repeat' split
  all_goals first | (simp; done) | rfl

@[simp] theorem now_takeHalt (s : State) (c : Nat) (st : Stream) (h : Halting)  : (takeHalt s c st h).now = s.now := by
  unfold takeHalt
  try dsimp only
  repeat' split
  all_goals first | (simp; done) | rfl

@[simp] theorem now_goHalt (s : State) (c : Nat) (st : Stream) (h : Halting)  : (goHalt s c st h).now = s.now := by
  unfold goHalt
  try dsimp only
  repeat' split
  all_goals first | (simp; done) | rfl

@[simp] theorem now_resumeStream (s : State) (c : Nat) (st : Stream)  : (resumeStream s c st).now = s.now := by
  unfold resumeStream
  try dsimp only
  repeat' split
  all_goals first | (simp; done) | rfl

@[simp] theorem now_ctxResume (s : State) (c ctx : Nat)  : (ctxResume s c ctx).now = s.now := by
  unfold ctxResume
  try dsimp only
  repeat' split
  all_goals first | (simp; done) | rfl

@[simp] theorem now_ctxFree (s : State) (c ctx : Nat)  {tm : Nat} (ht : tm ≤ s.now) : tm ≤ (ctxFree s c ctx).now := by
  unfold ctxFree
  try dsimp only
  repeat' split
  all_goals first | (simp [ht]; done) | exact ht

@[simp] theorem now_ctxCommand (s : State) (c : Nat) (w : Nat)  {tm : Nat} (ht : tm ≤ s.now) : tm ≤ (ctxCommand s c w).now := by
  unfold ctxCommand
  try dsimp only
  repeat' split
  all_goals first | (simp [ht]; done) | exact ht

@[simp] theorem now_afterRefetch (s : State) (c n : Nat) (ok : Bool)  : (afterRefetch s c n ok).now = s.now := by
  unfold afterRefetch
  try dsimp only
  repeat' split
  all_goals first | (simp; done) | rfl

@[simp] theorem now_modYard (s : State) (p : Nat) (f : Yard → Yard)  : (modYard s p f).now = s.now := by
  unfold modYard
  try dsimp only
  repeat' split
  all_goals first | (simp; done) | rfl

@[simp] theorem now_writeBack (s : State) (p : Nat) (g : Option Line)  : (writeBack s p g).now = s.now := by
  unfold writeBack
  try dsimp only
  repeat' split
  all_goals first | (simp; done) | rfl

@[simp] theorem now_allocIn (s : State) (p : Nat) (l : Line) (mru : Bool)  : (allocIn s p l mru).now = s.now := by
  unfold allocIn
  try dsimp only
  repeat' split
  all_goals first | (simp; done) | rfl

@[simp] theorem now_answerYard (s : State) (f : Flit) (line : List Byte)  : (answerYard s f line).now = s.now := by
  unfold answerYard
  try dsimp only
  repeat' split
  all_goals first | (simp; done) | rfl

@[simp] theorem now_waitMemory (s : State) (p : Nat) (f : Flit)  : (waitMemory s p f).now = s.now := by
  unfold waitMemory
  try dsimp only
  repeat' split
  all_goals first | (simp; done) | rfl

@[simp] theorem now_loseLine (s : State) (p num : Nat)  : (loseLine s p num).now = s.now := by
  unfold loseLine
  try dsimp only
  repeat' split
  all_goals first | (simp; done) | rfl

@[simp] theorem now_checkLine (s : State) (p : Nat) (f : Flit) (l : Line) (ecc : EccResult) : (checkLine s p f l ecc).1.now = s.now := by
  unfold checkLine
  repeat' split
  all_goals first | (simp; done) | rfl

/-- The time after a check of a line. -/
theorem now_of_checkLine {s s1 : State} {p : Nat} {f : Flit} {l : Line} {ecc : EccResult} {x : Option Line} (h : checkLine s p f l ecc = (s1, x)) : s1.now = s.now := by
  rw [← now_checkLine s p f l ecc, h]

@[simp] theorem now_countRead (s : State) (f : Flit) (hit : Bool)  : (countRead s f hit).now = s.now := by
  unfold countRead
  try dsimp only
  repeat' split
  all_goals first | (simp; done) | rfl

@[simp] theorem now_yardRead (s : State) (p : Nat) (f : Flit) (ecc : EccResult)  {tm : Nat} (ht : tm ≤ s.now) : tm ≤ (yardRead s p f ecc).now := by
  unfold yardRead
  dsimp only
  repeat' split
  all_goals first | (simp [ht]; done) | exact ht | (rename_i h _; simp [now_of_checkLine h, ht]) | (rename_i h; simp [now_of_checkLine h, ht])

@[simp] theorem now_yardWrite (s : State) (p : Nat) (f : Flit) (ecc : EccResult)  {tm : Nat} (ht : tm ≤ s.now) : tm ≤ (yardWrite s p f ecc).now := by
  unfold yardWrite
  dsimp only
  repeat' split
  all_goals first | (simp [ht]; done) | exact ht | (rename_i h _; simp [now_of_checkLine h, ht]) | (rename_i h; simp [now_of_checkLine h, ht])

@[simp] theorem now_serveWaiting (p num : Nat) (data : List Byte) (s : State) (f : Flit)  : (serveWaiting p num data s f).now = s.now := by
  unfold serveWaiting
  try dsimp only
  repeat' split
  all_goals first | (simp; done) | rfl

@[simp] theorem now_openWin (s : State) (c n : Nat) (setep : Bool) (ep : Nat)  : (openWin s c n setep ep).now = s.now := by
  unfold openWin
  try dsimp only
  repeat' split
  all_goals first | (simp; done) | rfl

@[simp] theorem now_closeAt (s : State) (c n : Nat)  {tm : Nat} (ht : tm ≤ s.now) : tm ≤ (closeAt s c n).now := by
  unfold closeAt
  try dsimp only
  repeat' split
  all_goals first | (simp [ht]; done) | exact ht

@[simp] theorem now_answerRemote (s : State) (c : Nat) (v : Via) (h : RemoteHdr) (kind code : Nat) (data : List Byte)  : (answerRemote s c v h kind code data).now = s.now := by
  unfold answerRemote
  try dsimp only
  repeat' split
  all_goals first | (simp; done) | rfl

@[simp] theorem now_refuseRemote (s : State) (c : Nat) (v : Via) (h : RemoteHdr) (counter code : Nat)  : (refuseRemote s c v h counter code).now = s.now := by
  unfold refuseRemote
  try dsimp only
  repeat' split
  all_goals first | (simp; done) | rfl

@[simp] theorem now_acceptRemote (s : State) (c : Nat) (v : Via) (h : RemoteHdr) (data : List Byte)  : (acceptRemote s c v h data).now = s.now := by
  unfold acceptRemote
  try dsimp only
  repeat' split
  all_goals first | (simp; done) | rfl

@[simp] theorem now_windowStore (s : State) (c : Nat) (v : Via) (h : RemoteHdr) (data : List Byte)  : (windowStore s c v h data).now = s.now := by
  unfold windowStore
  try dsimp only
  repeat' split
  all_goals first | (simp; done) | rfl

@[simp] theorem now_windowWrite (s : State) (c : Nat) (v : Via) (h : RemoteHdr) (data : List Byte)  {tm : Nat} (ht : tm ≤ s.now) : tm ≤ (windowWrite s c v h data).now := by
  unfold windowWrite
  try dsimp only
  repeat' split
  all_goals first | (simp [ht]; done) | exact ht

@[simp] theorem now_windowRead (s : State) (c : Nat) (v : Via) (h : RemoteHdr)  : (windowRead s c v h).now = s.now := by
  unfold windowRead
  try dsimp only
  repeat' split
  all_goals first | (simp; done) | rfl

@[simp] theorem now_windowFlit (s : State) (v : Via) (h : RemoteHdr) (data : List Byte)  {tm : Nat} (ht : tm ≤ s.now) : tm ≤ (windowFlit s v h data).now := by
  unfold windowFlit
  try dsimp only
  repeat' split
  all_goals first | (simp [ht]; done) | exact ht

@[simp] theorem now_remoteAnswer (s : State) (h : RemoteHdr) (data : List Byte)  : (remoteAnswer s h data).now = s.now := by
  unfold remoteAnswer
  try dsimp only
  repeat' split
  all_goals first | (simp; done) | rfl

@[simp] theorem now_remoteFlit (s : State) (v : Via) (h : RemoteHdr) (data : List Byte)  {tm : Nat} (ht : tm ≤ s.now) : tm ≤ (remoteFlit s v h data).now := by
  unfold remoteFlit
  try dsimp only
  repeat' split
  all_goals first | (simp [ht]; done) | exact ht

@[simp] theorem now_answerCmd (s : State) (v : Via) (h : WinCmd) (body : List Byte) (code : Nat)  : (answerCmd s v h body code).now = s.now := by
  unfold answerCmd
  try dsimp only
  repeat' split
  all_goals first | (simp; done) | rfl

@[simp] theorem now_cmdEnter (s : State) (h : WinCmd) (i : Fin 14)  {tm : Nat} (ht : tm ≤ s.now) : tm ≤ (cmdEnter s h i).now := by
  unfold cmdEnter
  try dsimp only
  repeat' split
  all_goals first | (simp [ht]; done) | exact ht

@[simp] theorem now_refuseCmd (s : State) (v : Via) (h : WinCmd) (body : List Byte)  : (refuseCmd s v h body).now = s.now := by
  unfold refuseCmd
  try dsimp only
  repeat' split
  all_goals first | (simp; done) | rfl

@[simp] theorem now_answerChip (s : State) (src : ChipId) (body : List Byte) (code : Nat)  : (answerChip s src body code).now = s.now := by
  unfold answerChip
  try dsimp only
  repeat' split
  all_goals first | (simp; done) | rfl

@[simp] theorem now_refuseChip (s : State) (src : ChipId) (body : List Byte)  : (refuseChip s src body).now = s.now := by
  unfold refuseChip
  try dsimp only
  repeat' split
  all_goals first | (simp; done) | rfl

@[simp] theorem now_applyReport (s : State) (h : WinCmd) (ctx : Nat)  {tm : Nat} (ht : tm ≤ s.now) : tm ≤ (applyReport s h ctx).now := by
  unfold applyReport
  try dsimp only
  repeat' split
  all_goals first | (simp [ht]; done) | exact ht

@[simp] theorem now_meetReport (s : State) (h : WinCmd) (direct : Bool) (ctx : Nat)  {tm : Nat} (ht : tm ≤ s.now) : tm ≤ (meetReport s h direct ctx).1.now := by
  unfold meetReport
  try dsimp only
  repeat' split
  all_goals first | (simp [ht]; done) | exact ht

@[simp] theorem now_takeReport (v : Via) (h : WinCmd) (body : List Byte) (s : State)  {tm : Nat} (ht : tm ≤ s.now) : tm ≤ (takeReport v h body s).now := by
  unfold takeReport
  dsimp only
  repeat' split
  all_goals first | (simp [ht]; done) | exact now_meetReport _ _ _ _ ht

@[simp] theorem now_coreAnswer (v : Via) (h : WinCmd) (body : List Byte) (s : State) : (coreAnswer v h body s).now = s.now := by
  unfold coreAnswer
  try dsimp only
  repeat' split
  all_goals first | (simp; done) | rfl

@[simp] theorem now_coreRefuses (v : Via) (h : WinCmd) (body : List Byte) (s : State)  {tm : Nat} (ht : tm ≤ s.now) : tm ≤ (coreRefuses v h body s).now := by
  unfold coreRefuses
  try dsimp only
  repeat' split
  all_goals first | (simp [ht]; done) | exact ht

@[simp] theorem now_startGvop (s : State) (c : Nat)  : (startGvop s c).now = s.now := by
  unfold startGvop
  try dsimp only
  repeat' split
  all_goals first | (simp; done) | rfl

@[simp] theorem now_haltedGvop (s : State) (c : Nat)  {tm : Nat} (ht : tm ≤ s.now) : tm ≤ (haltedGvop s c).now := by
  unfold haltedGvop
  try dsimp only
  repeat' split
  all_goals first | (simp [ht]; done) | exact ht

@[simp] theorem now_sendBeat (s : State) (c : Nat) (o : PortOp)  : (sendBeat s c o).now = s.now := by
  unfold sendBeat
  try dsimp only
  repeat' split
  all_goals first | (simp; done) | rfl

@[simp] theorem now_atEdge (s : State) (c t : Nat)  {tm : Nat} (ht : tm ≤ s.now) : tm ≤ (atEdge s c t).now := by
  unfold atEdge
  try dsimp only
  repeat' split
  all_goals first | (simp [ht]; done) | exact ht

@[simp] theorem now_withCredit (s : State) (c : Nat)  {tm : Nat} (ht : tm ≤ s.now) : tm ≤ (withCredit s c).now := by
  unfold withCredit
  try dsimp only
  repeat' split
  all_goals first | (simp [ht]; done) | exact ht

@[simp] theorem now_takeOut (s : State) (c tag : Nat) (beat : OutBeat)  {tm : Nat} (ht : tm ≤ s.now) : tm ≤ (takeOut s c tag beat).now := by
  unfold takeOut
  simp only [now_modCore]
  exact now_withCredit _ _ (now_atEdge _ _ _ ht)

@[simp] theorem now_outWritten (s : State) (c tag : Nat)  {tm : Nat} (ht : tm ≤ s.now) : tm ≤ (outWritten s c tag).now := by
  unfold outWritten
  try dsimp only
  repeat' split
  all_goals first | (simp [ht]; done) | exact ht

@[simp] theorem now_modBank (s : State) (b : Nat) (f : Bank → Bank)  : (modBank s b f).now = s.now := by
  unfold modBank
  try dsimp only
  repeat' split
  all_goals first | (simp; done) | rfl

@[simp] theorem now_modPin (s : State) (p : Nat) (f : Pin → Pin)  : (modPin s p f).now = s.now := by
  unfold modPin
  try dsimp only
  repeat' split
  all_goals first | (simp; done) | rfl

@[simp] theorem now_fioBump (s : State) (n : Nat)  : (fioBump s n).now = s.now := by
  unfold fioBump
  try dsimp only
  repeat' split
  all_goals first | (simp; done) | rfl

@[simp] theorem now_storm (s : State) (p : Nat) (stuck : Bool)  : (storm s p stuck).now = s.now := by
  unfold storm
  try dsimp only
  repeat' split
  all_goals first | (simp; done) | rfl

@[simp] theorem now_suppress (s : State) (p : Nat)  : (suppress s p).now = s.now := by
  unfold suppress
  try dsimp only
  repeat' split
  all_goals first | (simp; done) | rfl

@[simp] theorem now_acceptEvent (s : State) (p time : Nat)  : (acceptEvent s p time).now = s.now := by
  unfold acceptEvent
  try dsimp only
  repeat' split
  all_goals first | (simp; done) | rfl

@[simp] theorem now_capture (s : State) (p time : Nat)  : (capture s p time).now = s.now := by
  unfold capture
  try dsimp only
  repeat' split
  all_goals first | (simp; done) | rfl

@[simp] theorem now_beforeEvents (s : State) (p : Nat)  {tm : Nat} (ht : tm ≤ s.now) : tm ≤ (beforeEvents s p).now := by
  unfold beforeEvents
  try dsimp only
  repeat' split
  all_goals first | (simp [ht]; done) | exact ht

@[simp] theorem now_rearm (s0 : State) (p : Nat)  {tm : Nat} (ht : tm ≤ s0.now) : tm ≤ (rearm s0 p).now := by
  unfold rearm
  try dsimp only
  repeat' split
  all_goals first | (simp [ht]; done) | exact ht

@[simp] theorem now_modSwap (s : State) (t : Nat) (f : Swap → Swap)  : (modSwap s t f).now = s.now := by
  unfold modSwap
  try dsimp only
  repeat' split
  all_goals first | (simp; done) | rfl

@[simp] theorem now_dropSwap (s : State) (t : Nat)  : (dropSwap s t).now = s.now := by
  unfold dropSwap
  try dsimp only
  repeat' split
  all_goals first | (simp; done) | rfl

@[simp] theorem now_swapEvent (s : State) (t : Nat)  : (swapEvent s t).now = s.now := by
  unfold swapEvent
  try dsimp only
  repeat' split
  all_goals first | (simp; done) | rfl

@[simp] theorem now_ownTake (s : State) (c : Nat) (v : Word)  : (ownTake s c v).now = s.now := by
  unfold ownTake
  try dsimp only
  repeat' split
  all_goals first | (simp; done) | rfl

@[simp] theorem now_ownWrite (s : State) (c : Nat) (v : Word)  : (ownWrite s c v).now = s.now := by
  unfold ownWrite
  try dsimp only
  repeat' split
  all_goals first | (simp; done) | rfl

@[simp] theorem now_takeDeferred (s : State) (t : Nat) (sel : Nat → Bool)  : (takeDeferred s t sel).now = s.now := by
  unfold takeDeferred
  try dsimp only
  repeat' split
  all_goals first | (simp; done) | rfl

@[simp] theorem now_beginSwap (s : State) (t : Nat) (job : Option Job) (gen : Nat)  : (beginSwap s t job gen).now = s.now := by
  unfold beginSwap
  try dsimp only
  repeat' split
  all_goals first | (simp; done) | rfl

@[simp] theorem now_sendSwapat (s : State) (t : Nat)  : (sendSwapat s t).now = s.now := by
  unfold sendSwapat
  try dsimp only
  repeat' split
  all_goals first | (simp; done) | rfl

@[simp] theorem now_abortSwap (s : State) (t : Nat)  : (abortSwap s t).now = s.now := by
  unfold abortSwap
  try dsimp only
  repeat' split
  all_goals first | (simp; done) | rfl

@[simp] theorem now_toChips (s : State) (j : Job) (op gen : Nat)  : (toChips s j op gen).now = s.now := by
  unfold toChips
  try dsimp only
  repeat' split
  all_goals first | (simp; done) | rfl

@[simp] theorem now_toHead (s : State) (j : Job) (op gen : Nat)  : (toHead s j op gen).now = s.now := by
  unfold toHead
  try dsimp only
  repeat' split
  all_goals first | (simp; done) | rfl

@[simp] theorem now_takeDone (s : State) (job chip : Word) (gen : Nat)  : (takeDone s job chip gen).now = s.now := by
  unfold takeDone
  try dsimp only
  repeat' split
  all_goals first | (simp; done) | rfl

@[simp] theorem now_answerDone (s : State) (j : Job) (gen : Nat)  : (answerDone s j gen).now = s.now := by
  unfold answerDone
  try dsimp only
  repeat' split
  all_goals first | (simp; done) | rfl

@[simp] theorem now_takeCommit (s : State) (job : Word) (gen : Nat)  : (takeCommit s job gen).now = s.now := by
  unfold takeCommit
  try dsimp only
  repeat' split
  all_goals first | (simp; done) | rfl

@[simp] theorem now_takeReady (s : State) (job chip : Word) (gen : Nat)  : (takeReady s job chip gen).now = s.now := by
  unfold takeReady
  try dsimp only
  repeat' split
  all_goals first | (simp; done) | rfl

@[simp] theorem now_settleSwap (s : State) (t : Nat)  : (settleSwap s t).now = s.now := by
  unfold settleSwap
  try dsimp only
  repeat' split
  all_goals first | (simp; done) | rfl

@[simp] theorem now_takePrepare (s : State) (job : Word) (gen : Nat)  : (takePrepare s job gen).now = s.now := by
  unfold takePrepare
  try dsimp only
  repeat' split
  all_goals first | (simp; done) | rfl

@[simp] theorem now_takeAbort (s : State) (job : Word) (gen : Nat)  : (takeAbort s job gen).now = s.now := by
  unfold takeAbort
  try dsimp only
  repeat' split
  all_goals first | (simp; done) | rfl

@[simp] theorem now_startJobSwap (s : State) (job : Word)  : (startJobSwap s job).now = s.now := by
  unfold startJobSwap
  try dsimp only
  repeat' split
  all_goals first | (simp; done) | rfl

@[simp] theorem now_goChip (s : State) (c : Nat)  : (goChip s c).now = s.now := by
  unfold goChip
  try dsimp only
  repeat' split
  all_goals first | (simp; done) | rfl

@[simp] theorem now_goJob (s : State) (c : Nat)  : (goJob s c).now = s.now := by
  unfold goJob
  try dsimp only
  repeat' split
  all_goals first | (simp; done) | rfl

@[simp] theorem now_cancelSwap (s : State) (c : Nat)  : (cancelSwap s c).now = s.now := by
  unfold cancelSwap
  try dsimp only
  repeat' split
  all_goals first | (simp; done) | rfl

@[simp] theorem now_takeRelease (s : State) (job : Word) (gen : Nat)  : (takeRelease s job gen).now = s.now := by
  unfold takeRelease
  try dsimp only
  repeat' split
  all_goals first | (simp; done) | rfl

@[simp] theorem now_jobFatal (s : State)  : (jobFatal s).now = s.now := by
  unfold jobFatal
  try dsimp only
  repeat' split
  all_goals first | (simp; done) | rfl

@[simp] theorem now_writeSeed (s : State) (j : Job) (seed : Nat)  : (writeSeed s j seed).now = s.now := by
  unfold writeSeed
  try dsimp only
  repeat' split
  all_goals first | (simp; done) | rfl

@[simp] theorem now_writeEpoch (s : State) (j : Job) (v : Nat)  : (writeEpoch s j v).now = s.now := by
  unfold writeEpoch
  try dsimp only
  repeat' split
  all_goals first | (simp; done) | rfl

@[simp] theorem now_jobCommand (s : State) (c : Nat) (f : State → Job → State) {t : Nat} (hf : ∀ s j, t ≤ s.now → t ≤ (f s j).now) (ht : t ≤ s.now) : t ≤ (jobCommand s c f).now := by
  unfold jobCommand
  repeat' split
  all_goals first | exact hf _ _ ht | simp [ht]

@[simp] theorem now_jobSeed (s : State) (c : Nat)  {tm : Nat} (ht : tm ≤ s.now) : tm ≤ (jobSeed s c).now := by
  unfold jobSeed
  exact now_jobCommand _ _ _ (fun s j h => by split <;> simp [h]) ht

@[simp] theorem now_jobEpoch (s : State) (c v : Nat)  {tm : Nat} (ht : tm ≤ s.now) : tm ≤ (jobEpoch s c v).now := by
  unfold jobEpoch
  exact now_jobCommand _ _ _ (fun s j h => by split <;> simp [h]) ht

@[simp] theorem now_failLoad (s : State) (c code : Nat)  : (failLoad s c code).now = s.now := by
  unfold failLoad
  try dsimp only
  repeat' split
  all_goals first | (simp; done) | rfl

@[simp] theorem now_startLoad (s : State) (c handle len : Nat)  : (startLoad s c handle len).now = s.now := by
  unfold startLoad
  try dsimp only
  repeat' split
  all_goals first | (simp; done) | rfl

@[simp] theorem now_loadCmd (s : State) (c v : Nat)  : (loadCmd s c v).now = s.now := by
  unfold loadCmd
  try dsimp only
  repeat' split
  all_goals first | (simp; done) | rfl

@[simp] theorem now_forcePass (s : State) (c : Nat)  : (forcePass s c).now = s.now := by
  unfold forcePass
  try dsimp only
  repeat' split
  all_goals first | (simp; done) | rfl

@[simp] theorem now_recordMis (s : State) (c f action : Nat)  : (recordMis s c f action).now = s.now := by
  unfold recordMis
  try dsimp only
  repeat' split
  all_goals first | (simp; done) | rfl

@[simp] theorem now_repairBlank (s : State) (c f : Nat) (g : Sig)  : (repairBlank s c f g).now = s.now := by
  unfold repairBlank
  try dsimp only
  repeat' split
  all_goals first | (simp; done) | rfl

@[simp] theorem now_mismatch (s : State) (c f : Nat) (g : Sig)  : (mismatch s c f g).now = s.now := by
  unfold mismatch
  try dsimp only
  repeat' split
  all_goals first | (simp; done) | rfl

@[simp] theorem now_repairImage (s : State) (c f : Nat) (g : Sig) (b : List Byte)  : (repairImage s c f g b).now = s.now := by
  unfold repairImage
  try dsimp only
  repeat' split
  all_goals first | (simp; done) | rfl

@[simp] theorem now_wakeTenant (s : State) (t : Nat)  : (wakeTenant s t).now = s.now := by
  unfold wakeTenant
  try dsimp only
  repeat' split
  all_goals first | (simp; done) | rfl

@[simp] theorem now_setCtrl (s : State) (t : Nat) (v : Word)  : (setCtrl s t v).now = s.now := by
  unfold setCtrl
  try dsimp only
  repeat' split
  all_goals first | (simp; done) | rfl

@[simp] theorem now_writeTenCtrl (s : State) (t : Nat) (v : Word)  : (writeTenCtrl s t v).now = s.now := by
  unfold writeTenCtrl
  try dsimp only
  repeat' split
  all_goals first | (simp; done) | rfl

@[simp] theorem now_writeTenAsid (s : State) (t : Nat) (v : Word)  : (writeTenAsid s t v).now = s.now := by
  unfold writeTenAsid
  try dsimp only
  repeat' split
  all_goals first | (simp; done) | rfl

@[simp] theorem now_mailboxBell (s : State) (t : Option Nat) (slot : Nat)  : (mailboxBell s t slot).now = s.now := by
  unfold mailboxBell
  try dsimp only
  repeat' split
  all_goals first | (simp; done) | rfl

@[simp] theorem now_modTaken (s : State) (t slot : Nat) (f : Taken → Taken)  : (modTaken s t slot f).now = s.now := by
  unfold modTaken
  try dsimp only
  repeat' split
  all_goals first | (simp; done) | rfl

@[simp] theorem now_placeCore (t : Nat) (s : State) (e : List Byte)  : (placeCore t s e).now = s.now := by
  unfold placeCore
  try dsimp only
  repeat' split
  all_goals first | (simp; done) | rfl

@[simp] theorem now_placeShape (s : State) (e : List Byte)  : (placeShape s e).now = s.now := by
  unfold placeShape
  try dsimp only
  repeat' split
  all_goals first | (simp; done) | rfl

@[simp] theorem now_pickHandle (s : State) (c : Nat)  : (pickHandle s c).2.now = s.now := by
  unfold pickHandle
  try dsimp only
  repeat' split
  all_goals first | (simp; done) | rfl

@[simp] theorem now_beginImage (s : State) (c len : Nat)  : (beginImage s c len).now = s.now := by
  unfold beginImage
  try dsimp only
  repeat' split
  all_goals first | (simp; done) | rfl

@[simp] theorem now_beginImages (t slot : Nat) (m : List Byte) (s : State) (es : List (List Byte)) : (beginImages t slot m s es).now = s.now := by
  induction es generalizing s with
  | nil => rfl
  | cons e es ih =>
    unfold beginImages
    dsimp only
    split
    · exact ih s
    · rw [ih]; simp

@[simp] theorem now_placeJob (s : State) (t slot : Nat) (m : List Byte)  : (placeJob s t slot m).now = s.now := by
  unfold placeJob
  try dsimp only
  repeat' split
  all_goals first | (simp; done) | rfl

@[simp] theorem now_dropFelledJob (s : State) (job : Word) (t : TenantId)  : (dropFelledJob s job t).now = s.now := by
  unfold dropFelledJob
  try dsimp only
  repeat' split
  all_goals first | (simp; done) | rfl

@[simp] theorem now_untilRead (s : State) (c : Nat) (q : QueueId) (n w : Nat)  {tm : Nat} (ht : tm ≤ s.now) : tm ≤ (untilRead s c q n w).now := by
  unfold untilRead
  try dsimp only
  repeat' split
  all_goals first | (simp [ht]; done) | exact ht

@[simp] theorem now_parityMet (s : State) (c w : Nat) (r : ParityReader) {tm : Nat} (ht : tm ≤ s.now) : tm ≤ (parityMet s c w r).now := by
  unfold parityMet
  try dsimp only
  repeat' split
  all_goals first | (simp [ht]; done) | exact ht

@[simp] theorem now_loopParity (s : State) (c : Nat) (q : QueueId) (idx : Nat)  : (loopParity s c q idx).now = s.now := by
  unfold loopParity
  try dsimp only
  repeat' split
  all_goals first | (simp; done) | rfl

@[simp] theorem now_readRec (s : State) (p : Port) (c : Nat)  : (readRec s p c).now = s.now := by
  unfold readRec
  try dsimp only
  repeat' split
  all_goals first | (simp; done) | rfl

@[simp] theorem now_jnlCruise (s : State) (c step result code : Nat)  : (jnlCruise s c step result code).now = s.now := by
  unfold jnlCruise
  try dsimp only
  repeat' split
  all_goals first | (simp; done) | rfl

@[simp] theorem now_cruiseOnce (s : State) (c step code : Nat) (detail : Word)  : (cruiseOnce s c step code detail).now = s.now := by
  unfold cruiseOnce
  try dsimp only
  repeat' split
  all_goals first | (simp; done) | rfl

@[simp] theorem now_cruiseTwice (s : State) (c step code : Nat) (detail : Word)  : (cruiseTwice s c step code detail).now = s.now := by
  unfold cruiseTwice
  try dsimp only
  repeat' split
  all_goals first | (simp; done) | rfl

@[simp] theorem now_fellCommand (s : State) (op c : Nat)  : (fellCommand s op c).now = s.now := by
  unfold fellCommand
  try dsimp only
  repeat' split
  all_goals first | (simp; done) | rfl

@[simp] theorem now_jnlBump (s : State) (n : Nat) (amt : Nat)  : (jnlBump s n amt).now = s.now := by
  unfold jnlBump
  try dsimp only
  repeat' split
  all_goals first | (simp; done) | rfl

@[simp] theorem now_admitFences (s : State)  : (admitFences s).now = s.now := by
  unfold admitFences
  try dsimp only
  repeat' split
  all_goals first | (simp; done) | rfl

@[simp] theorem now_readMram (s : State) (p : Port)  : (readMram s p).now = s.now := by
  unfold readMram
  try dsimp only
  repeat' split
  all_goals first | (simp; done) | rfl

@[simp] theorem now_clearCounters (s : State) (pg : PageRef)  : (clearCounters s pg).now = s.now := by
  unfold clearCounters
  try dsimp only
  repeat' split
  all_goals first | (simp; done) | rfl

@[simp] theorem now_shadowCopy (s : State) (pg : PageRef)  : (shadowCopy s pg).now = s.now := by
  unfold shadowCopy
  try dsimp only
  repeat' split
  all_goals first | (simp; done) | rfl

@[simp] theorem now_clearErr (s : State) (pg : PageRef)  : (clearErr s pg).now = s.now := by
  unfold clearErr
  try dsimp only
  repeat' split
  all_goals first | (simp; done) | rfl

@[simp] theorem now_writePageCtrl (s : State) (pg : PageRef) (v : Nat)  : (writePageCtrl s pg v).now = s.now := by
  unfold writePageCtrl
  try dsimp only
  repeat' split
  all_goals first | (simp; done) | rfl

@[simp] theorem now_writePageSwap (s : State) (pg : PageRef) (v : Nat)  : (writePageSwap s pg v).now = s.now := by
  unfold writePageSwap
  try dsimp only
  repeat' split
  all_goals first | (simp; done) | rfl

@[simp] theorem now_writeCommon (s : State) (pg : PageRef) (off v : Nat)  : (writeCommon s pg off v).now = s.now := by
  unfold writeCommon
  try dsimp only
  repeat' split
  all_goals first | (simp; done) | rfl

@[simp] theorem now_plainGlobal (s : State) (pg : PageRef) (off v : Nat)  : (plainGlobal s pg off v).now = s.now := by
  unfold plainGlobal
  try dsimp only
  repeat' split
  all_goals first | (simp; done) | rfl

@[simp] theorem now_writeBlk (s : State) (p : Port) (off v : Nat)  : (writeBlk s p off v).now = s.now := by
  unfold writeBlk
  try dsimp only
  repeat' split
  all_goals first | (simp; done) | rfl

@[simp] theorem now_writeEvt (s : State) (off v : Nat)  : (writeEvt s off v).now = s.now := by
  unfold writeEvt
  try dsimp only
  repeat' split
  all_goals first | (simp; done) | rfl

@[simp] theorem now_writeBankCfg (s : State) (b v : Nat)  : (writeBankCfg s b v).now = s.now := by
  unfold writeBankCfg
  try dsimp only
  repeat' split
  all_goals first | (simp; done) | rfl

@[simp] theorem now_writePinCfg (s : State) (p v : Nat)  : (writePinCfg s p v).now = s.now := by
  unfold writePinCfg
  try dsimp only
  repeat' split
  all_goals first | (simp; done) | rfl

@[simp] theorem now_writeEvCfg (s : State) (p v : Nat)  : (writeEvCfg s p v).now = s.now := by
  unfold writeEvCfg
  try dsimp only
  repeat' split
  all_goals first | (simp; done) | rfl

@[simp] theorem now_writeFio (s : State) (off v : Nat)  {tm : Nat} (ht : tm ≤ s.now) : tm ≤ (writeFio s off v).now := by
  unfold writeFio
  try dsimp only
  repeat' split
  all_goals first | (simp [ht]; done) | exact ht

@[simp] theorem now_writeTen (s : State) (u off v : Nat)  : (writeTen s u off v).now = s.now := by
  unfold writeTen
  try dsimp only
  repeat' split
  all_goals first | (simp; done) | rfl

@[simp] theorem now_writeQCtl (s : State) (c : Nat) (q : QueueId) (v : Nat)  : (writeQCtl s c q v).now = s.now := by
  unfold writeQCtl
  try dsimp only
  repeat' split
  all_goals first | (simp; done) | rfl

@[simp] theorem now_writeCqSet (s0 : State) (c off v : Nat)  {tm : Nat} (ht : tm ≤ s0.now) : tm ≤ (writeCqSet s0 c off v).now := by
  unfold writeCqSet
  try dsimp only
  repeat' split
  all_goals first | (simp [ht]; done) | exact ht

@[simp] theorem now_writeCq (s : State) (c off v : Nat)  {tm : Nat} (ht : tm ≤ s.now) : tm ≤ (writeCq s c off v).now := by
  unfold writeCq
  try dsimp only
  repeat' split
  all_goals first | (simp [ht]; done) | exact ht

@[simp] theorem now_writeSema (s : State) (c off v : Nat)  {tm : Nat} (ht : tm ≤ s.now) : tm ≤ (writeSema s c off v).now := by
  unfold writeSema
  try dsimp only
  repeat' split
  all_goals first | (simp [ht]; done) | exact ht

@[simp] theorem now_writeSpd (s : State) (c off v : Nat) (tenant : Bool)  : (writeSpd s c off v tenant).now = s.now := by
  unfold writeSpd
  try dsimp only
  repeat' split
  all_goals first | (simp; done) | rfl

@[simp] theorem now_writeSkd (s : State) (c off v : Nat) (tenant : Bool)  {tm : Nat} (ht : tm ≤ s.now) : tm ≤ (writeSkd s c off v tenant).now := by
  unfold writeSkd
  try dsimp only
  repeat' split
  all_goals first | (simp [ht]; done) | exact ht

@[simp] theorem now_writeWinCmd (s : State) (c v : Nat)  {tm : Nat} (ht : tm ≤ s.now) : tm ≤ (writeWinCmd s c v).now := by
  unfold writeWinCmd
  try dsimp only
  repeat' split
  all_goals first | (simp [ht]; done) | exact ht

@[simp] theorem now_writeJobCmd (s : State) (c v : Nat)  {tm : Nat} (ht : tm ≤ s.now) : tm ≤ (writeJobCmd s c v).now := by
  unfold writeJobCmd
  try dsimp only
  repeat' split
  all_goals first | (simp [ht]; done) | exact ht

@[simp] theorem now_writeWin (s : State) (c off v : Nat)  {tm : Nat} (ht : tm ≤ s.now) : tm ≤ (writeWin s c off v).now := by
  unfold writeWin
  try dsimp only
  repeat' split
  all_goals first | (simp [ht]; done) | exact ht

@[simp] theorem now_writeScb (s : State) (c off v : Nat)  : (writeScb s c off v).now = s.now := by
  unfold writeScb
  try dsimp only
  repeat' split
  all_goals first | (simp; done) | rfl

@[simp] theorem now_writeUnit (s : State) (p : Port) (c i off v : Nat)  {tm : Nat} (ht : tm ≤ s.now) : tm ≤ (writeUnit s p c i off v).now := by
  unfold writeUnit
  try dsimp only
  repeat' split
  all_goals first | (simp [ht]; done) | exact ht

@[simp] theorem now_commonWrite (s : State) (p : Port) (pg : PageRef) (off : Nat) (f : State → State) {t : Nat} (hf : ∀ s, t ≤ s.now → t ≤ (f s).now) (ht : t ≤ s.now) :
    t ≤ (commonWrite s p pg off f).now := by
  unfold commonWrite
  split
  · exact now_coreWrite s p _ _ off f hf ht
  · exact now_gated _ f hf (now_pageGate s p _ off true ht)

end Sys2Proof.Machine
end

