-- ==== Sys2Proof/Laws/Keeps.lean ====
section
/-! SUPPORT. One lemma per command: the queue of commands, the origin of BLK_RTIME, the boot record, the key store and the MRAM stay, and time does not run back. -/

namespace Sys2Proof.Machine

/-- From s to t the queue, the origin of time, the boot record, the keys and the MRAM stay, and time does not run back. -/
def Keeps (s t : State) : Prop := t.rest = s.rest ∧ s.now ≤ t.now

/-- A flit taken from the mesh leaves the rest and the time. -/
theorem keeps_takeFlit {s s1 : State} {id : Nat} {f : Flit} (h : takeFlit s id = some (f, s1)) : s1.rest = s.rest ∧ s1.now = s.now := by
  unfold takeFlit at h
  split at h
  · dsimp only at h
    split at h
    · injection h with h
      rw [← (Prod.mk.inj h).2]
      simp
    · cases h
  · cases h

/-- A chain of two. -/
theorem Keeps.trans {s t u : State} (h : Keeps s t) (g : Keeps t u) : Keeps s u := ⟨g.1.trans h.1, Nat.le_trans h.2 g.2⟩

/-- Nothing changed. -/
theorem Keeps.refl (s : State) : Keeps s s := ⟨rfl, Nat.le_refl _⟩

/-- A command taken from a torus port or from the mesh (R217, R264) leaves the rest and the time. -/
theorem keeps_takeCmd {s s1 : State} {src : CmdSrc} {op : Nat} {v : Via} {h : WinCmd} {b : List Byte} (hh : takeCmd s src op = some (v, h, b, s1)) : Keeps s s1 := by
  unfold takeCmd at hh
  dsimp only at hh
  have hx := (Option.filter_eq_some_iff.mp hh).1
  split at hx
  · simp only [Option.some.injEq, Prod.mk.injEq] at hx
    rw [← hx.2.2.2]
    exact Keeps.refl s
  · split at hx
    · rename_i hf
      split at hx
      · simp only [Option.some.injEq, Prod.mk.injEq] at hx
        rw [← hx.2.2.2]
        obtain ⟨h1, h2⟩ := keeps_takeFlit hf
        exact ⟨h1, Nat.le_of_eq h2.symm⟩
      · cases hx
    · cases hx
  · cases hx

/-- A command to a core (R264, R265): what its effect keeps, the command keeps. -/
theorem keeps_coreCommand {src : CmdSrc} {op : Nat} {g : Via → WinCmd → List Byte → State → State} {s u : State}
    (hg : ∀ v h b s, Keeps s (g v h b s)) (hn : coreCommand src op g s = .next u) : Keeps s u := by
  unfold coreCommand at hn
  split at hn
  · cases hn
  · injection hn with hn
    subst hn
    split
    · split
      · simp [Keeps]
      · exact Keeps.refl s
    · split
      · rename_i h
        exact (keeps_takeCmd h).trans (hg _ _ _ _)
      · exact Keeps.refl s

/-- An answer to a chip command leaves the rest and the time. -/
theorem keeps_answerChip (s : State) (src : ChipId) (b : List Byte) (code : Nat) : Keeps s (answerChip s src b code) := by simp [Keeps]

/-- A command to this chip (R264, R265): what its effect keeps, the command keeps. -/
theorem keeps_chipCommand {src : CmdSrc} {op : Nat} {ok : State → ChipId → Job → Bool} {f : State → Job → ChipId → List Byte → State} {s u : State}
    (hf : ∀ s j c b, Keeps s (f s j c b)) (hn : chipCommand src op ok f s = .next u) : Keeps s u := by
  unfold chipCommand at hn
  split at hn
  · cases hn
  · injection hn with hn
    subst hn
    split
    · repeat' split
      all_goals first
        | exact Keeps.refl _
        | (simp [Keeps]; done)
        | exact (hf s _ _ _).trans (keeps_answerChip _ _ _ _)
    · split
      · rename_i h
        refine (keeps_takeCmd h).trans ?_
        simp [Keeps]
      · exact Keeps.refl s

/-- A command through a window (R264). -/
theorem keeps_windowCommand (i : Fin 14) (f : WinCmd → List Byte → State → State) (hf : ∀ h b s, Keeps s (f h b s)) (v : Via) (h : WinCmd) (b : List Byte) (s : State) :
    Keeps s (windowCommand i f v h b s) := by
  unfold windowCommand
  dsimp only
  split
  · simp [Keeps]
  · have h1 : Keeps s (cmdEnter s h i) := by simp [Keeps]
    refine h1.trans ?_
    split
    · refine (hf h b _).trans ?_
      simp [Keeps]
    · simp [Keeps]

/-- A write to a core's page keeps what its effect keeps. -/
theorem keeps_coreWrite (s : State) (p : Port) (c : CoreId) (i : Fin 14) (off : Nat) (f : State → State) (hf : ∀ s, Keeps s (f s)) : Keeps s (coreWrite s p c i off f) :=
  ⟨rest_coreWrite s p c i off f fun s => (hf s).1, now_coreWrite s p c i off f (fun s h => Nat.le_trans h (hf s).2) (Nat.le_refl _)⟩

/-- The exchange of the armed pages of every participant (R72) leaves the rest and the time. -/
theorem keeps_exchangeParts (s : State) (now : Nat) (l : List Part) :
    Keeps s (l.foldl (fun s p => if (getOwner s p.core).felled then s else modCoreW s p.core (exchangeCore p.core now)) s) := by
  refine ⟨rest_foldl _ (fun s p => ?_) l s, Nat.le_of_eq (now_foldl _ (fun s p => ?_) l s).symm⟩
  all_goals split <;> simp

theorem keeps_execCoreZeroed (c : CoreId) (s : State) (u : State) (hn : execCoreZeroed c s = .next u) : Keeps s u := by
  unfold execCoreZeroed at hn
  try dsimp only at hn
  repeat' split at hn
  all_goals first
    | (cases hn; done)
    | (cases hn; simp [Keeps]; done)
    | (cases hn; simp [Keeps, keeps_takeFlit (by assumption)]; done)

theorem keeps_execFellingComplete (c : CoreId) (s : State) (u : State) (hn : execFellingComplete c s = .next u) : Keeps s u := by
  unfold execFellingComplete at hn
  try dsimp only at hn
  repeat' split at hn
  all_goals first
    | (cases hn; done)
    | (cases hn; simp [Keeps]; done)
    | (cases hn; simp [Keeps, keeps_takeFlit (by assumption)]; done)

theorem keeps_execDoorbell (p : Port) (c : CoreId) (q : QueueId) (tail : BitVec 16) (s : State) (u : State) (hn : execDoorbell p c q tail s = .next u) : Keeps s u := by
  unfold execDoorbell at hn
  try dsimp only at hn
  repeat' split at hn
  all_goals first
    | (cases hn; done)
    | (cases hn; simp [Keeps]; done)
    | (cases hn; simp [Keeps, keeps_takeFlit (by assumption)]; done)

theorem keeps_execDescriptorFetch (c : CoreId) (q : QueueId) (_r : Unit) (s : State) (u : State) (hn : execDescriptorFetch c q _r s = .next u) : Keeps s u := by
  unfold execDescriptorFetch at hn
  try dsimp only at hn
  repeat' split at hn
  all_goals first
    | (cases hn; done)
    | (cases hn; simp [Keeps]; done)
    | (cases hn; simp [Keeps, keeps_takeFlit (by assumption)]; done)

theorem keeps_execNop (c : CoreId) (q : QueueId) (s : State) (u : State) (hn : execNop c q s = .next u) : Keeps s u := by
  injection hn with hn
  subst hn
  exact ⟨rest_controlOp _ _ _ _ _ fun e => by (repeat' split) <;> simp, now_controlOp _ _ _ _ _ (fun e => by (repeat' split) <;> simp) (Nat.le_refl _)⟩

theorem keeps_execSetreg (c : CoreId) (q : QueueId) (s : State) (u : State) (hn : execSetreg c q s = .next u) : Keeps s u := by
  injection hn with hn
  subst hn
  exact ⟨rest_controlOp _ _ _ _ _ fun e => by (repeat' split) <;> simp, now_controlOp _ _ _ _ _ (fun e => by (repeat' split) <;> simp) (Nat.le_refl _)⟩

theorem keeps_execLoop (c : CoreId) (q : QueueId) (s : State) (u : State) (hn : execLoop c q s = .next u) : Keeps s u := by
  unfold execLoop at hn
  try dsimp only at hn
  repeat' split at hn
  all_goals first
    | (cases hn; done)
    | (cases hn; simp [Keeps]; done)
    | (cases hn; simp [Keeps, keeps_takeFlit (by assumption)]; done)

theorem keeps_execIllegalOpcode (c : CoreId) (q : QueueId) (s : State) (u : State) (hn : execIllegalOpcode c q s = .next u) : Keeps s u := by
  unfold execIllegalOpcode at hn
  try dsimp only at hn
  repeat' split at hn
  all_goals first
    | (cases hn; done)
    | (cases hn; simp [Keeps]; done)
    | (cases hn; simp [Keeps, keeps_takeFlit (by assumption)]; done)

theorem keeps_execDescriptorComplete (c : CoreId) (q : QueueId) (s : State) (u : State) (hn : execDescriptorComplete c q s = .next u) : Keeps s u := by
  unfold execDescriptorComplete at hn
  try dsimp only at hn
  repeat' split at hn
  all_goals first
    | (cases hn; done)
    | (cases hn; simp [Keeps]; done)
    | (cases hn; simp [Keeps, keeps_takeFlit (by assumption)]; done)

theorem keeps_execNullCompletion (c : CoreId) (q : QueueId) (s : State) (u : State) (hn : execNullCompletion c q s = .next u) : Keeps s u := by
  unfold execNullCompletion at hn
  try dsimp only at hn
  repeat' split at hn
  all_goals first
    | (cases hn; done)
    | (cases hn; simp [Keeps]; done)
    | (cases hn; simp [Keeps, keeps_takeFlit (by assumption)]; done)

theorem keeps_execDescriptorFail (c : CoreId) (q : QueueId) (s : State) (u : State) (hn : execDescriptorFail c q s = .next u) : Keeps s u := by
  unfold execDescriptorFail at hn
  try dsimp only at hn
  repeat' split at hn
  all_goals first
    | (cases hn; done)
    | (cases hn; simp [Keeps]; done)
    | (cases hn; simp [Keeps, keeps_takeFlit (by assumption)]; done)

theorem keeps_execClipTestFire (c : CoreId) (q : QueueId) (s : State) (u : State) (hn : execClipTestFire c q s = .next u) : Keeps s u := by
  unfold execClipTestFire at hn
  try dsimp only at hn
  repeat' split at hn
  all_goals first
    | (cases hn; done)
    | (cases hn; simp [Keeps]; done)
    | (cases hn; simp [Keeps, keeps_takeFlit (by assumption)]; done)

theorem keeps_execQueueStop (p : Port) (c : CoreId) (q : QueueId) (s : State) (u : State) (hn : execQueueStop p c q s = .next u) : Keeps s u := by
  unfold execQueueStop at hn
  try dsimp only at hn
  repeat' split at hn
  all_goals first
    | (cases hn; done)
    | (cases hn; simp [Keeps]; done)
    | (cases hn; simp [Keeps, keeps_takeFlit (by assumption)]; done)

theorem keeps_execQueueStopped (c : CoreId) (q : QueueId) (s : State) (u : State) (hn : execQueueStopped c q s = .next u) : Keeps s u := by
  unfold execQueueStopped at hn
  try dsimp only at hn
  repeat' split at hn
  all_goals first
    | (cases hn; done)
    | (cases hn; simp [Keeps]; done)
    | (cases hn; simp [Keeps, keeps_takeFlit (by assumption)]; done)

theorem keeps_execQueueResume (p : Port) (c : CoreId) (q : QueueId) (s : State) (u : State) (hn : execQueueResume p c q s = .next u) : Keeps s u := by
  unfold execQueueResume at hn
  try dsimp only at hn
  repeat' split at hn
  all_goals first
    | (cases hn; done)
    | (cases hn; simp [Keeps]; done)
    | (cases hn; simp [Keeps, keeps_takeFlit (by assumption)]; done)

theorem keeps_execQueueSkip (p : Port) (c : CoreId) (q : QueueId) (s : State) (u : State) (hn : execQueueSkip p c q s = .next u) : Keeps s u := by
  unfold execQueueSkip at hn
  try dsimp only at hn
  repeat' split at hn
  all_goals first
    | (cases hn; done)
    | (cases hn; simp [Keeps]; done)
    | (cases hn; simp [Keeps, keeps_takeFlit (by assumption)]; done)

theorem keeps_execQueueFlush (p : Port) (c : CoreId) (q : QueueId) (s : State) (u : State) (hn : execQueueFlush p c q s = .next u) : Keeps s u := by
  injection hn with hn
  subst hn
  exact keeps_coreWrite _ _ _ _ _ _ fun s => by simp [Keeps]

theorem keeps_execSemaAdd (p : Port) (c : CoreId) (sem : SemId) (amount : BitVec 16) (s : State) (u : State) (hn : execSemaAdd p c sem amount s = .next u) : Keeps s u := by
  injection hn with hn
  subst hn
  exact keeps_coreWrite _ _ _ _ _ _ fun s => by simp [Keeps]

theorem keeps_execQueueWaitAged (c : CoreId) (q : QueueId) (s : State) (u : State) (hn : execQueueWaitAged c q s = .next u) : Keeps s u := by
  unfold execQueueWaitAged at hn
  try dsimp only at hn
  repeat' split at hn
  all_goals first
    | (cases hn; done)
    | (cases hn; simp [Keeps]; done)
    | (cases hn; simp [Keeps, keeps_takeFlit (by assumption)]; done)

theorem keeps_execBankRequestAged (c : CoreId) (bank : Fin 48) (unit : Fin 7) (s : State) (u : State) (hn : execBankRequestAged c bank unit s = .next u) : Keeps s u := by
  unfold execBankRequestAged at hn
  try dsimp only at hn
  repeat' split at hn
  all_goals first
    | (cases hn; done)
    | (cases hn; simp [Keeps]; done)
    | (cases hn; simp [Keeps, keeps_takeFlit (by assumption)]; done)

theorem keeps_execResidueMismatch (c : CoreId) (n stepNo : Nat) (tree : BitVec 8) (s : State) (u : State) (hn : execResidueMismatch c n stepNo tree s = .next u) : Keeps s u := by
  unfold execResidueMismatch at hn
  try dsimp only at hn
  repeat' split at hn
  all_goals first
    | (cases hn; done)
    | (cases hn; simp [Keeps]; done)
    | (cases hn; simp [Keeps, keeps_takeFlit (by assumption)]; done)

theorem keeps_execMxmul (c : CoreId) (s : State) (u : State) (hn : execMxmul c s = .next u) : Keeps s u := by
  unfold execMxmul at hn
  try dsimp only at hn
  repeat' split at hn
  all_goals first
    | (cases hn; done)
    | (cases hn; simp [Keeps]; done)
    | (cases hn; simp [Keeps, keeps_takeFlit (by assumption)]; done)

theorem keeps_execMxconv (c : CoreId) (s : State) (u : State) (hn : execMxconv c s = .next u) : Keeps s u := by
  unfold execMxconv at hn
  try dsimp only at hn
  repeat' split at hn
  all_goals first
    | (cases hn; done)
    | (cases hn; simp [Keeps]; done)
    | (cases hn; simp [Keeps, keeps_takeFlit (by assumption)]; done)

theorem keeps_execVelt (c : CoreId) (s : State) (u : State) (hn : execVelt c s = .next u) : Keeps s u := by
  unfold execVelt at hn
  try dsimp only at hn
  repeat' split at hn
  all_goals first
    | (cases hn; done)
    | (cases hn; simp [Keeps]; done)
    | (cases hn; simp [Keeps, keeps_takeFlit (by assumption)]; done)

theorem keeps_execVred (c : CoreId) (s : State) (u : State) (hn : execVred c s = .next u) : Keeps s u := by
  unfold execVred at hn
  try dsimp only at hn
  repeat' split at hn
  all_goals first
    | (cases hn; done)
    | (cases hn; simp [Keeps]; done)
    | (cases hn; simp [Keeps, keeps_takeFlit (by assumption)]; done)

theorem keeps_execVsoftmax (c : CoreId) (s : State) (u : State) (hn : execVsoftmax c s = .next u) : Keeps s u := by
  unfold execVsoftmax at hn
  try dsimp only at hn
  repeat' split at hn
  all_goals first
    | (cases hn; done)
    | (cases hn; simp [Keeps]; done)
    | (cases hn; simp [Keeps, keeps_takeFlit (by assumption)]; done)

theorem keeps_execVnorm (c : CoreId) (s : State) (u : State) (hn : execVnorm c s = .next u) : Keeps s u := by
  unfold execVnorm at hn
  try dsimp only at hn
  repeat' split at hn
  all_goals first
    | (cases hn; done)
    | (cases hn; simp [Keeps]; done)
    | (cases hn; simp [Keeps, keeps_takeFlit (by assumption)]; done)

theorem keeps_execVsample (c : CoreId) (s : State) (u : State) (hn : execVsample c s = .next u) : Keeps s u := by
  unfold execVsample at hn
  try dsimp only at hn
  repeat' split at hn
  all_goals first
    | (cases hn; done)
    | (cases hn; simp [Keeps]; done)
    | (cases hn; simp [Keeps, keeps_takeFlit (by assumption)]; done)

theorem keeps_execVrand (c : CoreId) (s : State) (u : State) (hn : execVrand c s = .next u) : Keeps s u := by
  unfold execVrand at hn
  try dsimp only at hn
  repeat' split at hn
  all_goals first
    | (cases hn; done)
    | (cases hn; simp [Keeps]; done)
    | (cases hn; simp [Keeps, keeps_takeFlit (by assumption)]; done)

theorem keeps_execVquant (c : CoreId) (s : State) (u : State) (hn : execVquant c s = .next u) : Keeps s u := by
  unfold execVquant at hn
  try dsimp only at hn
  repeat' split at hn
  all_goals first
    | (cases hn; done)
    | (cases hn; simp [Keeps]; done)
    | (cases hn; simp [Keeps, keeps_takeFlit (by assumption)]; done)

theorem keeps_execVdequant (c : CoreId) (s : State) (u : State) (hn : execVdequant c s = .next u) : Keeps s u := by
  unfold execVdequant at hn
  try dsimp only at hn
  repeat' split at hn
  all_goals first
    | (cases hn; done)
    | (cases hn; simp [Keeps]; done)
    | (cases hn; simp [Keeps, keeps_takeFlit (by assumption)]; done)

theorem keeps_execUpstep (c : CoreId) (s : State) (u : State) (hn : execUpstep c s = .next u) : Keeps s u := by
  unfold execUpstep at hn
  try dsimp only at hn
  repeat' split at hn
  all_goals first
    | (cases hn; done)
    | (cases hn; simp [Keeps]; done)
    | (cases hn; simp [Keeps, keeps_takeFlit (by assumption)]; done)

theorem keeps_execMvfill (c : CoreId) (s : State) (u : State) (hn : execMvfill c s = .next u) : Keeps s u := by
  unfold execMvfill at hn
  try dsimp only at hn
  repeat' split at hn
  all_goals first
    | (cases hn; done)
    | (cases hn; simp [Keeps]; done)
    | (cases hn; simp [Keeps, keeps_takeFlit (by assumption)]; done)

theorem keeps_execMvcopy (c : CoreId) (s : State) (u : State) (hn : execMvcopy c s = .next u) : Keeps s u := by
  unfold execMvcopy at hn
  try dsimp only at hn
  repeat' split at hn
  all_goals first
    | (cases hn; done)
    | (cases hn; simp [Keeps]; done)
    | (cases hn; simp [Keeps, keeps_takeFlit (by assumption)]; done)

theorem keeps_execTlyClr (p : Port) (c : CoreId) (s : State) (u : State) (hn : execTlyClr p c s = .next u) : Keeps s u := by
  unfold execTlyClr at hn
  try dsimp only at hn
  repeat' split at hn
  all_goals first
    | (cases hn; done)
    | (cases hn; simp [Keeps]; done)
    | (cases hn; simp [Keeps, keeps_takeFlit (by assumption)]; done)

theorem keeps_execScaleFileWrite (p : Port) (c : CoreId) (r : ScaleReg) (v : Word) (s : State) (u : State) (hn : execScaleFileWrite p c r v s = .next u) : Keeps s u := by
  unfold execScaleFileWrite at hn
  try dsimp only at hn
  repeat' split at hn
  all_goals first
    | (cases hn; done)
    | (cases hn; simp [Keeps]; done)
    | (cases hn; simp [Keeps, keeps_takeFlit (by assumption)]; done)

theorem keeps_execSrzpAccess (p : Port) (c : CoreId) (s : State) (u : State) (hn : execSrzpAccess p c s = .next u) : Keeps s u := by
  unfold execSrzpAccess at hn
  try dsimp only at hn
  repeat' split at hn
  all_goals first
    | (cases hn; done)
    | (cases hn; simp [Keeps]; done)
    | (cases hn; simp [Keeps, keeps_takeFlit (by assumption)]; done)

theorem keeps_execHistClr (p : Port) (c : CoreId) (h : Fin 16) (s : State) (u : State) (hn : execHistClr p c h s = .next u) : Keeps s u := by
  unfold execHistClr at hn
  try dsimp only at hn
  repeat' split at hn
  all_goals first
    | (cases hn; done)
    | (cases hn; simp [Keeps]; done)
    | (cases hn; simp [Keeps, keeps_takeFlit (by assumption)]; done)

theorem keeps_execHistLenWrite (p : Port) (c : CoreId) (h : Fin 16) (len : BitVec 5) (s : State) (u : State) (hn : execHistLenWrite p c h len s = .next u) : Keeps s u := by
  unfold execHistLenWrite at hn
  try dsimp only at hn
  repeat' split at hn
  all_goals first
    | (cases hn; done)
    | (cases hn; simp [Keeps]; done)
    | (cases hn; simp [Keeps, keeps_takeFlit (by assumption)]; done)

theorem keeps_execFlitArrival (id : Nat) (parityOk : Bool) (s : State) (u : State) (hn : execFlitArrival id parityOk s = .next u) : Keeps s u := by
  unfold execFlitArrival at hn
  try dsimp only at hn
  repeat' split at hn
  all_goals first
    | (cases hn; done)
    | (cases hn; simp [Keeps]; done)
    | (cases hn; simp [Keeps, keeps_takeFlit (by assumption)]; done)

theorem keeps_execFlitResend (id : Nat) (s : State) (u : State) (hn : execFlitResend id s = .next u) : Keeps s u := by
  unfold execFlitResend at hn
  try dsimp only at hn
  repeat' split at hn
  all_goals first
    | (cases hn; done)
    | (cases hn; simp [Keeps]; done)
    | (cases hn; simp [Keeps, keeps_takeFlit (by assumption)]; done)

theorem keeps_execLinkFail (id : Nat) (s : State) (u : State) (hn : execLinkFail id s = .next u) : Keeps s u := by
  unfold execLinkFail at hn
  try dsimp only at hn
  repeat' split at hn
  all_goals first
    | (cases hn; done)
    | (cases hn; simp [Keeps]; done)
    | (cases hn; simp [Keeps, keeps_takeFlit (by assumption)]; done)

theorem keeps_execMeshBranchStop (c : CoreId) (s : State) (u : State) (hn : execMeshBranchStop c s = .next u) : Keeps s u := by
  unfold execMeshBranchStop at hn
  try dsimp only at hn
  repeat' split at hn
  all_goals first
    | (cases hn; done)
    | (cases hn; simp [Keeps]; done)
    | (cases hn; simp [Keeps, keeps_takeFlit (by assumption)]; done)

theorem keeps_execDataBranchStop (c : CoreId) (s : State) (u : State) (hn : execDataBranchStop c s = .next u) : Keeps s u := by
  unfold execDataBranchStop at hn
  try dsimp only at hn
  repeat' split at hn
  all_goals first
    | (cases hn; done)
    | (cases hn; simp [Keeps]; done)
    | (cases hn; simp [Keeps, keeps_takeFlit (by assumption)]; done)

theorem keeps_execScratchpadPortWrite (p : Port) (c : CoreId) (off : BitVec 20) (data : List Byte) (s : State) (u : State) (hn : execScratchpadPortWrite p c off data s = .next u) : Keeps s u := by
  unfold execScratchpadPortWrite at hn
  try dsimp only at hn
  repeat' split at hn
  all_goals first
    | (cases hn; done)
    | (cases hn; simp [Keeps]; done)
    | (cases hn; simp [Keeps, keeps_takeFlit (by assumption)]; done)

theorem keeps_execScratchpadPortRead (p : Port) (c : CoreId) (off : BitVec 20) (width : Nat) (s : State) (u : State) (hn : execScratchpadPortRead p c off width s = .next u) : Keeps s u := by
  unfold execScratchpadPortRead at hn
  try dsimp only at hn
  repeat' split at hn
  all_goals first
    | (cases hn; done)
    | (cases hn; simp [Keeps]; done)
    | (cases hn; simp [Keeps, keeps_takeFlit (by assumption)]; done)

theorem keeps_execArrivalWrite (id : Nat) (s : State) (u : State) (hn : execArrivalWrite id s = .next u) : Keeps s u := by
  unfold execArrivalWrite at hn
  try dsimp only at hn
  repeat' split at hn
  all_goals first
    | (cases hn; done)
    | (cases hn; simp [Keeps]; done)
    | (cases hn; simp [Keeps, keeps_takeFlit (by assumption)]; done)

theorem keeps_execSpdUtagWrite (p : Port) (c : CoreId) (n : Fin 4) (v : Word) (s : State) (u : State) (hn : execSpdUtagWrite p c n v s = .next u) : Keeps s u := by
  unfold execSpdUtagWrite at hn
  try dsimp only at hn
  repeat' split at hn
  all_goals first
    | (cases hn; done)
    | (cases hn; simp [Keeps]; done)
    | (cases hn; simp [Keeps, keeps_takeFlit (by assumption)]; done)

theorem keeps_execGatherTimeout (c : CoreId) (s : State) (u : State) (hn : execGatherTimeout c s = .next u) : Keeps s u := by
  unfold execGatherTimeout at hn
  try dsimp only at hn
  repeat' split at hn
  all_goals first
    | (cases hn; done)
    | (cases hn; simp [Keeps]; done)
    | (cases hn; simp [Keeps, keeps_takeFlit (by assumption)]; done)

theorem keeps_execGbflush (p : Port) (c : CoreId) (s : State) (u : State) (hn : execGbflush p c s = .next u) : Keeps s u := by
  unfold execGbflush at hn
  try dsimp only at hn
  repeat' split at hn
  all_goals first
    | (cases hn; done)
    | (cases hn; simp [Keeps]; done)
    | (cases hn; simp [Keeps, keeps_takeFlit (by assumption)]; done)

theorem keeps_execSegmentPowerOff (p : Port) (c : CoreId) (seg : Fin 12) (s : State) (u : State) (hn : execSegmentPowerOff p c seg s = .next u) : Keeps s u := by
  unfold execSegmentPowerOff at hn
  try dsimp only at hn
  repeat' split at hn
  all_goals first
    | (cases hn; done)
    | (cases hn; simp [Keeps]; done)
    | (cases hn; simp [Keeps, keeps_takeFlit (by assumption)]; done)

theorem keeps_execSegmentPowerOn (p : Port) (c : CoreId) (seg : Fin 12) (s : State) (u : State) (hn : execSegmentPowerOn p c seg s = .next u) : Keeps s u := by
  unfold execSegmentPowerOn at hn
  try dsimp only at hn
  repeat' split at hn
  all_goals first
    | (cases hn; done)
    | (cases hn; simp [Keeps]; done)
    | (cases hn; simp [Keeps, keeps_takeFlit (by assumption)]; done)

theorem keeps_execSegmentSettled (c : CoreId) (seg : Fin 12) (s : State) (u : State) (hn : execSegmentSettled c seg s = .next u) : Keeps s u := by
  unfold execSegmentSettled at hn
  try dsimp only at hn
  repeat' split at hn
  all_goals first
    | (cases hn; done)
    | (cases hn; simp [Keeps]; done)
    | (cases hn; simp [Keeps, keeps_takeFlit (by assumption)]; done)

theorem keeps_execSegmentUp (c : CoreId) (seg : Fin 12) (s : State) (u : State) (hn : execSegmentUp c seg s = .next u) : Keeps s u := by
  unfold execSegmentUp at hn
  try dsimp only at hn
  repeat' split at hn
  all_goals first
    | (cases hn; done)
    | (cases hn; simp [Keeps]; done)
    | (cases hn; simp [Keeps, keeps_takeFlit (by assumption)]; done)

theorem keeps_execTagcmdSetEmpty (p : Port) (c : CoreId) (first last : BitVec 10) (s : State) (u : State) (hn : execTagcmdSetEmpty p c first last s = .next u) : Keeps s u := by
  unfold execTagcmdSetEmpty at hn
  try dsimp only at hn
  repeat' split at hn
  all_goals first
    | (cases hn; done)
    | (cases hn; simp [Keeps]; done)
    | (cases hn; simp [Keeps, keeps_takeFlit (by assumption)]; done)

theorem keeps_execTagcmdSetFull (p : Port) (c : CoreId) (first last : BitVec 10) (count : BitVec 4) (s : State) (u : State) (hn : execTagcmdSetFull p c first last count s = .next u) : Keeps s u := by
  unfold execTagcmdSetFull at hn
  try dsimp only at hn
  repeat' split at hn
  all_goals first
    | (cases hn; done)
    | (cases hn; simp [Keeps]; done)
    | (cases hn; simp [Keeps, keeps_takeFlit (by assumption)]; done)

theorem keeps_execTagcmdClearBacked (p : Port) (c : CoreId) (first last : BitVec 10) (s : State) (u : State) (hn : execTagcmdClearBacked p c first last s = .next u) : Keeps s u := by
  unfold execTagcmdClearBacked at hn
  try dsimp only at hn
  repeat' split at hn
  all_goals first
    | (cases hn; done)
    | (cases hn; simp [Keeps]; done)
    | (cases hn; simp [Keeps, keeps_takeFlit (by assumption)]; done)

theorem keeps_execTagcmdDone (c : CoreId) (s : State) (u : State) (hn : execTagcmdDone c s = .next u) : Keeps s u := by
  unfold execTagcmdDone at hn
  try dsimp only at hn
  repeat' split at hn
  all_goals first
    | (cases hn; done)
    | (cases hn; simp [Keeps]; done)
    | (cases hn; simp [Keeps, keeps_takeFlit (by assumption)]; done)

theorem keeps_execSkstream (c : CoreId) (s : State) (u : State) (hn : execSkstream c s = .next u) : Keeps s u := by
  unfold execSkstream at hn
  try dsimp only at hn
  repeat' split at hn
  all_goals first
    | (cases hn; done)
    | (cases hn; simp [Keeps]; done)
    | (cases hn; simp [Keeps, keeps_takeFlit (by assumption)]; done)

theorem keeps_execSkidderInject (c : CoreId) (s : State) (u : State) (hn : execSkidderInject c s = .next u) : Keeps s u := by
  unfold execSkidderInject at hn
  try dsimp only at hn
  repeat' split at hn
  all_goals first
    | (cases hn; done)
    | (cases hn; simp [Keeps]; done)
    | (cases hn; simp [Keeps, keeps_takeFlit (by assumption)]; done)

theorem keeps_execTranslationResponse (c : CoreId) (va : BitVec 44) (r : TransResult) (s : State) (u : State) (hn : execTranslationResponse c va r s = .next u) : Keeps s u := by
  unfold execTranslationResponse at hn
  try dsimp only at hn
  repeat' split at hn
  all_goals first
    | (cases hn; done)
    | (cases hn; simp [Keeps]; done)
    | (cases hn; simp [Keeps, keeps_takeFlit (by assumption)]; done)

theorem keeps_execSlotVisitEnter (c : CoreId) (ctx : CtxId) (s : State) (u : State) (hn : execSlotVisitEnter c ctx s = .next u) : Keeps s u := by
  unfold execSlotVisitEnter at hn
  try dsimp only at hn
  repeat' split at hn
  all_goals first
    | (cases hn; done)
    | (cases hn; simp [Keeps]; done)
    | (cases hn; simp [Keeps, keeps_takeFlit (by assumption)]; done)

theorem keeps_execSlotVisitComplete (c : CoreId) (ctx : CtxId) (s : State) (u : State) (hn : execSlotVisitComplete c ctx s = .next u) : Keeps s u := by
  unfold execSlotVisitComplete at hn
  try dsimp only at hn
  repeat' split at hn
  all_goals first
    | (cases hn; done)
    | (cases hn; simp [Keeps]; done)
    | (cases hn; simp [Keeps, keeps_takeFlit (by assumption)]; done)

theorem keeps_execSlotendSend (c : CoreId) (ctx : CtxId) (s : State) (u : State) (hn : execSlotendSend c ctx s = .next u) : Keeps s u := by
  unfold execSlotendSend at hn
  try dsimp only at hn
  repeat' split at hn
  all_goals first
    | (cases hn; done)
    | (cases hn; simp [Keeps]; done)
    | (cases hn; simp [Keeps, keeps_takeFlit (by assumption)]; done)

theorem keeps_execReadResponse (id : Nat) (s : State) (u : State) (hn : execReadResponse id s = .next u) : Keeps s u := by
  unfold execReadResponse at hn
  try dsimp only at hn
  repeat' split at hn
  all_goals first
    | (cases hn; done)
    | (cases hn; simp [Keeps]; done)
    | (cases hn; simp [Keeps, keeps_takeFlit (by assumption)]; done)

theorem keeps_execWriteAck (id : Nat) (s : State) (u : State) (hn : execWriteAck id s = .next u) : Keeps s u := by
  unfold execWriteAck at hn
  try dsimp only at hn
  repeat' split at hn
  all_goals first
    | (cases hn; done)
    | (cases hn; simp [Keeps]; done)
    | (cases hn; simp [Keeps, keeps_takeFlit (by assumption)]; done)

theorem keeps_execNack (id : Nat) (s : State) (u : State) (hn : execNack id s = .next u) : Keeps s u := by
  unfold execNack at hn
  try dsimp only at hn
  repeat' split at hn
  all_goals first
    | (cases hn; done)
    | (cases hn; simp [Keeps]; done)
    | (cases hn; simp [Keeps, keeps_takeFlit (by assumption)]; done)

theorem keeps_execPullRequest (id : Nat) (s : State) (u : State) (hn : execPullRequest id s = .next u) : Keeps s u := by
  unfold execPullRequest at hn
  try dsimp only at hn
  repeat' split at hn
  all_goals first
    | (cases hn; done)
    | (cases hn; simp [Keeps]; done)
    | (cases hn; simp [Keeps, keeps_takeFlit (by assumption)]; done)

theorem keeps_execStreamComplete (c : CoreId) (ctx : CtxId) (s : State) (u : State) (hn : execStreamComplete c ctx s = .next u) : Keeps s u := by
  unfold execStreamComplete at hn
  try dsimp only at hn
  repeat' split at hn
  all_goals first
    | (cases hn; done)
    | (cases hn; simp [Keeps]; done)
    | (cases hn; simp [Keeps, keeps_takeFlit (by assumption)]; done)

theorem keeps_execAbortComplete (c : CoreId) (ctx : CtxId) (s : State) (u : State) (hn : execAbortComplete c ctx s = .next u) : Keeps s u := by
  unfold execAbortComplete at hn
  try dsimp only at hn
  repeat' split at hn
  all_goals first
    | (cases hn; done)
    | (cases hn; simp [Keeps]; done)
    | (cases hn; simp [Keeps, keeps_takeFlit (by assumption)]; done)

theorem keeps_execStreamHalt (c : CoreId) (ctx : CtxId) (s : State) (u : State) (hn : execStreamHalt c ctx s = .next u) : Keeps s u := by
  unfold execStreamHalt at hn
  try dsimp only at hn
  repeat' split at hn
  all_goals first
    | (cases hn; done)
    | (cases hn; simp [Keeps]; done)
    | (cases hn; simp [Keeps, keeps_takeFlit (by assumption)]; done)

theorem keeps_execCtxResume (p : Port) (c : CoreId) (ctx : CtxId) (s : State) (u : State) (hn : execCtxResume p c ctx s = .next u) : Keeps s u := by
  unfold execCtxResume at hn
  try dsimp only at hn
  repeat' split at hn
  all_goals first
    | (cases hn; done)
    | (cases hn; simp [Keeps]; done)
    | (cases hn; simp [Keeps, keeps_takeFlit (by assumption)]; done)

theorem keeps_execCtxAbort (p : Port) (c : CoreId) (ctx : CtxId) (s : State) (u : State) (hn : execCtxAbort p c ctx s = .next u) : Keeps s u := by
  unfold execCtxAbort at hn
  try dsimp only at hn
  repeat' split at hn
  all_goals first
    | (cases hn; done)
    | (cases hn; simp [Keeps]; done)
    | (cases hn; simp [Keeps, keeps_takeFlit (by assumption)]; done)

theorem keeps_execCtxFree (p : Port) (c : CoreId) (ctx : CtxId) (s : State) (u : State) (hn : execCtxFree p c ctx s = .next u) : Keeps s u := by
  injection hn with hn
  subst hn
  exact keeps_coreWrite _ _ _ _ _ _ fun s => by simp [Keeps]

theorem keeps_execRefetchComplete (c : CoreId) (slot : SlotId) (_r : Unit) (s : State) (u : State) (hn : execRefetchComplete c slot _r s = .next u) : Keeps s u := by
  unfold execRefetchComplete at hn
  try dsimp only at hn
  repeat' split at hn
  all_goals first
    | (cases hn; done)
    | (cases hn; simp [Keeps]; done)
    | (cases hn; simp [Keeps, keeps_takeFlit (by assumption)]; done)

theorem keeps_execStallTimeout (c : CoreId) (s : State) (u : State) (hn : execStallTimeout c s = .next u) : Keeps s u := by
  unfold execStallTimeout at hn
  try dsimp only at hn
  repeat' split at hn
  all_goals first
    | (cases hn; done)
    | (cases hn; simp [Keeps]; done)
    | (cases hn; simp [Keeps, keeps_takeFlit (by assumption)]; done)

theorem keeps_execYardRead (id : Nat) (ecc : EccResult) (s : State) (u : State) (hn : execYardRead id ecc s = .next u) : Keeps s u := by
  unfold execYardRead at hn
  try dsimp only at hn
  repeat' split at hn
  all_goals first
    | (cases hn; done)
    | (cases hn; simp [Keeps]; done)
    | (cases hn; simp [Keeps, keeps_takeFlit (by assumption)]; done)

theorem keeps_execYardWrite (id : Nat) (ecc : EccResult) (s : State) (u : State) (hn : execYardWrite id ecc s = .next u) : Keeps s u := by
  unfold execYardWrite at hn
  try dsimp only at hn
  repeat' split at hn
  all_goals first
    | (cases hn; done)
    | (cases hn; simp [Keeps]; done)
    | (cases hn; simp [Keeps, keeps_takeFlit (by assumption)]; done)

theorem keeps_execYardFill (port : LandingPort) (line : Nat) (data : List Byte) (s : State) (u : State) (hn : execYardFill port line data s = .next u) : Keeps s u := by
  unfold execYardFill at hn
  try dsimp only at hn
  repeat' split at hn
  all_goals first
    | (cases hn; done)
    | (cases hn; simp [Keeps]; done)
    | (cases hn; simp [Keeps, keeps_takeFlit (by assumption)]; done)

theorem keeps_execExternalWrite (pa : BitVec 48) (s : State) (u : State) (hn : execExternalWrite pa s = .next u) : Keeps s u := by
  unfold execExternalWrite at hn
  try dsimp only at hn
  repeat' split at hn
  all_goals first
    | (cases hn; done)
    | (cases hn; simp [Keeps]; done)
    | (cases hn; simp [Keeps, keeps_takeFlit (by assumption)]; done)

theorem keeps_execExternalRead (pa : BitVec 48) (s : State) (u : State) (hn : execExternalRead pa s = .next u) : Keeps s u := by
  unfold execExternalRead at hn
  try dsimp only at hn
  repeat' split at hn
  all_goals first
    | (cases hn; done)
    | (cases hn; simp [Keeps]; done)
    | (cases hn; simp [Keeps, keeps_takeFlit (by assumption)]; done)

theorem keeps_execWindowOpen (p : Port) (c : CoreId) (win : WinId) (setep : Bool) (epoch : BitVec 16) (s : State) (u : State) (hn : execWindowOpen p c win setep epoch s = .next u) : Keeps s u := by
  unfold execWindowOpen at hn
  try dsimp only at hn
  repeat' split at hn
  all_goals first
    | (cases hn; done)
    | (cases hn; simp [Keeps]; done)
    | (cases hn; simp [Keeps, keeps_takeFlit (by assumption)]; done)

theorem keeps_execWindowClose (p : Port) (c : CoreId) (win : WinId) (s : State) (u : State) (hn : execWindowClose p c win s = .next u) : Keeps s u := by
  injection hn with hn
  subst hn
  exact keeps_coreWrite _ _ _ _ _ _ fun s => by simp [Keeps]

theorem keeps_execGuardExpiry (c : CoreId) (win : WinId) (s : State) (u : State) (hn : execGuardExpiry c win s = .next u) : Keeps s u := by
  unfold execGuardExpiry at hn
  try dsimp only at hn
  repeat' split at hn
  all_goals first
    | (cases hn; done)
    | (cases hn; simp [Keeps]; done)
    | (cases hn; simp [Keeps, keeps_takeFlit (by assumption)]; done)

theorem keeps_execRemoteArrival (src : RemoteSrc) (s : State) (u : State) (hn : execRemoteArrival src s = .next u) : Keeps s u := by
  unfold execRemoteArrival at hn
  try dsimp only at hn
  repeat' split at hn
  all_goals first
    | (cases hn; done)
    | (cases hn; simp [Keeps]; done)
    | (cases hn; simp [Keeps, keeps_takeFlit (by assumption)]; done)

theorem keeps_execCmdStop (src : CmdSrc) (_r : Unit) (s : State) (u : State) (hn : execCmdStop src _r s = .next u) : Keeps s u := by
  refine keeps_coreCommand (keeps_windowCommand _ _ fun h b s => ?_) hn
  simp [Keeps]

theorem keeps_execCmdStart (src : CmdSrc) (_r : Unit) (s : State) (u : State) (hn : execCmdStart src _r s = .next u) : Keeps s u := by
  refine keeps_coreCommand (keeps_windowCommand _ _ fun h b s => ?_) hn
  simp [Keeps]

theorem keeps_execCmdClose (src : CmdSrc) (s : State) (u : State) (hn : execCmdClose src s = .next u) : Keeps s u := by
  refine keeps_coreCommand (keeps_windowCommand _ _ fun h b s => ?_) hn
  simp [Keeps]

theorem keeps_execCmdCtxcmd (src : CmdSrc) (_r : Unit) (s : State) (u : State) (hn : execCmdCtxcmd src _r s = .next u) : Keeps s u := by
  refine keeps_coreCommand (keeps_windowCommand _ _ fun h b s => ?_) hn
  simp [Keeps]

theorem keeps_execCmdAbortrep (src : CmdSrc) (_r : Unit) (s : State) (u : State) (hn : execCmdAbortrep src _r s = .next u) : Keeps s u := by
  refine keeps_coreCommand (fun v h b s => ?_) hn
  simp [Keeps]

theorem keeps_execForwardAck (n : Nat) (code : Byte) (s : State) (u : State) (hn : execForwardAck n code s = .next u) : Keeps s u := by
  unfold execForwardAck at hn
  try dsimp only at hn
  repeat' split at hn
  all_goals first
    | (cases hn; done)
    | (cases hn; simp [Keeps]; done)
    | (cases hn; simp [Keeps, keeps_takeFlit (by assumption)]; done)

theorem keeps_execCmdAnswer (src : CmdSrc) (_r0 : Unit) (_r1 : Unit) (_r2 : Unit) (s : State) (u : State) (hn : execCmdAnswer src _r0 _r1 _r2 s = .next u) : Keeps s u := by
  unfold execCmdAnswer at hn
  split at hn
  · cases hn
  · injection hn with hn
    subst hn
    split
    · rename_i h
      refine (keeps_takeCmd h).trans ?_
      simp [Keeps]
    · exact Keeps.refl s

theorem keeps_execCmdRefused (src : CmdSrc) (_r : Unit) (s : State) (u : State) (hn : execCmdRefused src _r s = .next u) : Keeps s u := by
  unfold execCmdRefused at hn
  dsimp only at hn
  split at hn
  · cases hn
  · injection hn with hn
    subst hn
    repeat' split
    all_goals first
      | exact Keeps.refl _
      | (simp [Keeps]; done)
      | (rename_i h; refine (keeps_takeCmd h).trans ?_; simp [Keeps]; done)
      | (rename_i h _; refine (keeps_takeCmd h).trans ?_; simp [Keeps]; done)

theorem keeps_execClockSwitch (p : Port) (c : CoreId) (n : Fin 4) (v : Word) (s : State) (u : State) (hn : execClockSwitch p c n v s = .next u) : Keeps s u := by
  unfold execClockSwitch at hn
  try dsimp only at hn
  repeat' split at hn
  all_goals first
    | (cases hn; done)
    | (cases hn; simp [Keeps]; done)
    | (cases hn; simp [Keeps, keeps_takeFlit (by assumption)]; done)

theorem keeps_execClockSwitchDone (c : CoreId) (n : Fin 4) (s : State) (u : State) (hn : execClockSwitchDone c n s = .next u) : Keeps s u := by
  unfold execClockSwitchDone at hn
  try dsimp only at hn
  repeat' split at hn
  all_goals first
    | (cases hn; done)
    | (cases hn; simp [Keeps]; done)
    | (cases hn; simp [Keeps, keeps_takeFlit (by assumption)]; done)

theorem keeps_execClockLost (c : CoreId) (n : Fin 4) (s : State) (u : State) (hn : execClockLost c n s = .next u) : Keeps s u := by
  unfold execClockLost at hn
  try dsimp only at hn
  repeat' split at hn
  all_goals first
    | (cases hn; done)
    | (cases hn; simp [Keeps]; done)
    | (cases hn; simp [Keeps, keeps_takeFlit (by assumption)]; done)

theorem keeps_execGvop (c : CoreId) (s : State) (u : State) (hn : execGvop c s = .next u) : Keeps s u := by
  unfold execGvop at hn
  try dsimp only at hn
  repeat' split at hn
  all_goals first
    | (cases hn; done)
    | (cases hn; simp [Keeps]; done)
    | (cases hn; simp [Keeps, keeps_takeFlit (by assumption)]; done)

theorem keeps_execPortInBeat (c : CoreId) (s : State) (u : State) (hn : execPortInBeat c s = .next u) : Keeps s u := by
  unfold execPortInBeat at hn
  try dsimp only at hn
  repeat' split at hn
  all_goals first
    | (cases hn; done)
    | (cases hn; simp [Keeps]; done)
    | (cases hn; simp [Keeps, keeps_takeFlit (by assumption)]; done)

theorem keeps_execPortInCredit (c : CoreId) (s : State) (u : State) (hn : execPortInCredit c s = .next u) : Keeps s u := by
  unfold execPortInCredit at hn
  try dsimp only at hn
  repeat' split at hn
  all_goals first
    | (cases hn; done)
    | (cases hn; simp [Keeps]; done)
    | (cases hn; simp [Keeps, keeps_takeFlit (by assumption)]; done)

theorem keeps_execPortOutBeat (c : CoreId) (tag : Fin 4) (beat : OutBeat) (s : State) (u : State) (hn : execPortOutBeat c tag beat s = .next u) : Keeps s u := by
  unfold execPortOutBeat at hn
  try dsimp only at hn
  repeat' split at hn
  all_goals first
    | (cases hn; done)
    | (cases hn; simp [Keeps]; done)
    | (cases hn; simp [Keeps, keeps_takeFlit (by assumption)]; done)

theorem keeps_execPortDone (c : CoreId) (tag : Fin 4) (ok : Bool) (tally : List Byte) (s : State) (u : State) (hn : execPortDone c tag ok tally s = .next u) : Keeps s u := by
  unfold execPortDone at hn
  try dsimp only at hn
  repeat' split at hn
  all_goals first
    | (cases hn; done)
    | (cases hn; simp [Keeps]; done)
    | (cases hn; simp [Keeps, keeps_takeFlit (by assumption)]; done)

theorem keeps_execPortAborted (c : CoreId) (tag : Fin 4) (s : State) (u : State) (hn : execPortAborted c tag s = .next u) : Keeps s u := by
  unfold execPortAborted at hn
  try dsimp only at hn
  repeat' split at hn
  all_goals first
    | (cases hn; done)
    | (cases hn; simp [Keeps]; done)
    | (cases hn; simp [Keeps, keeps_takeFlit (by assumption)]; done)

theorem keeps_execPortTimeout (c : CoreId) (s : State) (u : State) (hn : execPortTimeout c s = .next u) : Keeps s u := by
  unfold execPortTimeout at hn
  try dsimp only at hn
  repeat' split at hn
  all_goals first
    | (cases hn; done)
    | (cases hn; simp [Keeps]; done)
    | (cases hn; simp [Keeps, keeps_takeFlit (by assumption)]; done)

theorem keeps_execSupplyStatusChange (b : BankId) (good : Bool) (s : State) (u : State) (hn : execSupplyStatusChange b good s = .next u) : Keeps s u := by
  unfold execSupplyStatusChange at hn
  try dsimp only at hn
  repeat' split at hn
  all_goals first
    | (cases hn; done)
    | (cases hn; simp [Keeps]; done)
    | (cases hn; simp [Keeps, keeps_takeFlit (by assumption)]; done)

theorem keeps_execBankClockLost (b : BankId) (s : State) (u : State) (hn : execBankClockLost b s = .next u) : Keeps s u := by
  unfold execBankClockLost at hn
  try dsimp only at hn
  repeat' split at hn
  all_goals first
    | (cases hn; done)
    | (cases hn; simp [Keeps]; done)
    | (cases hn; simp [Keeps, keeps_takeFlit (by assumption)]; done)

theorem keeps_execBankClockRunning (b : BankId) (s : State) (u : State) (hn : execBankClockRunning b s = .next u) : Keeps s u := by
  unfold execBankClockRunning at hn
  try dsimp only at hn
  repeat' split at hn
  all_goals first
    | (cases hn; done)
    | (cases hn; simp [Keeps]; done)
    | (cases hn; simp [Keeps, keeps_takeFlit (by assumption)]; done)

theorem keeps_execPinEvent (pin : PinId) (level : Bool) (s : State) (u : State) (hn : execPinEvent pin level s = .next u) : Keeps s u := by
  unfold execPinEvent at hn
  try dsimp only at hn
  repeat' split at hn
  all_goals first
    | (cases hn; done)
    | (cases hn; simp [Keeps]; done)
    | (cases hn; simp [Keeps, keeps_takeFlit (by assumption)]; done)

theorem keeps_execFioEventDeliver (pin : PinId) (s : State) (u : State) (hn : execFioEventDeliver pin s = .next u) : Keeps s u := by
  unfold execFioEventDeliver at hn
  try dsimp only at hn
  repeat' split at hn
  all_goals first
    | (cases hn; done)
    | (cases hn; simp [Keeps]; done)
    | (cases hn; simp [Keeps, keeps_takeFlit (by assumption)]; done)

theorem keeps_execStormWindowExpiry (pin : PinId) (s : State) (u : State) (hn : execStormWindowExpiry pin s = .next u) : Keeps s u := by
  unfold execStormWindowExpiry at hn
  try dsimp only at hn
  repeat' split at hn
  all_goals first
    | (cases hn; done)
    | (cases hn; simp [Keeps]; done)
    | (cases hn; simp [Keeps, keeps_takeFlit (by assumption)]; done)

theorem keeps_execStuckStorm (pin : PinId) (s : State) (u : State) (hn : execStuckStorm pin s = .next u) : Keeps s u := by
  unfold execStuckStorm at hn
  try dsimp only at hn
  repeat' split at hn
  all_goals first
    | (cases hn; done)
    | (cases hn; simp [Keeps]; done)
    | (cases hn; simp [Keeps, keeps_takeFlit (by assumption)]; done)

theorem keeps_execPinRearm (p : Port) (pin : PinId) (s : State) (u : State) (hn : execPinRearm p pin s = .next u) : Keeps s u := by
  unfold execPinRearm at hn
  injection hn with hn
  subst hn
  exact ⟨by simp, now_gated _ _ (fun s h => now_rearm s _ h) (now_pageGate _ _ _ _ _ (Nat.le_refl _))⟩

theorem keeps_execTsloRead (p : Port) (b : BankId) (s : State) (u : State) (hn : execTsloRead p b s = .next u) : Keeps s u := by
  unfold execTsloRead at hn
  try dsimp only at hn
  repeat' split at hn
  all_goals first
    | (cases hn; done)
    | (cases hn; simp [Keeps]; done)
    | (cases hn; simp [Keeps, keeps_takeFlit (by assumption)]; done)

theorem keeps_execChipSwapGo (p : Port) (c : CoreId) (i : Fin 14) (s : State) (u : State) (hn : execChipSwapGo p c i s = .next u) : Keeps s u := by
  unfold execChipSwapGo at hn
  try dsimp only at hn
  repeat' split at hn
  all_goals first
    | (cases hn; done)
    | (cases hn; simp [Keeps]; done)
    | (cases hn; simp [Keeps, keeps_takeFlit (by assumption)]; done)

theorem keeps_execJobSwapGo (p : Port) (c : CoreId) (i : Fin 14) (s : State) (u : State) (hn : execJobSwapGo p c i s = .next u) : Keeps s u := by
  unfold execJobSwapGo at hn
  try dsimp only at hn
  repeat' split at hn
  all_goals first
    | (cases hn; done)
    | (cases hn; simp [Keeps]; done)
    | (cases hn; simp [Keeps, keeps_takeFlit (by assumption)]; done)

theorem keeps_execSwapCancel (p : Port) (c : CoreId) (i : Fin 14) (s : State) (u : State) (hn : execSwapCancel p c i s = .next u) : Keeps s u := by
  unfold execSwapCancel at hn
  try dsimp only at hn
  repeat' split at hn
  all_goals first
    | (cases hn; done)
    | (cases hn; simp [Keeps]; done)
    | (cases hn; simp [Keeps, keeps_takeFlit (by assumption)]; done)

theorem keeps_execSwapHold (c : CoreId) (s : State) (u : State) (hn : execSwapHold c s = .next u) : Keeps s u := by
  unfold execSwapHold at hn
  try dsimp only at hn
  repeat' split at hn
  all_goals first
    | (cases hn; done)
    | (cases hn; simp [Keeps]; done)
    | (cases hn; simp [Keeps, keeps_takeFlit (by assumption)]; done)

theorem keeps_execQuiet (c : CoreId) (s : State) (u : State) (hn : execQuiet c s = .next u) : Keeps s u := by
  unfold execQuiet at hn
  try dsimp only at hn
  repeat' split at hn
  all_goals first
    | (cases hn; done)
    | (cases hn; simp [Keeps]; done)
    | (cases hn; simp [Keeps, keeps_takeFlit (by assumption)]; done)

theorem keeps_execQuietReceived (c : CoreId) (s : State) (u : State) (hn : execQuietReceived c s = .next u) : Keeps s u := by
  unfold execQuietReceived at hn
  try dsimp only at hn
  repeat' split at hn
  all_goals first
    | (cases hn; done)
    | (cases hn; simp [Keeps]; done)
    | (cases hn; simp [Keeps, keeps_takeFlit (by assumption)]; done)

theorem keeps_execSwapat (c : CoreId) (s : State) (u : State) (hn : execSwapat c s = .next u) : Keeps s u := by
  unfold execSwapat at hn
  try dsimp only at hn
  repeat' split at hn
  all_goals first
    | (cases hn; done)
    | (cases hn; simp [Keeps]; done)
    | (cases hn; simp [Keeps, keeps_takeFlit (by assumption)]; done)

theorem keeps_execSwapExchange (t : TenantId) (s : State) (u : State) (hn : execSwapExchange t s = .next u) : Keeps s u := by
  unfold execSwapExchange at hn
  injection hn with hn
  subst hn
  split
  · rename_i w _
    split
    · rename_i at_ _
      dsimp only
      split
      · exact Keeps.refl s
      · have h1 : Keeps s (atLeast s at_) := by simp [Keeps]
        have h2 := h1.trans (keeps_exchangeParts (atLeast s at_) (atLeast s at_).now w.parts)
        repeat' split
        all_goals exact h2.trans (by simp [Keeps])
    · exact Keeps.refl s
  · exact Keeps.refl s

theorem keeps_execHoldRelease (t : TenantId) (s : State) (u : State) (hn : execHoldRelease t s = .next u) : Keeps s u := by
  unfold execHoldRelease at hn
  try dsimp only at hn
  repeat' split at hn
  all_goals first
    | (cases hn; done)
    | (cases hn; simp [Keeps]; done)
    | (cases hn; simp [Keeps, keeps_takeFlit (by assumption)]; done)

theorem keeps_execSwapTimeout (t : TenantId) (s : State) (u : State) (hn : execSwapTimeout t s = .next u) : Keeps s u := by
  unfold execSwapTimeout at hn
  try dsimp only at hn
  repeat' split at hn
  all_goals first
    | (cases hn; done)
    | (cases hn; simp [Keeps]; done)
    | (cases hn; simp [Keeps, keeps_takeFlit (by assumption)]; done)

theorem keeps_execSwapReleaseCommand (c : CoreId) (s : State) (u : State) (hn : execSwapReleaseCommand c s = .next u) : Keeps s u := by
  unfold execSwapReleaseCommand at hn
  try dsimp only at hn
  repeat' split at hn
  all_goals first
    | (cases hn; done)
    | (cases hn; simp [Keeps]; done)
    | (cases hn; simp [Keeps, keeps_takeFlit (by assumption)]; done)

theorem keeps_execCmdPrepare (src : CmdSrc) (_r : Unit) (s : State) (u : State) (hn : execCmdPrepare src _r s = .next u) : Keeps s u := by
  refine keeps_chipCommand (fun s j c b => ?_) hn
  simp [Keeps]

theorem keeps_execCmdReady (src : CmdSrc) (_r : Unit) (s : State) (u : State) (hn : execCmdReady src _r s = .next u) : Keeps s u := by
  refine keeps_chipCommand (fun s j c b => ?_) hn
  simp [Keeps]

theorem keeps_execCmdCommit (src : CmdSrc) (_r : Unit) (s : State) (u : State) (hn : execCmdCommit src _r s = .next u) : Keeps s u := by
  refine keeps_chipCommand (fun s j c b => ?_) hn
  simp [Keeps]

theorem keeps_execCmdDone (src : CmdSrc) (_r : Unit) (s : State) (u : State) (hn : execCmdDone src _r s = .next u) : Keeps s u := by
  refine keeps_chipCommand (fun s j c b => ?_) hn
  simp [Keeps]

theorem keeps_execCmdRelease (src : CmdSrc) (_r : Unit) (s : State) (u : State) (hn : execCmdRelease src _r s = .next u) : Keeps s u := by
  refine keeps_chipCommand (fun s j c b => ?_) hn
  simp only [takeRelease]
  repeat' split
  all_goals simp [Keeps]

theorem keeps_execCmdAbort (src : CmdSrc) (_r : Unit) (s : State) (u : State) (hn : execCmdAbort src _r s = .next u) : Keeps s u := by
  refine keeps_chipCommand (fun s j c b => ?_) hn
  simp [Keeps]

theorem keeps_execCmdSwapreq (src : CmdSrc) (s : State) (u : State) (hn : execCmdSwapreq src s = .next u) : Keeps s u := by
  refine keeps_chipCommand (fun s j c b => ?_) hn
  simp [Keeps]

theorem keeps_execReadyTimeout (job : Word) (s : State) (u : State) (hn : execReadyTimeout job s = .next u) : Keeps s u := by
  unfold execReadyTimeout at hn
  try dsimp only at hn
  repeat' split at hn
  all_goals first
    | (cases hn; done)
    | (cases hn; simp [Keeps]; done)
    | (cases hn; simp [Keeps, keeps_takeFlit (by assumption)]; done)

theorem keeps_execDoneTimeout (job : Word) (s : State) (u : State) (hn : execDoneTimeout job s = .next u) : Keeps s u := by
  unfold execDoneTimeout at hn
  try dsimp only at hn
  repeat' split at hn
  all_goals first
    | (cases hn; done)
    | (cases hn; simp [Keeps]; done)
    | (cases hn; simp [Keeps, keeps_takeFlit (by assumption)]; done)

theorem keeps_execCmdSeed (src : CmdSrc) (_r0 : Unit) (_r1 : Unit) (s : State) (u : State) (hn : execCmdSeed src _r0 _r1 s = .next u) : Keeps s u := by
  refine keeps_chipCommand (fun s j c b => ?_) hn
  simp [Keeps]

theorem keeps_execCmdEpoch (src : CmdSrc) (_r : Unit) (s : State) (u : State) (hn : execCmdEpoch src _r s = .next u) : Keeps s u := by
  refine keeps_chipCommand (fun s j c b => ?_) hn
  simp [Keeps]

theorem keeps_execCmdArrive (src : CmdSrc) (_r : Unit) (s : State) (u : State) (hn : execCmdArrive src _r s = .next u) : Keeps s u := by
  refine keeps_chipCommand (fun s j c b => ?_) hn
  simp [Keeps]

theorem keeps_execCmdPass (src : CmdSrc) (_r : Unit) (s : State) (u : State) (hn : execCmdPass src _r s = .next u) : Keeps s u := by
  refine keeps_chipCommand (fun s j c b => ?_) hn
  simp [Keeps]

theorem keeps_execJobcmdSeed (p : Port) (c : CoreId) (s : State) (u : State) (hn : execJobcmdSeed p c s = .next u) : Keeps s u := by
  injection hn with hn
  subst hn
  exact keeps_coreWrite _ _ _ _ _ _ fun s => by simp [Keeps]

theorem keeps_execJobcmdEpoch (p : Port) (c : CoreId) (v : BitVec 16) (s : State) (u : State) (hn : execJobcmdEpoch p c v s = .next u) : Keeps s u := by
  injection hn with hn
  subst hn
  exact keeps_coreWrite _ _ _ _ _ _ fun s => by simp [Keeps]

theorem keeps_execBarrierCoreArrive (c : CoreId) (s : State) (u : State) (hn : execBarrierCoreArrive c s = .next u) : Keeps s u := by
  unfold execBarrierCoreArrive at hn
  try dsimp only at hn
  repeat' split at hn
  all_goals first
    | (cases hn; done)
    | (cases hn; simp [Keeps]; done)
    | (cases hn; simp [Keeps, keeps_takeFlit (by assumption)]; done)

theorem keeps_execImageLoad (p : Port) (c : CoreId) (v : Word) (s : State) (u : State) (hn : execImageLoad p c v s = .next u) : Keeps s u := by
  unfold execImageLoad at hn
  try dsimp only at hn
  repeat' split at hn
  all_goals first
    | (cases hn; done)
    | (cases hn; simp [Keeps]; done)
    | (cases hn; simp [Keeps, keeps_takeFlit (by assumption)]; done)

theorem keeps_execGroveBlank (p : Port) (c : CoreId) (s : State) (u : State) (hn : execGroveBlank p c s = .next u) : Keeps s u := by
  unfold execGroveBlank at hn
  try dsimp only at hn
  repeat' split at hn
  all_goals first
    | (cases hn; done)
    | (cases hn; simp [Keeps]; done)
    | (cases hn; simp [Keeps, keeps_takeFlit (by assumption)]; done)

theorem keeps_execGroveBlankDone (c : CoreId) (s : State) (u : State) (hn : execGroveBlankDone c s = .next u) : Keeps s u := by
  unfold execGroveBlankDone at hn
  try dsimp only at hn
  repeat' split at hn
  all_goals first
    | (cases hn; done)
    | (cases hn; simp [Keeps]; done)
    | (cases hn; simp [Keeps, keeps_takeFlit (by assumption)]; done)

theorem keeps_execStagingComplete (c : CoreId) (_r : Unit) (s : State) (u : State) (hn : execStagingComplete c _r s = .next u) : Keeps s u := by
  unfold execStagingComplete at hn
  try dsimp only at hn
  repeat' split at hn
  all_goals first
    | (cases hn; done)
    | (cases hn; simp [Keeps]; done)
    | (cases hn; simp [Keeps, keeps_takeFlit (by assumption)]; done)

theorem keeps_execPass1Complete (c : CoreId) (s : State) (u : State) (hn : execPass1Complete c s = .next u) : Keeps s u := by
  unfold execPass1Complete at hn
  try dsimp only at hn
  repeat' split at hn
  all_goals first
    | (cases hn; done)
    | (cases hn; simp [Keeps]; done)
    | (cases hn; simp [Keeps, keeps_takeFlit (by assumption)]; done)

theorem keeps_execQuiesceComplete (c : CoreId) (s : State) (u : State) (hn : execQuiesceComplete c s = .next u) : Keeps s u := by
  unfold execQuiesceComplete at hn
  try dsimp only at hn
  repeat' split at hn
  all_goals first
    | (cases hn; done)
    | (cases hn; simp [Keeps]; done)
    | (cases hn; simp [Keeps, keeps_takeFlit (by assumption)]; done)

theorem keeps_execImageRelease (c : CoreId) (s : State) (u : State) (hn : execImageRelease c s = .next u) : Keeps s u := by
  unfold execImageRelease at hn
  try dsimp only at hn
  repeat' split at hn
  all_goals first
    | (cases hn; done)
    | (cases hn; simp [Keeps]; done)
    | (cases hn; simp [Keeps, keeps_takeFlit (by assumption)]; done)

theorem keeps_execFrameRefetchDone (c : CoreId) (_r : Unit) (s : State) (u : State) (hn : execFrameRefetchDone c _r s = .next u) : Keeps s u := by
  unfold execFrameRefetchDone at hn
  try dsimp only at hn
  repeat' split at hn
  all_goals first
    | (cases hn; done)
    | (cases hn; simp [Keeps]; done)
    | (cases hn; simp [Keeps, keeps_takeFlit (by assumption)]; done)

theorem keeps_execScrubPassStart (c : CoreId) (s : State) (u : State) (hn : execScrubPassStart c s = .next u) : Keeps s u := by
  unfold execScrubPassStart at hn
  try dsimp only at hn
  repeat' split at hn
  all_goals first
    | (cases hn; done)
    | (cases hn; simp [Keeps]; done)
    | (cases hn; simp [Keeps, keeps_takeFlit (by assumption)]; done)

theorem keeps_execScrubForce (p : Port) (c : CoreId) (s : State) (u : State) (hn : execScrubForce p c s = .next u) : Keeps s u := by
  unfold execScrubForce at hn
  try dsimp only at hn
  repeat' split at hn
  all_goals first
    | (cases hn; done)
    | (cases hn; simp [Keeps]; done)
    | (cases hn; simp [Keeps, keeps_takeFlit (by assumption)]; done)

theorem keeps_execScrubFrameRead (c : CoreId) (observed : List Byte) (sig : EccResult) (s : State) (u : State) (hn : execScrubFrameRead c observed sig s = .next u) : Keeps s u := by
  unfold execScrubFrameRead at hn
  split at hn
  · cases hn
  · dsimp only at hn
    injection hn with hn
    subst hn
    repeat' split
    all_goals simp [Keeps]

theorem keeps_execScrubRepairDone (c : CoreId) (_r : Unit) (s : State) (u : State) (hn : execScrubRepairDone c _r s = .next u) : Keeps s u := by
  unfold execScrubRepairDone at hn
  try dsimp only at hn
  repeat' split at hn
  all_goals first
    | (cases hn; done)
    | (cases hn; simp [Keeps]; done)
    | (cases hn; simp [Keeps, keeps_takeFlit (by assumption)]; done)

theorem keeps_execTmrVote (c : CoreId) (item : TmrItem) (a b d : Word) (s : State) (u : State) (hn : execTmrVote c item a b d s = .next u) : Keeps s u := by
  unfold execTmrVote at hn
  try dsimp only at hn
  repeat' split at hn
  all_goals first
    | (cases hn; done)
    | (cases hn; simp [Keeps]; done)
    | (cases hn; simp [Keeps, keeps_takeFlit (by assumption)]; done)

theorem keeps_execTenCtrlWrite (p : Port) (t : TenantId) (v : Word) (s : State) (u : State) (hn : execTenCtrlWrite p t v s = .next u) : Keeps s u := by
  unfold execTenCtrlWrite at hn
  try dsimp only at hn
  repeat' split at hn
  all_goals first
    | (cases hn; done)
    | (cases hn; simp [Keeps]; done)
    | (cases hn; simp [Keeps, keeps_takeFlit (by assumption)]; done)

theorem keeps_execTenAsidWrite (p : Port) (t : TenantId) (v : Word) (s : State) (u : State) (hn : execTenAsidWrite p t v s = .next u) : Keeps s u := by
  unfold execTenAsidWrite at hn
  try dsimp only at hn
  repeat' split at hn
  all_goals first
    | (cases hn; done)
    | (cases hn; simp [Keeps]; done)
    | (cases hn; simp [Keeps, keeps_takeFlit (by assumption)]; done)

theorem keeps_execCoreAssign (p : Port) (c : CoreId) (v : Word) (s : State) (u : State) (hn : execCoreAssign p c v s = .next u) : Keeps s u := by
  unfold execCoreAssign at hn
  try dsimp only at hn
  repeat' split at hn
  all_goals first
    | (cases hn; done)
    | (cases hn; simp [Keeps]; done)
    | (cases hn; simp [Keeps, keeps_takeFlit (by assumption)]; done)

theorem keeps_execCoreRelease (p : Port) (c : CoreId) (v : Word) (s : State) (u : State) (hn : execCoreRelease p c v s = .next u) : Keeps s u := by
  unfold execCoreRelease at hn
  try dsimp only at hn
  repeat' split at hn
  all_goals first
    | (cases hn; done)
    | (cases hn; simp [Keeps]; done)
    | (cases hn; simp [Keeps, keeps_takeFlit (by assumption)]; done)

theorem keeps_execMailboxDoorbell (p : Port) (slot : BitVec 6) (s : State) (u : State) (hn : execMailboxDoorbell p slot s = .next u) : Keeps s u := by
  unfold execMailboxDoorbell at hn
  try dsimp only at hn
  repeat' split at hn
  all_goals first
    | (cases hn; done)
    | (cases hn; simp [Keeps]; done)
    | (cases hn; simp [Keeps, keeps_takeFlit (by assumption)]; done)

theorem keeps_execMailboxTake (block : List Byte) (s : State) (u : State) (hn : execMailboxTake block s = .next u) : Keeps s u := by
  unfold execMailboxTake at hn
  try dsimp only at hn
  repeat' split at hn
  all_goals first
    | (cases hn; done)
    | (cases hn; simp [Keeps]; done)
    | (cases hn; simp [Keeps, keeps_takeFlit (by assumption)]; done)

theorem keeps_execLoadJob (t : TenantId) (slot : BitVec 6) (manifest : List Byte) (imageHdrs : List (List Byte)) (s : State) (u : State) (hn : execLoadJob t slot manifest imageHdrs s = .next u) : Keeps s u := by
  unfold execLoadJob at hn
  try dsimp only at hn
  repeat' split at hn
  all_goals first
    | (cases hn; done)
    | (cases hn; simp [Keeps]; done)
    | (cases hn; simp [Keeps, keeps_takeFlit (by assumption)]; done)

theorem keeps_execEndJob (t : TenantId) (slot : BitVec 6) (s : State) (u : State) (hn : execEndJob t slot s = .next u) : Keeps s u := by
  unfold execEndJob at hn
  try dsimp only at hn
  repeat' split at hn
  all_goals first
    | (cases hn; done)
    | (cases hn; simp [Keeps]; done)
    | (cases hn; simp [Keeps, keeps_takeFlit (by assumption)]; done)

theorem keeps_execEndJobAnswer (t : TenantId) (slot : BitVec 6) (s : State) (u : State) (hn : execEndJobAnswer t slot s = .next u) : Keeps s u := by
  unfold execEndJobAnswer at hn
  try dsimp only at hn
  repeat' split at hn
  all_goals first
    | (cases hn; done)
    | (cases hn; simp [Keeps]; done)
    | (cases hn; simp [Keeps, keeps_takeFlit (by assumption)]; done)

theorem keeps_execLoadImage (t : TenantId) (slot : BitVec 6) (header : List Byte) (s : State) (u : State) (hn : execLoadImage t slot header s = .next u) : Keeps s u := by
  unfold execLoadImage at hn
  try dsimp only at hn
  repeat' split at hn
  all_goals first
    | (cases hn; done)
    | (cases hn; simp [Keeps]; done)
    | (cases hn; simp [Keeps, keeps_takeFlit (by assumption)]; done)

theorem keeps_execMbxSuspend (t : TenantId) (slot : BitVec 6) (s : State) (u : State) (hn : execMbxSuspend t slot s = .next u) : Keeps s u := by
  unfold execMbxSuspend at hn
  try dsimp only at hn
  repeat' split at hn
  all_goals first
    | (cases hn; done)
    | (cases hn; simp [Keeps]; done)
    | (cases hn; simp [Keeps, keeps_takeFlit (by assumption)]; done)

theorem keeps_execQuery (t : TenantId) (slot : BitVec 6) (s : State) (u : State) (hn : execQuery t slot s = .next u) : Keeps s u := by
  unfold execQuery at hn
  try dsimp only at hn
  repeat' split at hn
  all_goals first
    | (cases hn; done)
    | (cases hn; simp [Keeps]; done)
    | (cases hn; simp [Keeps, keeps_takeFlit (by assumption)]; done)

theorem keeps_execParityError (c : CoreId) (wordNo : Fin 196608) (mask : Word) (reader : ParityReader) (s : State) (u : State) (hn : execParityError c wordNo mask reader s = .next u) : Keeps s u := by
  unfold execParityError at hn
  try dsimp only at hn
  repeat' split at hn
  all_goals first
    | (cases hn; done)
    | (cases hn; simp [Keeps]; done)
    | (cases hn; simp [Keeps, keeps_takeFlit (by assumption)]; done)

theorem keeps_execErrRecRead (p : Port) (c : CoreId) (s : State) (u : State) (hn : execErrRecRead p c s = .next u) : Keeps s u := by
  unfold execErrRecRead at hn
  try dsimp only at hn
  repeat' split at hn
  all_goals first
    | (cases hn; done)
    | (cases hn; simp [Keeps]; done)
    | (cases hn; simp [Keeps, keeps_takeFlit (by assumption)]; done)

theorem keeps_execErrPop (p : Port) (c : CoreId) (seq : Byte) (s : State) (u : State) (hn : execErrPop p c seq s = .next u) : Keeps s u := by
  unfold execErrPop at hn
  try dsimp only at hn
  repeat' split at hn
  all_goals first
    | (cases hn; done)
    | (cases hn; simp [Keeps]; done)
    | (cases hn; simp [Keeps, keeps_takeFlit (by assumption)]; done)

theorem keeps_execFifoOvfClear (p : Port) (c : CoreId) (s : State) (u : State) (hn : execFifoOvfClear p c s = .next u) : Keeps s u := by
  unfold execFifoOvfClear at hn
  try dsimp only at hn
  repeat' split at hn
  all_goals first
    | (cases hn; done)
    | (cases hn; simp [Keeps]; done)
    | (cases hn; simp [Keeps, keeps_takeFlit (by assumption)]; done)

theorem keeps_execCruiseStepStart (c : CoreId) (s : State) (u : State) (hn : execCruiseStepStart c s = .next u) : Keeps s u := by
  unfold execCruiseStepStart at hn
  try dsimp only at hn
  repeat' split at hn
  all_goals first
    | (cases hn; done)
    | (cases hn; simp [Keeps]; done)
    | (cases hn; simp [Keeps, keeps_takeFlit (by assumption)]; done)

theorem keeps_execCruiseStepDone (c : CoreId) (r : CruiseResult) (s : State) (u : State) (hn : execCruiseStepDone c r s = .next u) : Keeps s u := by
  unfold execCruiseStepDone at hn
  try dsimp only at hn
  repeat' split at hn
  all_goals first
    | (cases hn; done)
    | (cases hn; simp [Keeps]; done)
    | (cases hn; simp [Keeps, keeps_takeFlit (by assumption)]; done)

theorem keeps_execCruisePreempt (c : CoreId) (s : State) (u : State) (hn : execCruisePreempt c s = .next u) : Keeps s u := by
  unfold execCruisePreempt at hn
  try dsimp only at hn
  repeat' split at hn
  all_goals first
    | (cases hn; done)
    | (cases hn; simp [Keeps]; done)
    | (cases hn; simp [Keeps, keeps_takeFlit (by assumption)]; done)

theorem keeps_execFellCommand (p : Port) (c : BitVec 11) (s : State) (u : State) (hn : execFellCommand p c s = .next u) : Keeps s u := by
  unfold execFellCommand at hn
  try dsimp only at hn
  repeat' split at hn
  all_goals first
    | (cases hn; done)
    | (cases hn; simp [Keeps]; done)
    | (cases hn; simp [Keeps, keeps_takeFlit (by assumption)]; done)

theorem keeps_execRestoreCommand (p : Port) (c : BitVec 11) (s : State) (u : State) (hn : execRestoreCommand p c s = .next u) : Keeps s u := by
  unfold execRestoreCommand at hn
  try dsimp only at hn
  repeat' split at hn
  all_goals first
    | (cases hn; done)
    | (cases hn; simp [Keeps]; done)
    | (cases hn; simp [Keeps, keeps_takeFlit (by assumption)]; done)

theorem keeps_execJnlRddataRead (p : Port) (s : State) (u : State) (hn : execJnlRddataRead p s = .next u) : Keeps s u := by
  unfold execJnlRddataRead at hn
  try dsimp only at hn
  repeat' split at hn
  all_goals first
    | (cases hn; done)
    | (cases hn; simp [Keeps]; done)
    | (cases hn; simp [Keeps, keeps_takeFlit (by assumption)]; done)

theorem keeps_execAutoDoze (c : CoreId) (s : State) (u : State) (hn : execAutoDoze c s = .next u) : Keeps s u := by
  unfold execAutoDoze at hn
  try dsimp only at hn
  repeat' split at hn
  all_goals first
    | (cases hn; done)
    | (cases hn; simp [Keeps]; done)
    | (cases hn; simp [Keeps, keeps_takeFlit (by assumption)]; done)

theorem keeps_execAutoSleep (c : CoreId) (s : State) (u : State) (hn : execAutoSleep c s = .next u) : Keeps s u := by
  unfold execAutoSleep at hn
  try dsimp only at hn
  repeat' split at hn
  all_goals first
    | (cases hn; done)
    | (cases hn; simp [Keeps]; done)
    | (cases hn; simp [Keeps, keeps_takeFlit (by assumption)]; done)

theorem keeps_execStateEntryDone (c : CoreId) (s : State) (u : State) (hn : execStateEntryDone c s = .next u) : Keeps s u := by
  unfold execStateEntryDone at hn
  try dsimp only at hn
  repeat' split at hn
  all_goals first
    | (cases hn; done)
    | (cases hn; simp [Keeps]; done)
    | (cases hn; simp [Keeps, keeps_takeFlit (by assumption)]; done)

theorem keeps_execTargetDoze (p : Port) (c : CoreId) (s : State) (u : State) (hn : execTargetDoze p c s = .next u) : Keeps s u := by
  unfold execTargetDoze at hn
  try dsimp only at hn
  repeat' split at hn
  all_goals first
    | (cases hn; done)
    | (cases hn; simp [Keeps]; done)
    | (cases hn; simp [Keeps, keeps_takeFlit (by assumption)]; done)

theorem keeps_execTargetSleep (p : Port) (c : CoreId) (s : State) (u : State) (hn : execTargetSleep p c s = .next u) : Keeps s u := by
  unfold execTargetSleep at hn
  try dsimp only at hn
  repeat' split at hn
  all_goals first
    | (cases hn; done)
    | (cases hn; simp [Keeps]; done)
    | (cases hn; simp [Keeps, keeps_takeFlit (by assumption)]; done)

theorem keeps_execTargetShut (p : Port) (c : CoreId) (s : State) (u : State) (hn : execTargetShut p c s = .next u) : Keeps s u := by
  unfold execTargetShut at hn
  try dsimp only at hn
  repeat' split at hn
  all_goals first
    | (cases hn; done)
    | (cases hn; simp [Keeps]; done)
    | (cases hn; simp [Keeps, keeps_takeFlit (by assumption)]; done)

theorem keeps_execTargetActive (p : Port) (c : CoreId) (s : State) (u : State) (hn : execTargetActive p c s = .next u) : Keeps s u := by
  unfold execTargetActive at hn
  try dsimp only at hn
  repeat' split at hn
  all_goals first
    | (cases hn; done)
    | (cases hn; simp [Keeps]; done)
    | (cases hn; simp [Keeps, keeps_takeFlit (by assumption)]; done)

theorem keeps_execWakeComplete (c : CoreId) (s : State) (u : State) (hn : execWakeComplete c s = .next u) : Keeps s u := by
  unfold execWakeComplete at hn
  try dsimp only at hn
  repeat' split at hn
  all_goals first
    | (cases hn; done)
    | (cases hn; simp [Keeps]; done)
    | (cases hn; simp [Keeps, keeps_takeFlit (by assumption)]; done)

theorem keeps_execCorePowerupTimeout (c : CoreId) (s : State) (u : State) (hn : execCorePowerupTimeout c s = .next u) : Keeps s u := by
  unfold execCorePowerupTimeout at hn
  try dsimp only at hn
  repeat' split at hn
  all_goals first
    | (cases hn; done)
    | (cases hn; simp [Keeps]; done)
    | (cases hn; simp [Keeps, keeps_takeFlit (by assumption)]; done)

theorem keeps_execIllegalPageAccess (p : Port) (addr : BitVec 44) (width : Nat) (write : Bool) (s : State) (u : State) (hn : execIllegalPageAccess p addr width write s = .next u) : Keeps s u := by
  unfold execIllegalPageAccess at hn
  try dsimp only at hn
  repeat' split at hn
  all_goals first
    | (cases hn; done)
    | (cases hn; simp [Keeps]; done)
    | (cases hn; simp [Keeps, keeps_takeFlit (by assumption)]; done)

theorem keeps_execShcopy (p : Port) (pg : PageRef) (s : State) (u : State) (hn : execShcopy p pg s = .next u) : Keeps s u := by
  unfold execShcopy at hn
  try dsimp only at hn
  repeat' split at hn
  all_goals first
    | (cases hn; done)
    | (cases hn; simp [Keeps]; done)
    | (cases hn; simp [Keeps, keeps_takeFlit (by assumption)]; done)

theorem keeps_execCntclr (p : Port) (pg : PageRef) (s : State) (u : State) (hn : execCntclr p pg s = .next u) : Keeps s u := by
  unfold execCntclr at hn
  try dsimp only at hn
  repeat' split at hn
  all_goals first
    | (cases hn; done)
    | (cases hn; simp [Keeps]; done)
    | (cases hn; simp [Keeps, keeps_takeFlit (by assumption)]; done)

theorem keeps_execErrClr (p : Port) (pg : PageRef) (s : State) (u : State) (hn : execErrClr p pg s = .next u) : Keeps s u := by
  unfold execErrClr at hn
  try dsimp only at hn
  repeat' split at hn
  all_goals first
    | (cases hn; done)
    | (cases hn; simp [Keeps]; done)
    | (cases hn; simp [Keeps, keeps_takeFlit (by assumption)]; done)

theorem keeps_execRtimeLoRead (p : Port) (s : State) (u : State) (hn : execRtimeLoRead p s = .next u) : Keeps s u := by
  unfold execRtimeLoRead at hn
  try dsimp only at hn
  repeat' split at hn
  all_goals first
    | (cases hn; done)
    | (cases hn; simp [Keeps]; done)
    | (cases hn; simp [Keeps, keeps_takeFlit (by assumption)]; done)

end Sys2Proof.Machine
end

