-- ==== Sys2Proof/Laws/Moves.lean ====
section
/-! SUPPORT. What the commands of the journal, of the key store, of reset and the general register write do to the parts that the other commands keep. -/

namespace Sys2Proof.Machine

/-- From s to t a locked key store keeps its lock, its key and its staged words. -/
def LockedStay (k k' : Keys) : Prop :=
  k.lock = true → k'.lock = true ∧ k'.reg = k.reg ∧ k'.regValid = k.regValid ∧ k'.staged = k.staged

/-- From s to t the queue, the origin of time and the boot record stay, time does not run back, the MRAM stays canonical, and a locked key store stays. -/
def Moves (s t : State) : Prop :=
  t.pending = s.pending ∧ s.now ≤ t.now ∧ t.origin = s.origin ∧ t.boot = s.boot ∧ (s.jnl.mram.wf = true → t.jnl.mram.wf = true) ∧ LockedStay s.keys t.keys

/-- An unchanged store stays. -/
theorem LockedStay.refl (k : Keys) : LockedStay k k := fun h => ⟨h, rfl, rfl, rfl⟩

/-- A chain of two. -/
theorem LockedStay.trans {k l m : Keys} (h : LockedStay k l) (g : LockedStay l m) : LockedStay k m := fun hk =>
  ⟨(g (h hk).1).1, (g (h hk).1).2.1.trans (h hk).2.1, (g (h hk).1).2.2.1.trans (h hk).2.2.1, (g (h hk).1).2.2.2.trans (h hk).2.2.2⟩

/-- Nothing moves nothing. -/
theorem Moves.refl (s : State) : Moves s s := ⟨rfl, Nat.le_refl _, rfl, rfl, id, LockedStay.refl _⟩

/-- A chain of two. -/
theorem Moves.trans {s t u : State} (h : Moves s t) (g : Moves t u) : Moves s u :=
  ⟨g.1.trans h.1, Nat.le_trans h.2.1 g.2.1, g.2.2.1.trans h.2.2.1, g.2.2.2.1.trans h.2.2.2.1, fun w => g.2.2.2.2.1 (h.2.2.2.2.1 w), h.2.2.2.2.2.trans g.2.2.2.2.2⟩

/-- The parts of the rest, one by one. -/
theorem rest_parts {s t : State} (h : t.rest = s.rest) :
    t.pending = s.pending ∧ t.origin = s.origin ∧ t.boot = s.boot ∧ t.keys = s.keys ∧ t.jnl.mram = s.jnl.mram := by
  simp only [State.rest, State.base, Prod.mk.injEq] at h
  exact ⟨h.1.1, h.1.2.1, h.1.2.2, h.2.1, h.2.2⟩

/-- What keeps moves. -/
theorem moves_of_keeps {s t : State} (h : Keeps s t) : Moves s t := by
  obtain ⟨h1, h2, h3, h4, h5⟩ := rest_parts h.1
  exact ⟨h1, h.2, h2, h3, fun w => by rw [h5]; exact w, by rw [h4]; exact LockedStay.refl _⟩

/-- The gate of a page keeps. -/
theorem keeps_pageGate (s : State) (p : Port) (pg : PageRef) (off : Nat) (wr : Bool) : Keeps s (pageGate s p pg off wr).1 := by
  simp [Keeps]

/-- What leaves the rest and the time moves. -/
theorem moves_of_eq {s t : State} (h : t.rest = s.rest) (g : t.now = s.now) : Moves s t := moves_of_keeps ⟨h, Nat.le_of_eq g.symm⟩

/-- An event bit moves. -/
theorem moves_evSet (s : State) (b : Nat) : Moves s (evSet s b) := moves_of_eq (rest_evSet s b) (now_evSet s b)

/-- A counter of the JNL page moves. -/
theorem moves_jnlBump (s : State) (n amt : Nat) : Moves s (jnlBump s n amt) := moves_of_eq (rest_jnlBump s n amt) (now_jnlBump s n amt)

/-- The MRAM stays canonical when bytes are appended (R427). -/
theorem jnlStore_wf (j : Journal) (h off : Nat) (bs : List Byte) (hw : j.mram.wf = true) : (jnlStore j h off bs).mram.wf = true := memWrite_wf _ _ _ hw

/-! The journal (R427, R428). -/

/-- A change of the journal that keeps the MRAM canonical moves. -/
theorem moves_modJnl (s : State) (f : Journal → Journal) (hf : ∀ j : Journal, j.mram.wf = true → (f j).mram.wf = true) : Moves s (modJnl s f) :=
  ⟨rfl, Nat.le_refl _, rfl, rfl, hf s.jnl, LockedStay.refl _⟩

/-- Waiting moves. -/
theorem moves_atLeast (s : State) (n : Nat) : Moves s (atLeast s n) := moves_of_keeps ⟨rest_atLeast s n, now_atLeast s n⟩

/-- A change of the keys that a lock stops moves. -/
theorem moves_modKeys (s : State) (f : Keys → Keys) (hf : LockedStay s.keys (f s.keys)) : Moves s (modKeys s f) := ⟨rfl, Nat.le_refl _, rfl, rfl, id, hf⟩

/-- A gated effect that moves, moves. -/
theorem moves_gated {s : State} {g : State × Bool} {f : State → State} (hg : Keeps s g.1) (hf : ∀ s, Moves s (f s)) : Moves s (gated g f) := by
  unfold gated
  split
  · exact (moves_of_keeps hg).trans (hf g.1)
  · exact moves_of_keeps hg

/-- A snapshot without records. -/
theorem writeSnap_nil (s : State) : writeSnap s [] = s := by
  unfold writeSnap
  rfl

/-- The first record of a snapshot, then the others (R428). -/
theorem writeSnap_cons (s : State) (ty : Nat) (p : List Byte) (rs : List (Nat × List Byte)) :
    writeSnap s ((ty, p) :: rs) = writeSnap (jnlBump (modJnl s fun j =>
      { jnlStore j (1 - j.half) j.snapFill (recordBytes ty j.seq j.boot (word ((s.jnl.snapSince + writeTime s.jnl.snapFill - s.origin) / 17)) p) with
        snapFill := j.snapFill + recLen ty, seq := (j.seq + 1) % 2 ^ 32 }) 0) rs := by
  conv => lhs; unfold writeSnap

/-- Writing a snapshot moves. -/
theorem moves_writeSnap (rs : List (Nat × List Byte)) (s : State) : Moves s (writeSnap s rs) := by
  induction rs generalizing s with
  | nil =>
    rw [writeSnap_nil]
    exact Moves.refl s
  | cons r rs ih =>
    obtain ⟨ty, p⟩ := r
    rw [writeSnap_cons]
    refine Moves.trans ?_ (ih _)
    refine Moves.trans ?_ (moves_jnlBump _ _ _)
    exact moves_modJnl s _ fun j h => memWrite_wf _ _ _ h

/-- A compaction that begins moves. -/
theorem moves_startCompaction (s : State) : Moves s (startCompaction s) := by
  unfold startCompaction
  split
  · exact moves_modJnl s _ fun j h => h
  · dsimp only
    generalize (scanOf s.jnl s.jnl.half).1 = rs
    refine Moves.trans ?_ (moves_evSet _ _)
    refine Moves.trans ?_ (moves_writeSnap _ _)
    exact moves_modJnl s _ fun j h => h

/-- The check of the fill moves. -/
theorem moves_checkFill (s : State) : Moves s (checkFill s) := by
  unfold checkFill
  split
  · exact moves_startCompaction s
  · exact Moves.refl s

/-- Admitting FENCE records moves. -/
theorem moves_admitFences (s : State) : Moves s (admitFences s) := by
  unfold admitFences
  repeat' split
  · exact moves_modJnl s _ fun j h => h
  · exact Moves.refl s
  · exact Moves.refl s

/-- JOURNAL_WRITE_DONE moves. -/
theorem moves_execJournalWriteDone (s u : State) (h : execJournalWriteDone s = .next u) : Moves s u := by
  unfold execJournalWriteDone at h
  dsimp only at h
  repeat' split at h
  all_goals cases h
  · exact Moves.refl s
  · refine Moves.trans ?_ (moves_checkFill _)
    refine Moves.trans ?_ (moves_evSet _ _)
    refine Moves.trans ?_ (moves_admitFences _)
    refine Moves.trans ?_ (moves_jnlBump _ _ _)
    refine Moves.trans ?_ (moves_jnlBump _ _ _)
    exact (moves_atLeast s _).trans (moves_modJnl _ _ fun j w => memWrite_wf _ _ _ w)
  · refine Moves.trans ?_ (moves_checkFill _)
    refine Moves.trans ?_ (moves_evSet _ _)
    refine Moves.trans ?_ (moves_admitFences _)
    refine Moves.trans ?_ (moves_jnlBump _ _ _)
    exact (moves_atLeast s _).trans (moves_modJnl _ _ fun j w => memWrite_wf _ _ _ w)
  · exact Moves.refl s

/-- JNL_COMPACT moves. -/
theorem moves_execJnlCompact (p : Port) (s u : State) (h : execJnlCompact p s = .next u) : Moves s u := by
  cases h
  exact moves_gated (keeps_pageGate s _ _ _ _) moves_startCompaction

/-- COMPACTION_SEAL moves. -/
theorem moves_execCompactionSeal (s u : State) (h : execCompactionSeal s = .next u) : Moves s u := by
  unfold execCompactionSeal at h
  dsimp only at h
  split at h
  all_goals cases h
  · refine Moves.trans ?_ (moves_checkFill _)
    refine Moves.trans ?_ (moves_evSet _ _)
    refine Moves.trans ?_ (moves_jnlBump _ _ _)
    refine Moves.trans ?_ (moves_jnlBump _ _ _)
    exact (moves_atLeast s _).trans (moves_modJnl _ _ fun j w => memWrite_wf _ _ _ w)
  · exact Moves.refl s

/-- ZERO_WORD moves. -/
theorem moves_execZeroWord (s u : State) (h : execZeroWord s = .next u) : Moves s u := by
  unfold execZeroWord at h
  dsimp only at h
  have key : ∀ X : State, Moves s X → Moves s (if X.jnl.zeroing.isNone && X.jnl.compactReq then startCompaction X else X) := by
    intro X hX
    split
    · exact hX.trans (moves_startCompaction X)
    · exact hX
  cases h
  split
  · exact key _ ((moves_atLeast s _).trans (moves_modJnl _ _ fun j w => memZero_wf _ _ _ w))
  · exact Moves.refl s

/-! The keys (R390). -/

/-- A word written to KEYDATA leaves a locked store. -/
theorem keyData_locked (k : Keys) (v : Word) : LockedStay k (keyData k v) := by
  intro h
  simp [keyData, h]

/-- A write to KEYCTL leaves a locked store. -/
theorem keyCtl_locked (k : Keys) (a b c : Bool) : LockedStay k (keyCtl k a b c) := by
  intro h
  simp [keyCtl, h]

/-- The commands of the key store move. -/
theorem moves_execKeyDataWrite (p : Port) (v : Word) (s u : State) (h : execKeyDataWrite p v s = .next u) : Moves s u := by
  cases h
  exact moves_gated (keeps_pageGate s _ _ _ _) fun s => moves_modKeys s _ (keyData_locked _ _)

/-- KEY_COMMIT moves. -/
theorem moves_execKeyCommit (p : Port) (s u : State) (h : execKeyCommit p s = .next u) : Moves s u := by
  cases h
  exact moves_gated (keeps_pageGate s _ _ _ _) fun s => moves_modKeys s _ (keyCtl_locked _ _ _ _)

/-- KEY_ERASE moves. -/
theorem moves_execKeyErase (p : Port) (s u : State) (h : execKeyErase p s = .next u) : Moves s u := by
  cases h
  exact moves_gated (keeps_pageGate s _ _ _ _) fun s => moves_modKeys s _ (keyCtl_locked _ _ _ _)

/-- KEY_LOCK moves. -/
theorem moves_execKeyLock (p : Port) (s u : State) (h : execKeyLock p s = .next u) : Moves s u := by
  cases h
  exact moves_gated (keeps_pageGate s _ _ _ _) fun s => moves_modKeys s _ (keyCtl_locked _ _ _ _)

/-! The general register write (R8, R43). -/

/-- A write to the JNL page moves. -/
theorem moves_writeJnl (s : State) (off v : Nat) : Moves s (writeJnl s off v) := by
  unfold writeJnl
  split
  · split
    · exact moves_startCompaction s
    · exact Moves.refl s
  · exact moves_of_keeps (by simp [Keeps])
  · exact moves_modKeys s _ (keyCtl_locked _ _ _ _)
  · exact moves_modKeys s _ (keyData_locked _ _)
  · split
    · exact moves_modKeys s _ fun h => ⟨h, rfl, rfl, rfl⟩
    · exact Moves.refl s
  · exact moves_of_keeps (by simp [Keeps])

/-- A register write that passed its gate moves. -/
theorem moves_writeReg (s : State) (p : Port) (pg : PageRef) (off v : Nat) : Moves s (writeReg s p pg off v) := by
  unfold writeReg
  split
  · exact moves_of_keeps (by simp [Keeps])
  · cases pg with
    | jnl => exact moves_writeJnl s off v
    | core c i =>
      dsimp only
      split <;> exact moves_of_keeps (by simp [Keeps])
    | _ => exact moves_of_keeps (by simp [Keeps])

/-- A write to a page moves. -/
theorem moves_pageWrite (s : State) (p : Port) (pg : PageRef) (off v : Nat) : Moves s (pageWrite s p pg off v) := by
  cases pg with
  | core c i =>
    unfold pageWrite
    dsimp only
    split
    · exact moves_of_keeps (by simp [Keeps])
    · unfold coreWrite
      refine moves_gated (keeps_pageGate s _ _ _ _) fun s => ?_
      split
      · exact (moves_writeReg s p _ off v).trans (moves_of_eq (rest_modCore _ _ _) (now_modCore _ _ _))
      · exact moves_writeReg s p _ off v
  | _ => exact moves_gated (keeps_pageGate s _ _ _ _) fun s => moves_writeReg s p _ off v

/-- REGISTER_WRITE moves. -/
theorem moves_execRegisterWrite (p : Port) (addr : BitVec 44) (v : Word) (s u : State) (h : execRegisterWrite p addr v s = .next u) : Moves s u := by
  unfold execRegisterWrite at h
  repeat' split at h
  all_goals cases h
  · exact Moves.refl s
  · exact moves_of_keeps (by simp [Keeps])
  · exact moves_of_keeps (by simp [Keeps])
  · exact moves_of_keeps (by simp [Keeps])
  · exact moves_pageWrite s p _ _ _

/-! Reset and initialisation (R451 to R454). -/

/-- What reset and initialisation keep: the queue, time, the canonical MRAM, that time does not stand before its origin. -/
def Boots (s t : State) : Prop :=
  t.pending = s.pending ∧ s.now ≤ t.now ∧ (t.origin = s.origin ∨ t.origin = s.now) ∧ (s.jnl.mram.wf = true → t.jnl.mram.wf = true)

/-- What moves boots. -/
theorem boots_of_moves {s t : State} (h : Moves s t) : Boots s t := ⟨h.1, h.2.1, Or.inl h.2.2.1, h.2.2.2.2.1⟩

/-- POWER_GOOD boots. -/
theorem boots_execPowerGood (s u : State) (h : execPowerGood s = .next u) : Boots s u := by
  cases h
  split
  · exact boots_of_moves (Moves.refl s)
  · exact ⟨rfl, Nat.le_refl _, Or.inr rfl, id⟩

/-- WARM_RESET boots. -/
theorem boots_execWarmReset (s u : State) (h : execWarmReset s = .next u) : Boots s u := by
  cases h
  split
  · exact ⟨rfl, Nat.le_refl _, Or.inl rfl, id⟩
  · exact boots_of_moves (Moves.refl s)

/-- WARM_WRITEBACK_DONE boots. -/
theorem boots_execWarmWritebackDone (s u : State) (h : execWarmWritebackDone s = .next u) : Boots s u := by
  cases h
  split
  · exact ⟨rfl, Nat.le_refl _, Or.inl rfl, id⟩
  · exact boots_of_moves (Moves.refl s)

/-- POWER_LOSS boots. -/
theorem boots_execPowerLoss (b : Bool) (s u : State) (h : execPowerLoss b s = .next u) : Boots s u := by
  cases h
  split
  · exact ⟨rfl, Nat.le_refl _, Or.inl rfl, id⟩
  · exact boots_of_moves (Moves.refl s)

/-- The replay leaves the MRAM canonical (R429). -/
theorem replay_wf (j : Journal) (now : Nat) (b : Bool) (h : j.mram.wf = true) : (replay j now b).1.mram.wf = true := by
  unfold replay
  refine memZero_wf _ _ _ ?_
  repeat' split
  all_goals first | exact memZero_wf _ _ _ h | exact h

/-- Step 3 boots (R429, R452). -/
theorem moves_stepJournal (s : State) : Moves s (stepJournal s) := by
  have hb : ∀ (s : State) (a b : Nat), Moves s (writeBoot s a b) := by
    intro s a b
    unfold writeBoot
    refine Moves.trans ?_ (moves_checkFill _)
    refine Moves.trans ?_ (moves_jnlBump _ _ _)
    exact moves_modJnl s _ fun j h => memWrite_wf _ _ _ h
  have hj : ∀ (s : State) (j : Journal) (o : FMap Ownership) (cs : FMap Core) (n : Nat), (s.jnl.mram.wf = true → j.mram.wf = true) →
      Moves s (jnlBump { s with jnl := j, owners := o, cores := cs } 3 n) := fun s j o cs n hw => ⟨rfl, Nat.le_refl _, rfl, rfl, hw, LockedStay.refl _⟩
  unfold stepJournal
  generalize hr : replay s.jnl s.now (!s.boot.warm) = r
  obtain ⟨j, map, n, torn⟩ := r
  have hw : s.jnl.mram.wf = true → j.mram.wf = true := by
    intro h
    have h2 := replay_wf s.jnl s.now (!s.boot.warm) h
    rw [hr] at h2
    exact h2
  exact (hj s j _ _ _ hw).trans (hb _ _ _)

/-- A completed initialisation step boots, and a locked key store stays. -/
theorem boots_execInitStepDone (r : InitResult) (s u : State) (h : execInitStepDone r s = .next u) : Boots s u ∧ LockedStay s.keys u.keys := by
  have hn : ∀ s : State, Boots s (nextStep s) ∧ LockedStay s.keys (nextStep s).keys := fun s => ⟨⟨rfl, Nat.le_refl _, Or.inl rfl, id⟩, LockedStay.refl _⟩
  have hm : ∀ s t : State, Moves s t → Boots s (nextStep t) ∧ LockedStay s.keys (nextStep t).keys := fun s t m =>
    ⟨⟨m.1, m.2.1, Or.inl m.2.2.1, m.2.2.2.2.1⟩, m.2.2.2.2.2⟩
  have hc : ∀ (s : State) (cs : FMap Core) (o : FMap Ownership), Boots s (nextStep { s with cores := cs, owners := o }) ∧ LockedStay s.keys (nextStep { s with cores := cs, owners := o }).keys :=
    fun s cs o => ⟨⟨rfl, Nat.le_refl _, Or.inl rfl, id⟩, LockedStay.refl _⟩
  have he : Boots s s ∧ LockedStay s.keys s.keys := ⟨boots_of_moves (Moves.refl s), LockedStay.refl _⟩
  unfold execInitStepDone at h
  cases h
  split
  · exact he
  · split
    · exact hn s
    · exact hn s
    · exact hm s _ (moves_stepJournal s)
    · exact hn s
    · have hn2 := now_jnlError { s with boot := { s.boot with stopped := true } } 0xFFFF { code := ePARITY, cls := 2, page := 15, rtime := rtimeLo s }
      have hq := rest_parts (rest_jnlError { s with boot := { s.boot with stopped := true } } 0xFFFF { code := ePARITY, cls := 2, page := 15, rtime := rtimeLo s })
      refine ⟨⟨hq.1, Nat.le_of_eq hn2.symm, Or.inl hq.2.1, fun w => ?_⟩, ?_⟩
      · show (jnlError _ _ _).jnl.mram.wf = true
        rw [hq.2.2.2.2]
        exact w
      · show LockedStay s.keys (jnlError _ _ _).keys
        rw [hq.2.2.2.1]
        exact LockedStay.refl _
    · exact hc s _ _
    · exact ⟨⟨rfl, Nat.le_refl _, Or.inl rfl, id⟩, fun h => ⟨h, rfl, rfl, rfl⟩⟩
    · exact ⟨⟨rfl, Nat.le_refl _, Or.inl rfl, id⟩, LockedStay.refl _⟩
    · exact he

end Sys2Proof.Machine
end

