-- ==== Sys2Proof/Laws/Ops.lean ====
section
/-! SUPPORT. What the shared operations do, once each: gates and core writes, wakes, counters, tags, the gather buffer, releases, the mesh. -/

namespace Sys2Proof.Machine

/-! Replacing twice. -/

/-- The second of two values listed for a key stands. -/
@[simp] theorem fset_fset {α : Type} (m : FMap α) (k : Nat) (a b : α) : fset (fset m k a) k b = fset m k b := by
  induction m with
  | nil => simp [fset]
  | cons e m ih =>
    simp only [fset]
    split
    · simp [fset]
    · split
      · simp [fset]
      · simp_all [fset]

/-- The second replacement of a core stands. -/
@[simp] theorem putCore_putCore (s : State) (c : Nat) (a b : Core) : putCore (putCore s c a) c b = putCore s c b := by
  simp [putCore]

/-- The second change of a core acts on the first. -/
@[simp] theorem modCore_putCore (s : State) (c : Nat) (a : Core) (f : Core → Core) : modCore (putCore s c a) c f = putCore s c (f a) := by
  simp [modCore]

/-- The second replacement of a page stands. -/
@[simp] theorem modKPage_modKPage (k : Core) (i : Nat) (f g : Page → Page) : modKPage (modKPage k i f) i g = modKPage k i fun p => g (f p) := by
  simp [modKPage, kPage]

/-- Changing nothing but one core. -/
theorem onlyCore_putCore (s : State) (c : Nat) (k : Core) : onlyCore s (putCore s c k) c :=
  ⟨rfl, fun _ h => getCore_putCore_ne s k h⟩

/-! Gates (R44, R55). -/

/-- An access that its gate lets through acts. -/
@[simp] theorem gated_true (s : State) (f : State → State) : gated (s, true) f = f s := rfl

/-- An access that its gate stops leaves the refusal's record. -/
@[simp] theorem gated_false (s : State) (f : State → State) : gated (s, false) f = s := rfl

/-- A write that reaches a core's page other than CQ acts, on the state u that its place among the writes of its cycle gives (R8). -/
theorem coreWrite_ok (s u : State) (p : Port) (c : CoreId) (i : Fin 14) (off : Nat) (f : State → State) (hi : i.val ≠ 0)
    (h : reaches s p (.core c i) off u) : coreWrite s p c i off f = f u := by
  unfold coreWrite
  rw [h]
  simp [hi]

/-- A write that reaches the CQ page acts, then wakes a core in DOZE (R443). -/
theorem coreWrite_cq (s u : State) (p : Port) (c : CoreId) (off : Nat) (f : State → State)
    (h : reaches s p (.core c 0) off u) : coreWrite s p c 0 off f = modCore (f u) c.val fun k => wakeDoze k u.now 2 := by
  unfold coreWrite
  rw [h]
  rfl

/-- A write that reaches a core's page acts, and one to the CQ page wakes a core in DOZE. -/
theorem coreWrite_after (s u : State) (p : Port) (c : CoreId) (i : Fin 14) (off : Nat) (f : State → State)
    (h : reaches s p (.core c i) off u) : coreWrite s p c i off f = afterWrite u (f u) c i := by
  unfold coreWrite
  rw [h]
  rfl

/-- A core that does not doze stays (R443). -/
theorem wakeDoze_id (k : Core) (n m : Nat) (h : notDozing k) : wakeDoze k n m = k := by
  simp [wakeDoze, h.1, h.2]

/-- A write that reaches a page of a core that does not doze, and whose effect replaces the core, replaces it. -/
theorem coreWrite_put (s u : State) (p : Port) (c : CoreId) (i : Fin 14) (off : Nat) (f : State → State) (k : Core)
    (hf : f u = putCore u c.val k) (hi : i.val = 0 → notDozing k) (h : reaches s p (.core c i) off u) : coreWrite s p c i off f = putCore u c.val k := by
  unfold coreWrite
  rw [h]
  simp only [gated_true]
  split
  · rename_i hh
    rw [hf, modCore_putCore, wakeDoze_id _ _ _ (hi hh)]
  · exact hf

/-- A core whose tags and semaphores stay does not wake (R443). -/
theorem wakeOnChange_id (k0 k : Core) (n : Nat) (h1 : k0.spd.tags = k.spd.tags) (h2 : k0.pages = k.pages ∨ semaWords k0 = semaWords k) : wakeOnChange k0 k n = k := by
  have h3 : semaWords k0 = semaWords k := by
    rcases h2 with h2 | h2
    · simp [semaWords, kPage, h2]
    · exact h2
  simp [wakeOnChange, h1, h3]

/-- A core that does not doze before or after a change does not wake by it. -/
theorem wakeOnChange_awake (k0 k : Core) (n : Nat) (h : notDozing k) : wakeOnChange k0 k n = k := by
  unfold wakeOnChange
  split
  · rfl
  · exact wakeDoze_id k n 2 h

/-! The gather buffer (R206). -/

/-- The bytes of a run of single writes, each at a place of its own. -/
theorem memGet_foldl_memSet (f : Nat → Byte) (b : Nat) (l : List Nat) (m : Memory) (a : Nat) :
    memGet (l.foldl (fun m i => memSet m (b + i) (f i)) m) a = if b ≤ a ∧ a - b ∈ l then f (a - b) else memGet m a := by
  induction l generalizing m with
  | nil => simp
  | cons i l ih =>
    rw [List.foldl_cons, ih]
    by_cases h : b ≤ a ∧ a - b ∈ l
    · rw [if_pos h, if_pos ⟨h.1, List.mem_cons_of_mem _ h.2⟩]
    · rw [if_neg h]
      by_cases h2 : a = b + i
      · have h3 : a - b = i := by omega
        subst h2
        rw [memGet_memSet_same, if_pos ⟨Nat.le_add_right _ _, by simp⟩, h3]
      · rw [memGet_memSet_ne _ _ h2, if_neg]
        rintro ⟨h3, h4⟩
        simp only [List.mem_cons] at h4
        rcases h4 with h4 | h4
        · omega
        · exact h ⟨h3, h4⟩

/-- Writing a gather entry puts its bytes into memory and leaves the others (R206). -/
theorem memGet_gatherApply (d : Spd) (g : Gather) (a : Nat) :
    memGet (gatherApply d g).mem a = if g.row = a / 32 ∧ g.mask.testBit (a % 32) = true then g.bytes[a % 32]?.getD 0#8 else memGet d.mem a := by
  unfold gatherApply
  dsimp only
  rw [memGet_foldl_memSet (fun i => g.bytes[i]?.getD 0#8)]
  by_cases h : g.row = a / 32
  · have h1 : g.row * 32 ≤ a := by omega
    have h2 : a - g.row * 32 = a % 32 := by omega
    have h3 : a % 32 < 32 := Nat.mod_lt _ (by decide)
    rw [h2]
    rw [h] at h1
    simp [onesOf, h3, h, h1]
  · rw [if_neg, if_neg (fun x => h x.1)]
    rintro ⟨h1, h2⟩
    have h3 := (List.mem_filter.mp h2).1
    have h4 : a - g.row * 32 < 32 := List.mem_range.mp h3
    omega

/-- Writing some entries leaves each byte or puts an entry's byte there. -/
theorem memGet_gatherApplies (l : List Gather) (d : Spd) (a : Nat) :
    memGet (l.foldl gatherApply d).mem a = memGet d.mem a ∨
    ∃ g ∈ l, g.row = a / 32 ∧ g.mask.testBit (a % 32) = true ∧ memGet (l.foldl gatherApply d).mem a = g.bytes[a % 32]?.getD 0#8 := by
  induction l generalizing d with
  | nil => exact Or.inl rfl
  | cons g l ih =>
    rw [List.foldl_cons]
    rcases ih (gatherApply d g) with h | ⟨g', h1, h2⟩
    · rw [h, memGet_gatherApply]
      split
      · rename_i hg
        exact Or.inr ⟨g, by simp, hg.1, hg.2, rfl⟩
      · exact Or.inl rfl
    · exact Or.inr ⟨g', List.mem_cons_of_mem _ h1, h2⟩

/-- Nothing changed. -/
theorem byteKept_refl (k : Core) (a : Nat) : byteKept k k a := Or.inl rfl

/-- A chain of two, where the first adds no gather entry. -/
theorem byteKept_trans {k k' k'' : Core} {a : Nat} (h : byteKept k k' a) (hs : ∀ g ∈ k'.spd.gather, g ∈ k.spd.gather) (g : byteKept k' k'' a) : byteKept k k'' a := by
  rcases g with g | ⟨x, hx, h1, h2, h3⟩
  · rcases h with h | ⟨x, hx, h1, h2, h3⟩
    · exact Or.inl (g.trans h)
    · exact Or.inr ⟨x, hx, h1, h2, g.trans h3⟩
  · exact Or.inr ⟨x, hs x hx, h1, h2, h3⟩

/-- Dropping a resident record leaves the scratchpad (R120). -/
@[simp] theorem touchRows_spd (k : Core) (sel : Nat → Bool) : (touchRows k sel).spd = k.spd := by
  unfold touchRows
  repeat' split
  all_goals rfl

/-- The scratchpad after some gather entries are written (R206). -/
theorem gatherFlush_spd (k : Core) (sel : Gather → Bool) :
    (gatherFlush k sel).spd = { (k.spd.gather.filter sel).foldl gatherApply k.spd with gather := k.spd.gather.filter fun g => !sel g } := by
  simp [gatherFlush, modSpd]

/-- A flush keeps every byte as the gather buffer and memory had it, takes entries away and adds none. -/
theorem byteKept_gatherFlush (k : Core) (sel : Gather → Bool) (a : Nat) : byteKept k (gatherFlush k sel) a := by
  unfold byteKept
  rw [gatherFlush_spd]
  rcases memGet_gatherApplies (k.spd.gather.filter sel) k.spd a with h | ⟨g, hg, h⟩
  · exact Or.inl h
  · exact Or.inr ⟨g, (List.mem_filter.mp hg).1, h⟩

/-- The gather entries after a flush are among those before it. -/
theorem gather_gatherFlush (k : Core) (sel : Gather → Bool) : ∀ g ∈ (gatherFlush k sel).spd.gather, g ∈ k.spd.gather := by
  rw [gatherFlush_spd]
  intro g h
  exact (List.mem_filter.mp h).1

/-- Writing the entries of some rows before they are read keeps every byte (R206). -/
theorem byteKept_flushRows (k : Core) (a b n : Nat) : byteKept k (flushRows k a b) n := byteKept_gatherFlush k _ n

/-- The gather entries after that are among those before it. -/
theorem gather_flushRows (k : Core) (a b : Nat) : ∀ g ∈ (flushRows k a b).spd.gather, g ∈ k.spd.gather := gather_gatherFlush k _

/-- Writing the entries of a list of rows keeps every byte, and adds no entry. -/
theorem flushEach_kept (l : List Nat) (k : Core) :
    (∀ n, byteKept k (l.foldl (fun k r => flushRows k r r) k) n) ∧ ∀ g ∈ (l.foldl (fun k r => flushRows k r r) k).spd.gather, g ∈ k.spd.gather := by
  induction l generalizing k with
  | nil => exact ⟨fun n => byteKept_refl k n, fun _ h => h⟩
  | cons r l ih =>
    obtain ⟨h1, h2⟩ := ih (flushRows k r r)
    exact ⟨fun n => byteKept_trans (byteKept_flushRows k r r n) (gather_flushRows k r r) (h1 n), fun g h => gather_flushRows k r r g (h2 g h)⟩

/-- Writing entries leaves the tags, the segments, the locks and the tag command. -/
theorem gatherApplies_tags (l : List Gather) (d : Spd) :
    (l.foldl gatherApply d).tags = d.tags ∧ (l.foldl gatherApply d).segs = d.segs ∧ (l.foldl gatherApply d).lock = d.lock ∧ (l.foldl gatherApply d).cmd = d.cmd := by
  induction l generalizing d with
  | nil => exact ⟨rfl, rfl, rfl, rfl⟩
  | cons g l ih => exact ih (gatherApply d g)

/-- A flush leaves the tags. -/
@[simp] theorem gatherFlush_tags (k : Core) (sel : Gather → Bool) : (gatherFlush k sel).spd.tags = k.spd.tags := by
  rw [gatherFlush_spd]
  exact (gatherApplies_tags _ _).1

/-- Writing the entries of a list of rows leaves the tags. -/
theorem flushEach_tags (l : List Nat) (k : Core) : (l.foldl (fun k r => flushRows k r r) k).spd.tags = k.spd.tags := by
  induction l generalizing k with
  | nil => rfl
  | cons r l ih => exact (ih _).trans (gatherFlush_tags k _)

/-! Writes (R190). -/

/-- A write of whole bytes leaves every byte outside it. -/
theorem byteKept_spdPoke (k : Core) (o : Nat) (bs : List Byte) (a : Nat) (h : a < o ∨ o + bs.length ≤ a) : byteKept k (spdPoke k o bs) a := by
  left
  simp only [spdPoke, modSpd, touchRows_spd]
  exact memGet_memWrite_out bs _ o a h

/-- A write of whole bytes puts them there. -/
theorem memGet_spdPoke (k : Core) (o i : Nat) (bs : List Byte) (h : i < bs.length) : memGet (spdPoke k o bs).spd.mem (o + i) = bs.getD i 0#8 := by
  simp only [spdPoke, modSpd, touchRows_spd]
  exact memGet_memWrite_in bs _ o i h

/-- A counter leaves the scratchpad. -/
theorem kBump_spd (k : Core) (i n amt : Nat) : (kBump k i n amt).spd = k.spd := rfl

/-- A write that meets no wrong parity leaves every byte outside it, puts its bytes there, and leaves the tags (R190). -/
theorem spdWrite_ok (k k' : Core) (o : Nat) (bs : List Byte) (h : spdWrite k o bs = .ok k') :
    (∀ a, a < o ∨ o + bs.length ≤ a → byteKept k k' a) ∧ (∀ i, i < bs.length → memGet k'.spd.mem (o + i) = bs.getD i 0#8) ∧
    (∀ g ∈ k'.spd.gather, g ∈ k.spd.gather) ∧ k'.spd.tags = k.spd.tags := by
  unfold spdWrite at h
  split at h
  · rename_i hb
    cases h
    subst hb
    exact ⟨fun a _ => byteKept_refl k a, fun i hi => absurd hi (by simp), fun g hg => hg, rfl⟩
  · dsimp only at h
    split at h
    · cases h
    · cases h
      refine ⟨fun a ha => ?_, fun i hi => ?_, fun g hg => ?_, ?_⟩
      · exact byteKept_trans ((flushEach_kept _ k).1 a) (flushEach_kept _ k).2
          (byteKept_trans (byteKept_gatherFlush _ _ a) (gather_gatherFlush _ _) (byteKept_spdPoke _ o bs a ha))
      · exact memGet_spdPoke _ o i bs hi
      · have hg' := hg
        simp only [kBump_spd, spdPoke, modSpd, touchRows_spd] at hg'
        exact (flushEach_kept _ k).2 g (gather_gatherFlush _ _ g hg')
      · simp only [kBump_spd, spdPoke, modSpd, touchRows_spd]
        rw [gatherFlush_tags]
        exact flushEach_tags _ k

end Sys2Proof.Machine
end

