-- ==== Sys2Proof/Tests/Slice0.lean ====
section
/-! SUPPORT. Tests: ill-formed commands, single steps whose results the spec gives, and for each obligation with hypotheses a theorem that shows states and operands that meet them. -/

namespace Sys2Proof.Tests

open Sys2Proof Sys2Proof.Machine

set_option maxRecDepth 100000
set_option Elab.async false

/-- The power control of a core in ACTIVE. -/
def live : Pwr := { st := .active }

/-- A core in ACTIVE, all else as at reset. -/
def awake : Core := { pwr := live }

/-- The block ready, tenant 5 valid with two cores at most, core 3 its core, in state k. -/
def on (k : Core) : State :=
  { boot := { powered := true, step := 7, ready := true }, tenants := [(5, { ctrl := 0x80000002#32 })],
    owners := [(3, { owned := true, tenant := 5#8 })], cores := [(3, k)] }

/-- The block ready with core 3 unowned. -/
def idleOn (o : Ownership) : State := { on awake with owners := [(3, o)] }

/-- Core 3 with its VEC page armed for a swap. -/
def armed : Core := { awake with pages := [(3, { arm := true })] }

/-- A chip swap of tenant 5 with core 3. -/
def swap0 : Swap := { tenant := 5#8, job := none, g := 0, parts := [{ core := 3 }] }

/-- The chip swap w under way, core 3 in state k. -/
def swapping (k : Core) (w : Swap) : State := { on k with swaps := [w] }

/-- A job on core 3 with role r, of n chips. -/
def job0 (r n : Nat) : Job := { jobid := 7#32, tenant := 5#8, role := r, nchips := n, head := 9#32, cores := [3] }

/-- Core 3 armed, with job j loaded. -/
def jobbed (j : Job) : State := { on armed with jobs := [j] }

/-- A job swap of job 7 with core 3. -/
def swapJ : Swap := { tenant := 5#8, job := some 7#32, g := 0, parts := [{ core := 3, quiet := true }] }

/-- A command to job 7 from chip n with OP op and its arguments. -/
def fromChip (n : Word) (op : Nat) (args : List Byte) : CmdSrc := .chip n (cmdBody op 7#32 args)

/-- The state that a command answers. -/
def after (c : Instr) (s : State) : State := match exec c s with
  | .next t => t
  | _ => s

/-- The block with the key store locked. -/
def lockedKeys : State := { on awake with keys := { lock := true, staged := [1#32] } }

/-- The scratchpad page of core 3 with a swap in progress. -/
def pendingVec : Core := { awake with pages := [(3, { arm := true, swppend := true })] }

/-- The 4 bytes 1 to 4. -/
def four : List Byte := [1#8, 2#8, 3#8, 4#8]

/-- A core with segment 0 off. -/
def seg0Off : Core := { awake with spd := { segs := [(0, { phase := .off })] } }
/-- n bytes, all 0 but the fields given as offset, length and value. -/
def bytesOf (n : Nat) (fs : List (Nat × Nat × Nat)) : List Byte := fs.foldl (fun l f => splice l f.1 (natLe f.2.1 f.2.2)) (List.replicate n 0#8)

/-- A command block with OP op, submitted, its CRC good, with argument a. -/
def block (op a : Nat) : List Byte :=
  let b := bytesOf 64 [(0, 2, op), (2, 1, 1), (8, 8, a)]
  splice b 0x3C (natLe 4 (crc32c (b.take 2 ++ (b.drop 4).take 0x34)))

/-- The state s with a command block of tenant 5 with OP op taken from slot 0. -/
def tookIn (s : State) (op a : Nat) : State := { s with taken := [{ tenant := 5#8, slot := 0, block := block op a }] }

/-- The command block that tookIn takes. -/
def took (op a : Nat) : Taken := { tenant := 5#8, slot := 0, block := block op a }

/-- Tenant 5 with slots 0 and 63 pending. -/
def rung : State := { on awake with tenants := [(5, { ctrl := 0x80000002#32, pend := 0x8000000000000001#64 })] }

/-- A manifest of one chip with core 3 and no image, its CRC good. -/
def manifest : List Byte :=
  let m := bytesOf 128 [(0, 4, 0x464D4B42), (4, 2, 1), (8, 4, 128), (0xC, 2, 1), (0x12, 2, 1), (0x14, 4, 7), (0x40, 2, 3), (0x44, 2, 0xFFF),
    (0x78, 4, 0x04040404), (0x7C, 2, 0xFF04)]
  splice m 0x3C (natLe 4 (crc32c m))

/-- A descriptor with opcode op, flags fl, OCNT 1 and the fields given. -/
def desc (op fl : Nat) (fs : List (Nat × Nat × Nat)) : List Byte := bytesOf 64 ([(0, 1, op), (1, 1, fl), (0xF, 1, 0x10)] ++ fs)

/-- A control descriptor with opcode op. -/
def ctl (op : Nat) (fs : List (Nat × Nat × Nat)) : List Byte := bytesOf 64 ((0, 1, op) :: fs)

/-- d with its CRC. -/
def sealed (d : List Byte) : List Byte := splice d 0x3C (natLe 4 (crc32c (d.take 0x3C)))

/-- The fetched entry of ring index i with bytes d. -/
def entry (i : Nat) (d : List Byte) : Fetched := { idx := i, raw := d, ok := true }

/-- A queue whose ring holds the entries ds from index 0 on, all fetched. -/
def holding (ds : List (List Byte)) : Queue := { tail := ds.length, buf := (List.range ds.length).map fun i => entry i (ds[i]?.getD []) }

/-- Core 3 in state k with x as its queue q. -/
def queued (k : Core) (q : QueueId) (x : Queue) : State := on (putQ k q x)

/-- A core with its MXQ and GVQ rings of 16 entries. -/
def ringed : Core := { awake with pages := [(0, { act := [(0x60, 4#32), (0x80, 4#32), (0xA0, 4#32), (0xE0, 4#32)] })] }
/-- Slot 0, and slots 2 and 3, are FULL with one consumer each. -/
def fulls : FMap Tag := [(0, { st := .full, count := 1 }), (2, { st := .full, count := 1 }), (3, { st := .full, count := 1 })]

/-- Core 3 with d at the head of its queue q, slots 0, 2 and 3 FULL, and memory m. -/
def with1 (q : QueueId) (d : List Byte) (m : Memory) : Core := { putQ awake q (holding [d]) with spd := { mem := m, tags := fulls } }

/-- MXMUL of FP16, SHAPE 1, one by one by one: X in slot 0, W in slot 3, Y in slot 1. -/
def dMul : List Byte := [
  16#8, 0#8, 0#8, 0#8, 0#8, 0#8, 0#8, 0#8, 0#8, 0#8, 0#8, 0#8, 0#8, 0#8, 0#8, 16#8,
  0#8, 0#8, 0#8, 0#8, 0#8, 0#8, 0#8, 12#8, 0#8, 0#8, 0#8, 0#8, 0#8, 4#8, 0#8, 0#8,
  0#8, 0#8, 0#8, 0#8, 0#8, 0#8, 0#8, 0#8, 32#8, 0#8, 32#8, 0#8, 32#8, 0#8, 1#8, 0#8,
  1#8, 0#8, 1#8, 0#8, 1#8, 17#8, 0#8, 0#8, 0#8, 0#8, 0#8, 0#8, 0#8, 0#8, 0#8, 0#8]
/-- MXCONV of FP16 with its block in slot 2. -/
def dConv : List Byte := [
  17#8, 0#8, 0#8, 0#8, 0#8, 0#8, 0#8, 0#8, 0#8, 0#8, 0#8, 0#8, 0#8, 0#8, 0#8, 16#8,
  0#8, 0#8, 0#8, 0#8, 0#8, 0#8, 0#8, 12#8, 0#8, 0#8, 0#8, 0#8, 0#8, 4#8, 0#8, 0#8,
  0#8, 0#8, 0#8, 8#8, 0#8, 0#8, 0#8, 0#8, 0#8, 0#8, 32#8, 0#8, 32#8, 0#8, 1#8, 0#8,
  1#8, 0#8, 1#8, 0#8, 0#8, 17#8, 0#8, 0#8, 0#8, 0#8, 0#8, 0#8, 0#8, 0#8, 0#8, 0#8]
def convBlock : Memory := memWrite [] 0x800 (bytesOf 32 [(0, 2, 1), (2, 2, 1), (4, 2, 1), (6, 2, 1), (8, 4, 0x01010101), (12, 2, 0x0101)])
/-- VELT, copy of one FP32 value from slot 0 to slot 1. -/
def dElt : List Byte := [
  32#8, 0#8, 0#8, 0#8, 0#8, 0#8, 0#8, 0#8, 0#8, 0#8, 0#8, 0#8, 0#8, 0#8, 0#8, 16#8,
  0#8, 0#8, 0#8, 0#8, 0#8, 0#8, 0#8, 0#8, 0#8, 0#8, 0#8, 4#8, 0#8, 0#8, 0#8, 0#8,
  32#8, 0#8, 32#8, 0#8, 1#8, 0#8, 1#8, 0#8, 0#8, 0#8, 0#8, 0#8, 0#8, 0#8, 0#8, 0#8,
  0#8, 0#8, 0#8, 0#8, 0#8, 0#8, 0#8, 0#8, 0#8, 0#8, 0#8, 0#8, 0#8, 0#8, 0#8, 0#8]
/-- VRED of one value. -/
def dRed : List Byte := [
  33#8, 0#8, 0#8, 0#8, 0#8, 0#8, 0#8, 0#8, 0#8, 0#8, 0#8, 0#8, 0#8, 0#8, 0#8, 16#8,
  0#8, 0#8, 0#8, 0#8, 0#8, 0#8, 0#8, 0#8, 0#8, 0#8, 0#8, 4#8, 0#8, 0#8, 0#8, 0#8,
  32#8, 0#8, 0#8, 0#8, 1#8, 0#8, 1#8, 0#8, 0#8, 0#8, 0#8, 0#8, 0#8, 0#8, 0#8, 0#8,
  0#8, 0#8, 0#8, 0#8, 0#8, 0#8, 0#8, 0#8, 0#8, 0#8, 0#8, 0#8, 0#8, 0#8, 0#8, 0#8]
/-- VSOFTMAX with no state in, its state out in slot 4. -/
def dSoft : List Byte := [
  34#8, 0#8, 0#8, 0#8, 0#8, 0#8, 0#8, 0#8, 0#8, 0#8, 0#8, 0#8, 0#8, 0#8, 0#8, 16#8,
  0#8, 0#8, 0#8, 0#8, 0#8, 0#8, 0#8, 0#8, 0#8, 0#8, 0#8, 4#8, 0#8, 0#8, 16#8, 0#8,
  32#8, 0#8, 32#8, 0#8, 1#8, 0#8, 1#8, 0#8, 0#8, 0#8, 0#8, 128#8, 0#8, 0#8, 0#8, 0#8,
  0#8, 0#8, 0#8, 0#8, 0#8, 0#8, 0#8, 0#8, 0#8, 0#8, 0#8, 0#8, 0#8, 0#8, 0#8, 0#8]
/-- VNORM without mean, its weights in slot 2. -/
def dNorm : List Byte := [
  35#8, 0#8, 0#8, 0#8, 0#8, 0#8, 0#8, 0#8, 0#8, 0#8, 0#8, 0#8, 0#8, 0#8, 0#8, 16#8,
  1#8, 0#8, 0#8, 64#8, 0#8, 0#8, 0#8, 0#8, 8#8, 0#8, 0#8, 4#8, 0#8, 0#8, 0#8, 0#8,
  32#8, 0#8, 32#8, 0#8, 1#8, 0#8, 1#8, 0#8, 0#8, 0#8, 0#8, 0#8, 0#8, 0#8, 0#8, 0#8,
  0#8, 0#8, 0#8, 0#8, 0#8, 0#8, 0#8, 0#8, 0#8, 0#8, 0#8, 0#8, 0#8, 0#8, 0#8, 0#8]
/-- VQUANT per channel of 4 rows of 2 values. -/
def dQuant : List Byte := [
  36#8, 2#8, 0#8, 0#8, 0#8, 0#8, 0#8, 0#8, 0#8, 0#8, 0#8, 0#8, 0#8, 0#8, 0#8, 16#8,
  4#8, 0#8, 64#8, 0#8, 0#8, 0#8, 0#8, 0#8, 0#8, 0#8, 0#8, 4#8, 0#8, 0#8, 16#8, 0#8,
  8#8, 0#8, 32#8, 0#8, 4#8, 0#8, 2#8, 0#8, 40#8, 0#8, 1#8, 0#8, 0#8, 0#8, 0#8, 0#8,
  0#8, 0#8, 0#8, 0#8, 0#8, 0#8, 0#8, 0#8, 0#8, 0#8, 0#8, 0#8, 0#8, 0#8, 0#8, 0#8]
/-- VDEQUANT of one byte. -/
def dDequant : List Byte := [
  37#8, 0#8, 0#8, 0#8, 0#8, 0#8, 0#8, 0#8, 0#8, 0#8, 0#8, 0#8, 0#8, 0#8, 0#8, 16#8,
  1#8, 48#8, 0#8, 0#8, 0#8, 0#8, 0#8, 0#8, 0#8, 0#8, 0#8, 4#8, 0#8, 0#8, 0#8, 0#8,
  32#8, 0#8, 32#8, 0#8, 1#8, 0#8, 1#8, 0#8, 0#8, 4#8, 0#8, 0#8, 0#8, 0#8, 0#8, 0#8,
  0#8, 0#8, 0#8, 0#8, 0#8, 0#8, 0#8, 0#8, 0#8, 0#8, 0#8, 0#8, 0#8, 0#8, 0#8, 0#8]
/-- VSAMPLE, the largest of one value. -/
def dSample : List Byte := [
  38#8, 0#8, 0#8, 0#8, 0#8, 0#8, 0#8, 0#8, 0#8, 0#8, 0#8, 0#8, 0#8, 0#8, 0#8, 16#8,
  0#8, 0#8, 160#8, 32#8, 0#8, 0#8, 0#8, 0#8, 0#8, 0#8, 0#8, 4#8, 0#8, 0#8, 0#8, 0#8,
  32#8, 0#8, 32#8, 0#8, 1#8, 0#8, 1#8, 0#8, 0#8, 0#8, 0#8, 192#8, 0#8, 0#8, 0#8, 0#8,
  0#8, 0#8, 0#8, 0#8, 0#8, 0#8, 0#8, 0#8, 0#8, 0#8, 128#8, 63#8, 0#8, 0#8, 0#8, 0#8]
/-- VRAND of one value. -/
def dRand : List Byte := [
  39#8, 0#8, 0#8, 0#8, 0#8, 0#8, 0#8, 0#8, 0#8, 0#8, 0#8, 0#8, 0#8, 0#8, 0#8, 16#8,
  0#8, 0#8, 0#8, 32#8, 0#8, 0#8, 0#8, 0#8, 0#8, 0#8, 0#8, 4#8, 0#8, 0#8, 0#8, 0#8,
  32#8, 0#8, 32#8, 0#8, 1#8, 0#8, 1#8, 0#8, 0#8, 0#8, 0#8, 0#8, 0#8, 0#8, 0#8, 0#8,
  0#8, 0#8, 0#8, 0#8, 0#8, 0#8, 0#8, 0#8, 0#8, 0#8, 0#8, 0#8, 0#8, 0#8, 0#8, 0#8]
/-- MVFILL of one row of slot 1. -/
def dFill : List Byte := [
  49#8, 0#8, 0#8, 0#8, 0#8, 0#8, 0#8, 0#8, 0#8, 0#8, 0#8, 0#8, 0#8, 0#8, 0#8, 16#8,
  0#8, 4#8, 0#8, 0#8, 1#8, 0#8, 0#8, 0#8, 221#8, 204#8, 187#8, 170#8, 0#8, 0#8, 0#8, 0#8,
  0#8, 0#8, 0#8, 0#8, 0#8, 0#8, 0#8, 0#8, 0#8, 0#8, 0#8, 0#8, 0#8, 0#8, 0#8, 0#8,
  0#8, 0#8, 0#8, 0#8, 0#8, 0#8, 0#8, 0#8, 0#8, 0#8, 0#8, 0#8, 0#8, 0#8, 0#8, 0#8]
/-- MVCOPY of one row from slot 0 to slot 1. -/
def dCopy : List Byte := [
  50#8, 0#8, 0#8, 0#8, 0#8, 0#8, 0#8, 0#8, 0#8, 0#8, 0#8, 0#8, 0#8, 0#8, 0#8, 16#8,
  0#8, 0#8, 0#8, 0#8, 0#8, 4#8, 0#8, 0#8, 1#8, 0#8, 0#8, 0#8, 0#8, 0#8, 0#8, 0#8,
  0#8, 0#8, 0#8, 0#8, 0#8, 0#8, 0#8, 0#8, 0#8, 0#8, 0#8, 0#8, 0#8, 0#8, 0#8, 0#8,
  0#8, 0#8, 0#8, 0#8, 0#8, 0#8, 0#8, 0#8, 0#8, 0#8, 0#8, 0#8, 0#8, 0#8, 0#8, 0#8]
/-- UPSTEP of one group with FP32 masters in slot 0, gradients in slot 2, hyper-parameters in slot 3. -/
def dUp : List Byte := [
  64#8, 0#8, 0#8, 0#8, 0#8, 0#8, 0#8, 0#8, 0#8, 0#8, 0#8, 0#8, 0#8, 0#8, 0#8, 16#8,
  0#8, 0#8, 0#8, 0#8, 0#8, 0#8, 0#8, 0#8, 0#8, 0#8, 0#8, 8#8, 0#8, 0#8, 0#8, 0#8,
  0#8, 0#8, 0#8, 0#8, 12#8, 0#8, 0#8, 0#8, 0#8, 0#8, 1#8, 0#8, 0#8, 0#8, 0#8, 0#8,
  0#8, 0#8, 0#8, 0#8, 0#8, 0#8, 0#8, 0#8, 0#8, 0#8, 0#8, 0#8, 0#8, 0#8, 0#8, 0#8]
/-- Hyper-parameters that are all 0 but for WHOLE. -/
def hyper : Memory := [(0xC2C, 8#8)]

/-- Core 3 with that descriptor at the head of its queue. -/
def kMul : Core := with1 .mxq dMul []
/-- Core 3 with that descriptor at the head of its queue. -/
def kConv : Core := with1 .mxq dConv convBlock
/-- Core 3 with that descriptor at the head of its queue. -/
def kElt : Core := with1 .vxq dElt []
/-- Core 3 with that descriptor at the head of its queue. -/
def kRed : Core := with1 .vxq dRed []
/-- Core 3 with that descriptor at the head of its queue. -/
def kSoft : Core := with1 .vxq dSoft []
/-- Core 3 with that descriptor at the head of its queue. -/
def kNorm : Core := with1 .vxq dNorm []
/-- Core 3 with that descriptor at the head of its queue. -/
def kQuant : Core := with1 .vxq dQuant []
/-- Core 3 with that descriptor at the head of its queue. -/
def kDequant : Core := with1 .vxq dDequant []
/-- Core 3 with that descriptor at the head of its queue. -/
def kSample : Core := with1 .vxq dSample []
/-- Core 3 with that descriptor at the head of its queue. -/
def kRand : Core := with1 .vxq dRand []
/-- Core 3 with that descriptor at the head of its queue. -/
def kFill : Core := with1 .skq dFill []
/-- Core 3 with that descriptor at the head of its queue. -/
def kCopy : Core := with1 .skq dCopy []
/-- Core 3 with that descriptor at the head of its queue. -/
def kUp : Core := with1 .upq dUp hyper

/-- Core 3 with MVFILL at the head of SKQ and slot 1, its output, FULL. -/
def fillWaits : Core := { kFill with spd := { tags := [(1, { st := .full, count := 1 })] } }
/-- Core 3 with MVFILL at the head of SKQ and segment 0 off. -/
def fillOff : Core := { kFill with spd := { segs := [(0, { phase := .off })] } }
/-- Core 3 with UPSTEP at the head of UPQ and its masters' slot EMPTY. -/
def upWaits : Core := { kUp with spd := { mem := hyper, tags := [(3, { st := .full, count := 1 })] } }

/-- A flight of MVCOPY with nothing left to do: it pins slot 0, which it consumes, and holds slot 1. -/
def flown : Flight := { idx := 0, raw := dCopy, work := .finished, pins := [0], held := [1], consume := [0], ocnt := 2, sigs := [{ sem := 3, amt := 1 }], doneTo := some 1 }

/-- Core 3 with flight f of queue q, slot 0 FULL and pinned, slot 1 HELD. -/
def flying (q : QueueId) (f : Flight) : Core :=
  { putQ awake q { tail := 1, issue := 1, flights := [f] } with
    spd := { tags := [(0, { st := .full, count := 2, rdpin := 1 }), (1, { st := .held, owner := .queue q })] } }

/-- A failed flight of its attempt n. -/
def failed (code n : Nat) : Flight := { flown with work := .failed code 0#32 0, attempt := n }

/-- An arrival at core 3 from core 7 that opens slot 1. -/
def arrival : Flit := { id := 4, vc := 1, src := .core 7, dst := .core 3, route := [], kind := .arrival, core := 7, ctx := 2, seq := 0, off := 0x400, len := 4, data := four, start := true }

/-- A SLOTEND marker of core 7 for slot 1. -/
def marker : Flit := { arrival with kind := .marker, start := false, ocnt := 3, len := 0, data := [] }

/-- The block with core 3 in state k and flit f in the mesh. -/
def met (k : Core) (f : Flit) : State := { on k with mesh := [f], nextFlit := 9 }

/-- Slot 1 HELD by core 7. -/
def heldBy7 : Core := { awake with spd := { tags := [(1, { st := .held, owner := .onchip, src := 7 })] } }

/-- One entry in the gather buffer. -/
def gathered : Gather := { row := 2, bytes := List.replicate 32 9#8, mask := 15, since := 5 }

/-- Core 3 with that entry. -/
def gathers : Core := { awake with spd := { gather := [gathered] } }

/-- Segment 0 off, and its ON bit clear. -/
def seg0Clear : Core := { awake with pages := [(5, { act := [(0x50, 0x0FFF0FFE#32)] })], spd := { segs := [(0, { phase := .off })] } }

/-- Segment 0 off, and a tenant may not set its ON bit. -/
def seg0Denied : Core := { seg0Clear with pages := [(5, { act := [(0x50, 0x0FFE0FFE#32)] })] }

/-- Slot 1 BACKED, its refetch under way. -/
def refetching : Core := { awake with spd := { tags := [(1, { st := .full, count := 1, backed := true, backCtx := 2, backEnd := 64, backCounts := [1, 1, 1, 1, 1, 1] })] }, skd := { refetch := [1] }, mxq := { waitRefetch := [1] } }

/-- A core with a NOP in the loop buffer of MXQ. -/
def looping : Core := { awake with mxq := { holding [ctl 1 [(0x10, 4, 0x20180)], ctl 0 []] with issue := 1, loops := [{ start := 0, len := 1, count := 2, iter := 0, advs := [], sigs := [] }] } }

/-- A stream context of one run of 64 bytes. -/
def ctxBlock : List Byte :=
  let b := bytesOf 128 [(0, 1, 1), (8, 3, 64), (0x18, 3, 1), (0x24, 3, 1), (0x30, 3, 1), (0x3C, 3, 1), (0x48, 3, 1), (0x54, 3, 1)]
  splice b 0x7C (natLe 4 (crc32c (b.take 0x60)))

/-- An SKSTREAM of context 2 in direction d: memory side at m, slot 1 (slot 0 for a source) on the scratchpad side, core 3 as destination. -/
def skDesc (d m : Nat) : List Byte := desc 0x30 0 [(0x10, 2, 2), (0x12, 1, d), (0x14, 8, m), (0x1C, 3, if d = 0 then 0x400 else 0), (0x20, 2, 3), (0x23, 1, 7)]

/-- The stream that it starts. -/
def strm (d m : Nat) : Stream := { ctx := 2, raw := skDesc d m, cbytes := ctxBlock, group := [], counts := [1, 1, 1, 1, 1, 1], total := 64, pos := 0 }

/-- A core with contexts 0 to 15 and the descriptor of direction d at the head of SKQ. -/
def starting (d m : Nat) (tags : FMap Tag) : Core :=
  { putQ awake .skq { tail := 1, buf := [{ idx := 0, raw := skDesc d m, ctx := some ctxBlock, ok := true }] } with
    pages := [(6, { act := [(0x54, 16#32)] })], spd := { tags := tags } }

/-- Its fetched entry. -/
def skEntry (d m : Nat) : Fetched := { idx := 0, raw := skDesc d m, ctx := some ctxBlock, ok := true }

/-- Slot 0 FULL; slot 1 HELD by SKQ. -/
def streamTags : FMap Tag := [(0, { st := .full, count := 1 }), (1, { st := .held, owner := .queue .skq })]

/-- The page of virtual address 0x10000, at physical address 0x20000. -/
def paged : List Trans := [{ large := false, vpage := 1, pa := 0x20000, writable := true }]

/-- A core that runs the stream st, its shares full, with cache tr and tags tags. -/
def streaming (st : Stream) (tr : List Trans) (tags : FMap Tag) : Core :=
  { awake with skd := { streams := [st], cache := tr, shares := { read := 512, write := 512, remote := 512 } }, spd := { tags := tags } }

/-- Its first visit. -/
def visit1 : Visit := { slot := 1, first := 0, upto := 0, left := false }

/-- What the walk does next is neither a lookup nor a halt. -/
def calm (s : State) (c : Nat) (o : Stream) : Bool := match peek s c o with
  | .lookup .. => false
  | .halt _ => false
  | _ => true

/-- Streams that are calm look nothing up and meet no halt. -/
theorem calm_peek (s : State) (c : Nat) (l : List Stream) (h : l.all (calm s c) = true) : ∀ o ∈ l, ∀ a b h, peek s c o ≠ .lookup a b ∧ peek s c o ≠ .halt h := by
  intro o ho a b x
  have hc := List.all_eq_true.mp h o ho
  unfold calm at hc
  constructor <;> intro he <;> rw [he] at hc <;> cases hc

/-- A request of the stream, of its first 64 bytes. -/
def req1 : Req := { seq := 0, pos := 0, len := 64, slot := 1, waiting := 1, marker := false }

/-- A flit of kind k for core 3, context 2, with 64 bytes. -/
def answer1 (k : FlitKind) (code : Nat) : Flit :=
  { id := 4, vc := 1, src := .land 0 0, dst := .core 3, route := [], kind := k, core := 3, ctx := 2, seq := 0, data := if k = .readResp then List.replicate 64 5#8 else [], code := code }

/-- The stream with its request out. -/
def waiting1 (d : Nat) : Stream := { strm d 0x10000 with pos := 64, visits := [{ visit1 with upto := 64, left := true }], reqs := [req1], nextSeq := 1 }

/-- A pull request to core 3 for 4 bytes at o. -/
def pull (o : Nat) : Flit := { id := 4, vc := 0, src := .core 7, dst := .core 3, route := [], kind := .pullReq, core := 7, ctx := 2, seq := 0, off := o, len := 4 }

/-- Slots 0 to 767 untagged. -/
def allUntagged : Core := { awake with pages := [(5, { act := [(0x40, 0x82FF0000#32)] })] }

/-- A flit for router (4, 0) on its way to core 7. -/
def moving : Flit := { arrival with dst := .core 7, route := [(4, 0), (5, 0)] }

/-- A flit for chip 9 at the last router before torus port 2. -/
def leaving : Flit := { arrival with vc := 2, dst := .torus 2, route := [(4, 0)], hdr := some { kind := 0#4, srcChip := 0#32, dstChip := 9#32, srcCore := 3#11, dstCore := 4#11, window := 0, epoch := 0#16, tenant := 5#8, offset := 0#20, len := 4#9, slotStart := true, slotEnd := false, ocnt := 0#4, fwdLeft := 0#2, ctx := 2#10, seq := 0#16, code := 0#8 } }

/-- A flit for landing port 2 that asks for or brings n bytes of line 2 * 16. -/
def toYard (k : FlitKind) (n : Nat) (d : List Byte) : Flit :=
  { id := 4, vc := 0, src := .core 3, dst := .land 2 0, route := [], kind := k, core := 3, ctx := 2, seq := 0, addr := 0x2040, len := n, data := d }

/-- The line of that address, dirty. -/
def line1 : Line := { num := lineOf 0x2040, dirty := true, data := List.replicate 256 6#8 }

/-- Landing port 2 holding it. -/
def yarded : Yard := { sets := [(0, [line1])] }

/-- The block with yard y at landing port 2 and flit f. -/
def atYard (y : Yard) (f : Flit) : State := { met awake f with yards := [(2, y)] }

/-- Window 0 over slots 0 and 1 for tenant 5, all axes, both permissions. -/
def windowed : Core := { awake with pages := [(7, { act := [(0x40, 0x6F050000#32), (0x44, 0x00010000#32)] })] }

/-- Window 0 open with epoch 8. -/
def opened : Core := { windowed with wins := [(0, { open_ := true, epoch := 8 })] }

/-- A write of n bytes through window 0 from chip 9. -/
def hdr0 (ep : BitVec 16) (t : TenantId) (o : BitVec 20) (n : BitVec 9) : RemoteHdr :=
  { kind := 0#4, srcChip := 9#32, dstChip := 0#32, srcCore := 1#11, dstCore := 3#11, window := 0, epoch := ep, tenant := t, offset := o, len := n,
    slotStart := true, slotEnd := false, ocnt := 0#4, fwdLeft := 0#2, ctx := 2#10, seq := 0#16, code := 0#8 }

/-- Core 3 with window 0 open as cfg has it. -/
def openAs (cfg : Word) : Core := { opened with pages := [(7, { act := [(0x40, cfg), (0x44, 0x00010000#32)] })] }

/-- The header of a command to core 3 through window 0. -/
def cmd3 (ep : BitVec 16) (t : TenantId) : WinCmd :=
  { dstChip := 0#32, srcChip := 9#32, srcCore := 1#11, core := 3, win := 0, epoch := ep, tenant := t, direct := false, fwdLeft := 0#2 }

/-- A forwarded flit that awaits the answer to its copy. -/
def forwarded : Forward := { n := 6, hdr := some (hdr0 8 5 0 4), report := none, port := 1, own := 0 }
/-- A member's job 7 of two chips on cores cs, its head chip 9. -/
def jobOn (r : Nat) (cs : List Nat) : Job := { job0 r 2 with cores := cs }

/-- Core 3 with its barrier enabled on semaphores 1 and 2, and 1 in semaphore 1. -/
def barred : Core := { awake with pages := [(7, { act := [(0x744, 0x80000041#32)] }), (1, { act := [(0x44, 1#32)] })] }

/-- A descriptor in flight that uses bank 0 of the scale file. -/
def onBank : Flight := { idx := 0, raw := ctl 0 [], bank := some 0 }

/-- A core with region n as r, and its GRV_CLKn register v. -/
def clocked (n : Nat) (r : Region) (v : Word) : Core := { awake with pages := [(10, { act := [(0x40 + 4 * n, v)] })], grv := { regions := [(n, r)] } }

/-- GVOP of slot 0, one FP32 value from slot 0 to slot 1. -/
def dGv : List Byte := desc 0x50 0 [(0x1A, 3, 0x400), (0x1E, 2, 32), (0x20, 2, 32), (0x22, 2, 1), (0x24, 2, 1)]

/-- A grove whose slot 0 takes FP32. -/
def grove0 : Grove := { decls := [(0, { info := 0x80080001#32, types := 1#32 })], engine := 0x00090000#32, blank := false }

/-- Core 3 with that GVOP at the head of GVQ. -/
def kGv : Core := { with1 .gvq dGv [] with grv := grove0 }

/-- The GVOP in flight. -/
def gvFlight : Flight := { idx := 0, raw := dGv, held := [1], pins := [0], ocnt := 1, tag := 2 }

/-- Its port state: tag 2, b beats to send. -/
def gvPort (b : List (List Byte)) : PortOp := { tag := 2, raw := dGv, beats := b, rows := 1, cols := 1 }

/-- Core 3 with the GVOP in flight and o at its port. -/
def porting (o : PortOp) : Core :=
  { awake with grv := { grove0 with port := { ops := [o] }, regions := [(0, { cur := 0x20#32 })] }, gvq := { tail := 1, issue := 1, flights := [gvFlight] }, pages := [(10, { act := [(0x54, 100#32)] })], spd := { tags := [(1, { st := .held, owner := .queue .gvq })] } }

/-- Bank 0 enabled, its supply good, pin 5 input of core 3, its events enabled with configuration v. -/
def pinned (v : Word) (x : Pin) : State :=
  { on awake with fioPage := { act := [(0x40, 0x80000000#32), (0x74, 0x98000000#32), (0x1F4, v)] }, banks := [(0, { supplyOk := true })], pins := [(5, x)] }
/-- The key 1 to 32. -/
def key1 : Nat := ((List.range 32).map fun i => (i + 1) * 2 ^ (8 * i)).sum

/-- A header for n frames of one range of frames 450 to 452, LIMITS legal, key slot 4, wildcard, the fields fs changed. -/
def hdr1 (n : Nat) (fs : List (Nat × Nat × Nat)) : List Byte :=
  bytesOf 256 ([(0, 4, 0x50434B42), (4, 2, 1), (6, 2, 1), (8, 2, 0x5A04), (0xA, 1, 1), (0xB, 1, 4), (0x20, 4, tableBytes n + 64 * n), (0x24, 2, n), (0x26, 1, 1),
    (0x28, 2, 450), (0x2A, 2, 452), (0x6C, 4, 0xF1111)] ++ fs)

/-- A load of phase p of an image of n bytes, staged in slot 767, its key in the key register. -/
def load1 (p n : Nat) : Load := { phase := p, handle := 1, len := n, fresh := true, slots := [767], mask := 31, fuses := 0, keyReg := some key1, since := 0 }

/-- A core in that load with the image staged. -/
def loading (l : Load) (img : List Byte) : Core := { awake with grv := { load := some l }, spd := { mem := memWrite [] (767 * 1024) img, lock := [767] } }

/-- An image of no frames: its header and its tag. -/
def image0 : List Byte := hdr1 0 [] ++ (natBe 16 27842925455969071540691145897872332137).map (BitVec.ofNat 8)

/-- A load in pass 2 of an image of one frame, 451, whose CRC is c; the frames fs are still to be written. -/
def load2 (c : Nat) (fs : List Nat) : Load := { load1 4 400 with hdr := hdr1 1 [], key := key1, pend := [{ frame := 451, crc := c, pos := 0 }], todo := fs }

/-- The CRC-32C of the plaintext of that frame where its 64 bytes in the body are zeros. -/
def crc1 : Nat := 3823289798

/-- A claim about the pending entry of every listed frame follows from its test of each. -/
theorem each_pending {l : List Nat} {g : Nat → Option PendFrame} {P : Nat → PendFrame → Prop} [∀ f p, Decidable (P f p)]
    (h : (l.all fun f => (g f).all fun p => decide (P f p)) = true) : ∀ f ∈ l, ∀ p, g f = some p → P f p := by
  intro f hf p hp
  have := List.all_eq_true.mp h f hf
  rw [hp] at this
  simpa using this

/-- Core 3 with a scrub pass at frame 7, whose signature entry is g. -/
def scrubbing (g : Sig) : Core := { awake with grv := { passOn := true, frame := 7, sigs := [(7, g)] } }

/-- Core 3 with frame 7 of image 1 to be repaired, its signature c. -/
def repairing (c : Word) : Core :=
  { awake with grv := { repair := some { frame := 7, since := 0 }, images := [(1, { key := key1, iv := hdrIv (hdr1 1 []), nframes := 1 })], sigs := [(7, { crc := c, kind := 1, handle := 1 })] } }

/-- The block with the key store as k. -/
def keyed (k : Keys) : State := { on awake with keys := k }

/-- A record of class n. -/
def rec1 (n : Nat) : ErrRec := { code := 7, cls := n, page := 3 }

/-- Core 3 with the FIFO l. -/
def fifoed (l : List ErrRec) : Core := { awake with err := { fifo := l } }

/-- A journal record of a core felled. -/
def jrec : JRec := { ty := 2, payload := natLe 2 3 ++ [1#8] ++ natLe 9 0, rtime := 5#32 }

/-- The block with the journal j. -/
def journalled (j : Journal) : State := { on awake with jnl := j }

/-- Core 3 able to run Cruise, in its step x. -/
def cruising (x : Cruise) : Core := { awake with cruise := x }

/-- A core in power state p, all else as at reset. -/
def inState (p : PState) : Core := { pwr := { st := p } }

/-- The block in initialisation after step n. -/
def booting (n : Nat) : State := { boot := { powered := true, step := n } }

/-- A checked answer that is the one claimed. -/
theorem ok_eq {α β : Type} [DecidableEq β] {e : Except α β} {b : β} (h : (match e with | .ok x => decide (x = b) | .error _ => false) = true) : e = .ok b := by
  cases e with
  | ok x => simpa using h
  | error x => cases h

/-- A checked error that is the one claimed. -/
theorem error_eq {α β : Type} [DecidableEq α] {e : Except α β} {a : α} (h : (match e with | .ok _ => false | .error x => decide (x = a)) = true) : e = .error a := by
  cases e with
  | ok x => cases h
  | error x => simpa using h

/-- A fetch of ring entry 0 of MXQ that has brought d. -/
def gotEntry (d : List Byte) : Fetch := { n := 1, q := .mxq, kind := .entry 0, va := 0, len := 64, stage := .here d }

/-- Core 3 with MXQ as x, its entry 0 wanted, and that fetch. -/
def fetched (f : Fetch) (x : Queue) : State := on { putQ ringed .mxq { x with tail := 1 } with skd := { fetches := [f] } }

/-- A fetch of what belongs to entry 0 of SKQ. -/
def gotPart (kind : FetchKind) : Fetch := { n := 1, q := .skq, kind := kind, va := 0, len := 128, stage := .here (List.replicate 128 0#8) }

/-- Core 3 with a multicast SKSTREAM at the head of SKQ, its context there or not, and that fetch. -/
def fetchedSk (kind : FetchKind) : State :=
  let e : Fetched := { entry 0 (desc 0x30 0 [(0x10, 2, 2), (0x13, 1, 8)]) with ctx := if kind = .context 0 then none else some ctxBlock }
  on { putQ awake .skq { tail := 1, buf := [e] } with pages := [(0, { act := [(0xA0, 4#32)] }), (6, { act := [(0x54, 0x00100010#32)] })], skd := { fetches := [gotPart kind] } }

/-- A fetch of a fallback entry for MXQ. -/
def gotPart2 (kind : FetchKind) : Fetch := { n := 1, q := .mxq, kind := kind, va := 0, len := 64, stage := .here (sealed (ctl 0x10 [])) }

/-- Core 3 with an MXMUL of FBV = 1 at the head of MXQ, and the fetch of its fallback entry. -/
def fetchedEarly : State := on { putQ ringed .mxq (holding [ctl 0x10 [(1, 1, 8)]]) with skd := { fetches := [gotPart2 (.early 0)] } }

/-- Core 3 with a fallback of MXQ wanted, and its fetch. -/
def fetchedFb : State :=
  on { putQ ringed .mxq { tail := 1, issue := 1, fb := some { orig := { idx := 0, raw := ctl 0x10 [] }, entry := none, tries := 0 } } with skd := { fetches := [gotPart2 (.fallback 0)] } }

/-- Core 3 after its MVCOPY has issued. -/
def copying : Core := getCore (after (.mvcopy 3) (on kCopy)) 3

/-- The copy in flight. -/
def copyFlight : Flight := (getQ copying .skq).flights.headD { idx := 0, raw := [] }

/-- The block with an MXMUL of core 3 just issued. -/
def multiplying : State := after (.mxmul 3) (on kMul)

/-- Its flight as it issued. -/
def mulIssued : Flight := (getCore multiplying 3).mxq.flights.headD { idx := 0, raw := [] }

/-- Its flight as its pass starts. -/
def mulFlight : Flight := (getCore (atLeast multiplying mulIssued.start) 3).mxq.flights.headD { idx := 0, raw := [] }

/-- That flight in its first step. -/
def mulFlight0 : Flight := (getCore (atLeast multiplying (mulFlight.start + mulFlight.load)) 3).mxq.flights.headD { idx := 0, raw := [] }

/-- The pass of that flight. -/
def mulPass : Pass := match mulFlight.run with
  | .mx a _ => a
  | _ => { raw := [], kind := .int, probs := [], conv := none, acc := false, rsMode := 0, nv := 0 }

/-- The resident tile of that flight. -/
def mulTile : Resident := match mulFlight.run with
  | .mx _ r => r
  | _ => { stype := 0, grp := 0, shape := 0, xoff := 0, xstride := 0, xscoff := 0, iv := 0, jv := 0, aux := 0, opcode := 0, blockBytes := [], rows := [] }

/-- A core on which a clip test has called for the fallback d of a descriptor with the same bytes. -/
def falling (q : QueueId) (d : List Byte) : Core :=
  { putQ awake q { tail := 1, issue := 1, fb := some { orig := { idx := 0, raw := d, held := [1], loops := [] }, entry := some d, tries := 0 } } with
    spd := { tags := (1, { st := .held, owner := .queue q }) :: fulls } }

/-- What is under way there. -/
def fallOf (d : List Byte) : Fallback := { orig := { idx := 0, raw := d, held := [1], loops := [] }, entry := some d, tries := 0 }

/-- Two descriptors of a queue in flight, of which the first is f. -/
def behind (q : QueueId) (f : Flight) : Core := putQ (flying q f) q { tail := 2, issue := 2, flights := [f, { idx := 1, raw := ctl 0 [] }] }

/-- The tag of slot 1, filled by a stream of context 2 from address 0x10000. -/
def backedTag : Tag := { st := .full, count := 1, backed := true, backRaw := skDesc 0 0x10000, backCtx := 2, backEnd := 64, backCounts := [1, 1, 1, 1, 1, 1] }

/-- A refetch of slot 1 whose fetch of kind and stage is that given, with the context there. -/
def refetchWith (st : FetchStage) : Core :=
  { awake with
    spd := { tags := [(1, backedTag)] }, mxq := { waitRefetch := [1] }
    skd := { refetch := [1], fetches := [{ n := 1, q := .mxq, kind := .backCtx 1, va := 0, len := 128, stage := .here ctxBlock },
                                         { n := 2, q := .mxq, kind := .run 1 0, va := 0x10000, len := 64, stage := st }] } }

/-- An upset scratchpad: word 0 of core 3 has wrong parity, under a descriptor that reads it. -/
def upsetCopying : Core := upsetWord copying 0 1

/-- A tag command over slots 0 to 7. -/
def walking (op : Nat) : Core := { heldBy7 with spd := { heldBy7.spd with cmd := some { op := op, count := 2, first := 0, last := 7, since := 2, next := 0 } } }

/-- Core 3 with entry 0 of MXQ to be fetched, its shares full, its translations tr. -/
def wanting (tr : List Trans) : Core := { putQ ringed .mxq { tail := 1 } with skd := { cache := tr, shares := { read := 512 } } }

/-- The page of virtual address 0. -/
def paged0 : List Trans := [{ large := false, vpage := 0, pa := 0x20000, writable := true }]

/-- The fetch of n bytes of an image from byte off of it on. -/
def wantedImage (off n : Nat) : Fetch := { n := 0, q := .gvq, kind := .image off, va := 0x20000 + off, len := n, stage := .asked }

/-- A core that sleeps while an image of 16 bytes at 0x20000 is to be staged. -/
def stagingAsleep : Core :=
  { inState .sleep with grv := { load := some (load1 1 16) }, skd := { shares := { read := 512 } }, pages := [(11, { act := [(0x50, 0x20000#32)] })] }

/-- A core that has sent fetch f while load l is under way. -/
def fetching (f : Fetch) (l : Load) : Core := { awake with grv := { load := some l }, spd := { lock := [767] }, skd := { fetches := [{ f with stage := .sent }] } }

/-- A core whose load has lost a line of its image, with code n. -/
def lostLine (n : Nat) : Core :=
  { awake with grv := { load := some { load1 1 16 with asked := 16 } }, spd := { lock := [767] }, skd := { fetches := [{ wantedImage 0 16 with stage := .faulted n }] } }

/-- Core k with the bytes of the fetch of kind x here. -/
def brought (k : Core) (x : FetchKind) (bs : List Byte) : Core := { k with skd := { k.skd with fetches := [{ n := 0, q := .gvq, kind := x, va := 0, len := 64, stage := .here bs }] } }

/-- The fetch of that entry. -/
def wanted : Fetch := { n := 0, q := .mxq, kind := .entry 0, va := 0, len := 64, stage := .asked }

/-- A core that has asked for page 1, with a stream that waits for it. -/
def asking (l : List Trans) (vs : List Save) : Core :=
  { awake with skd := { streams := [{ strm 0 0x10000 with trans := some 1 }], asked := [1], cache := l, saves := vs, fetches := [{ wanted with va := 0x10000 }] } }

/-- State bytes that wait for page 1. -/
def save1 : Save := { va := 0x10060, data := List.replicate 28 3#8 }

/-- A stream in direction d that has walked to its end with nothing outstanding. -/
def walked (d m : Nat) : Stream := { strm d m with pos := 64 }

/-- A stream whose halt is to be reported to core 3's neighbour 7. -/
def reporting : Stream := { strm 2 0x800 with halting := some { code := 4, pos := 0, report := true }, visits := [visit1] }

/-- A fetch that a response answers. -/
def sentFetch : Core := { awake with skd := { fetches := [{ wanted with stage := .sent }] } }

/-- An answer for it, of kind k. -/
def fetchAnswer (k : FlitKind) : Flit := { answer1 k 1 with ctx := 1024 }

/-- A fact about an option that holds nothing. -/
theorem ne_some {α : Type} (o : Option α) (h : o = none) (x : α) : o ≠ some x := by rw [h]; exact nofun

/-- One about a list with nothing. -/
theorem no_mem {α : Type} (l : List α) (h : l = []) (p : α → Prop) : ∀ a ∈ l, p a := by rw [h]; exact nofun

/-- An SKSTREAM out of a slot. -/
def outEntry1 : Fetched := { skEntry 0 0x10000 with raw := splice (skDesc 0 0x10000) 0x12 [1#8] }

/-- It at the head of SKQ, the segment of that slot off. -/
def startOff : State := on { starting 0 0x10000 [] with spd := { segs := [(0, { phase := .off })] }, skq := { (starting 0 0x10000 []).skq with buf := [outEntry1] } }

/-- An SKSTREAM behind one that uses its context. -/
def secondEntry : Fetched := { skEntry 0 0x10000 with idx := 1 }

/-- Both, the first in flight. -/
def startBusy : State := on { starting 0 0x10000 [] with
  skq := { (starting 0 0x10000 []).skq with issue := 1, tail := 2, buf := [entry 0 (skDesc 0 0x10000), secondEntry], flights := [{ idx := 0, raw := skDesc 0 0x10000 }] } }

/-- An SKSTREAM on a core with no contexts. -/
def startNone : State := on { starting 0 0x10000 [] with pages := [] }

/-- One whose source slot waits, and one whose slots are ready. -/
def startWaits : State := on (starting 1 0x10000 [])
def startIn : State := on (starting 0 0x10000 [])
def startOut : State := on (starting 1 0x10000 [(0, { st := .full, count := 1 })])

/-- The entries of directions 0 and 1. -/
def entryIn : Fetched := skEntry 0 0x10000
def entryOut : Fetched := skEntry 1 0x10000

/-- A stream in a segment that is off. -/
def streamOff : State := on { streaming (strm 0 0x10000) paged [] with spd := { segs := [(0, { phase := .off })] } }

/-- A stream in its first visit, and others in directions 1 and 2, that may send. -/
def visiting : Stream := { strm 0 0x10000 with visits := [visit1] }
def sendsRead : State := on (streaming visiting paged streamTags)
def sendsWrite : State := on (streaming (strm 1 0x10000) paged streamTags)
def sendsArrival : State := on (streaming (strm 2 0x800) [] streamTags)

/-- A multicast flit at its root, router (3, 0), for cores 5 and 43. -/
def branching : Flit := { arrival with src := .core 3, dst := .core 3, route := [(3, 0)], tree := [5, 43] }

/-- It on its way from there to (4, 0) with core 4 and 5 beyond. -/
def branched : Flit := { branching with here := some (3, 0), route := [(4, 0)], tree := [4, 5] }

/-- A command of OP op to core 3 by torus port 1. -/
def command (ep : BitVec 16) (t : TenantId) (op : Nat) (args : List Byte) : CmdSrc := .torus 1 (cmd3 ep t) (cmdBody op 7 args)

/-- Window 0 open with copies to the next chip of the node. -/
def copyingWindow : Core := openAs 0x7F050000#32

/-- Core 3 is FELLED. -/
def felled3 : State := { on awake with owners := [(3, { owned := true, felled := true, tenant := 5#8 })] }

/-- Window 0 open over untagged slots, over a segment that is off, over a FULL slot. -/
def openUntagged : State := on { opened with pages := opened.pages ++ [(5, { act := [(0x40, 0x82FF0000#32)] })] }
def openOff : State := on { opened with spd := { segs := [(0, { phase := .off })] } }
def openFull : State := on { opened with spd := { tags := [(0, { st := .full, count := 1 })] } }

/-- A write of 32 bytes. -/
def hdr32 : RemoteHdr := hdr0 8 5 0 32

/-- A flit has its turn where it is the first of its buffer, the buffer ahead is empty and no flit goes before it. -/
theorem turn_of (s : State) (r : Nat × Nat) (p : Nat) (f : Flit)
    (h1 : (f.route.head? == some r && portInto f r == p && !f.resend && headOfBuffer s f) = true)
    (h2 : (s.mesh.filter fun g => g.here == some r && g.inPort == p && g.vc == f.vc && g.route ≠ []).length = 0)
    (h3 : ((beforeVc (((fget? s.links (linkKey r p)).map (·.2)).getD 2) f.vc).all fun v => !(s.mesh.any fun g => g.vc == v && linkReady s r p g)) = true) :
    hasTurn s r p f = true := by
  have hc : hasCredit s r p f.vc = true := by
    unfold hasCredit bufferSize
    rw [h2]
    exact decide_eq_true (by split <;> omega)
  unfold hasTurn linkReady
  rw [h1, hc]
  exact h3

/-- The body of a command of job 7. -/
def body7 (op : Nat) (args : List Byte) : List Byte := cmdBody op 7#32 args

/-- Core 3 with the GVOP in flight, o at its port and a beat that the grove has not taken. -/
def beating (o : PortOp) : Core :=
  let k := porting o
  { k with grv := { k.grv with port := { k.grv.port with inBuf := [four] } } }

/-- A grove whose slot 0 takes FP32 and writes by SCATTER. -/
def scattering (o : PortOp) : Core :=
  let k := porting o
  { k with grv := { k.grv with decls := [(0, { info := 0xA0080001#32, types := 1#32 })] } }

/-- An OUT beat of tag 2 that is due. -/
def outEntry : OutEntry := { tag := 2, body := .result 0x400 four 1, due := 0 }

/-! Ill-formed commands, one for each check of Instr.wf. -/

/-- A port write whose length is not 4, 8 or 16, that is not aligned to it, or that leaves the scratchpad. -/
theorem test_wf_port_write :
    (Instr.scratchpadPortWrite .mgmt 3 0 [1#8]).wf = false ∧ (Instr.scratchpadPortWrite .mgmt 3 2 four).wf = false ∧
    (Instr.scratchpadPortWrite .mgmt 3 0xC0000 four).wf = false ∧ (Instr.scratchpadPortWrite .mgmt 3 0xBFFFC four).wf = true := by decide

/-- A port read whose width is not 4, 8 or 16, that is not aligned to it, or that leaves the scratchpad. -/
theorem test_wf_port_read :
    (Instr.scratchpadPortRead .mgmt 3 0 2).wf = false ∧ (Instr.scratchpadPortRead .mgmt 3 4 8).wf = false ∧
    (Instr.scratchpadPortRead .mgmt 3 0xC0000 4).wf = false ∧ (Instr.scratchpadPortRead .mgmt 3 0xBFFF0 16).wf = true := by decide

/-- Blocks, headers, lines and frames of a wrong length. -/
theorem test_wf_lengths :
    (Instr.mailboxTake four).wf = false ∧ (Instr.loadImage 5 0 four).wf = false ∧ (Instr.loadJob 5 0 [] [four]).wf = false ∧ (Instr.yardFill 2 0 four).wf = false ∧
    (Instr.scrubFrameRead 3 four .good).wf = false ∧ (Instr.portDone 3 0 true four).wf = false ∧ (Instr.portOutBeat 3 0 (.result true true four)).wf = false := by decide +kernel

/-- A write's payload that its header's length does not match. -/
theorem test_wf_arrival : (Instr.remoteArrival (.torus 0 (hdr0 8 5 0 5) four)).wf = false ∧ (Instr.remoteArrival (.torus 0 (hdr0 8 5 0 4) four)).wf = true := by decide +kernel

/-- A chip command whose body is not of 32 bytes. -/
theorem test_wf_command : (Instr.cmdSeed (.chip 9 four)).wf = false ∧ (Instr.cmdStop (.torus 1 (cmd3 8 5) four)).wf = false ∧ (Instr.cmdStop (command 8 5 1 [31])).wf = true := by decide +kernel

/-- An ill-formed command faults. -/
theorem test_ill_formed_faults : exec (.mailboxTake four) (on awake) = .fault .malformed := rfl

/-! The queue of commands. -/

/-- The table gives no row bits, so no word spells a command. -/
theorem test_no_word_spells_a_command : decodeTableWord 8 5 = none ∧ (on awake).withFetchWord 8 5 = on awake := by decide +kernel

/-- An empty queue lets one FCLK cycle pass. -/
theorem test_empty_queue : step State.reset = .next { State.reset with now := 1 } := rfl

/-! Numbers and steps that the spec works out. -/

/-- The spec's first AdamW step (11_update_unit.md): high half 0x3F80, low half 0x1DFF, m 0x3D80_0000, v 0x3980_0000. -/
def adam : Core :=
  let d := desc 0x40 0 [(0x10, 1, 2), (0x11, 1, 0x10), (0x14, 3, 0x400), (0x17, 3, 0x800), (0x1A, 3, 0xC00), (0x1D, 3, 0x1000), (0x20, 3, 0x1400), (0x23, 3, 0x1C00), (0x2A, 2, 1)]
  let h := [0x3A800000, 0x3F600000, 0x3F7FC000, 0x3E000000, 0x3A800000, 0x35800000, 0x3D800000, 0x41000000, 0x44800000, 0x3F800000, 0, 0]
  { putQ awake .upq (holding [d]) with
    pages := [(5, { act := [(0x40, 0x82FF0000#32)] })],
    spd := { mem := memWrite (memWrite (memWrite (memWrite [] 0x400 (natLe 2 0x3F80)) 0x800 (natLe 2 0x4000)) 0xC00 (natLe 2 0x3F00)) 0x1C00 (h.flatMap (natLe 4)) } }

theorem test_adamw_step :
    let k := getCore (after (.descriptorComplete 3 .upq) (after (.upstep 3) (on adam))) 3
    spdBytes k 0x400 2 = natLe 2 0x3F80 ∧ spdBytes k 0x800 2 = natLe 2 0x1DFF ∧ spdBytes k 0x1000 4 = natLe 4 0x3D800000 ∧ spdBytes k 0x1400 4 = natLe 4 0x39800000 := by
  decide +kernel

/-- The spec's MXFP4 dot product (03_number_formats.md): groups 0 and 1 of it, in one pass of two groups, give 0x4BA8_0001, and the third leaves it there. -/
def dot : Core :=
  let d := desc 0x10 0 [(0x13, 3, 0x400), (0x16, 3, 0x800), (0x19, 3, 0xC00), (0x1C, 3, 0x1000), (0x28, 2, 64), (0x2A, 2, 64), (0x2C, 2, 32), (0x2E, 2, 96), (0x30, 2, 1), (0x32, 2, 1),
    (0x34, 2, 0x9904)]
  { putQ awake .mxq (holding [d]) with
    pages := [(5, { act := [(0x40, 0x82FF0000#32)] })],
    spd := { mem := memWrite (memWrite (memWrite (memWrite [] 0 (bytesOf 48 [(0, 2, 0x7777), (16, 1, 1), (32, 1, 1)])) 0x400 (natLe 3 0x7F7F88))
      0x800 (bytesOf 48 [(0, 2, 0xC677), (16, 1, 5), (32, 1, 0xA)])) 0xC00 (natLe 3 0x7F7F88) } }

theorem test_mxfp4_dot : spdBytes (getCore (after (.descriptorComplete 3 .mxq) (after (.mxmul 3) (on dot))) 3) 0x1000 4 = natLe 4 0x4BA80001 := by decide +kernel

/-- A group whose largest value is 500 has scale code 0x7F in E4M3, and 500 then saturates to 448, code 0x7E (03_number_formats.md). -/
theorem test_group_scale : groupCode 5 none [f32 0x43FA0000] = 0x7F ∧ (quantMx 5 false .rne 0x7F (f32 0x43FA0000)).code = 0x7E := by decide +kernel

/-- The canonical NaNs of R85: 0x7F of the two FP8 formats, 0x7E00 of FP16, 0x7FC0 of BF16. -/
theorem test_canonical_nans : fE5M2.nanCode = 0x7F ∧ fE4M3.nanCode = 0x7F ∧ fFP16.nanCode = 0x7E00 ∧ fBF16.nanCode = 0x7FC0 := by decide

/-- exp(−1) as the attention example has it (10_vector_and_random.md): 0x3EBC_5AB2. -/
theorem test_exp : toF32 (vExp (f32 0xBF800000)) = 0x3EBC5AB2 := by decide +kernel

/-- Tenant 200 lies in TEN page 3 at 0x0C0 (02_control_model.md): a write of address 0x70C0 reaches its TEN_CTRL. -/
theorem test_tenant_address : (getTenant (after (.registerWrite .mgmt 0x70C0 0x80000005) (on awake)) 200).ctrl = 0x80000005#32 := by decide +kernel

/-- The fifth event of pin 29 in its window (12_grove_logic.md) is a rate storm with SUPP 1. -/
def stormy : State :=
  { on awake with cores := [(13, awake)], fioPage := { act := [(0x44, 0x80000000#32), (0xD4, 0x98000000#32), (0x254, 0x91404000#32)] }, banks := [(1, { supplyOk := true })], pins := [(29, { winCount := 4, lastChange := 470 * 17, stuckFrom := some (400 * 17) })], now := 520 * 17 }

theorem test_rate_storm :
    let x := getPin (after (.pinEvent 29 true) stormy) 29
    x.storm = true ∧ x.armed = false ∧ x.supp = 1 ∧ (after (.pinEvent 29 true) stormy).now = 520 * 17 := by decide +kernel

/-- GCM test case 14 of NIST's vectors: key, IV and plaintext all zeros. -/
theorem test_gcm : gcmCrypt (roundKeys (List.replicate 32 0)) (List.replicate 12 0) 0 (List.replicate 16 0#8) = (natBe 16 0xCEA7403D4D606B6E074EC5D3BAF39D18).map (BitVec.ofNat 8) := by
  decide +kernel

/-- CRC-32C of the nine bytes 31 to 39 is 0xE306_9283, its published check value. -/
theorem test_crc32c : crc32c ((List.range 9).map fun i => BitVec.ofNat 8 (0x31 + i)) = 0xE3069283 := by decide +kernel

/-! Witnesses. -/

/-- States and operands that meet the hypotheses of StepRunsFrontCommand. -/
theorem witness_stepRunsFrontCommand :
    ({ on awake with pending := [.powerGood] }).pending = Instr.powerGood :: ([] : List Instr) ∧
    (on awake).pending = [] := by decide +kernel

/-- States and operands that meet the hypotheses of CommandsLeaveQueueAlone. -/
theorem witness_commandsLeaveQueueAlone :
    exec Instr.warmReset (on awake) = Host.Outcome.next (after .warmReset (on awake)) := by exact rfl

/-- States and operands that meet the hypotheses of StepKeepsSound. -/
theorem witness_stepKeepsSound :
    sound ({ on awake with pending := [.warmReset] }) ∧
    step ({ on awake with pending := [.warmReset] }) = Host.Outcome.next (after .warmReset (on awake)) :=
  ⟨(by unfold sound; decide +kernel), (by exact rfl)⟩

/-- States and operands that meet the hypotheses of LockedKeysStay. -/
theorem witness_lockedKeysStay :
    exec (Instr.keyErase .mgmt) lockedKeys = Host.Outcome.next (after (.keyErase .mgmt) lockedKeys) ∧
    lockedKeys.keys.lock = true ∧
    (∀ (b : Bool), (Instr.keyErase .mgmt) ≠ Instr.powerLoss b) :=
  ⟨rfl, by decide +kernel⟩

/-- States and operands that meet the hypotheses of BootRecordFrame. -/
theorem witness_bootRecordFrame :
    exec (Instr.keyErase .mgmt) lockedKeys = Host.Outcome.next (after (.keyErase .mgmt) lockedKeys) := by exact rfl

/-- States and operands that meet the hypotheses of WellFormedCommandsComplete. -/
theorem witness_wellFormedCommandsComplete :
    (Instr.keyErase .mgmt).wf = true := by decide +kernel

/-- States and operands that meet the hypotheses of TenantAccessRule. -/
theorem witness_tenantAccessRule :
    5 ≤ (on awake).boot.step ∧
    ((Port.host 5#8) = Port.host (5 : TenantId) ∨ (Port.host 5#8) = Port.vc3 (5 : TenantId)) ∧
    offExists (PageRef.core (3 : CoreId) (0 : Fin 14)) (64 : Nat) = true ∧
    ((Port.vc3 5#8) = Port.host (5 : TenantId) ∨ (Port.vc3 5#8) = Port.vc3 (5 : TenantId)) ∧
    offExists PageRef.blk (0x58 : Nat) = true ∧
    offExists (PageRef.ten 6) (0x40 : Nat) = true ∧
    ((PageRef.ten 6) = PageRef.evt ∨ (PageRef.ten 6) = PageRef.jnl ∨ (PageRef.ten 6) = PageRef.fio ∨ ∃ u, (PageRef.ten 6) = PageRef.ten u) ∧
    ((9 : Nat) = 9 ∨ (9 : Nat) = 17) ∧
    ((0x11 : Nat) = 9 ∨ (0x11 : Nat) = 17) ∧
    (on awake).blk.errCode = 0#8 ∧
    ((Port.host 6#8) = Port.host (6 : TenantId) ∨ (Port.host 6#8) = Port.vc3 (6 : TenantId)) ∧
    (pageGate (on awake) (Port.host 6#8) (PageRef.core 3 0) (0x40 : Nat) false).snd = false ∧
    ((0xFC0 : Nat) = 20 ∨ (0xFC0 : Nat) = 24 ∨ (0xFC0 : Nat) = 28 ∨ 4032 ≤ (0xFC0 : Nat)) := by decide +kernel

/-- States and operands that meet the hypotheses of ManagementAccessRule. -/
theorem witness_managementAccessRule :
    (∀ (t m : Nat), fget? (on awake).pageOrder (pageKey PageRef.blk) = some (t, m) → t = rtime (on awake) → m ≤ portRank (Port.host 5#8)) ∧
    5 ≤ (on awake).boot.step ∧
    offExists (PageRef.core 3 13) (0x40 : Nat) = true ∧
    offExists PageRef.evt (0x700 : Nat) = false ∧
    5 ≤ (portOrder (on awake) (.vc3 5) .blk).boot.step ∧
    fget? (portOrder (on awake) (.vc3 5) .blk).pageOrder (pageKey PageRef.blk) = some (rtime (portOrder (on awake) (.vc3 5) .blk), (2 : Nat)) ∧
    portRank (Port.host 5#8) < (2 : Nat) :=
  ⟨(by exact fun _ _ h => nomatch h), (by decide +kernel)⟩

/-- States and operands that meet the hypotheses of RegisterWritesTakeEffect. -/
theorem witness_registerWritesTakeEffect :
    2 ≤ (on awake).boot.step ∧
    decodeAddr (0x1033040#44 : BitVec 44).toNat = AddrKind.page (PageRef.core (3 : CoreId) (3 : Fin 14)) (0x40 : Nat) ∧
    ((3 : Fin 14).val = 2 ∨ (3 : Fin 14).val = 3 ∨ (3 : Fin 14).val = 4) ∧
    64 ≤ (0x40 : Nat) ∧
    (0x40 : Nat) < 2048 ∧
    findRow (rowsCore (3 : Fin 14).val) (0x40 : Nat) = some ({ base := 0x40, count := 4, stride := 4, rw := 0xFFFFFFFF, set := true } : RegRow) ∧
    ({ base := 0x40, count := 4, stride := 4, rw := 0xFFFFFFFF, set := true } : RegRow).rw ≠ 0 ∧
    reaches (on awake) (.mgmt : Port) (PageRef.core (3 : CoreId) (3 : Fin 14)) (0x40 : Nat) (on awake) ∧
    decodeAddr (0x1033800#44 : BitVec 44).toNat = AddrKind.page (PageRef.core (3 : CoreId) (3 : Fin 14)) (0x800 : Nat) ∧
    (3 : Fin 14).val ≠ 0 ∧
    2048 ≤ (0x800 : Nat) ∧
    (0x800 : Nat) < 4032 ∧
    findRow (rowsCore (3 : Fin 14).val) ((0x800 : Nat) - 1984) = some ({ base := 0x40, count := 4, stride := 4, rw := 0xFFFFFFFF, set := true } : RegRow) ∧
    ({ base := 0x40, count := 4, stride := 4, rw := 0xFFFFFFFF, set := true } : RegRow).set = true ∧
    reaches (on awake) (.mgmt : Port) (PageRef.core (3 : CoreId) (3 : Fin 14)) (0x800 : Nat) (on awake) := by decide +kernel

/-- States and operands that meet the hypotheses of CommonRegisterCommands. -/
theorem witness_commonRegisterCommands :
    (decodeAddr (0x1041#44 : BitVec 44).toNat = AddrKind.reserved ∨ ∃ pg off, decodeAddr (0x1041#44 : BitVec 44).toNat = AddrKind.page pg off ∧ ((4 : Nat) ≠ 4 ∨ off % 4 ≠ 0 ∨ offExists pg off = false)) ∧
    (decodeAddr (0xFFFFFFFFFFF#44 : BitVec 44).toNat = AddrKind.reserved ∨ ∃ pg off, decodeAddr (0xFFFFFFFFFFF#44 : BitVec 44).toNat = AddrKind.page pg off ∧ ((8 : Nat) ≠ 4 ∨ off % 4 ≠ 0 ∨ offExists pg off = false)) ∧
    ((3 : Fin 14).val = 0 → notDozing (getCore (on armed) 3)) ∧
    swappableIdx (3 : Fin 14).val = true ∧
    reaches (on armed) (.mgmt : Port) (PageRef.core (3 : CoreId) (3 : Fin 14)) 16 (on armed) ∧
    (kPage (getCore (on armed) 3) (3 : Fin 14).val).swppend = false ∧
    ((3 : Fin 14).val = 0 → notDozing (getCore (on pendingVec) 3)) ∧
    reaches (on pendingVec) (.mgmt : Port) (PageRef.core (3 : CoreId) (3 : Fin 14)) 16 (on pendingVec) ∧
    (kPage (getCore (on pendingVec) 3) (3 : Fin 14).val).swppend = true ∧
    reaches (on armed) (.mgmt : Port) PageRef.jnl 16 (on armed) ∧
    (0 : Fin 14).val ≠ 12 ∧
    reaches (on armed) (.mgmt : Port) (PageRef.core (3 : CoreId) (0 : Fin 14)) 16 (on armed) ∧
    reaches (on armed) (.mgmt : Port) PageRef.blk 24 (on armed) ∧
    (0 : Fin 14).val ≠ 5 ∧
    (0 : Fin 14).val ≠ 6 ∧
    (0 : Fin 14).val ≠ 11 ∧
    reaches (on armed) (.mgmt : Port) (PageRef.core (3 : CoreId) (0 : Fin 14)) 24 (on armed) ∧
    readable (on armed) (Port.host 5#8) PageRef.blk 80 ∧
    2 ≤ (on armed).boot.step :=
  ⟨Or.inr ⟨.evt, 0x41, by decide +kernel, by decide⟩, Or.inl (by decide +kernel), by decide +kernel⟩

/-- States and operands that meet the hypotheses of PageExchangeSwapsSets. -/
theorem witness_pageExchangeSwapsSets :
    (0x40 : Nat) ∈ setOffs (rowsCore (3 : Nat)) ∧
    (¬(0x10 : Nat) ∈ setOffs (rowsCore (3 : Nat))) ∧
    (0 : Nat) ≠ (3 : Nat) := by decide +kernel

/-- States and operands that meet the hypotheses of ChipSwapCommands. -/
theorem witness_chipSwapCommands :
    ((0 : Fin 14).val = 0 → notDozing (getCore (on armed) 3)) ∧
    reaches (on armed) (.mgmt : Port) (PageRef.core (3 : CoreId) (0 : Fin 14)) 32 (on armed) ∧
    ownerOf (on armed) 3 = some (5 : Nat) ∧
    swapOf (on armed) (5 : Nat) = none ∧
    (participants (putCore (on armed) 3 (modKPage (getCore (on armed) 3) (0 : Fin 14).val fun q => { swapen := q.swapen, errint := q.errint, shlockhit := q.shlockhit, cntsat := q.cntsat, errpend := q.errpend, swppend := q.swppend, errOvf := q.errOvf, errTenant := q.errTenant, errCode := q.errCode, errMask := q.errMask, gen := q.gen, arm := q.arm, cnt := q.cnt, act := q.act, shd := q.shd })) (5 : Nat) none ≠ []) ∧
    swapOfCore (swapping armed swap0) 3 = some swap0 ∧
    swap0.ending = false ∧
    swap0.exchanged = false ∧
    (getCore (swapping { armed with hold := { held := true } } swap0) 3).hold.held = true ∧
    (swapping { armed with hold := { held := true, quietSent := true } } swap0).swaps = [swap0] ∧
    swap0.job = none ∧
    swap0.sentAt = none ∧
    (getCore (swapping { armed with hold := { held := true, quietSent := true } } swap0) 3).hold.quietSent = true ∧
    (∃ q, q ∈ swap0.parts ∧ q.core = 3 ∧ q.quiet = false) ∧
    swapOfCore (swapping armed { swap0 with sentAt := some 272 }) 3 = some ({ swap0 with sentAt := some 272 } : Swap) ∧
    ({ swap0 with sentAt := some 272 } : Swap).sentAt = some (272 : Nat) ∧
    ({ swap0 with sentAt := some 272 } : Swap).exchanged = false ∧
    swapOf (swapping { armed with hold := { held := true, at_ := some 272 } } { swap0 with sentAt := some 272 }) (BitVec.toNat (5 : TenantId)) = some ({ swap0 with sentAt := some 272 } : Swap) ∧
    ({ swap0 with sentAt := some 272 } : Swap).job = none ∧
    ({ swap0 with sentAt := some 272 } : Swap).ending = false ∧
    allScheduled (swapping { armed with hold := { held := true, at_ := some 272 } } { swap0 with sentAt := some 272 }) ({ swap0 with sentAt := some 272 } : Swap) = true ∧
    swapOf (swapping armed { swap0 with sentAt := some 272, exchanged := true }) (BitVec.toNat (5 : TenantId)) = some ({ swap0 with sentAt := some 272, exchanged := true } : Swap) ∧
    ({ swap0 with sentAt := some 272, exchanged := true } : Swap).job = none ∧
    ({ swap0 with sentAt := some 272, exchanged := true } : Swap).sentAt = some (272 : Nat) ∧
    ({ swap0 with sentAt := some 272, exchanged := true } : Swap).exchanged = true ∧
    (swapping armed swap0).swaps = [swap0] ∧
    swap0.tenant = (5 : TenantId) ∧
    swap0.parts ≠ [] ∧
    ((0 : Fin 14).val = 0 → notDozing (getCore (swapping armed swap0) 3)) ∧
    reaches (swapping armed swap0) (.mgmt : Port) (PageRef.core (3 : CoreId) (0 : Fin 14)) 32 (swapping armed swap0) ∧
    ownerOf (swapping armed swap0) 3 = some (BitVec.toNat swap0.tenant) ∧
    (swapping armed { swap0 with ending := true }).swaps = [({ swap0 with ending := true } : Swap)] ∧
    (∃ q, q ∈ ({ swap0 with ending := true } : Swap).parts ∧ q.core = 3) ∧
    ({ swap0 with ending := true } : Swap).ending = true ∧
    ({ swap0 with ending := true } : Swap).exchanged = false ∧
    ({ swap0 with ending := true } : Swap).deferred = [] ∧
    notDozing (getCore (swapping armed { swap0 with ending := true }) 3) := by decide +kernel

/-- States and operands that meet the hypotheses of ScratchpadPortAccesses. -/
theorem witness_scratchpadPortAccesses :
    reachesSpd (on awake) (.mgmt : Port) (3 : CoreId) ∧
    2 ≤ (on awake).boot.step ∧
    portShape (0 : BitVec 20).toNat four.length = true ∧
    portShape (0xBFFFC : BitVec 20).toNat four.length = true ∧
    segUp (getCore (on awake) 3) ((0xBFFFC : BitVec 20).toNat / 65536) = true ∧
    lockedSlot (getCore (on awake) 3) ((0xBFFFC : BitVec 20).toNat / 1024) = false ∧
    (∀ (g : Gather), g ∈ (getCore (on awake) 3).spd.gather → g.row ≠ (0xBFFFC : BitVec 20).toNat / 32) ∧
    (getCore (on awake) 3).spd.gather.length < 8 ∧
    reachesSpd (on seg0Off) (.mgmt : Port) (3 : CoreId) ∧
    2 ≤ (on seg0Off).boot.step ∧
    (segUp (getCore (on seg0Off) 3) ((0 : BitVec 20).toNat / 65536) = false ∨ lockedSlot (getCore (on seg0Off) 3) ((0 : BitVec 20).toNat / 1024) = true) ∧
    portShape (0 : BitVec 20).toNat (16 : Nat) = true ∧
    segUp (getCore (on awake) 3) ((0 : BitVec 20).toNat / 65536) = true ∧
    badWords (getCore (on awake) 3) (0 : BitVec 20).toNat (16 : Nat) = none ∧
    segUp (getCore (on seg0Off) 3) ((0 : BitVec 20).toNat / 65536) = false ∧
    portShape (2 : BitVec 20).toNat four.length = false ∧
    portShape (2 : BitVec 20).toNat (5 : Nat) = false := by decide +kernel

/-- States and operands that meet the hypotheses of TenantTableWrites. -/
theorem witness_tenantTableWrites :
    2 ≤ (on awake).boot.step ∧
    tenValid (portOrder (on awake) Port.mgmt (tenPage (5 : TenantId))) (BitVec.toNat (5 : TenantId)) = true ∧
    wbit (0 : Word) 31 = false ∧
    0 < tenCores (portOrder (on awake) Port.mgmt (tenPage (5 : TenantId))) (BitVec.toNat (5 : TenantId)) ∧
    2 ≤ ({ on awake with owners := [] }).boot.step ∧
    tenValid (portOrder ({ on awake with owners := [] }) Port.mgmt (tenPage (5 : TenantId))) (BitVec.toNat (5 : TenantId)) = true ∧
    tenCores (portOrder ({ on awake with owners := [] }) Port.mgmt (tenPage (5 : TenantId))) (BitVec.toNat (5 : TenantId)) = 0 ∧
    (tenValid (portOrder (on awake) Port.mgmt (tenPage (5 : TenantId))) (BitVec.toNat (5 : TenantId)) = true → wbit (0x80000003 : Word) 31 = true) ∧
    tenSuspend (portOrder (on awake) Port.mgmt (tenPage (5 : TenantId))) (BitVec.toNat (5 : TenantId)) = wbit (0x80000003 : Word) 30 ∧
    (tenValid (portOrder (on awake) Port.mgmt (tenPage (5 : TenantId))) (BitVec.toNat (5 : TenantId)) = true → wbit (0xC0000003 : Word) 31 = true) ∧
    tenSuspend (portOrder (on awake) Port.mgmt (tenPage (5 : TenantId))) (BitVec.toNat (5 : TenantId)) ≠ wbit (0xC0000003 : Word) 30 ∧
    (tenCores (portOrder (on awake) Port.mgmt (tenPage (5 : TenantId))) (BitVec.toNat (5 : TenantId)) = 0 ∨ (0 : Word) &&& 65535#32 = (getTenant (portOrder (on awake) Port.mgmt (tenPage (5 : TenantId))) (BitVec.toNat (5 : TenantId))).asid) ∧
    (1 : Word) &&& 65535#32 ≠ (getTenant (portOrder (on awake) Port.mgmt (tenPage (5 : TenantId))) (BitVec.toNat (5 : TenantId))).asid := by decide +kernel

/-- States and operands that meet the hypotheses of CoreAssignment. -/
theorem witness_coreAssignment :
    2 ≤ (idleOn { zeroed := true }).boot.step ∧
    swapOfCore (portOrder (idleOn { zeroed := true }) Port.mgmt (ownPage (3 : CoreId))) 3 = none := by decide +kernel

/-- States and operands that meet the hypotheses of CoreRelease. -/
theorem witness_coreRelease :
    2 ≤ (on awake).boot.step ∧
    swapOfCore (portOrder (on awake) Port.mgmt (ownPage (3 : CoreId))) 3 = none ∧
    (getOwner (portOrder (on awake) Port.mgmt (ownPage (3 : CoreId))) 3).owned = true ∧
    (getOwner (portOrder (on awake) Port.mgmt (ownPage (3 : CoreId))) 3).felled = false ∧
    2 ≤ (swapping armed swap0).boot.step ∧
    swapOfCore (portOrder (swapping armed swap0) Port.mgmt (ownPage (3 : CoreId))) 3 = some swap0 ∧
    (swap0.exchanged = false ∨ swap0.job = none) ∧
    (getCore (on { awake with releasing := some 0, skd := { streams := [{ ctx := 1, raw := [], cbytes := [], group := [], counts := [], total := 0, pos := 0, st := .aborting }] } }) 3).releasing = some (0 : Nat) ∧
    (getCore (on { awake with releasing := some 0, skd := { streams := [{ ctx := 1, raw := [], cbytes := [], group := [], counts := [], total := 0, pos := 0, st := .aborting }] } }) 3).skd.streams ≠ [] ∧
    (getCore (on { awake with releasing := some 0 }) 3).releasing = some (0 : Nat) ∧
    (getCore (on { awake with releasing := some 0 }) 3).skd.streams = [] := by decide +kernel

/-- States and operands that meet the hypotheses of JobSwapCommands. -/
theorem witness_jobSwapCommands :
    reaches (on armed) (.mgmt : Port) (PageRef.core (3 : CoreId) (0 : Fin 14)) 32 (on armed) ∧
    jobOfCore (on armed) 3 = none ∧
    reaches (jobbed (job0 2 2)) (.mgmt : Port) (PageRef.core (3 : CoreId) (0 : Fin 14)) 32 (jobbed (job0 2 2)) ∧
    jobOfCore (jobbed (job0 2 2)) 3 = some (job0 2 2) ∧
    (job0 2 2).role = 2 ∧
    swapOf (jobbed (job0 2 2)) (BitVec.toNat (job0 2 2).tenant) = none ∧
    reaches ({ jobbed (job0 2 2) with swaps := [swapJ] }) (.mgmt : Port) (PageRef.core (3 : CoreId) (0 : Fin 14)) 32 ({ jobbed (job0 2 2) with swaps := [swapJ] }) ∧
    jobOfCore ({ jobbed (job0 2 2) with swaps := [swapJ] }) 3 = some (job0 2 2) ∧
    swapOf ({ jobbed (job0 2 2) with swaps := [swapJ] }) (BitVec.toNat (job0 2 2).tenant) ≠ none ∧
    reaches (jobbed (job0 1 2)) (.mgmt : Port) (PageRef.core (3 : CoreId) (0 : Fin 14)) 32 (jobbed (job0 1 2)) ∧
    jobOfCore (jobbed (job0 1 2)) 3 = some (job0 1 2) ∧
    (job0 1 2).role ≠ 2 ∧
    jobById (jobbed (job0 1 2)) (job0 1 2).jobid = some (job0 1 2) ∧
    (job0 1 2).phase = 0 ∧
    swapOf (jobbed (job0 1 2)) (BitVec.toNat (job0 1 2).tenant) = none ∧
    (cmdBody 0x10 7 (natLe 2 1)).length = 32 ∧
    jobById (jobbed (job0 2 2)) (bodyJob (cmdBody 0x10 7 (natLe 2 1))) = some (job0 2 2) ∧
    (9 : ChipId) = headChip (jobbed (job0 2 2)) (job0 2 2) ∧
    bodyOp (cmdBody 0x10 7 (natLe 2 1)) = 16 ∧
    (cmdBody 0x12 7 (natLe 2 1)).length = 32 ∧
    jobById ({ jobbed (job0 2 2) with swaps := [{ swapJ with gen := 1 }] }) (bodyJob (cmdBody 0x12 7 (natLe 2 1))) = some (job0 2 2) ∧
    (9 : ChipId) = headChip ({ jobbed (job0 2 2) with swaps := [{ swapJ with gen := 1 }] }) (job0 2 2) ∧
    swapOfJob ({ jobbed (job0 2 2) with swaps := [{ swapJ with gen := 1 }] }) (job0 2 2).jobid = some ({ swapJ with gen := 1 } : Swap) ∧
    ({ swapJ with gen := 1 } : Swap).gen = bodyArg (cmdBody 0x12 7 (natLe 2 1)) 8 2 ∧
    bodyOp (cmdBody 0x12 7 (natLe 2 1)) = 18 ∧
    ({ swapJ with gen := 1 } : Swap).ending = false ∧
    ({ swapJ with gen := 1 } : Swap).exchanged = false ∧
    ({ swapJ with gen := 1 } : Swap).sentAt = none ∧
    ((({ swapJ with gen := 1 } : Swap).parts.all fun x => x.quiet) = true) ∧
    (cmdBody 0x14 7 (natLe 2 1)).length = 32 ∧
    jobById ({ jobbed (job0 2 2) with swaps := [{ swapJ with gen := 1, exchanged := true }] }) (bodyJob (cmdBody 0x14 7 (natLe 2 1))) = some (job0 2 2) ∧
    (9 : ChipId) = headChip ({ jobbed (job0 2 2) with swaps := [{ swapJ with gen := 1, exchanged := true }] }) (job0 2 2) ∧
    swapOfJob ({ jobbed (job0 2 2) with swaps := [{ swapJ with gen := 1, exchanged := true }] }) (job0 2 2).jobid = some ({ swapJ with gen := 1, exchanged := true } : Swap) ∧
    ({ swapJ with gen := 1, exchanged := true } : Swap).gen = bodyArg (cmdBody 0x14 7 (natLe 2 1)) 8 2 ∧
    bodyOp (cmdBody 0x14 7 (natLe 2 1)) = 20 ∧
    ({ swapJ with gen := 1, exchanged := true } : Swap).exchanged = true ∧
    (cmdBody 0x15 7 (natLe 2 1)).length = 32 ∧
    jobById ({ jobbed (job0 2 2) with swaps := [{ swapJ with gen := 1 }] }) (bodyJob (cmdBody 0x15 7 (natLe 2 1))) = some (job0 2 2) ∧
    ({ swapJ with gen := 1 } : Swap).gen = bodyArg (cmdBody 0x15 7 (natLe 2 1)) 8 2 ∧
    bodyOp (cmdBody 0x15 7 (natLe 2 1)) = 21 ∧
    ({ jobbed (job0 2 2) with swaps := [{ swapJ with gen := 1 }] }).swaps = [({ swapJ with gen := 1 } : Swap)] ∧
    ({ swapJ with gen := 1 } : Swap).parts ≠ [] ∧
    (cmdBody 0x11 7 (natLe 2 1)).length = 32 ∧
    jobById (jobbed { job0 1 2 with phase := 1, gen := 1 }) (bodyJob (cmdBody 0x11 7 (natLe 2 1))) = some ({ job0 1 2 with phase := 1, gen := 1 } : Job) ∧
    ({ job0 1 2 with phase := 1, gen := 1 } : Job).role ≠ 2 ∧
    ((0 : ChipId) = torusHere (jobbed { job0 1 2 with phase := 1, gen := 1 }) ∨ ({ job0 1 2 with phase := 1, gen := 1 } : Job).role = 1 ∧ Config.jobChip (0 : ChipId) ({ job0 1 2 with phase := 1, gen := 1 } : Job).jobid = true) ∧
    bodyOp (cmdBody 0x11 7 (natLe 2 1)) = 17 ∧
    ({ job0 1 2 with phase := 1, gen := 1 } : Job).phase = 1 ∧
    bodyArg (cmdBody 0x11 7 (natLe 2 1)) 8 2 = ({ job0 1 2 with phase := 1, gen := 1 } : Job).gen ∧
    (¬(0 : ChipId) ∈ ({ job0 1 2 with phase := 1, gen := 1 } : Job).ready) ∧
    (cmdBody 0x13 7 (natLe 2 1)).length = 32 ∧
    jobById (jobbed { job0 1 2 with phase := 2, gen := 1 }) (bodyJob (cmdBody 0x13 7 (natLe 2 1))) = some ({ job0 1 2 with phase := 2, gen := 1 } : Job) ∧
    ({ job0 1 2 with phase := 2, gen := 1 } : Job).role ≠ 2 ∧
    ((0 : ChipId) = torusHere (jobbed { job0 1 2 with phase := 2, gen := 1 }) ∨ ({ job0 1 2 with phase := 2, gen := 1 } : Job).role = 1 ∧ Config.jobChip (0 : ChipId) ({ job0 1 2 with phase := 2, gen := 1 } : Job).jobid = true) ∧
    bodyOp (cmdBody 0x13 7 (natLe 2 1)) = 19 ∧
    ({ job0 1 2 with phase := 2, gen := 1 } : Job).phase = 2 ∧
    bodyArg (cmdBody 0x13 7 (natLe 2 1)) 8 2 = ({ job0 1 2 with phase := 2, gen := 1 } : Job).gen ∧
    (¬(0 : ChipId) ∈ ({ job0 1 2 with phase := 2, gen := 1 } : Job).done) ∧
    (cmdBody 0x16 7 []).length = 32 ∧
    jobById (jobbed (job0 1 2)) (bodyJob (cmdBody 0x16 7 [])) = some (job0 1 2) ∧
    ((0 : ChipId) = torusHere (jobbed (job0 1 2)) ∨ (job0 1 2).role = 1 ∧ Config.jobChip (0 : ChipId) (job0 1 2).jobid = true) ∧
    bodyOp (cmdBody 0x16 7 []) = 22 ∧
    jobById (jobbed { job0 1 2 with phase := 1, gen := 1 }) (7 : Word) = some ({ job0 1 2 with phase := 1, gen := 1 } : Job) ∧
    jobById (jobbed { job0 1 2 with phase := 2, gen := 1 }) (7 : Word) = some ({ job0 1 2 with phase := 2, gen := 1 } : Job) ∧
    ({ job0 1 2 with phase := 2, gen := 1 } : Job).resends < 3 ∧
    jobById (jobbed { job0 1 2 with phase := 2, gen := 1, resends := 3 }) (7 : Word) = some ({ job0 1 2 with phase := 2, gen := 1, resends := 3 } : Job) ∧
    ({ job0 1 2 with phase := 2, gen := 1, resends := 3 } : Job).phase = 2 ∧
    (¬({ job0 1 2 with phase := 2, gen := 1, resends := 3 } : Job).resends < 3) := by and_intros <;> decide +kernel

/-- States and operands that meet the hypotheses of MailboxCommands. -/
theorem witness_mailboxCommands :
    ((Port.host 5#8) = Port.host (5 : TenantId) ∨ (Port.host 5#8) = Port.vc3 (5 : TenantId)) ∧
    reaches (on awake) (Port.host 5#8) PageRef.blk 88 (portOrder (on awake) (Port.host 5#8) .blk) ∧
    (block 5 0).length = 64 ∧
    mbxTenant rung = some (5 : Nat) ∧
    (List.find? (fun i => (getTenant rung (5 : Nat)).pend.toNat.testBit i) (List.range 64) = some (0 : Nat)) ∧
    (block 6 0).length = 64 ∧
    takenOp (tookIn (on awake) 5 0) (BitVec.toNat (5 : TenantId)) (0 : BitVec 6).toNat 5 = some (took 5 0) ∧
    takenOp (tookIn { on awake with owners := [] } 4 1) (BitVec.toNat (5 : TenantId)) (0 : BitVec 6).toNat 4 = some (took 4 1) ∧
    tenSuspend (tookIn { on awake with owners := [] } 4 1) (BitVec.toNat (5 : TenantId)) ≠ (leAt (took 4 1).block 8 8).testBit 0 ∧
    coresOf (tookIn { on awake with owners := [] } 4 1) (BitVec.toNat (5 : TenantId)) = [] ∧
    takenOp (tookIn (on awake) 4 0) (BitVec.toNat (5 : TenantId)) (0 : BitVec 6).toNat 4 = some (took 4 0) ∧
    tenSuspend (tookIn (on awake) 4 0) (BitVec.toNat (5 : TenantId)) = (leAt (took 4 0).block 8 8).testBit 0 ∧
    takenOp (tookIn (jobbed (job0 0 1)) 2 7) (BitVec.toNat (5 : TenantId)) (0 : BitVec 6).toNat 2 = some (took 2 7) ∧
    (List.find? (fun j => decide (BitVec.toNat j.jobid = leAt (took 2 7).block 8 8) && decide (j.tenant = (5 : TenantId))) (tookIn (jobbed (job0 0 1)) 2 7).jobs = some (job0 0 1)) ∧
    (List.find? (fun k => decide (k.tenant = (5 : TenantId)) && decide (k.slot = (0 : BitVec 6).toNat) && decide (leAt k.block 0 2 = 2) && k.started && decide (k.ending = [])) ({ on awake with taken := [{ took 2 7 with started := true, count := 1 }] }).taken = some ({ took 2 7 with started := true, count := 1 })) := by decide +kernel

/-- States and operands that meet the hypotheses of JobAndImageLoads. -/
theorem witness_jobAndImageLoads :
    takenOp (tookIn (on awake) 1 0) (BitVec.toNat (5 : TenantId)) (0 : BitVec 6).toNat 1 = some (took 1 0) ∧
    (∀ (h : List Byte), h ∈ ([] : List (List Byte)) → h.length = 256) ∧
    (manFormatOk manifest = true → manImages manifest ≤ ([] : List (List Byte)).length) ∧
    manReason (tookIn (on awake) 1 0) (BitVec.toNat (5 : TenantId)) manifest ([] : List (List Byte)) = (5 : Nat) + 1 ∧
    (manFormatOk four = true → manImages four ≤ ([] : List (List Byte)).length) ∧
    manReason (tookIn (on awake) 1 0) (BitVec.toNat (5 : TenantId)) four ([] : List (List Byte)) = (0 : Nat) + 1 ∧
    takenOp (tookIn (idleOn { zeroed := true }) 1 0) (BitVec.toNat (5 : TenantId)) (0 : BitVec 6).toNat 1 = some (took 1 0) ∧
    manImages manifest ≤ ([] : List (List Byte)).length ∧
    manReason (tookIn (idleOn { zeroed := true }) 1 0) (BitVec.toNat (5 : TenantId)) manifest ([] : List (List Byte)) = 0 ∧
    (List.filter (fun e => decide (leAt e 61 1 ≠ 255)) (manCoreEntries manifest) = []) ∧
    takenOp (tookIn (on awake) 3 3) (BitVec.toNat (5 : TenantId)) (0 : BitVec 6).toNat 3 = some (took 3 3) ∧
    (List.replicate 256 0#8).length = 256 ∧
    takenOp (tookIn { on awake with tenants := [(5, { ctrl := 0xA0800002#32 })] } 3 3) (BitVec.toNat (5 : TenantId)) (0 : BitVec 6).toNat 3 = some (took 3 3) := by decide +kernel

/-- States and operands that meet the hypotheses of DoorbellRule. -/
theorem witness_doorbellRule :
    reaches (on ringed) (.mgmt : Port) (PageRef.core (3 : CoreId) 0) (64 + 4 * qIdx .mxq) (on ringed) ∧
    (getOwner (on ringed) 3).felled = false ∧
    ((16 : BitVec 16).toNat + 65536 - (getQ (getCore (on ringed) 3) .mxq).done) % 65536 ≤ 2 ^ ringLog (getCore (on ringed) 3) .mxq ∧ ((getQ (getCore (on ringed) 3) .mxq).issue + 65536 - (getQ (getCore (on ringed) 3) .mxq).done) % 65536 ≤ ((16 : BitVec 16).toNat + 65536 - (getQ (getCore (on ringed) 3) .mxq).done) % 65536 ∧
    (getCore (on ringed) 3).pwr.st = PState.active ∧
    (getCore (on ringed) 3).pwr.descending = none ∧
    reaches (on { ringed with pwr := { st := .sleep } }) (.mgmt : Port) (PageRef.core (3 : CoreId) 0) (64 + 4 * qIdx .mxq) (on { ringed with pwr := { st := .sleep } }) ∧
    (getOwner (on { ringed with pwr := { st := .sleep } }) 3).felled = false ∧
    ((16 : BitVec 16).toNat + 65536 - (getQ (getCore (on { ringed with pwr := { st := .sleep } }) 3) .mxq).done) % 65536 ≤ 2 ^ ringLog (getCore (on { ringed with pwr := { st := .sleep } }) 3) .mxq ∧ ((getQ (getCore (on { ringed with pwr := { st := .sleep } }) 3) .mxq).issue + 65536 - (getQ (getCore (on { ringed with pwr := { st := .sleep } }) 3) .mxq).done) % 65536 ≤ ((16 : BitVec 16).toNat + 65536 - (getQ (getCore (on { ringed with pwr := { st := .sleep } }) 3) .mxq).done) % 65536 ∧
    ((getCore (on { ringed with pwr := { st := .sleep } }) 3).pwr.st = PState.doze ∨ (getCore (on { ringed with pwr := { st := .sleep } }) 3).pwr.st = PState.sleep ∨ (getCore (on { ringed with pwr := { st := .sleep } }) 3).pwr.st = PState.shut) ∧
    (getCore (on { ringed with pwr := { st := .sleep } }) 3).pwr.waking = none ∧
    (getCore (on { ringed with pwr := { st := .sleep } }) 3).pwr.descending = none ∧
    reaches (on { ringed with pwr := { st := .doze } }) (.mgmt : Port) (PageRef.core (3 : CoreId) 0) (64 + 4 * qIdx .mxq) (on { ringed with pwr := { st := .doze } }) ∧
    (getOwner (on { ringed with pwr := { st := .doze } }) 3).felled = false ∧
    ((16 : BitVec 16).toNat + 65536 - (getQ (getCore (on { ringed with pwr := { st := .doze } }) 3) .mxq).done) % 65536 ≤ 2 ^ ringLog (getCore (on { ringed with pwr := { st := .doze } }) 3) .mxq ∧ ((getQ (getCore (on { ringed with pwr := { st := .doze } }) 3) .mxq).issue + 65536 - (getQ (getCore (on { ringed with pwr := { st := .doze } }) 3) .mxq).done) % 65536 ≤ ((16 : BitVec 16).toNat + 65536 - (getQ (getCore (on { ringed with pwr := { st := .doze } }) 3) .mxq).done) % 65536 ∧
    ((getCore (on { ringed with pwr := { st := .doze } }) 3).pwr.st = PState.doze ∨ (getCore (on { ringed with pwr := { st := .doze } }) 3).pwr.st = PState.sleep ∨ (getCore (on { ringed with pwr := { st := .doze } }) 3).pwr.st = PState.shut) ∧
    (getCore (on { ringed with pwr := { st := .doze } }) 3).pwr.waking = none ∧
    (getCore (on { ringed with pwr := { st := .doze } }) 3).pwr.descending = none ∧
    (¬(((17 : BitVec 16).toNat + 65536 - (getQ (getCore (on ringed) 3) .mxq).done) % 65536 ≤ 2 ^ ringLog (getCore (on ringed) 3) .mxq ∧ ((getQ (getCore (on ringed) 3) .mxq).issue + 65536 - (getQ (getCore (on ringed) 3) .mxq).done) % 65536 ≤ ((17 : BitVec 16).toNat + 65536 - (getQ (getCore (on ringed) 3) .mxq).done) % 65536)) ∧
    notDozing (getCore (on ringed) 3) := by decide +kernel

/-- States and operands that meet the hypotheses of DescriptorFetches. -/
theorem witness_descriptorFetches :
    (getQ (putQ ringed .mxq { fb := some { orig := { idx := 0, raw := ctl 0x10 [] }, entry := none, tries := 0 } }) .mxq).fb = some ({ orig := { idx := 0, raw := ctl 0x10 [] }, entry := none, tries := 0 } : Fallback) ∧
    fetchedAt (getQ (putQ ringed .skq (holding [skDesc 0 0x10000])) .skq) (0 : Nat) = some (entry 0 (skDesc 0 0x10000)) ∧
    (getQ (getCore (on { ringed with skd := { fetches := [gotEntry (ctl 0 [])] } }) 3) .mxq).mode = QMode.run ∧
    (getOwner (on { ringed with skd := { fetches := [gotEntry (ctl 0 [])] } }) 3).felled = false ∧
    (List.find? (fun f => f.q == .mxq && f.kind.ofQueue && f.result.isSome) (getCore (on { ringed with skd := { fetches := [gotEntry (ctl 0 [])] } }) 3).skd.fetches = some (gotEntry (ctl 0 []))) ∧
    nextWant (getCore (on { ringed with skd := { fetches := [gotEntry (ctl 0 [])] } }) 3) .mxq ≠ some (gotEntry (ctl 0 [])).kind ∧
    (getQ (getCore (fetched (gotEntry (sealed (ctl 0 []))) {}) 3) .mxq).mode = QMode.run ∧
    (getOwner (fetched (gotEntry (sealed (ctl 0 []))) {}) 3).felled = false ∧
    (List.find? (fun f => f.q == .mxq && f.kind.ofQueue && f.result.isSome) (getCore (fetched (gotEntry (sealed (ctl 0 []))) {}) 3).skd.fetches = some (gotEntry (sealed (ctl 0 [])))) ∧
    nextWant (getCore (fetched (gotEntry (sealed (ctl 0 []))) {}) 3) .mxq = some (gotEntry (sealed (ctl 0 []))).kind ∧
    (gotEntry (sealed (ctl 0 []))).kind = FetchKind.entry (0 : Nat) ∧
    (gotEntry (sealed (ctl 0 []))).stage = FetchStage.here (sealed (ctl 0 [])) ∧
    leAt (sealed (ctl 0 [])) 60 4 = crc32c (List.take 60 (sealed (ctl 0 []))) ∧
    (getQ (getCore (fetched (gotEntry (ctl 1 [])) {}) 3) .mxq).mode = QMode.run ∧
    (getOwner (fetched (gotEntry (ctl 1 [])) {}) 3).felled = false ∧
    (List.find? (fun f => f.q == .mxq && f.kind.ofQueue && f.result.isSome) (getCore (fetched (gotEntry (ctl 1 [])) {}) 3).skd.fetches = some (gotEntry (ctl 1 []))) ∧
    nextWant (getCore (fetched (gotEntry (ctl 1 [])) {}) 3) .mxq = some (gotEntry (ctl 1 [])).kind ∧
    (gotEntry (ctl 1 [])).kind = FetchKind.entry (0 : Nat) ∧
    (gotEntry (ctl 1 [])).stage = FetchStage.here (ctl 1 []) ∧
    leAt (ctl 1 []) 60 4 ≠ crc32c (List.take 60 (ctl 1 [])) ∧
    ((getQ { pages := (getCore (fetched (gotEntry (ctl 1 [])) {}) 3).pages, spd := (getCore (fetched (gotEntry (ctl 1 [])) {}) 3).spd, mxq := (getCore (fetched (gotEntry (ctl 1 [])) {}) 3).mxq, vxq := (getCore (fetched (gotEntry (ctl 1 [])) {}) 3).vxq, skq := (getCore (fetched (gotEntry (ctl 1 [])) {}) 3).skq, upq := (getCore (fetched (gotEntry (ctl 1 [])) {}) 3).upq, gvq := (getCore (fetched (gotEntry (ctl 1 [])) {}) 3).gvq, bankAged := (getCore (fetched (gotEntry (ctl 1 [])) {}) 3).bankAged, mxa := (getCore (fetched (gotEntry (ctl 1 [])) {}) 3).mxa, gatedRem := (getCore (fetched (gotEntry (ctl 1 [])) {}) 3).gatedRem, drawRem := (getCore (fetched (gotEntry (ctl 1 [])) {}) 3).drawRem, skd := { streams := (getCore (fetched (gotEntry (ctl 1 [])) {}) 3).skd.streams, shares := (getCore (fetched (gotEntry (ctl 1 [])) {}) 3).skd.shares, cache := (getCore (fetched (gotEntry (ctl 1 [])) {}) 3).skd.cache, refetch := (getCore (fetched (gotEntry (ctl 1 [])) {}) 3).skd.refetch, stallSince := (getCore (fetched (gotEntry (ctl 1 [])) {}) 3).skd.stallSince, stallCtx := (getCore (fetched (gotEntry (ctl 1 [])) {}) 3).skd.stallCtx, stallValid := (getCore (fetched (gotEntry (ctl 1 [])) {}) 3).skd.stallValid, issued := (getCore (fetched (gotEntry (ctl 1 [])) {}) 3).skd.issued, fetches := List.filter (fun g => decide (g.n ≠ (gotEntry (ctl 1 [])).n)) (getCore (fetched (gotEntry (ctl 1 [])) {}) 3).skd.fetches, nextFetch := (getCore (fetched (gotEntry (ctl 1 [])) {}) 3).skd.nextFetch, starved := (getCore (fetched (gotEntry (ctl 1 [])) {}) 3).skd.starved, asked := (getCore (fetched (gotEntry (ctl 1 [])) {}) 3).skd.asked, saves := (getCore (fetched (gotEntry (ctl 1 [])) {}) 3).skd.saves, awaited := (getCore (fetched (gotEntry (ctl 1 [])) {}) 3).skd.awaited, lastOut := (getCore (fetched (gotEntry (ctl 1 [])) {}) 3).skd.lastOut }, wins := (getCore (fetched (gotEntry (ctl 1 [])) {}) 3).wins, barrier := (getCore (fetched (gotEntry (ctl 1 [])) {}) 3).barrier, qnt := (getCore (fetched (gotEntry (ctl 1 [])) {}) 3).qnt, grv := (getCore (fetched (gotEntry (ctl 1 [])) {}) 3).grv, err := (getCore (fetched (gotEntry (ctl 1 [])) {}) 3).err, cruise := (getCore (fetched (gotEntry (ctl 1 [])) {}) 3).cruise, pwr := (getCore (fetched (gotEntry (ctl 1 [])) {}) 3).pwr, hold := (getCore (fetched (gotEntry (ctl 1 [])) {}) 3).hold, releasing := (getCore (fetched (gotEntry (ctl 1 [])) {}) 3).releasing, order := (getCore (fetched (gotEntry (ctl 1 [])) {}) 3).order } .mxq).fetchTries + 1 ≤ fld (kReg { pages := (getCore (fetched (gotEntry (ctl 1 [])) {}) 3).pages, spd := (getCore (fetched (gotEntry (ctl 1 [])) {}) 3).spd, mxq := (getCore (fetched (gotEntry (ctl 1 [])) {}) 3).mxq, vxq := (getCore (fetched (gotEntry (ctl 1 [])) {}) 3).vxq, skq := (getCore (fetched (gotEntry (ctl 1 [])) {}) 3).skq, upq := (getCore (fetched (gotEntry (ctl 1 [])) {}) 3).upq, gvq := (getCore (fetched (gotEntry (ctl 1 [])) {}) 3).gvq, bankAged := (getCore (fetched (gotEntry (ctl 1 [])) {}) 3).bankAged, mxa := (getCore (fetched (gotEntry (ctl 1 [])) {}) 3).mxa, gatedRem := (getCore (fetched (gotEntry (ctl 1 [])) {}) 3).gatedRem, drawRem := (getCore (fetched (gotEntry (ctl 1 [])) {}) 3).drawRem, skd := { streams := (getCore (fetched (gotEntry (ctl 1 [])) {}) 3).skd.streams, shares := (getCore (fetched (gotEntry (ctl 1 [])) {}) 3).skd.shares, cache := (getCore (fetched (gotEntry (ctl 1 [])) {}) 3).skd.cache, refetch := (getCore (fetched (gotEntry (ctl 1 [])) {}) 3).skd.refetch, stallSince := (getCore (fetched (gotEntry (ctl 1 [])) {}) 3).skd.stallSince, stallCtx := (getCore (fetched (gotEntry (ctl 1 [])) {}) 3).skd.stallCtx, stallValid := (getCore (fetched (gotEntry (ctl 1 [])) {}) 3).skd.stallValid, issued := (getCore (fetched (gotEntry (ctl 1 [])) {}) 3).skd.issued, fetches := List.filter (fun g => decide (g.n ≠ (gotEntry (ctl 1 [])).n)) (getCore (fetched (gotEntry (ctl 1 [])) {}) 3).skd.fetches, nextFetch := (getCore (fetched (gotEntry (ctl 1 [])) {}) 3).skd.nextFetch, starved := (getCore (fetched (gotEntry (ctl 1 [])) {}) 3).skd.starved, asked := (getCore (fetched (gotEntry (ctl 1 [])) {}) 3).skd.asked, saves := (getCore (fetched (gotEntry (ctl 1 [])) {}) 3).skd.saves, awaited := (getCore (fetched (gotEntry (ctl 1 [])) {}) 3).skd.awaited, lastOut := (getCore (fetched (gotEntry (ctl 1 [])) {}) 3).skd.lastOut }, wins := (getCore (fetched (gotEntry (ctl 1 [])) {}) 3).wins, barrier := (getCore (fetched (gotEntry (ctl 1 [])) {}) 3).barrier, qnt := (getCore (fetched (gotEntry (ctl 1 [])) {}) 3).qnt, grv := (getCore (fetched (gotEntry (ctl 1 [])) {}) 3).grv, err := (getCore (fetched (gotEntry (ctl 1 [])) {}) 3).err, cruise := (getCore (fetched (gotEntry (ctl 1 [])) {}) 3).cruise, pwr := (getCore (fetched (gotEntry (ctl 1 [])) {}) 3).pwr, hold := (getCore (fetched (gotEntry (ctl 1 [])) {}) 3).hold, releasing := (getCore (fetched (gotEntry (ctl 1 [])) {}) 3).releasing, order := (getCore (fetched (gotEntry (ctl 1 [])) {}) 3).order } 13 64) 0 3) ∧
    (getQ (getCore (fetched (gotEntry (ctl 1 [])) { fetchTries := 7 }) 3) .mxq).mode = QMode.run ∧
    (getOwner (fetched (gotEntry (ctl 1 [])) { fetchTries := 7 }) 3).felled = false ∧
    (List.find? (fun f => f.q == .mxq && f.kind.ofQueue && f.result.isSome) (getCore (fetched (gotEntry (ctl 1 [])) { fetchTries := 7 }) 3).skd.fetches = some (gotEntry (ctl 1 []))) ∧
    nextWant (getCore (fetched (gotEntry (ctl 1 [])) { fetchTries := 7 }) 3) .mxq = some (gotEntry (ctl 1 [])).kind ∧
    (fld (kReg { pages := (getCore (fetched (gotEntry (ctl 1 [])) { fetchTries := 7 }) 3).pages, spd := (getCore (fetched (gotEntry (ctl 1 [])) { fetchTries := 7 }) 3).spd, mxq := (getCore (fetched (gotEntry (ctl 1 [])) { fetchTries := 7 }) 3).mxq, vxq := (getCore (fetched (gotEntry (ctl 1 [])) { fetchTries := 7 }) 3).vxq, skq := (getCore (fetched (gotEntry (ctl 1 [])) { fetchTries := 7 }) 3).skq, upq := (getCore (fetched (gotEntry (ctl 1 [])) { fetchTries := 7 }) 3).upq, gvq := (getCore (fetched (gotEntry (ctl 1 [])) { fetchTries := 7 }) 3).gvq, bankAged := (getCore (fetched (gotEntry (ctl 1 [])) { fetchTries := 7 }) 3).bankAged, mxa := (getCore (fetched (gotEntry (ctl 1 [])) { fetchTries := 7 }) 3).mxa, gatedRem := (getCore (fetched (gotEntry (ctl 1 [])) { fetchTries := 7 }) 3).gatedRem, drawRem := (getCore (fetched (gotEntry (ctl 1 [])) { fetchTries := 7 }) 3).drawRem, skd := { streams := (getCore (fetched (gotEntry (ctl 1 [])) { fetchTries := 7 }) 3).skd.streams, shares := (getCore (fetched (gotEntry (ctl 1 [])) { fetchTries := 7 }) 3).skd.shares, cache := (getCore (fetched (gotEntry (ctl 1 [])) { fetchTries := 7 }) 3).skd.cache, refetch := (getCore (fetched (gotEntry (ctl 1 [])) { fetchTries := 7 }) 3).skd.refetch, stallSince := (getCore (fetched (gotEntry (ctl 1 [])) { fetchTries := 7 }) 3).skd.stallSince, stallCtx := (getCore (fetched (gotEntry (ctl 1 [])) { fetchTries := 7 }) 3).skd.stallCtx, stallValid := (getCore (fetched (gotEntry (ctl 1 [])) { fetchTries := 7 }) 3).skd.stallValid, issued := (getCore (fetched (gotEntry (ctl 1 [])) { fetchTries := 7 }) 3).skd.issued, fetches := List.filter (fun g => decide (g.n ≠ (gotEntry (ctl 1 [])).n)) (getCore (fetched (gotEntry (ctl 1 [])) { fetchTries := 7 }) 3).skd.fetches, nextFetch := (getCore (fetched (gotEntry (ctl 1 [])) { fetchTries := 7 }) 3).skd.nextFetch, starved := (getCore (fetched (gotEntry (ctl 1 [])) { fetchTries := 7 }) 3).skd.starved, asked := (getCore (fetched (gotEntry (ctl 1 [])) { fetchTries := 7 }) 3).skd.asked, saves := (getCore (fetched (gotEntry (ctl 1 [])) { fetchTries := 7 }) 3).skd.saves, awaited := (getCore (fetched (gotEntry (ctl 1 [])) { fetchTries := 7 }) 3).skd.awaited, lastOut := (getCore (fetched (gotEntry (ctl 1 [])) { fetchTries := 7 }) 3).skd.lastOut }, wins := (getCore (fetched (gotEntry (ctl 1 [])) { fetchTries := 7 }) 3).wins, barrier := (getCore (fetched (gotEntry (ctl 1 [])) { fetchTries := 7 }) 3).barrier, qnt := (getCore (fetched (gotEntry (ctl 1 [])) { fetchTries := 7 }) 3).qnt, grv := (getCore (fetched (gotEntry (ctl 1 [])) { fetchTries := 7 }) 3).grv, err := (getCore (fetched (gotEntry (ctl 1 [])) { fetchTries := 7 }) 3).err, cruise := (getCore (fetched (gotEntry (ctl 1 [])) { fetchTries := 7 }) 3).cruise, pwr := (getCore (fetched (gotEntry (ctl 1 [])) { fetchTries := 7 }) 3).pwr, hold := (getCore (fetched (gotEntry (ctl 1 [])) { fetchTries := 7 }) 3).hold, releasing := (getCore (fetched (gotEntry (ctl 1 [])) { fetchTries := 7 }) 3).releasing, order := (getCore (fetched (gotEntry (ctl 1 [])) { fetchTries := 7 }) 3).order } 13 64) 0 3 < (getQ { pages := (getCore (fetched (gotEntry (ctl 1 [])) { fetchTries := 7 }) 3).pages, spd := (getCore (fetched (gotEntry (ctl 1 [])) { fetchTries := 7 }) 3).spd, mxq := (getCore (fetched (gotEntry (ctl 1 [])) { fetchTries := 7 }) 3).mxq, vxq := (getCore (fetched (gotEntry (ctl 1 [])) { fetchTries := 7 }) 3).vxq, skq := (getCore (fetched (gotEntry (ctl 1 [])) { fetchTries := 7 }) 3).skq, upq := (getCore (fetched (gotEntry (ctl 1 [])) { fetchTries := 7 }) 3).upq, gvq := (getCore (fetched (gotEntry (ctl 1 [])) { fetchTries := 7 }) 3).gvq, bankAged := (getCore (fetched (gotEntry (ctl 1 [])) { fetchTries := 7 }) 3).bankAged, mxa := (getCore (fetched (gotEntry (ctl 1 [])) { fetchTries := 7 }) 3).mxa, gatedRem := (getCore (fetched (gotEntry (ctl 1 [])) { fetchTries := 7 }) 3).gatedRem, drawRem := (getCore (fetched (gotEntry (ctl 1 [])) { fetchTries := 7 }) 3).drawRem, skd := { streams := (getCore (fetched (gotEntry (ctl 1 [])) { fetchTries := 7 }) 3).skd.streams, shares := (getCore (fetched (gotEntry (ctl 1 [])) { fetchTries := 7 }) 3).skd.shares, cache := (getCore (fetched (gotEntry (ctl 1 [])) { fetchTries := 7 }) 3).skd.cache, refetch := (getCore (fetched (gotEntry (ctl 1 [])) { fetchTries := 7 }) 3).skd.refetch, stallSince := (getCore (fetched (gotEntry (ctl 1 [])) { fetchTries := 7 }) 3).skd.stallSince, stallCtx := (getCore (fetched (gotEntry (ctl 1 [])) { fetchTries := 7 }) 3).skd.stallCtx, stallValid := (getCore (fetched (gotEntry (ctl 1 [])) { fetchTries := 7 }) 3).skd.stallValid, issued := (getCore (fetched (gotEntry (ctl 1 [])) { fetchTries := 7 }) 3).skd.issued, fetches := List.filter (fun g => decide (g.n ≠ (gotEntry (ctl 1 [])).n)) (getCore (fetched (gotEntry (ctl 1 [])) { fetchTries := 7 }) 3).skd.fetches, nextFetch := (getCore (fetched (gotEntry (ctl 1 [])) { fetchTries := 7 }) 3).skd.nextFetch, starved := (getCore (fetched (gotEntry (ctl 1 [])) { fetchTries := 7 }) 3).skd.starved, asked := (getCore (fetched (gotEntry (ctl 1 [])) { fetchTries := 7 }) 3).skd.asked, saves := (getCore (fetched (gotEntry (ctl 1 [])) { fetchTries := 7 }) 3).skd.saves, awaited := (getCore (fetched (gotEntry (ctl 1 [])) { fetchTries := 7 }) 3).skd.awaited, lastOut := (getCore (fetched (gotEntry (ctl 1 [])) { fetchTries := 7 }) 3).skd.lastOut }, wins := (getCore (fetched (gotEntry (ctl 1 [])) { fetchTries := 7 }) 3).wins, barrier := (getCore (fetched (gotEntry (ctl 1 [])) { fetchTries := 7 }) 3).barrier, qnt := (getCore (fetched (gotEntry (ctl 1 [])) { fetchTries := 7 }) 3).qnt, grv := (getCore (fetched (gotEntry (ctl 1 [])) { fetchTries := 7 }) 3).grv, err := (getCore (fetched (gotEntry (ctl 1 [])) { fetchTries := 7 }) 3).err, cruise := (getCore (fetched (gotEntry (ctl 1 [])) { fetchTries := 7 }) 3).cruise, pwr := (getCore (fetched (gotEntry (ctl 1 [])) { fetchTries := 7 }) 3).pwr, hold := (getCore (fetched (gotEntry (ctl 1 [])) { fetchTries := 7 }) 3).hold, releasing := (getCore (fetched (gotEntry (ctl 1 [])) { fetchTries := 7 }) 3).releasing, order := (getCore (fetched (gotEntry (ctl 1 [])) { fetchTries := 7 }) 3).order } .mxq).fetchTries + 1) ∧
    ((0 : Nat) = (getQ { pages := (getCore (fetched (gotEntry (ctl 1 [])) { fetchTries := 7 }) 3).pages, spd := (getCore (fetched (gotEntry (ctl 1 [])) { fetchTries := 7 }) 3).spd, mxq := (getCore (fetched (gotEntry (ctl 1 [])) { fetchTries := 7 }) 3).mxq, vxq := (getCore (fetched (gotEntry (ctl 1 [])) { fetchTries := 7 }) 3).vxq, skq := (getCore (fetched (gotEntry (ctl 1 [])) { fetchTries := 7 }) 3).skq, upq := (getCore (fetched (gotEntry (ctl 1 [])) { fetchTries := 7 }) 3).upq, gvq := (getCore (fetched (gotEntry (ctl 1 [])) { fetchTries := 7 }) 3).gvq, bankAged := (getCore (fetched (gotEntry (ctl 1 [])) { fetchTries := 7 }) 3).bankAged, mxa := (getCore (fetched (gotEntry (ctl 1 [])) { fetchTries := 7 }) 3).mxa, gatedRem := (getCore (fetched (gotEntry (ctl 1 [])) { fetchTries := 7 }) 3).gatedRem, drawRem := (getCore (fetched (gotEntry (ctl 1 [])) { fetchTries := 7 }) 3).drawRem, skd := { streams := (getCore (fetched (gotEntry (ctl 1 [])) { fetchTries := 7 }) 3).skd.streams, shares := (getCore (fetched (gotEntry (ctl 1 [])) { fetchTries := 7 }) 3).skd.shares, cache := (getCore (fetched (gotEntry (ctl 1 [])) { fetchTries := 7 }) 3).skd.cache, refetch := (getCore (fetched (gotEntry (ctl 1 [])) { fetchTries := 7 }) 3).skd.refetch, stallSince := (getCore (fetched (gotEntry (ctl 1 [])) { fetchTries := 7 }) 3).skd.stallSince, stallCtx := (getCore (fetched (gotEntry (ctl 1 [])) { fetchTries := 7 }) 3).skd.stallCtx, stallValid := (getCore (fetched (gotEntry (ctl 1 [])) { fetchTries := 7 }) 3).skd.stallValid, issued := (getCore (fetched (gotEntry (ctl 1 [])) { fetchTries := 7 }) 3).skd.issued, fetches := List.filter (fun g => decide (g.n ≠ (gotEntry (ctl 1 [])).n)) (getCore (fetched (gotEntry (ctl 1 [])) { fetchTries := 7 }) 3).skd.fetches, nextFetch := (getCore (fetched (gotEntry (ctl 1 [])) { fetchTries := 7 }) 3).skd.nextFetch, starved := (getCore (fetched (gotEntry (ctl 1 [])) { fetchTries := 7 }) 3).skd.starved, asked := (getCore (fetched (gotEntry (ctl 1 [])) { fetchTries := 7 }) 3).skd.asked, saves := (getCore (fetched (gotEntry (ctl 1 [])) { fetchTries := 7 }) 3).skd.saves, awaited := (getCore (fetched (gotEntry (ctl 1 [])) { fetchTries := 7 }) 3).skd.awaited, lastOut := (getCore (fetched (gotEntry (ctl 1 [])) { fetchTries := 7 }) 3).skd.lastOut }, wins := (getCore (fetched (gotEntry (ctl 1 [])) { fetchTries := 7 }) 3).wins, barrier := (getCore (fetched (gotEntry (ctl 1 [])) { fetchTries := 7 }) 3).barrier, qnt := (getCore (fetched (gotEntry (ctl 1 [])) { fetchTries := 7 }) 3).qnt, grv := (getCore (fetched (gotEntry (ctl 1 [])) { fetchTries := 7 }) 3).grv, err := (getCore (fetched (gotEntry (ctl 1 [])) { fetchTries := 7 }) 3).err, cruise := (getCore (fetched (gotEntry (ctl 1 [])) { fetchTries := 7 }) 3).cruise, pwr := (getCore (fetched (gotEntry (ctl 1 [])) { fetchTries := 7 }) 3).pwr, hold := (getCore (fetched (gotEntry (ctl 1 [])) { fetchTries := 7 }) 3).hold, releasing := (getCore (fetched (gotEntry (ctl 1 [])) { fetchTries := 7 }) 3).releasing, order := (getCore (fetched (gotEntry (ctl 1 [])) { fetchTries := 7 }) 3).order } .mxq).issue) ∧
    ((getQ { pages := (getCore (fetched (gotEntry (ctl 1 [])) { fetchTries := 7 }) 3).pages, spd := (getCore (fetched (gotEntry (ctl 1 [])) { fetchTries := 7 }) 3).spd, mxq := (getCore (fetched (gotEntry (ctl 1 [])) { fetchTries := 7 }) 3).mxq, vxq := (getCore (fetched (gotEntry (ctl 1 [])) { fetchTries := 7 }) 3).vxq, skq := (getCore (fetched (gotEntry (ctl 1 [])) { fetchTries := 7 }) 3).skq, upq := (getCore (fetched (gotEntry (ctl 1 [])) { fetchTries := 7 }) 3).upq, gvq := (getCore (fetched (gotEntry (ctl 1 [])) { fetchTries := 7 }) 3).gvq, bankAged := (getCore (fetched (gotEntry (ctl 1 [])) { fetchTries := 7 }) 3).bankAged, mxa := (getCore (fetched (gotEntry (ctl 1 [])) { fetchTries := 7 }) 3).mxa, gatedRem := (getCore (fetched (gotEntry (ctl 1 [])) { fetchTries := 7 }) 3).gatedRem, drawRem := (getCore (fetched (gotEntry (ctl 1 [])) { fetchTries := 7 }) 3).drawRem, skd := { streams := (getCore (fetched (gotEntry (ctl 1 [])) { fetchTries := 7 }) 3).skd.streams, shares := (getCore (fetched (gotEntry (ctl 1 [])) { fetchTries := 7 }) 3).skd.shares, cache := (getCore (fetched (gotEntry (ctl 1 [])) { fetchTries := 7 }) 3).skd.cache, refetch := (getCore (fetched (gotEntry (ctl 1 [])) { fetchTries := 7 }) 3).skd.refetch, stallSince := (getCore (fetched (gotEntry (ctl 1 [])) { fetchTries := 7 }) 3).skd.stallSince, stallCtx := (getCore (fetched (gotEntry (ctl 1 [])) { fetchTries := 7 }) 3).skd.stallCtx, stallValid := (getCore (fetched (gotEntry (ctl 1 [])) { fetchTries := 7 }) 3).skd.stallValid, issued := (getCore (fetched (gotEntry (ctl 1 [])) { fetchTries := 7 }) 3).skd.issued, fetches := List.filter (fun g => decide (g.n ≠ (gotEntry (ctl 1 [])).n)) (getCore (fetched (gotEntry (ctl 1 [])) { fetchTries := 7 }) 3).skd.fetches, nextFetch := (getCore (fetched (gotEntry (ctl 1 [])) { fetchTries := 7 }) 3).skd.nextFetch, starved := (getCore (fetched (gotEntry (ctl 1 [])) { fetchTries := 7 }) 3).skd.starved, asked := (getCore (fetched (gotEntry (ctl 1 [])) { fetchTries := 7 }) 3).skd.asked, saves := (getCore (fetched (gotEntry (ctl 1 [])) { fetchTries := 7 }) 3).skd.saves, awaited := (getCore (fetched (gotEntry (ctl 1 [])) { fetchTries := 7 }) 3).skd.awaited, lastOut := (getCore (fetched (gotEntry (ctl 1 [])) { fetchTries := 7 }) 3).skd.lastOut }, wins := (getCore (fetched (gotEntry (ctl 1 [])) { fetchTries := 7 }) 3).wins, barrier := (getCore (fetched (gotEntry (ctl 1 [])) { fetchTries := 7 }) 3).barrier, qnt := (getCore (fetched (gotEntry (ctl 1 [])) { fetchTries := 7 }) 3).qnt, grv := (getCore (fetched (gotEntry (ctl 1 [])) { fetchTries := 7 }) 3).grv, err := (getCore (fetched (gotEntry (ctl 1 [])) { fetchTries := 7 }) 3).err, cruise := (getCore (fetched (gotEntry (ctl 1 [])) { fetchTries := 7 }) 3).cruise, pwr := (getCore (fetched (gotEntry (ctl 1 [])) { fetchTries := 7 }) 3).pwr, hold := (getCore (fetched (gotEntry (ctl 1 [])) { fetchTries := 7 }) 3).hold, releasing := (getCore (fetched (gotEntry (ctl 1 [])) { fetchTries := 7 }) 3).releasing, order := (getCore (fetched (gotEntry (ctl 1 [])) { fetchTries := 7 }) 3).order } .mxq).issue ≠ (getQ { pages := (getCore (fetched (gotEntry (ctl 1 [])) { fetchTries := 7 }) 3).pages, spd := (getCore (fetched (gotEntry (ctl 1 [])) { fetchTries := 7 }) 3).spd, mxq := (getCore (fetched (gotEntry (ctl 1 [])) { fetchTries := 7 }) 3).mxq, vxq := (getCore (fetched (gotEntry (ctl 1 [])) { fetchTries := 7 }) 3).vxq, skq := (getCore (fetched (gotEntry (ctl 1 [])) { fetchTries := 7 }) 3).skq, upq := (getCore (fetched (gotEntry (ctl 1 [])) { fetchTries := 7 }) 3).upq, gvq := (getCore (fetched (gotEntry (ctl 1 [])) { fetchTries := 7 }) 3).gvq, bankAged := (getCore (fetched (gotEntry (ctl 1 [])) { fetchTries := 7 }) 3).bankAged, mxa := (getCore (fetched (gotEntry (ctl 1 [])) { fetchTries := 7 }) 3).mxa, gatedRem := (getCore (fetched (gotEntry (ctl 1 [])) { fetchTries := 7 }) 3).gatedRem, drawRem := (getCore (fetched (gotEntry (ctl 1 [])) { fetchTries := 7 }) 3).drawRem, skd := { streams := (getCore (fetched (gotEntry (ctl 1 [])) { fetchTries := 7 }) 3).skd.streams, shares := (getCore (fetched (gotEntry (ctl 1 [])) { fetchTries := 7 }) 3).skd.shares, cache := (getCore (fetched (gotEntry (ctl 1 [])) { fetchTries := 7 }) 3).skd.cache, refetch := (getCore (fetched (gotEntry (ctl 1 [])) { fetchTries := 7 }) 3).skd.refetch, stallSince := (getCore (fetched (gotEntry (ctl 1 [])) { fetchTries := 7 }) 3).skd.stallSince, stallCtx := (getCore (fetched (gotEntry (ctl 1 [])) { fetchTries := 7 }) 3).skd.stallCtx, stallValid := (getCore (fetched (gotEntry (ctl 1 [])) { fetchTries := 7 }) 3).skd.stallValid, issued := (getCore (fetched (gotEntry (ctl 1 [])) { fetchTries := 7 }) 3).skd.issued, fetches := List.filter (fun g => decide (g.n ≠ (gotEntry (ctl 1 [])).n)) (getCore (fetched (gotEntry (ctl 1 [])) { fetchTries := 7 }) 3).skd.fetches, nextFetch := (getCore (fetched (gotEntry (ctl 1 [])) { fetchTries := 7 }) 3).skd.nextFetch, starved := (getCore (fetched (gotEntry (ctl 1 [])) { fetchTries := 7 }) 3).skd.starved, asked := (getCore (fetched (gotEntry (ctl 1 [])) { fetchTries := 7 }) 3).skd.asked, saves := (getCore (fetched (gotEntry (ctl 1 [])) { fetchTries := 7 }) 3).skd.saves, awaited := (getCore (fetched (gotEntry (ctl 1 [])) { fetchTries := 7 }) 3).skd.awaited, lastOut := (getCore (fetched (gotEntry (ctl 1 [])) { fetchTries := 7 }) 3).skd.lastOut }, wins := (getCore (fetched (gotEntry (ctl 1 [])) { fetchTries := 7 }) 3).wins, barrier := (getCore (fetched (gotEntry (ctl 1 [])) { fetchTries := 7 }) 3).barrier, qnt := (getCore (fetched (gotEntry (ctl 1 [])) { fetchTries := 7 }) 3).qnt, grv := (getCore (fetched (gotEntry (ctl 1 [])) { fetchTries := 7 }) 3).grv, err := (getCore (fetched (gotEntry (ctl 1 [])) { fetchTries := 7 }) 3).err, cruise := (getCore (fetched (gotEntry (ctl 1 [])) { fetchTries := 7 }) 3).cruise, pwr := (getCore (fetched (gotEntry (ctl 1 [])) { fetchTries := 7 }) 3).pwr, hold := (getCore (fetched (gotEntry (ctl 1 [])) { fetchTries := 7 }) 3).hold, releasing := (getCore (fetched (gotEntry (ctl 1 [])) { fetchTries := 7 }) 3).releasing, order := (getCore (fetched (gotEntry (ctl 1 [])) { fetchTries := 7 }) 3).order } .mxq).tail) ∧
    (fetchedAt (getQ { pages := (getCore (fetched (gotEntry (ctl 1 [])) { fetchTries := 7 }) 3).pages, spd := (getCore (fetched (gotEntry (ctl 1 [])) { fetchTries := 7 }) 3).spd, mxq := (getCore (fetched (gotEntry (ctl 1 [])) { fetchTries := 7 }) 3).mxq, vxq := (getCore (fetched (gotEntry (ctl 1 [])) { fetchTries := 7 }) 3).vxq, skq := (getCore (fetched (gotEntry (ctl 1 [])) { fetchTries := 7 }) 3).skq, upq := (getCore (fetched (gotEntry (ctl 1 [])) { fetchTries := 7 }) 3).upq, gvq := (getCore (fetched (gotEntry (ctl 1 [])) { fetchTries := 7 }) 3).gvq, bankAged := (getCore (fetched (gotEntry (ctl 1 [])) { fetchTries := 7 }) 3).bankAged, mxa := (getCore (fetched (gotEntry (ctl 1 [])) { fetchTries := 7 }) 3).mxa, gatedRem := (getCore (fetched (gotEntry (ctl 1 [])) { fetchTries := 7 }) 3).gatedRem, drawRem := (getCore (fetched (gotEntry (ctl 1 [])) { fetchTries := 7 }) 3).drawRem, skd := { streams := (getCore (fetched (gotEntry (ctl 1 [])) { fetchTries := 7 }) 3).skd.streams, shares := (getCore (fetched (gotEntry (ctl 1 [])) { fetchTries := 7 }) 3).skd.shares, cache := (getCore (fetched (gotEntry (ctl 1 [])) { fetchTries := 7 }) 3).skd.cache, refetch := (getCore (fetched (gotEntry (ctl 1 [])) { fetchTries := 7 }) 3).skd.refetch, stallSince := (getCore (fetched (gotEntry (ctl 1 [])) { fetchTries := 7 }) 3).skd.stallSince, stallCtx := (getCore (fetched (gotEntry (ctl 1 [])) { fetchTries := 7 }) 3).skd.stallCtx, stallValid := (getCore (fetched (gotEntry (ctl 1 [])) { fetchTries := 7 }) 3).skd.stallValid, issued := (getCore (fetched (gotEntry (ctl 1 [])) { fetchTries := 7 }) 3).skd.issued, fetches := List.filter (fun g => decide (g.n ≠ (gotEntry (ctl 1 [])).n)) (getCore (fetched (gotEntry (ctl 1 [])) { fetchTries := 7 }) 3).skd.fetches, nextFetch := (getCore (fetched (gotEntry (ctl 1 [])) { fetchTries := 7 }) 3).skd.nextFetch, starved := (getCore (fetched (gotEntry (ctl 1 [])) { fetchTries := 7 }) 3).skd.starved, asked := (getCore (fetched (gotEntry (ctl 1 [])) { fetchTries := 7 }) 3).skd.asked, saves := (getCore (fetched (gotEntry (ctl 1 [])) { fetchTries := 7 }) 3).skd.saves, awaited := (getCore (fetched (gotEntry (ctl 1 [])) { fetchTries := 7 }) 3).skd.awaited, lastOut := (getCore (fetched (gotEntry (ctl 1 [])) { fetchTries := 7 }) 3).skd.lastOut }, wins := (getCore (fetched (gotEntry (ctl 1 [])) { fetchTries := 7 }) 3).wins, barrier := (getCore (fetched (gotEntry (ctl 1 [])) { fetchTries := 7 }) 3).barrier, qnt := (getCore (fetched (gotEntry (ctl 1 [])) { fetchTries := 7 }) 3).qnt, grv := (getCore (fetched (gotEntry (ctl 1 [])) { fetchTries := 7 }) 3).grv, err := (getCore (fetched (gotEntry (ctl 1 [])) { fetchTries := 7 }) 3).err, cruise := (getCore (fetched (gotEntry (ctl 1 [])) { fetchTries := 7 }) 3).cruise, pwr := (getCore (fetched (gotEntry (ctl 1 [])) { fetchTries := 7 }) 3).pwr, hold := (getCore (fetched (gotEntry (ctl 1 [])) { fetchTries := 7 }) 3).hold, releasing := (getCore (fetched (gotEntry (ctl 1 [])) { fetchTries := 7 }) 3).releasing, order := (getCore (fetched (gotEntry (ctl 1 [])) { fetchTries := 7 }) 3).order } .mxq) (0 : Nat) = none) ∧
    ((getQ { pages := (getCore (fetched (gotEntry (ctl 1 [])) { fetchTries := 7 }) 3).pages, spd := (getCore (fetched (gotEntry (ctl 1 [])) { fetchTries := 7 }) 3).spd, mxq := (getCore (fetched (gotEntry (ctl 1 [])) { fetchTries := 7 }) 3).mxq, vxq := (getCore (fetched (gotEntry (ctl 1 [])) { fetchTries := 7 }) 3).vxq, skq := (getCore (fetched (gotEntry (ctl 1 [])) { fetchTries := 7 }) 3).skq, upq := (getCore (fetched (gotEntry (ctl 1 [])) { fetchTries := 7 }) 3).upq, gvq := (getCore (fetched (gotEntry (ctl 1 [])) { fetchTries := 7 }) 3).gvq, bankAged := (getCore (fetched (gotEntry (ctl 1 [])) { fetchTries := 7 }) 3).bankAged, mxa := (getCore (fetched (gotEntry (ctl 1 [])) { fetchTries := 7 }) 3).mxa, gatedRem := (getCore (fetched (gotEntry (ctl 1 [])) { fetchTries := 7 }) 3).gatedRem, drawRem := (getCore (fetched (gotEntry (ctl 1 [])) { fetchTries := 7 }) 3).drawRem, skd := { streams := (getCore (fetched (gotEntry (ctl 1 [])) { fetchTries := 7 }) 3).skd.streams, shares := (getCore (fetched (gotEntry (ctl 1 [])) { fetchTries := 7 }) 3).skd.shares, cache := (getCore (fetched (gotEntry (ctl 1 [])) { fetchTries := 7 }) 3).skd.cache, refetch := (getCore (fetched (gotEntry (ctl 1 [])) { fetchTries := 7 }) 3).skd.refetch, stallSince := (getCore (fetched (gotEntry (ctl 1 [])) { fetchTries := 7 }) 3).skd.stallSince, stallCtx := (getCore (fetched (gotEntry (ctl 1 [])) { fetchTries := 7 }) 3).skd.stallCtx, stallValid := (getCore (fetched (gotEntry (ctl 1 [])) { fetchTries := 7 }) 3).skd.stallValid, issued := (getCore (fetched (gotEntry (ctl 1 [])) { fetchTries := 7 }) 3).skd.issued, fetches := List.filter (fun g => decide (g.n ≠ (gotEntry (ctl 1 [])).n)) (getCore (fetched (gotEntry (ctl 1 [])) { fetchTries := 7 }) 3).skd.fetches, nextFetch := (getCore (fetched (gotEntry (ctl 1 [])) { fetchTries := 7 }) 3).skd.nextFetch, starved := (getCore (fetched (gotEntry (ctl 1 [])) { fetchTries := 7 }) 3).skd.starved, asked := (getCore (fetched (gotEntry (ctl 1 [])) { fetchTries := 7 }) 3).skd.asked, saves := (getCore (fetched (gotEntry (ctl 1 [])) { fetchTries := 7 }) 3).skd.saves, awaited := (getCore (fetched (gotEntry (ctl 1 [])) { fetchTries := 7 }) 3).skd.awaited, lastOut := (getCore (fetched (gotEntry (ctl 1 [])) { fetchTries := 7 }) 3).skd.lastOut }, wins := (getCore (fetched (gotEntry (ctl 1 [])) { fetchTries := 7 }) 3).wins, barrier := (getCore (fetched (gotEntry (ctl 1 [])) { fetchTries := 7 }) 3).barrier, qnt := (getCore (fetched (gotEntry (ctl 1 [])) { fetchTries := 7 }) 3).qnt, grv := (getCore (fetched (gotEntry (ctl 1 [])) { fetchTries := 7 }) 3).grv, err := (getCore (fetched (gotEntry (ctl 1 [])) { fetchTries := 7 }) 3).err, cruise := (getCore (fetched (gotEntry (ctl 1 [])) { fetchTries := 7 }) 3).cruise, pwr := (getCore (fetched (gotEntry (ctl 1 [])) { fetchTries := 7 }) 3).pwr, hold := (getCore (fetched (gotEntry (ctl 1 [])) { fetchTries := 7 }) 3).hold, releasing := (getCore (fetched (gotEntry (ctl 1 [])) { fetchTries := 7 }) 3).releasing, order := (getCore (fetched (gotEntry (ctl 1 [])) { fetchTries := 7 }) 3).order } .mxq).flights = []) ∧
    ((getQ { pages := (getCore (fetched (gotEntry (ctl 1 [])) { fetchTries := 7 }) 3).pages, spd := (getCore (fetched (gotEntry (ctl 1 [])) { fetchTries := 7 }) 3).spd, mxq := (getCore (fetched (gotEntry (ctl 1 [])) { fetchTries := 7 }) 3).mxq, vxq := (getCore (fetched (gotEntry (ctl 1 [])) { fetchTries := 7 }) 3).vxq, skq := (getCore (fetched (gotEntry (ctl 1 [])) { fetchTries := 7 }) 3).skq, upq := (getCore (fetched (gotEntry (ctl 1 [])) { fetchTries := 7 }) 3).upq, gvq := (getCore (fetched (gotEntry (ctl 1 [])) { fetchTries := 7 }) 3).gvq, bankAged := (getCore (fetched (gotEntry (ctl 1 [])) { fetchTries := 7 }) 3).bankAged, mxa := (getCore (fetched (gotEntry (ctl 1 [])) { fetchTries := 7 }) 3).mxa, gatedRem := (getCore (fetched (gotEntry (ctl 1 [])) { fetchTries := 7 }) 3).gatedRem, drawRem := (getCore (fetched (gotEntry (ctl 1 [])) { fetchTries := 7 }) 3).drawRem, skd := { streams := (getCore (fetched (gotEntry (ctl 1 [])) { fetchTries := 7 }) 3).skd.streams, shares := (getCore (fetched (gotEntry (ctl 1 [])) { fetchTries := 7 }) 3).skd.shares, cache := (getCore (fetched (gotEntry (ctl 1 [])) { fetchTries := 7 }) 3).skd.cache, refetch := (getCore (fetched (gotEntry (ctl 1 [])) { fetchTries := 7 }) 3).skd.refetch, stallSince := (getCore (fetched (gotEntry (ctl 1 [])) { fetchTries := 7 }) 3).skd.stallSince, stallCtx := (getCore (fetched (gotEntry (ctl 1 [])) { fetchTries := 7 }) 3).skd.stallCtx, stallValid := (getCore (fetched (gotEntry (ctl 1 [])) { fetchTries := 7 }) 3).skd.stallValid, issued := (getCore (fetched (gotEntry (ctl 1 [])) { fetchTries := 7 }) 3).skd.issued, fetches := List.filter (fun g => decide (g.n ≠ (gotEntry (ctl 1 [])).n)) (getCore (fetched (gotEntry (ctl 1 [])) { fetchTries := 7 }) 3).skd.fetches, nextFetch := (getCore (fetched (gotEntry (ctl 1 [])) { fetchTries := 7 }) 3).skd.nextFetch, starved := (getCore (fetched (gotEntry (ctl 1 [])) { fetchTries := 7 }) 3).skd.starved, asked := (getCore (fetched (gotEntry (ctl 1 [])) { fetchTries := 7 }) 3).skd.asked, saves := (getCore (fetched (gotEntry (ctl 1 [])) { fetchTries := 7 }) 3).skd.saves, awaited := (getCore (fetched (gotEntry (ctl 1 [])) { fetchTries := 7 }) 3).skd.awaited, lastOut := (getCore (fetched (gotEntry (ctl 1 [])) { fetchTries := 7 }) 3).skd.lastOut }, wins := (getCore (fetched (gotEntry (ctl 1 [])) { fetchTries := 7 }) 3).wins, barrier := (getCore (fetched (gotEntry (ctl 1 [])) { fetchTries := 7 }) 3).barrier, qnt := (getCore (fetched (gotEntry (ctl 1 [])) { fetchTries := 7 }) 3).qnt, grv := (getCore (fetched (gotEntry (ctl 1 [])) { fetchTries := 7 }) 3).grv, err := (getCore (fetched (gotEntry (ctl 1 [])) { fetchTries := 7 }) 3).err, cruise := (getCore (fetched (gotEntry (ctl 1 [])) { fetchTries := 7 }) 3).cruise, pwr := (getCore (fetched (gotEntry (ctl 1 [])) { fetchTries := 7 }) 3).pwr, hold := (getCore (fetched (gotEntry (ctl 1 [])) { fetchTries := 7 }) 3).hold, releasing := (getCore (fetched (gotEntry (ctl 1 [])) { fetchTries := 7 }) 3).releasing, order := (getCore (fetched (gotEntry (ctl 1 [])) { fetchTries := 7 }) 3).order } .mxq).fb = none) ∧
    (getQ (getCore (fetchedSk (.context 0)) 3) .skq).mode = QMode.run ∧
    (getOwner (fetchedSk (.context 0)) 3).felled = false ∧
    (List.find? (fun f => f.q == .skq && f.kind.ofQueue && f.result.isSome) (getCore (fetchedSk (.context 0)) 3).skd.fetches = some (gotPart (.context 0))) ∧
    nextWant (getCore (fetchedSk (.context 0)) 3) .skq = some (gotPart (.context 0)).kind ∧
    (gotPart (.context 0)).kind = FetchKind.context (0 : Nat) ∧
    (gotPart (.context 0)).stage = FetchStage.here (List.replicate 128 0#8) ∧
    (getQ (getCore (fetchedSk (.group 0)) 3) .skq).mode = QMode.run ∧
    (getOwner (fetchedSk (.group 0)) 3).felled = false ∧
    (List.find? (fun f => f.q == .skq && f.kind.ofQueue && f.result.isSome) (getCore (fetchedSk (.group 0)) 3).skd.fetches = some (gotPart (.group 0))) ∧
    nextWant (getCore (fetchedSk (.group 0)) 3) .skq = some (gotPart (.group 0)).kind ∧
    (gotPart (.group 0)).kind = FetchKind.group (0 : Nat) ∧
    (gotPart (.group 0)).stage = FetchStage.here (List.replicate 128 0#8) ∧
    (getQ (getCore fetchedEarly 3) .mxq).mode = QMode.run ∧
    (getOwner fetchedEarly 3).felled = false ∧
    (List.find? (fun f => f.q == .mxq && f.kind.ofQueue && f.result.isSome) (getCore fetchedEarly 3).skd.fetches = some (gotPart2 (.early 0))) ∧
    nextWant (getCore fetchedEarly 3) .mxq = some (gotPart2 (.early 0)).kind ∧
    (gotPart2 (.early 0)).kind = FetchKind.early (0 : Nat) ∧
    (gotPart2 (.early 0)).stage = FetchStage.here (sealed (ctl 0x10 [])) ∧
    (getQ (getCore fetchedFb 3) .mxq).mode = QMode.run ∧
    (getOwner fetchedFb 3).felled = false ∧
    (List.find? (fun f => f.q == .mxq && f.kind.ofQueue && f.result.isSome) (getCore fetchedFb 3).skd.fetches = some (gotPart2 (.fallback 0))) ∧
    nextWant (getCore fetchedFb 3) .mxq = some (gotPart2 (.fallback 0)).kind ∧
    (gotPart2 (.fallback 0)).kind = FetchKind.fallback (0 : Nat) ∧
    (gotPart2 (.fallback 0)).stage = FetchStage.here (sealed (ctl 0x10 [])) ∧
    ((getQ { pages := (getCore fetchedFb 3).pages, spd := (getCore fetchedFb 3).spd, mxq := (getCore fetchedFb 3).mxq, vxq := (getCore fetchedFb 3).vxq, skq := (getCore fetchedFb 3).skq, upq := (getCore fetchedFb 3).upq, gvq := (getCore fetchedFb 3).gvq, bankAged := (getCore fetchedFb 3).bankAged, mxa := (getCore fetchedFb 3).mxa, gatedRem := (getCore fetchedFb 3).gatedRem, drawRem := (getCore fetchedFb 3).drawRem, skd := { streams := (getCore fetchedFb 3).skd.streams, shares := (getCore fetchedFb 3).skd.shares, cache := (getCore fetchedFb 3).skd.cache, refetch := (getCore fetchedFb 3).skd.refetch, stallSince := (getCore fetchedFb 3).skd.stallSince, stallCtx := (getCore fetchedFb 3).skd.stallCtx, stallValid := (getCore fetchedFb 3).skd.stallValid, issued := (getCore fetchedFb 3).skd.issued, fetches := List.filter (fun g => decide (g.n ≠ (gotPart2 (.fallback 0)).n)) (getCore fetchedFb 3).skd.fetches, nextFetch := (getCore fetchedFb 3).skd.nextFetch, starved := (getCore fetchedFb 3).skd.starved, asked := (getCore fetchedFb 3).skd.asked, saves := (getCore fetchedFb 3).skd.saves, awaited := (getCore fetchedFb 3).skd.awaited, lastOut := (getCore fetchedFb 3).skd.lastOut }, wins := (getCore fetchedFb 3).wins, barrier := (getCore fetchedFb 3).barrier, qnt := (getCore fetchedFb 3).qnt, grv := (getCore fetchedFb 3).grv, err := (getCore fetchedFb 3).err, cruise := (getCore fetchedFb 3).cruise, pwr := (getCore fetchedFb 3).pwr, hold := (getCore fetchedFb 3).hold, releasing := (getCore fetchedFb 3).releasing, order := (getCore fetchedFb 3).order } .mxq).fb = some ({ orig := { idx := 0, raw := ctl 0x10 [] }, entry := none, tries := 0 } : Fallback)) ∧
    leAt (sealed (ctl 0x10 [])) 60 4 = crc32c (List.take 60 (sealed (ctl 0x10 []))) ∧
    (getQ (getCore (fetched { gotEntry [] with stage := .faulted 5 } {}) 3) .mxq).mode = QMode.run ∧
    (getOwner (fetched { gotEntry [] with stage := .faulted 5 } {}) 3).felled = false ∧
    (List.find? (fun f => f.q == .mxq && f.kind.ofQueue && f.result.isSome) (getCore (fetched { gotEntry [] with stage := .faulted 5 } {}) 3).skd.fetches = some ({ gotEntry [] with stage := .faulted 5 } : Fetch)) ∧
    nextWant (getCore (fetched { gotEntry [] with stage := .faulted 5 } {}) 3) .mxq = some ({ gotEntry [] with stage := .faulted 5 } : Fetch).kind ∧
    (({ gotEntry [] with stage := .faulted 5 } : Fetch).kind = FetchKind.entry (0 : Nat) ∨ ({ gotEntry [] with stage := .faulted 5 } : Fetch).kind = FetchKind.context (0 : Nat) ∨ ({ gotEntry [] with stage := .faulted 5 } : Fetch).kind = FetchKind.group (0 : Nat) ∨ ({ gotEntry [] with stage := .faulted 5 } : Fetch).kind = FetchKind.fallback (0 : Nat)) ∧
    ({ gotEntry [] with stage := .faulted 5 } : Fetch).stage = FetchStage.faulted (5 : Nat) ∧
    (getQ (getCore (queued awake .mxq { tail := 1 }) 3) .mxq).mode = QMode.run ∧
    (getOwner (queued awake .mxq { tail := 1 }) 3).felled = false ∧
    (getCore (queued awake .mxq { tail := 1 }) 3).skd.fetches = [] ∧
    (getQ (getCore (queued awake .mxq { tail := 1 }) 3) .mxq).fb = none ∧
    nextFetch (getQ (getCore (queued awake .mxq { tail := 1 }) 3) .mxq) = some (0 : Nat) ∧
    fetchRoom (getQ (getCore (queued awake .mxq { tail := 1 }) 3) .mxq) (0 : Nat) = true ∧
    (¬(4 ≤ ringLog (getCore (queued awake .mxq { tail := 1 }) 3) .mxq ∧ ringLog (getCore (queued awake .mxq { tail := 1 }) 3) .mxq ≤ 16)) := by and_intros <;> decide +kernel

/-- States and operands that meet the hypotheses of QueueControls. -/
theorem witness_queueControls :
    reaches (on awake) (.mgmt : Port) (PageRef.core (3 : CoreId) 0) (qBlock .vxq + 24) (on awake) ∧
    notDozing (getCore (inOrder (on awake) 3 0) 3) ∧
    reaches (queued awake .vxq { mode := .halted 3 }) (.mgmt : Port) (PageRef.core (3 : CoreId) 0) (qBlock .vxq + 24) (queued awake .vxq { mode := .halted 3 }) ∧
    notDozing (getCore (inOrder (queued awake .vxq { mode := .halted 3 }) 3 0) 3) ∧
    (getQ (getCore (inOrder (queued awake .vxq { mode := .halted 3 }) 3 0) 3) .vxq).mode = QMode.halted (3 : Nat) ∧
    reaches (queued awake .vxq { mode := .fault 5 }) (.mgmt : Port) (PageRef.core (3 : CoreId) 0) (qBlock .vxq + 24) (queued awake .vxq { mode := .fault 5 }) ∧
    notDozing (getCore (inOrder (queued awake .vxq { mode := .fault 5 }) 3 0) 3) ∧
    (getQ (getCore (inOrder (queued awake .vxq { mode := .fault 5 }) 3 0) 3) .vxq).mode = QMode.fault (5 : Nat) ∧
    (getQ (getCore (inOrder (on awake) 3 0) 3) .vxq).mode = QMode.run ∧
    reaches (queued awake .vxq { stop := true }) (.mgmt : Port) (PageRef.core (3 : CoreId) 0) (qBlock .vxq + 24) (queued awake .vxq { stop := true }) ∧
    notDozing (getCore (inOrder (queued awake .vxq { stop := true }) 3 0) 3) ∧
    (getQ (getCore (inOrder (queued awake .vxq { stop := true }) 3 0) 3) .vxq).flights = [] ∧
    (getQ (getCore (inOrder (queued awake .vxq { stop := true }) 3 0) 3) .vxq).fb = none ∧
    ((getQ (getCore (inOrder (queued awake .vxq { stop := true }) 3 0) 3) .vxq).mode ≠ QMode.run ∨ (getQ (getCore (inOrder (queued awake .vxq { stop := true }) 3 0) 3) .vxq).stop = true) ∧
    reaches (queued awake .vxq { mode := .halted 3, tail := 2 }) (.mgmt : Port) (PageRef.core (3 : CoreId) 0) (qBlock .vxq + 24) (queued awake .vxq { mode := .halted 3, tail := 2 }) ∧
    notDozing (getCore (inOrder (queued awake .vxq { mode := .halted 3, tail := 2 }) 3 0) 3) ∧
    (getQ (getCore (inOrder (queued awake .vxq { mode := .halted 3, tail := 2 }) 3 0) 3) .vxq).flights = [] ∧
    (getQ (getCore (inOrder (queued awake .vxq { mode := .halted 3, tail := 2 }) 3 0) 3) .vxq).fb = none ∧
    ((getQ (getCore (inOrder (queued awake .vxq { mode := .halted 3, tail := 2 }) 3 0) 3) .vxq).mode ≠ QMode.run ∨ (getQ (getCore (inOrder (queued awake .vxq { mode := .halted 3, tail := 2 }) 3 0) 3) .vxq).stop = true) ∧
    reaches (queued awake .vxq { mode := .halted 3, tail := 2, issue := 1, flights := [{ idx := 0, raw := ctl 0 [] }] }) (.mgmt : Port) (PageRef.core (3 : CoreId) 0) (qBlock .vxq + 24) (queued awake .vxq { mode := .halted 3, tail := 2, issue := 1, flights := [{ idx := 0, raw := ctl 0 [] }] }) ∧
    notDozing (getCore (inOrder (queued awake .vxq { mode := .halted 3, tail := 2, issue := 1, flights := [{ idx := 0, raw := ctl 0 [] }] }) 3 0) 3) ∧
    (getQ (getCore (inOrder (queued awake .vxq { mode := .halted 3, tail := 2, issue := 1, flights := [{ idx := 0, raw := ctl 0 [] }] }) 3 0) 3) .vxq).mode ≠ QMode.run ∧
    (¬((getQ (getCore (inOrder (on awake) 3 0) 3) .vxq).stop = true ∧ inFlight (getQ (getCore (inOrder (on awake) 3 0) 3) .vxq) = 0)) ∧
    reaches (queued awake .vxq { holding [ctl 0 []] with mode := .halted 3 }) (.mgmt : Port) (PageRef.core (3 : CoreId) 0) (qBlock .vxq + 24) (queued awake .vxq { holding [ctl 0 []] with mode := .halted 3 }) ∧
    notDozing (getCore (inOrder (queued awake .vxq { holding [ctl 0 []] with mode := .halted 3 }) 3 0) 3) ∧
    (getQ (getCore (inOrder (queued awake .vxq { holding [ctl 0 []] with mode := .halted 3 }) 3 0) 3) .vxq).mode = QMode.halted (3 : Nat) ∧
    (getQ (getCore (inOrder (queued awake .vxq { holding [ctl 0 []] with mode := .halted 3 }) 3 0) 3) .vxq).loops = [] ∧
    (getQ (getCore (inOrder (queued awake .vxq { holding [ctl 0 []] with mode := .halted 3 }) 3 0) 3) .vxq).flights = [] ∧
    (∀ (e : Fetched), fetchedAt (getQ (getCore (inOrder (queued awake .vxq { holding [ctl 0 []] with mode := .halted 3 }) 3 0) 3) .vxq) (getQ (getCore (inOrder (queued awake .vxq { holding [ctl 0 []] with mode := .halted 3 }) 3 0) 3) .vxq).issue = some e → opOf e.raw ≠ 1) ∧
    ((getQ (getCore (inOrder (queued awake .vxq { holding [ctl 0 []] with mode := .halted 3 }) 3 0) 3) .vxq).buf = List.filter (fun e => e.ok) (getQ (getCore (inOrder (queued awake .vxq { holding [ctl 0 []] with mode := .halted 3 }) 3 0) 3) .vxq).buf) ∧
    (getQ (getCore (queued awake .vxq { stop := true }) 3) .vxq).stop = true ∧
    inFlight (getQ (getCore (queued awake .vxq { stop := true }) 3) .vxq) = 0 ∧
    (getQ (getCore (queued awake .vxq { refused := some 4 }) 3) .vxq).refused = some (4 : Nat) ∧
    (getQ (getCore (atLeast (queued awake .vxq { refused := some 4 }) ((4 : Nat) + 16)) 3) .vxq).refused = some (4 : Nat) := by and_intros <;> decide +kernel

/-- States and operands that meet the hypotheses of SemaphoreAdd. -/
theorem witness_semaphoreAdd :
    (∀ (a : SemAmt), a ∈ ([{ sem := 31, amt := 65535 }, { sem := 31, amt := 1 }] : List SemAmt) → a.sem < 32) ∧
    (31 : Nat) < 32 ∧
    reaches (on awake) (.mgmt : Port) (PageRef.core (3 : CoreId) 1) 192 (on awake) ∧
    notDozing (getCore (inOrder (on awake) 3 1) 3) := by decide +kernel

/-- States and operands that meet the hypotheses of ControlDescriptors. -/
theorem witness_controlDescriptors :
    (∀ (r : QueueId), (getQ (getCore (queued awake .vxq (holding [ctl 0 [(6, 2, 0x23)]])) 3) r).flights = []) ∧
    (∀ (r : QueueId), (getQ (getCore (queued awake .vxq (holding [ctl 2 [(0x10, 2, 0x701), (0x14, 4, 65535)]])) 3) r).flights = []) ∧
    readyControl (queued awake .vxq (holding [ctl 0 [(6, 2, 0x23)]])) 3 .vxq = some (entry 0 (ctl 0 [(6, 2, 0x23)])) ∧
    (getQ (getCore (queued awake .vxq (holding [ctl 0 [(6, 2, 0x23)]])) 3) .vxq).fb = none ∧
    opOf (entry 0 (ctl 0 [(6, 2, 0x23)])).raw = 0 ∧
    nopLegal (entry 0 (ctl 0 [(6, 2, 0x23)])).raw = true ∧
    (getQ (getCore (queued awake .vxq (holding [ctl 0 [(6, 2, 0x23)]])) 3) .vxq).loops = [] ∧
    readyControl (queued awake .vxq (holding [ctl 2 [(0x10, 2, 0x701), (0x14, 4, 65535)]])) 3 .vxq = some (entry 0 (ctl 2 [(0x10, 2, 0x701), (0x14, 4, 65535)])) ∧
    (getQ (getCore (queued awake .vxq (holding [ctl 2 [(0x10, 2, 0x701), (0x14, 4, 65535)]])) 3) .vxq).fb = none ∧
    opOf (entry 0 (ctl 2 [(0x10, 2, 0x701), (0x14, 4, 65535)])).raw = 2 ∧
    setregWrites (entry 0 (ctl 2 [(0x10, 2, 0x701), (0x14, 4, 65535)])).raw = some ([{ shp := false, idx := 7, val := 65535 }] : List RegWrite) ∧
    headerLegal (entry 0 (ctl 2 [(0x10, 2, 0x701), (0x14, 4, 65535)])).raw false = true ∧
    zeroAt (entry 0 (ctl 2 [(0x10, 2, 0x701), (0x14, 4, 65535)])).raw 12 4 = true ∧
    zeroAt (entry 0 (ctl 2 [(0x10, 2, 0x701), (0x14, 4, 65535)])).raw 48 12 = true ∧
    (getQ (getCore (queued awake .vxq (holding [ctl 2 [(0x10, 2, 0x701), (0x14, 4, 65535)]])) 3) .vxq).loops = [] ∧
    readyControl (queued awake .vxq (holding [ctl 1 [(0x10, 4, 0x20180)], ctl 0 []])) 3 .vxq = some (entry 0 (ctl 1 [(0x10, 4, 0x20180)])) ∧
    (getQ (getCore (queued awake .vxq (holding [ctl 1 [(0x10, 4, 0x20180)], ctl 0 []])) 3) .vxq).fb = none ∧
    opOf (entry 0 (ctl 1 [(0x10, 4, 0x20180)])).raw = 1 ∧
    loopLegal (entry 0 (ctl 1 [(0x10, 4, 0x20180)])).raw = true ∧
    1 ≤ leAt (entry 0 (ctl 1 [(0x10, 4, 0x20180)])).raw 17 1 ∧
    leAt (entry 0 (ctl 1 [(0x10, 4, 0x20180)])).raw 17 1 ≤ 32 ∧
    loopBody (getQ (getCore (queued awake .vxq (holding [ctl 1 [(0x10, 4, 0x20180)], ctl 0 []])) 3) .vxq) (getQ (getCore (queued awake .vxq (holding [ctl 1 [(0x10, 4, 0x20180)], ctl 0 []])) 3) .vxq).issue (leAt (entry 0 (ctl 1 [(0x10, 4, 0x20180)])).raw 17 1) = some ([entry 1 (ctl 0 [])] : List Fetched) ∧
    loopStructOk (getQ (getCore (queued awake .vxq (holding [ctl 1 [(0x10, 4, 0x20180)], ctl 0 []])) 3) .vxq) (getQ (getCore (queued awake .vxq (holding [ctl 1 [(0x10, 4, 0x20180)], ctl 0 []])) 3) .vxq).issue (leAt (entry 0 (ctl 1 [(0x10, 4, 0x20180)])).raw 17 1) (loopAdvs (entry 0 (ctl 1 [(0x10, 4, 0x20180)])).raw) ([entry 1 (ctl 0 [])] : List Fetched) = true ∧
    loopAdvsOk (getQ (getCore (queued awake .vxq (holding [ctl 1 [(0x10, 4, 0x20180)], ctl 0 []])) 3) .vxq).issue (loopAdvs (entry 0 (ctl 1 [(0x10, 4, 0x20180)])).raw) ([entry 1 (ctl 0 [])] : List Fetched) = true ∧
    (0 < if (leAt (entry 0 (ctl 1 [(0x10, 4, 0x20180)])).raw 16 1).testBit 7 = true then leAt (entry 0 (ctl 1 [(0x10, 4, 0x20180)])).raw 18 2 else kReg (getCore (queued awake .vxq (holding [ctl 1 [(0x10, 4, 0x20180)], ctl 0 []])) 3) 0 (256 + 4 * fld (leAt (entry 0 (ctl 1 [(0x10, 4, 0x20180)])).raw 16 1) 0 3) % 65536) ∧
    readyControl (queued awake .vxq (holding [ctl 1 [(0x10, 4, 0x180)], ctl 0 []])) 3 .vxq = some (entry 0 (ctl 1 [(0x10, 4, 0x180)])) ∧
    (getQ (getCore (queued awake .vxq (holding [ctl 1 [(0x10, 4, 0x180)], ctl 0 []])) 3) .vxq).fb = none ∧
    opOf (entry 0 (ctl 1 [(0x10, 4, 0x180)])).raw = 1 ∧
    loopLegal (entry 0 (ctl 1 [(0x10, 4, 0x180)])).raw = true ∧
    1 ≤ leAt (entry 0 (ctl 1 [(0x10, 4, 0x180)])).raw 17 1 ∧
    leAt (entry 0 (ctl 1 [(0x10, 4, 0x180)])).raw 17 1 ≤ 32 ∧
    loopBody (getQ (getCore (queued awake .vxq (holding [ctl 1 [(0x10, 4, 0x180)], ctl 0 []])) 3) .vxq) (getQ (getCore (queued awake .vxq (holding [ctl 1 [(0x10, 4, 0x180)], ctl 0 []])) 3) .vxq).issue (leAt (entry 0 (ctl 1 [(0x10, 4, 0x180)])).raw 17 1) = some ([entry 1 (ctl 0 [])] : List Fetched) ∧
    loopStructOk (getQ (getCore (queued awake .vxq (holding [ctl 1 [(0x10, 4, 0x180)], ctl 0 []])) 3) .vxq) (getQ (getCore (queued awake .vxq (holding [ctl 1 [(0x10, 4, 0x180)], ctl 0 []])) 3) .vxq).issue (leAt (entry 0 (ctl 1 [(0x10, 4, 0x180)])).raw 17 1) (loopAdvs (entry 0 (ctl 1 [(0x10, 4, 0x180)])).raw) ([entry 1 (ctl 0 [])] : List Fetched) = true ∧
    loopAdvsOk (getQ (getCore (queued awake .vxq (holding [ctl 1 [(0x10, 4, 0x180)], ctl 0 []])) 3) .vxq).issue (loopAdvs (entry 0 (ctl 1 [(0x10, 4, 0x180)])).raw) ([entry 1 (ctl 0 [])] : List Fetched) = true ∧
    ((if (leAt (entry 0 (ctl 1 [(0x10, 4, 0x180)])).raw 16 1).testBit 7 = true then leAt (entry 0 (ctl 1 [(0x10, 4, 0x180)])).raw 18 2 else kReg (getCore (queued awake .vxq (holding [ctl 1 [(0x10, 4, 0x180)], ctl 0 []])) 3) 0 (256 + 4 * fld (leAt (entry 0 (ctl 1 [(0x10, 4, 0x180)])).raw 16 1) 0 3) % 65536) = 0) ∧
    (getQ (getCore (queued awake .vxq (holding [ctl 1 [(0x10, 4, 0x180)], ctl 0 []])) 3) .vxq).loops = [] ∧
    readyControl (queued awake .vxq (holding [ctl 0 [(0x10, 1, 1)]])) 3 .vxq = some (entry 0 (ctl 0 [(0x10, 1, 1)])) ∧
    (getQ (getCore (queued awake .vxq (holding [ctl 0 [(0x10, 1, 1)]])) 3) .vxq).fb = none ∧
    opOf (entry 0 (ctl 0 [(0x10, 1, 1)])).raw = 0 ∧
    nopLegal (entry 0 (ctl 0 [(0x10, 1, 1)])).raw = false ∧
    readyControl (queued awake .vxq (holding [ctl 2 [(0x10, 1, 9)]])) 3 .vxq = some (entry 0 (ctl 2 [(0x10, 1, 9)])) ∧
    (getQ (getCore (queued awake .vxq (holding [ctl 2 [(0x10, 1, 9)]])) 3) .vxq).fb = none ∧
    opOf (entry 0 (ctl 2 [(0x10, 1, 9)])).raw = 2 ∧
    setregWrites (entry 0 (ctl 2 [(0x10, 1, 9)])).raw = none ∧
    readyControl (queued awake .vxq (holding [ctl 1 [(0x10, 1, 8), (0x11, 1, 1)], ctl 0 []])) 3 .vxq = some (entry 0 (ctl 1 [(0x10, 1, 8), (0x11, 1, 1)])) ∧
    (getQ (getCore (queued awake .vxq (holding [ctl 1 [(0x10, 1, 8), (0x11, 1, 1)], ctl 0 []])) 3) .vxq).fb = none ∧
    opOf (entry 0 (ctl 1 [(0x10, 1, 8), (0x11, 1, 1)])).raw = 1 ∧
    loopBody (getQ (getCore (queued awake .vxq (holding [ctl 1 [(0x10, 1, 8), (0x11, 1, 1)], ctl 0 []])) 3) .vxq) (getQ (getCore (queued awake .vxq (holding [ctl 1 [(0x10, 1, 8), (0x11, 1, 1)], ctl 0 []])) 3) .vxq).issue (bodyLen (entry 0 (ctl 1 [(0x10, 1, 8), (0x11, 1, 1)])).raw) = some ([entry 1 (ctl 0 [])] : List Fetched) ∧
    loopLegal (entry 0 (ctl 1 [(0x10, 1, 8), (0x11, 1, 1)])).raw = false ∧
    readyControl (queued awake .vxq (holding [ctl 1 []])) 3 .vxq = some (entry 0 (ctl 1 [])) ∧
    (getQ (getCore (queued awake .vxq (holding [ctl 1 []])) 3) .vxq).fb = none ∧
    opOf (entry 0 (ctl 1 [])).raw = 1 ∧
    loopBody (getQ (getCore (queued awake .vxq (holding [ctl 1 []])) 3) .vxq) (getQ (getCore (queued awake .vxq (holding [ctl 1 []])) 3) .vxq).issue (bodyLen (entry 0 (ctl 1 [])).raw) = some ([] : List Fetched) ∧
    loopLegal (entry 0 (ctl 1 [])).raw = true ∧
    (leAt (entry 0 (ctl 1 [])).raw 17 1 = 0 ∨ 32 < leAt (entry 0 (ctl 1 [])).raw 17 1) ∧
    readyControl (queued awake .vxq (holding ([ctl 1 [(0x11, 1, 33)]] ++ List.replicate 32 (ctl 0 [])))) 3 .vxq = some (entry 0 (ctl 1 [(0x11, 1, 33)])) ∧
    (getQ (getCore (queued awake .vxq (holding ([ctl 1 [(0x11, 1, 33)]] ++ List.replicate 32 (ctl 0 [])))) 3) .vxq).fb = none ∧
    opOf (entry 0 (ctl 1 [(0x11, 1, 33)])).raw = 1 ∧
    loopBody (getQ (getCore (queued awake .vxq (holding ([ctl 1 [(0x11, 1, 33)]] ++ List.replicate 32 (ctl 0 [])))) 3) .vxq) (getQ (getCore (queued awake .vxq (holding ([ctl 1 [(0x11, 1, 33)]] ++ List.replicate 32 (ctl 0 [])))) 3) .vxq).issue (bodyLen (entry 0 (ctl 1 [(0x11, 1, 33)])).raw) = some ([] : List Fetched) ∧
    loopLegal (entry 0 (ctl 1 [(0x11, 1, 33)])).raw = true ∧
    (leAt (entry 0 (ctl 1 [(0x11, 1, 33)])).raw 17 1 = 0 ∨ 32 < leAt (entry 0 (ctl 1 [(0x11, 1, 33)])).raw 17 1) ∧
    readyControl (queued awake .vxq (holding [ctl 0x10 []])) 3 .vxq = some (entry 0 (ctl 0x10 [])) ∧
    (getQ (getCore (queued awake .vxq (holding [ctl 0x10 []])) 3) .vxq).fb = none ∧
    opAllowed .vxq (opOf (entry 0 (ctl 0x10 [])).raw) = false :=
  ⟨(by intro r; cases r <;> decide +kernel), (by intro r; cases r <;> decide +kernel), (by and_intros <;> decide +kernel)⟩

/-- States and operands that meet the hypotheses of DataDescriptorsIssue. -/
theorem witness_dataDescriptorsIssue_12 :
    ((Instr.mxmul 3), .mxq, (16 : Nat), mxPlan) ∈ [(Instr.mxmul (3 : CoreId), QueueId.mxq, 16, mxPlan), (Instr.mxconv (3 : CoreId), QueueId.mxq, 17, mxPlan), (Instr.velt (3 : CoreId), QueueId.vxq, 32, vPlan (vDesc 32)), (Instr.vred (3 : CoreId), QueueId.vxq, 33, vPlan (vDesc 33)), (Instr.vsoftmax (3 : CoreId), QueueId.vxq, 34, vPlan (vDesc 34)), (Instr.vnorm (3 : CoreId), QueueId.vxq, 35, vPlan (vDesc 35)), (Instr.vquant (3 : CoreId), QueueId.vxq, 36, qPlan), (Instr.vdequant (3 : CoreId), QueueId.vxq, 37, qPlan), (Instr.vsample (3 : CoreId), QueueId.vxq, 38, vPlan (vDesc 38)), (Instr.vrand (3 : CoreId), QueueId.vxq, 39, vPlan (vDesc 39)), (Instr.mvfill (3 : CoreId), QueueId.skq, 49, mvfillPlan), (Instr.mvcopy (3 : CoreId), QueueId.skq, 50, mvcopyPlan), (Instr.upstep (3 : CoreId), QueueId.upq, 64, uPlan)] ∧
    readyHead (on kMul) 3 .mxq = some (entry 0 dMul) ∧
    opOf (entry 0 dMul).raw = (16 : Nat) ∧
    (getQ (getCore (on kMul) 3) .mxq).fb = none ∧
    touchesOff (getCore (on kMul) 3) ((mxPlan (getCore (on kMul) 3) (getQ (getCore (on kMul) 3) .mxq).loops (effective (getQ (getCore (on kMul) 3) .mxq).loops (getQ (getCore (on kMul) 3) .mxq).issue (entry 0 dMul).raw) (entry 0 dMul)).ins ++ (mxPlan (getCore (on kMul) 3) (getQ (getCore (on kMul) 3) .mxq).loops (effective (getQ (getCore (on kMul) 3) .mxq).loops (getQ (getCore (on kMul) 3) .mxq).issue (entry 0 dMul).raw) (entry 0 dMul)).outs ++ trecRegion (effective (getQ (getCore (on kMul) 3) .mxq).loops (getQ (getCore (on kMul) 3) .mxq).issue (entry 0 dMul).raw)) = false ∧
    semsReady (getCore (on kMul) 3) .mxq (entry 0 dMul) = true ∧
    (mxPlan (getCore (on kMul) 3) (getQ (getCore (on kMul) 3) .mxq).loops (effective (getQ (getCore (on kMul) 3) .mxq).loops (getQ (getCore (on kMul) 3) .mxq).issue (entry 0 dMul).raw) (entry 0 dMul)).holds = false ∧
    (slotUse (getCore (on kMul) 3) (mxPlan (getCore (on kMul) 3) (getQ (getCore (on kMul) 3) .mxq).loops (effective (getQ (getCore (on kMul) 3) .mxq).loops (getQ (getCore (on kMul) 3) .mxq).issue (entry 0 dMul).raw) (entry 0 dMul)) (effective (getQ (getCore (on kMul) 3) .mxq).loops (getQ (getCore (on kMul) 3) .mxq).issue (entry 0 dMul).raw)).ins.all (mayRead (getCore (on kMul) 3)) = true ∧
    (slotUse (getCore (on kMul) 3) (mxPlan (getCore (on kMul) 3) (getQ (getCore (on kMul) 3) .mxq).loops (effective (getQ (getCore (on kMul) 3) .mxq).loops (getQ (getCore (on kMul) 3) .mxq).issue (entry 0 dMul).raw) (entry 0 dMul)) (effective (getQ (getCore (on kMul) 3) .mxq).loops (getQ (getCore (on kMul) 3) .mxq).issue (entry 0 dMul).raw)).outs.all (mayTake (getCore (on kMul) 3)) = true ∧
    (slotUse (getCore (on kMul) 3) (mxPlan (getCore (on kMul) 3) (getQ (getCore (on kMul) 3) .mxq).loops (effective (getQ (getCore (on kMul) 3) .mxq).loops (getQ (getCore (on kMul) 3) .mxq).issue (entry 0 dMul).raw) (entry 0 dMul)) (effective (getQ (getCore (on kMul) 3) .mxq).loops (getQ (getCore (on kMul) 3) .mxq).issue (entry 0 dMul).raw)).acc.all (mayTakeInplace (getCore (on kMul) 3)) = true :=
  ⟨by repeat first | exact List.Mem.head _ | apply List.Mem.tail, by decide +kernel⟩

/-- States and operands that meet the hypotheses of DataDescriptorsIssue. -/
theorem witness_dataDescriptorsIssue_13 :
    ((Instr.mxconv 3), .mxq, (17 : Nat), mxPlan) ∈ [(Instr.mxmul (3 : CoreId), QueueId.mxq, 16, mxPlan), (Instr.mxconv (3 : CoreId), QueueId.mxq, 17, mxPlan), (Instr.velt (3 : CoreId), QueueId.vxq, 32, vPlan (vDesc 32)), (Instr.vred (3 : CoreId), QueueId.vxq, 33, vPlan (vDesc 33)), (Instr.vsoftmax (3 : CoreId), QueueId.vxq, 34, vPlan (vDesc 34)), (Instr.vnorm (3 : CoreId), QueueId.vxq, 35, vPlan (vDesc 35)), (Instr.vquant (3 : CoreId), QueueId.vxq, 36, qPlan), (Instr.vdequant (3 : CoreId), QueueId.vxq, 37, qPlan), (Instr.vsample (3 : CoreId), QueueId.vxq, 38, vPlan (vDesc 38)), (Instr.vrand (3 : CoreId), QueueId.vxq, 39, vPlan (vDesc 39)), (Instr.mvfill (3 : CoreId), QueueId.skq, 49, mvfillPlan), (Instr.mvcopy (3 : CoreId), QueueId.skq, 50, mvcopyPlan), (Instr.upstep (3 : CoreId), QueueId.upq, 64, uPlan)] ∧
    readyHead (on kConv) 3 .mxq = some (entry 0 dConv) ∧
    opOf (entry 0 dConv).raw = (17 : Nat) ∧
    (getQ (getCore (on kConv) 3) .mxq).fb = none ∧
    touchesOff (getCore (on kConv) 3) ((mxPlan (getCore (on kConv) 3) (getQ (getCore (on kConv) 3) .mxq).loops (effective (getQ (getCore (on kConv) 3) .mxq).loops (getQ (getCore (on kConv) 3) .mxq).issue (entry 0 dConv).raw) (entry 0 dConv)).ins ++ (mxPlan (getCore (on kConv) 3) (getQ (getCore (on kConv) 3) .mxq).loops (effective (getQ (getCore (on kConv) 3) .mxq).loops (getQ (getCore (on kConv) 3) .mxq).issue (entry 0 dConv).raw) (entry 0 dConv)).outs ++ trecRegion (effective (getQ (getCore (on kConv) 3) .mxq).loops (getQ (getCore (on kConv) 3) .mxq).issue (entry 0 dConv).raw)) = false ∧
    semsReady (getCore (on kConv) 3) .mxq (entry 0 dConv) = true ∧
    (mxPlan (getCore (on kConv) 3) (getQ (getCore (on kConv) 3) .mxq).loops (effective (getQ (getCore (on kConv) 3) .mxq).loops (getQ (getCore (on kConv) 3) .mxq).issue (entry 0 dConv).raw) (entry 0 dConv)).holds = false ∧
    (slotUse (getCore (on kConv) 3) (mxPlan (getCore (on kConv) 3) (getQ (getCore (on kConv) 3) .mxq).loops (effective (getQ (getCore (on kConv) 3) .mxq).loops (getQ (getCore (on kConv) 3) .mxq).issue (entry 0 dConv).raw) (entry 0 dConv)) (effective (getQ (getCore (on kConv) 3) .mxq).loops (getQ (getCore (on kConv) 3) .mxq).issue (entry 0 dConv).raw)).ins.all (mayRead (getCore (on kConv) 3)) = true ∧
    (slotUse (getCore (on kConv) 3) (mxPlan (getCore (on kConv) 3) (getQ (getCore (on kConv) 3) .mxq).loops (effective (getQ (getCore (on kConv) 3) .mxq).loops (getQ (getCore (on kConv) 3) .mxq).issue (entry 0 dConv).raw) (entry 0 dConv)) (effective (getQ (getCore (on kConv) 3) .mxq).loops (getQ (getCore (on kConv) 3) .mxq).issue (entry 0 dConv).raw)).outs.all (mayTake (getCore (on kConv) 3)) = true ∧
    (slotUse (getCore (on kConv) 3) (mxPlan (getCore (on kConv) 3) (getQ (getCore (on kConv) 3) .mxq).loops (effective (getQ (getCore (on kConv) 3) .mxq).loops (getQ (getCore (on kConv) 3) .mxq).issue (entry 0 dConv).raw) (entry 0 dConv)) (effective (getQ (getCore (on kConv) 3) .mxq).loops (getQ (getCore (on kConv) 3) .mxq).issue (entry 0 dConv).raw)).acc.all (mayTakeInplace (getCore (on kConv) 3)) = true :=
  ⟨by repeat first | exact List.Mem.head _ | apply List.Mem.tail, by decide +kernel⟩

/-- States and operands that meet the hypotheses of DataDescriptorsIssue. -/
theorem witness_dataDescriptorsIssue_14 :
    ((Instr.velt 3), .vxq, (32 : Nat), (vPlan (vDesc 0x20))) ∈ [(Instr.mxmul (3 : CoreId), QueueId.mxq, 16, mxPlan), (Instr.mxconv (3 : CoreId), QueueId.mxq, 17, mxPlan), (Instr.velt (3 : CoreId), QueueId.vxq, 32, vPlan (vDesc 32)), (Instr.vred (3 : CoreId), QueueId.vxq, 33, vPlan (vDesc 33)), (Instr.vsoftmax (3 : CoreId), QueueId.vxq, 34, vPlan (vDesc 34)), (Instr.vnorm (3 : CoreId), QueueId.vxq, 35, vPlan (vDesc 35)), (Instr.vquant (3 : CoreId), QueueId.vxq, 36, qPlan), (Instr.vdequant (3 : CoreId), QueueId.vxq, 37, qPlan), (Instr.vsample (3 : CoreId), QueueId.vxq, 38, vPlan (vDesc 38)), (Instr.vrand (3 : CoreId), QueueId.vxq, 39, vPlan (vDesc 39)), (Instr.mvfill (3 : CoreId), QueueId.skq, 49, mvfillPlan), (Instr.mvcopy (3 : CoreId), QueueId.skq, 50, mvcopyPlan), (Instr.upstep (3 : CoreId), QueueId.upq, 64, uPlan)] ∧
    readyHead (on kElt) 3 .vxq = some (entry 0 dElt) ∧
    opOf (entry 0 dElt).raw = (32 : Nat) ∧
    (getQ (getCore (on kElt) 3) .vxq).fb = none ∧
    touchesOff (getCore (on kElt) 3) (((vPlan (vDesc 0x20)) (getCore (on kElt) 3) (getQ (getCore (on kElt) 3) .vxq).loops (effective (getQ (getCore (on kElt) 3) .vxq).loops (getQ (getCore (on kElt) 3) .vxq).issue (entry 0 dElt).raw) (entry 0 dElt)).ins ++ ((vPlan (vDesc 0x20)) (getCore (on kElt) 3) (getQ (getCore (on kElt) 3) .vxq).loops (effective (getQ (getCore (on kElt) 3) .vxq).loops (getQ (getCore (on kElt) 3) .vxq).issue (entry 0 dElt).raw) (entry 0 dElt)).outs ++ trecRegion (effective (getQ (getCore (on kElt) 3) .vxq).loops (getQ (getCore (on kElt) 3) .vxq).issue (entry 0 dElt).raw)) = false ∧
    semsReady (getCore (on kElt) 3) .vxq (entry 0 dElt) = true ∧
    ((vPlan (vDesc 0x20)) (getCore (on kElt) 3) (getQ (getCore (on kElt) 3) .vxq).loops (effective (getQ (getCore (on kElt) 3) .vxq).loops (getQ (getCore (on kElt) 3) .vxq).issue (entry 0 dElt).raw) (entry 0 dElt)).holds = false ∧
    (slotUse (getCore (on kElt) 3) ((vPlan (vDesc 0x20)) (getCore (on kElt) 3) (getQ (getCore (on kElt) 3) .vxq).loops (effective (getQ (getCore (on kElt) 3) .vxq).loops (getQ (getCore (on kElt) 3) .vxq).issue (entry 0 dElt).raw) (entry 0 dElt)) (effective (getQ (getCore (on kElt) 3) .vxq).loops (getQ (getCore (on kElt) 3) .vxq).issue (entry 0 dElt).raw)).ins.all (mayRead (getCore (on kElt) 3)) = true ∧
    (slotUse (getCore (on kElt) 3) ((vPlan (vDesc 0x20)) (getCore (on kElt) 3) (getQ (getCore (on kElt) 3) .vxq).loops (effective (getQ (getCore (on kElt) 3) .vxq).loops (getQ (getCore (on kElt) 3) .vxq).issue (entry 0 dElt).raw) (entry 0 dElt)) (effective (getQ (getCore (on kElt) 3) .vxq).loops (getQ (getCore (on kElt) 3) .vxq).issue (entry 0 dElt).raw)).outs.all (mayTake (getCore (on kElt) 3)) = true ∧
    (slotUse (getCore (on kElt) 3) ((vPlan (vDesc 0x20)) (getCore (on kElt) 3) (getQ (getCore (on kElt) 3) .vxq).loops (effective (getQ (getCore (on kElt) 3) .vxq).loops (getQ (getCore (on kElt) 3) .vxq).issue (entry 0 dElt).raw) (entry 0 dElt)) (effective (getQ (getCore (on kElt) 3) .vxq).loops (getQ (getCore (on kElt) 3) .vxq).issue (entry 0 dElt).raw)).acc.all (mayTakeInplace (getCore (on kElt) 3)) = true :=
  ⟨by repeat first | exact List.Mem.head _ | apply List.Mem.tail, by decide +kernel⟩

/-- States and operands that meet the hypotheses of DataDescriptorsIssue. -/
theorem witness_dataDescriptorsIssue_15 :
    ((Instr.vred 3), .vxq, (33 : Nat), (vPlan (vDesc 0x21))) ∈ [(Instr.mxmul (3 : CoreId), QueueId.mxq, 16, mxPlan), (Instr.mxconv (3 : CoreId), QueueId.mxq, 17, mxPlan), (Instr.velt (3 : CoreId), QueueId.vxq, 32, vPlan (vDesc 32)), (Instr.vred (3 : CoreId), QueueId.vxq, 33, vPlan (vDesc 33)), (Instr.vsoftmax (3 : CoreId), QueueId.vxq, 34, vPlan (vDesc 34)), (Instr.vnorm (3 : CoreId), QueueId.vxq, 35, vPlan (vDesc 35)), (Instr.vquant (3 : CoreId), QueueId.vxq, 36, qPlan), (Instr.vdequant (3 : CoreId), QueueId.vxq, 37, qPlan), (Instr.vsample (3 : CoreId), QueueId.vxq, 38, vPlan (vDesc 38)), (Instr.vrand (3 : CoreId), QueueId.vxq, 39, vPlan (vDesc 39)), (Instr.mvfill (3 : CoreId), QueueId.skq, 49, mvfillPlan), (Instr.mvcopy (3 : CoreId), QueueId.skq, 50, mvcopyPlan), (Instr.upstep (3 : CoreId), QueueId.upq, 64, uPlan)] ∧
    readyHead (on kRed) 3 .vxq = some (entry 0 dRed) ∧
    opOf (entry 0 dRed).raw = (33 : Nat) ∧
    (getQ (getCore (on kRed) 3) .vxq).fb = none ∧
    touchesOff (getCore (on kRed) 3) (((vPlan (vDesc 0x21)) (getCore (on kRed) 3) (getQ (getCore (on kRed) 3) .vxq).loops (effective (getQ (getCore (on kRed) 3) .vxq).loops (getQ (getCore (on kRed) 3) .vxq).issue (entry 0 dRed).raw) (entry 0 dRed)).ins ++ ((vPlan (vDesc 0x21)) (getCore (on kRed) 3) (getQ (getCore (on kRed) 3) .vxq).loops (effective (getQ (getCore (on kRed) 3) .vxq).loops (getQ (getCore (on kRed) 3) .vxq).issue (entry 0 dRed).raw) (entry 0 dRed)).outs ++ trecRegion (effective (getQ (getCore (on kRed) 3) .vxq).loops (getQ (getCore (on kRed) 3) .vxq).issue (entry 0 dRed).raw)) = false ∧
    semsReady (getCore (on kRed) 3) .vxq (entry 0 dRed) = true ∧
    ((vPlan (vDesc 0x21)) (getCore (on kRed) 3) (getQ (getCore (on kRed) 3) .vxq).loops (effective (getQ (getCore (on kRed) 3) .vxq).loops (getQ (getCore (on kRed) 3) .vxq).issue (entry 0 dRed).raw) (entry 0 dRed)).holds = false ∧
    (slotUse (getCore (on kRed) 3) ((vPlan (vDesc 0x21)) (getCore (on kRed) 3) (getQ (getCore (on kRed) 3) .vxq).loops (effective (getQ (getCore (on kRed) 3) .vxq).loops (getQ (getCore (on kRed) 3) .vxq).issue (entry 0 dRed).raw) (entry 0 dRed)) (effective (getQ (getCore (on kRed) 3) .vxq).loops (getQ (getCore (on kRed) 3) .vxq).issue (entry 0 dRed).raw)).ins.all (mayRead (getCore (on kRed) 3)) = true ∧
    (slotUse (getCore (on kRed) 3) ((vPlan (vDesc 0x21)) (getCore (on kRed) 3) (getQ (getCore (on kRed) 3) .vxq).loops (effective (getQ (getCore (on kRed) 3) .vxq).loops (getQ (getCore (on kRed) 3) .vxq).issue (entry 0 dRed).raw) (entry 0 dRed)) (effective (getQ (getCore (on kRed) 3) .vxq).loops (getQ (getCore (on kRed) 3) .vxq).issue (entry 0 dRed).raw)).outs.all (mayTake (getCore (on kRed) 3)) = true ∧
    (slotUse (getCore (on kRed) 3) ((vPlan (vDesc 0x21)) (getCore (on kRed) 3) (getQ (getCore (on kRed) 3) .vxq).loops (effective (getQ (getCore (on kRed) 3) .vxq).loops (getQ (getCore (on kRed) 3) .vxq).issue (entry 0 dRed).raw) (entry 0 dRed)) (effective (getQ (getCore (on kRed) 3) .vxq).loops (getQ (getCore (on kRed) 3) .vxq).issue (entry 0 dRed).raw)).acc.all (mayTakeInplace (getCore (on kRed) 3)) = true :=
  ⟨by repeat first | exact List.Mem.head _ | apply List.Mem.tail, by decide +kernel⟩

/-- States and operands that meet the hypotheses of DataDescriptorsIssue. -/
theorem witness_dataDescriptorsIssue_16 :
    ((Instr.vsoftmax 3), .vxq, (34 : Nat), (vPlan (vDesc 0x22))) ∈ [(Instr.mxmul (3 : CoreId), QueueId.mxq, 16, mxPlan), (Instr.mxconv (3 : CoreId), QueueId.mxq, 17, mxPlan), (Instr.velt (3 : CoreId), QueueId.vxq, 32, vPlan (vDesc 32)), (Instr.vred (3 : CoreId), QueueId.vxq, 33, vPlan (vDesc 33)), (Instr.vsoftmax (3 : CoreId), QueueId.vxq, 34, vPlan (vDesc 34)), (Instr.vnorm (3 : CoreId), QueueId.vxq, 35, vPlan (vDesc 35)), (Instr.vquant (3 : CoreId), QueueId.vxq, 36, qPlan), (Instr.vdequant (3 : CoreId), QueueId.vxq, 37, qPlan), (Instr.vsample (3 : CoreId), QueueId.vxq, 38, vPlan (vDesc 38)), (Instr.vrand (3 : CoreId), QueueId.vxq, 39, vPlan (vDesc 39)), (Instr.mvfill (3 : CoreId), QueueId.skq, 49, mvfillPlan), (Instr.mvcopy (3 : CoreId), QueueId.skq, 50, mvcopyPlan), (Instr.upstep (3 : CoreId), QueueId.upq, 64, uPlan)] ∧
    readyHead (on kSoft) 3 .vxq = some (entry 0 dSoft) ∧
    opOf (entry 0 dSoft).raw = (34 : Nat) ∧
    (getQ (getCore (on kSoft) 3) .vxq).fb = none ∧
    touchesOff (getCore (on kSoft) 3) (((vPlan (vDesc 0x22)) (getCore (on kSoft) 3) (getQ (getCore (on kSoft) 3) .vxq).loops (effective (getQ (getCore (on kSoft) 3) .vxq).loops (getQ (getCore (on kSoft) 3) .vxq).issue (entry 0 dSoft).raw) (entry 0 dSoft)).ins ++ ((vPlan (vDesc 0x22)) (getCore (on kSoft) 3) (getQ (getCore (on kSoft) 3) .vxq).loops (effective (getQ (getCore (on kSoft) 3) .vxq).loops (getQ (getCore (on kSoft) 3) .vxq).issue (entry 0 dSoft).raw) (entry 0 dSoft)).outs ++ trecRegion (effective (getQ (getCore (on kSoft) 3) .vxq).loops (getQ (getCore (on kSoft) 3) .vxq).issue (entry 0 dSoft).raw)) = false ∧
    semsReady (getCore (on kSoft) 3) .vxq (entry 0 dSoft) = true ∧
    ((vPlan (vDesc 0x22)) (getCore (on kSoft) 3) (getQ (getCore (on kSoft) 3) .vxq).loops (effective (getQ (getCore (on kSoft) 3) .vxq).loops (getQ (getCore (on kSoft) 3) .vxq).issue (entry 0 dSoft).raw) (entry 0 dSoft)).holds = false ∧
    (slotUse (getCore (on kSoft) 3) ((vPlan (vDesc 0x22)) (getCore (on kSoft) 3) (getQ (getCore (on kSoft) 3) .vxq).loops (effective (getQ (getCore (on kSoft) 3) .vxq).loops (getQ (getCore (on kSoft) 3) .vxq).issue (entry 0 dSoft).raw) (entry 0 dSoft)) (effective (getQ (getCore (on kSoft) 3) .vxq).loops (getQ (getCore (on kSoft) 3) .vxq).issue (entry 0 dSoft).raw)).ins.all (mayRead (getCore (on kSoft) 3)) = true ∧
    (slotUse (getCore (on kSoft) 3) ((vPlan (vDesc 0x22)) (getCore (on kSoft) 3) (getQ (getCore (on kSoft) 3) .vxq).loops (effective (getQ (getCore (on kSoft) 3) .vxq).loops (getQ (getCore (on kSoft) 3) .vxq).issue (entry 0 dSoft).raw) (entry 0 dSoft)) (effective (getQ (getCore (on kSoft) 3) .vxq).loops (getQ (getCore (on kSoft) 3) .vxq).issue (entry 0 dSoft).raw)).outs.all (mayTake (getCore (on kSoft) 3)) = true ∧
    (slotUse (getCore (on kSoft) 3) ((vPlan (vDesc 0x22)) (getCore (on kSoft) 3) (getQ (getCore (on kSoft) 3) .vxq).loops (effective (getQ (getCore (on kSoft) 3) .vxq).loops (getQ (getCore (on kSoft) 3) .vxq).issue (entry 0 dSoft).raw) (entry 0 dSoft)) (effective (getQ (getCore (on kSoft) 3) .vxq).loops (getQ (getCore (on kSoft) 3) .vxq).issue (entry 0 dSoft).raw)).acc.all (mayTakeInplace (getCore (on kSoft) 3)) = true :=
  ⟨by repeat first | exact List.Mem.head _ | apply List.Mem.tail, by decide +kernel⟩

/-- States and operands that meet the hypotheses of DataDescriptorsIssue. -/
theorem witness_dataDescriptorsIssue_17 :
    ((Instr.vnorm 3), .vxq, (35 : Nat), (vPlan (vDesc 0x23))) ∈ [(Instr.mxmul (3 : CoreId), QueueId.mxq, 16, mxPlan), (Instr.mxconv (3 : CoreId), QueueId.mxq, 17, mxPlan), (Instr.velt (3 : CoreId), QueueId.vxq, 32, vPlan (vDesc 32)), (Instr.vred (3 : CoreId), QueueId.vxq, 33, vPlan (vDesc 33)), (Instr.vsoftmax (3 : CoreId), QueueId.vxq, 34, vPlan (vDesc 34)), (Instr.vnorm (3 : CoreId), QueueId.vxq, 35, vPlan (vDesc 35)), (Instr.vquant (3 : CoreId), QueueId.vxq, 36, qPlan), (Instr.vdequant (3 : CoreId), QueueId.vxq, 37, qPlan), (Instr.vsample (3 : CoreId), QueueId.vxq, 38, vPlan (vDesc 38)), (Instr.vrand (3 : CoreId), QueueId.vxq, 39, vPlan (vDesc 39)), (Instr.mvfill (3 : CoreId), QueueId.skq, 49, mvfillPlan), (Instr.mvcopy (3 : CoreId), QueueId.skq, 50, mvcopyPlan), (Instr.upstep (3 : CoreId), QueueId.upq, 64, uPlan)] ∧
    readyHead (on kNorm) 3 .vxq = some (entry 0 dNorm) ∧
    opOf (entry 0 dNorm).raw = (35 : Nat) ∧
    (getQ (getCore (on kNorm) 3) .vxq).fb = none ∧
    touchesOff (getCore (on kNorm) 3) (((vPlan (vDesc 0x23)) (getCore (on kNorm) 3) (getQ (getCore (on kNorm) 3) .vxq).loops (effective (getQ (getCore (on kNorm) 3) .vxq).loops (getQ (getCore (on kNorm) 3) .vxq).issue (entry 0 dNorm).raw) (entry 0 dNorm)).ins ++ ((vPlan (vDesc 0x23)) (getCore (on kNorm) 3) (getQ (getCore (on kNorm) 3) .vxq).loops (effective (getQ (getCore (on kNorm) 3) .vxq).loops (getQ (getCore (on kNorm) 3) .vxq).issue (entry 0 dNorm).raw) (entry 0 dNorm)).outs ++ trecRegion (effective (getQ (getCore (on kNorm) 3) .vxq).loops (getQ (getCore (on kNorm) 3) .vxq).issue (entry 0 dNorm).raw)) = false ∧
    semsReady (getCore (on kNorm) 3) .vxq (entry 0 dNorm) = true ∧
    ((vPlan (vDesc 0x23)) (getCore (on kNorm) 3) (getQ (getCore (on kNorm) 3) .vxq).loops (effective (getQ (getCore (on kNorm) 3) .vxq).loops (getQ (getCore (on kNorm) 3) .vxq).issue (entry 0 dNorm).raw) (entry 0 dNorm)).holds = false ∧
    (slotUse (getCore (on kNorm) 3) ((vPlan (vDesc 0x23)) (getCore (on kNorm) 3) (getQ (getCore (on kNorm) 3) .vxq).loops (effective (getQ (getCore (on kNorm) 3) .vxq).loops (getQ (getCore (on kNorm) 3) .vxq).issue (entry 0 dNorm).raw) (entry 0 dNorm)) (effective (getQ (getCore (on kNorm) 3) .vxq).loops (getQ (getCore (on kNorm) 3) .vxq).issue (entry 0 dNorm).raw)).ins.all (mayRead (getCore (on kNorm) 3)) = true ∧
    (slotUse (getCore (on kNorm) 3) ((vPlan (vDesc 0x23)) (getCore (on kNorm) 3) (getQ (getCore (on kNorm) 3) .vxq).loops (effective (getQ (getCore (on kNorm) 3) .vxq).loops (getQ (getCore (on kNorm) 3) .vxq).issue (entry 0 dNorm).raw) (entry 0 dNorm)) (effective (getQ (getCore (on kNorm) 3) .vxq).loops (getQ (getCore (on kNorm) 3) .vxq).issue (entry 0 dNorm).raw)).outs.all (mayTake (getCore (on kNorm) 3)) = true ∧
    (slotUse (getCore (on kNorm) 3) ((vPlan (vDesc 0x23)) (getCore (on kNorm) 3) (getQ (getCore (on kNorm) 3) .vxq).loops (effective (getQ (getCore (on kNorm) 3) .vxq).loops (getQ (getCore (on kNorm) 3) .vxq).issue (entry 0 dNorm).raw) (entry 0 dNorm)) (effective (getQ (getCore (on kNorm) 3) .vxq).loops (getQ (getCore (on kNorm) 3) .vxq).issue (entry 0 dNorm).raw)).acc.all (mayTakeInplace (getCore (on kNorm) 3)) = true :=
  ⟨by repeat first | exact List.Mem.head _ | apply List.Mem.tail, by decide +kernel⟩

/-- States and operands that meet the hypotheses of DataDescriptorsIssue. -/
theorem witness_dataDescriptorsIssue_18 :
    ((Instr.vquant 3), .vxq, (36 : Nat), qPlan) ∈ [(Instr.mxmul (3 : CoreId), QueueId.mxq, 16, mxPlan), (Instr.mxconv (3 : CoreId), QueueId.mxq, 17, mxPlan), (Instr.velt (3 : CoreId), QueueId.vxq, 32, vPlan (vDesc 32)), (Instr.vred (3 : CoreId), QueueId.vxq, 33, vPlan (vDesc 33)), (Instr.vsoftmax (3 : CoreId), QueueId.vxq, 34, vPlan (vDesc 34)), (Instr.vnorm (3 : CoreId), QueueId.vxq, 35, vPlan (vDesc 35)), (Instr.vquant (3 : CoreId), QueueId.vxq, 36, qPlan), (Instr.vdequant (3 : CoreId), QueueId.vxq, 37, qPlan), (Instr.vsample (3 : CoreId), QueueId.vxq, 38, vPlan (vDesc 38)), (Instr.vrand (3 : CoreId), QueueId.vxq, 39, vPlan (vDesc 39)), (Instr.mvfill (3 : CoreId), QueueId.skq, 49, mvfillPlan), (Instr.mvcopy (3 : CoreId), QueueId.skq, 50, mvcopyPlan), (Instr.upstep (3 : CoreId), QueueId.upq, 64, uPlan)] ∧
    readyHead (on kQuant) 3 .vxq = some (entry 0 dQuant) ∧
    opOf (entry 0 dQuant).raw = (36 : Nat) ∧
    (getQ (getCore (on kQuant) 3) .vxq).fb = none ∧
    touchesOff (getCore (on kQuant) 3) ((qPlan (getCore (on kQuant) 3) (getQ (getCore (on kQuant) 3) .vxq).loops (effective (getQ (getCore (on kQuant) 3) .vxq).loops (getQ (getCore (on kQuant) 3) .vxq).issue (entry 0 dQuant).raw) (entry 0 dQuant)).ins ++ (qPlan (getCore (on kQuant) 3) (getQ (getCore (on kQuant) 3) .vxq).loops (effective (getQ (getCore (on kQuant) 3) .vxq).loops (getQ (getCore (on kQuant) 3) .vxq).issue (entry 0 dQuant).raw) (entry 0 dQuant)).outs ++ trecRegion (effective (getQ (getCore (on kQuant) 3) .vxq).loops (getQ (getCore (on kQuant) 3) .vxq).issue (entry 0 dQuant).raw)) = false ∧
    semsReady (getCore (on kQuant) 3) .vxq (entry 0 dQuant) = true ∧
    (qPlan (getCore (on kQuant) 3) (getQ (getCore (on kQuant) 3) .vxq).loops (effective (getQ (getCore (on kQuant) 3) .vxq).loops (getQ (getCore (on kQuant) 3) .vxq).issue (entry 0 dQuant).raw) (entry 0 dQuant)).holds = false ∧
    (slotUse (getCore (on kQuant) 3) (qPlan (getCore (on kQuant) 3) (getQ (getCore (on kQuant) 3) .vxq).loops (effective (getQ (getCore (on kQuant) 3) .vxq).loops (getQ (getCore (on kQuant) 3) .vxq).issue (entry 0 dQuant).raw) (entry 0 dQuant)) (effective (getQ (getCore (on kQuant) 3) .vxq).loops (getQ (getCore (on kQuant) 3) .vxq).issue (entry 0 dQuant).raw)).ins.all (mayRead (getCore (on kQuant) 3)) = true ∧
    (slotUse (getCore (on kQuant) 3) (qPlan (getCore (on kQuant) 3) (getQ (getCore (on kQuant) 3) .vxq).loops (effective (getQ (getCore (on kQuant) 3) .vxq).loops (getQ (getCore (on kQuant) 3) .vxq).issue (entry 0 dQuant).raw) (entry 0 dQuant)) (effective (getQ (getCore (on kQuant) 3) .vxq).loops (getQ (getCore (on kQuant) 3) .vxq).issue (entry 0 dQuant).raw)).outs.all (mayTake (getCore (on kQuant) 3)) = true ∧
    (slotUse (getCore (on kQuant) 3) (qPlan (getCore (on kQuant) 3) (getQ (getCore (on kQuant) 3) .vxq).loops (effective (getQ (getCore (on kQuant) 3) .vxq).loops (getQ (getCore (on kQuant) 3) .vxq).issue (entry 0 dQuant).raw) (entry 0 dQuant)) (effective (getQ (getCore (on kQuant) 3) .vxq).loops (getQ (getCore (on kQuant) 3) .vxq).issue (entry 0 dQuant).raw)).acc.all (mayTakeInplace (getCore (on kQuant) 3)) = true :=
  ⟨by repeat first | exact List.Mem.head _ | apply List.Mem.tail, by decide +kernel⟩

/-- States and operands that meet the hypotheses of DataDescriptorsIssue. -/
theorem witness_dataDescriptorsIssue_19 :
    ((Instr.vdequant 3), .vxq, (37 : Nat), qPlan) ∈ [(Instr.mxmul (3 : CoreId), QueueId.mxq, 16, mxPlan), (Instr.mxconv (3 : CoreId), QueueId.mxq, 17, mxPlan), (Instr.velt (3 : CoreId), QueueId.vxq, 32, vPlan (vDesc 32)), (Instr.vred (3 : CoreId), QueueId.vxq, 33, vPlan (vDesc 33)), (Instr.vsoftmax (3 : CoreId), QueueId.vxq, 34, vPlan (vDesc 34)), (Instr.vnorm (3 : CoreId), QueueId.vxq, 35, vPlan (vDesc 35)), (Instr.vquant (3 : CoreId), QueueId.vxq, 36, qPlan), (Instr.vdequant (3 : CoreId), QueueId.vxq, 37, qPlan), (Instr.vsample (3 : CoreId), QueueId.vxq, 38, vPlan (vDesc 38)), (Instr.vrand (3 : CoreId), QueueId.vxq, 39, vPlan (vDesc 39)), (Instr.mvfill (3 : CoreId), QueueId.skq, 49, mvfillPlan), (Instr.mvcopy (3 : CoreId), QueueId.skq, 50, mvcopyPlan), (Instr.upstep (3 : CoreId), QueueId.upq, 64, uPlan)] ∧
    readyHead (on kDequant) 3 .vxq = some (entry 0 dDequant) ∧
    opOf (entry 0 dDequant).raw = (37 : Nat) ∧
    (getQ (getCore (on kDequant) 3) .vxq).fb = none ∧
    touchesOff (getCore (on kDequant) 3) ((qPlan (getCore (on kDequant) 3) (getQ (getCore (on kDequant) 3) .vxq).loops (effective (getQ (getCore (on kDequant) 3) .vxq).loops (getQ (getCore (on kDequant) 3) .vxq).issue (entry 0 dDequant).raw) (entry 0 dDequant)).ins ++ (qPlan (getCore (on kDequant) 3) (getQ (getCore (on kDequant) 3) .vxq).loops (effective (getQ (getCore (on kDequant) 3) .vxq).loops (getQ (getCore (on kDequant) 3) .vxq).issue (entry 0 dDequant).raw) (entry 0 dDequant)).outs ++ trecRegion (effective (getQ (getCore (on kDequant) 3) .vxq).loops (getQ (getCore (on kDequant) 3) .vxq).issue (entry 0 dDequant).raw)) = false ∧
    semsReady (getCore (on kDequant) 3) .vxq (entry 0 dDequant) = true ∧
    (qPlan (getCore (on kDequant) 3) (getQ (getCore (on kDequant) 3) .vxq).loops (effective (getQ (getCore (on kDequant) 3) .vxq).loops (getQ (getCore (on kDequant) 3) .vxq).issue (entry 0 dDequant).raw) (entry 0 dDequant)).holds = false ∧
    (slotUse (getCore (on kDequant) 3) (qPlan (getCore (on kDequant) 3) (getQ (getCore (on kDequant) 3) .vxq).loops (effective (getQ (getCore (on kDequant) 3) .vxq).loops (getQ (getCore (on kDequant) 3) .vxq).issue (entry 0 dDequant).raw) (entry 0 dDequant)) (effective (getQ (getCore (on kDequant) 3) .vxq).loops (getQ (getCore (on kDequant) 3) .vxq).issue (entry 0 dDequant).raw)).ins.all (mayRead (getCore (on kDequant) 3)) = true ∧
    (slotUse (getCore (on kDequant) 3) (qPlan (getCore (on kDequant) 3) (getQ (getCore (on kDequant) 3) .vxq).loops (effective (getQ (getCore (on kDequant) 3) .vxq).loops (getQ (getCore (on kDequant) 3) .vxq).issue (entry 0 dDequant).raw) (entry 0 dDequant)) (effective (getQ (getCore (on kDequant) 3) .vxq).loops (getQ (getCore (on kDequant) 3) .vxq).issue (entry 0 dDequant).raw)).outs.all (mayTake (getCore (on kDequant) 3)) = true ∧
    (slotUse (getCore (on kDequant) 3) (qPlan (getCore (on kDequant) 3) (getQ (getCore (on kDequant) 3) .vxq).loops (effective (getQ (getCore (on kDequant) 3) .vxq).loops (getQ (getCore (on kDequant) 3) .vxq).issue (entry 0 dDequant).raw) (entry 0 dDequant)) (effective (getQ (getCore (on kDequant) 3) .vxq).loops (getQ (getCore (on kDequant) 3) .vxq).issue (entry 0 dDequant).raw)).acc.all (mayTakeInplace (getCore (on kDequant) 3)) = true :=
  ⟨by repeat first | exact List.Mem.head _ | apply List.Mem.tail, by decide +kernel⟩

/-- States and operands that meet the hypotheses of DataDescriptorsIssue. -/
theorem witness_dataDescriptorsIssue_20 :
    ((Instr.vsample 3), .vxq, (38 : Nat), (vPlan (vDesc 0x26))) ∈ [(Instr.mxmul (3 : CoreId), QueueId.mxq, 16, mxPlan), (Instr.mxconv (3 : CoreId), QueueId.mxq, 17, mxPlan), (Instr.velt (3 : CoreId), QueueId.vxq, 32, vPlan (vDesc 32)), (Instr.vred (3 : CoreId), QueueId.vxq, 33, vPlan (vDesc 33)), (Instr.vsoftmax (3 : CoreId), QueueId.vxq, 34, vPlan (vDesc 34)), (Instr.vnorm (3 : CoreId), QueueId.vxq, 35, vPlan (vDesc 35)), (Instr.vquant (3 : CoreId), QueueId.vxq, 36, qPlan), (Instr.vdequant (3 : CoreId), QueueId.vxq, 37, qPlan), (Instr.vsample (3 : CoreId), QueueId.vxq, 38, vPlan (vDesc 38)), (Instr.vrand (3 : CoreId), QueueId.vxq, 39, vPlan (vDesc 39)), (Instr.mvfill (3 : CoreId), QueueId.skq, 49, mvfillPlan), (Instr.mvcopy (3 : CoreId), QueueId.skq, 50, mvcopyPlan), (Instr.upstep (3 : CoreId), QueueId.upq, 64, uPlan)] ∧
    readyHead (on kSample) 3 .vxq = some (entry 0 dSample) ∧
    opOf (entry 0 dSample).raw = (38 : Nat) ∧
    (getQ (getCore (on kSample) 3) .vxq).fb = none ∧
    touchesOff (getCore (on kSample) 3) (((vPlan (vDesc 0x26)) (getCore (on kSample) 3) (getQ (getCore (on kSample) 3) .vxq).loops (effective (getQ (getCore (on kSample) 3) .vxq).loops (getQ (getCore (on kSample) 3) .vxq).issue (entry 0 dSample).raw) (entry 0 dSample)).ins ++ ((vPlan (vDesc 0x26)) (getCore (on kSample) 3) (getQ (getCore (on kSample) 3) .vxq).loops (effective (getQ (getCore (on kSample) 3) .vxq).loops (getQ (getCore (on kSample) 3) .vxq).issue (entry 0 dSample).raw) (entry 0 dSample)).outs ++ trecRegion (effective (getQ (getCore (on kSample) 3) .vxq).loops (getQ (getCore (on kSample) 3) .vxq).issue (entry 0 dSample).raw)) = false ∧
    semsReady (getCore (on kSample) 3) .vxq (entry 0 dSample) = true ∧
    ((vPlan (vDesc 0x26)) (getCore (on kSample) 3) (getQ (getCore (on kSample) 3) .vxq).loops (effective (getQ (getCore (on kSample) 3) .vxq).loops (getQ (getCore (on kSample) 3) .vxq).issue (entry 0 dSample).raw) (entry 0 dSample)).holds = false ∧
    (slotUse (getCore (on kSample) 3) ((vPlan (vDesc 0x26)) (getCore (on kSample) 3) (getQ (getCore (on kSample) 3) .vxq).loops (effective (getQ (getCore (on kSample) 3) .vxq).loops (getQ (getCore (on kSample) 3) .vxq).issue (entry 0 dSample).raw) (entry 0 dSample)) (effective (getQ (getCore (on kSample) 3) .vxq).loops (getQ (getCore (on kSample) 3) .vxq).issue (entry 0 dSample).raw)).ins.all (mayRead (getCore (on kSample) 3)) = true ∧
    (slotUse (getCore (on kSample) 3) ((vPlan (vDesc 0x26)) (getCore (on kSample) 3) (getQ (getCore (on kSample) 3) .vxq).loops (effective (getQ (getCore (on kSample) 3) .vxq).loops (getQ (getCore (on kSample) 3) .vxq).issue (entry 0 dSample).raw) (entry 0 dSample)) (effective (getQ (getCore (on kSample) 3) .vxq).loops (getQ (getCore (on kSample) 3) .vxq).issue (entry 0 dSample).raw)).outs.all (mayTake (getCore (on kSample) 3)) = true ∧
    (slotUse (getCore (on kSample) 3) ((vPlan (vDesc 0x26)) (getCore (on kSample) 3) (getQ (getCore (on kSample) 3) .vxq).loops (effective (getQ (getCore (on kSample) 3) .vxq).loops (getQ (getCore (on kSample) 3) .vxq).issue (entry 0 dSample).raw) (entry 0 dSample)) (effective (getQ (getCore (on kSample) 3) .vxq).loops (getQ (getCore (on kSample) 3) .vxq).issue (entry 0 dSample).raw)).acc.all (mayTakeInplace (getCore (on kSample) 3)) = true :=
  ⟨by repeat first | exact List.Mem.head _ | apply List.Mem.tail, by decide +kernel⟩

/-- States and operands that meet the hypotheses of DataDescriptorsIssue. -/
theorem witness_dataDescriptorsIssue_21 :
    ((Instr.vrand 3), .vxq, (39 : Nat), (vPlan (vDesc 0x27))) ∈ [(Instr.mxmul (3 : CoreId), QueueId.mxq, 16, mxPlan), (Instr.mxconv (3 : CoreId), QueueId.mxq, 17, mxPlan), (Instr.velt (3 : CoreId), QueueId.vxq, 32, vPlan (vDesc 32)), (Instr.vred (3 : CoreId), QueueId.vxq, 33, vPlan (vDesc 33)), (Instr.vsoftmax (3 : CoreId), QueueId.vxq, 34, vPlan (vDesc 34)), (Instr.vnorm (3 : CoreId), QueueId.vxq, 35, vPlan (vDesc 35)), (Instr.vquant (3 : CoreId), QueueId.vxq, 36, qPlan), (Instr.vdequant (3 : CoreId), QueueId.vxq, 37, qPlan), (Instr.vsample (3 : CoreId), QueueId.vxq, 38, vPlan (vDesc 38)), (Instr.vrand (3 : CoreId), QueueId.vxq, 39, vPlan (vDesc 39)), (Instr.mvfill (3 : CoreId), QueueId.skq, 49, mvfillPlan), (Instr.mvcopy (3 : CoreId), QueueId.skq, 50, mvcopyPlan), (Instr.upstep (3 : CoreId), QueueId.upq, 64, uPlan)] ∧
    readyHead (on kRand) 3 .vxq = some (entry 0 dRand) ∧
    opOf (entry 0 dRand).raw = (39 : Nat) ∧
    (getQ (getCore (on kRand) 3) .vxq).fb = none ∧
    touchesOff (getCore (on kRand) 3) (((vPlan (vDesc 0x27)) (getCore (on kRand) 3) (getQ (getCore (on kRand) 3) .vxq).loops (effective (getQ (getCore (on kRand) 3) .vxq).loops (getQ (getCore (on kRand) 3) .vxq).issue (entry 0 dRand).raw) (entry 0 dRand)).ins ++ ((vPlan (vDesc 0x27)) (getCore (on kRand) 3) (getQ (getCore (on kRand) 3) .vxq).loops (effective (getQ (getCore (on kRand) 3) .vxq).loops (getQ (getCore (on kRand) 3) .vxq).issue (entry 0 dRand).raw) (entry 0 dRand)).outs ++ trecRegion (effective (getQ (getCore (on kRand) 3) .vxq).loops (getQ (getCore (on kRand) 3) .vxq).issue (entry 0 dRand).raw)) = false ∧
    semsReady (getCore (on kRand) 3) .vxq (entry 0 dRand) = true ∧
    ((vPlan (vDesc 0x27)) (getCore (on kRand) 3) (getQ (getCore (on kRand) 3) .vxq).loops (effective (getQ (getCore (on kRand) 3) .vxq).loops (getQ (getCore (on kRand) 3) .vxq).issue (entry 0 dRand).raw) (entry 0 dRand)).holds = false ∧
    (slotUse (getCore (on kRand) 3) ((vPlan (vDesc 0x27)) (getCore (on kRand) 3) (getQ (getCore (on kRand) 3) .vxq).loops (effective (getQ (getCore (on kRand) 3) .vxq).loops (getQ (getCore (on kRand) 3) .vxq).issue (entry 0 dRand).raw) (entry 0 dRand)) (effective (getQ (getCore (on kRand) 3) .vxq).loops (getQ (getCore (on kRand) 3) .vxq).issue (entry 0 dRand).raw)).ins.all (mayRead (getCore (on kRand) 3)) = true ∧
    (slotUse (getCore (on kRand) 3) ((vPlan (vDesc 0x27)) (getCore (on kRand) 3) (getQ (getCore (on kRand) 3) .vxq).loops (effective (getQ (getCore (on kRand) 3) .vxq).loops (getQ (getCore (on kRand) 3) .vxq).issue (entry 0 dRand).raw) (entry 0 dRand)) (effective (getQ (getCore (on kRand) 3) .vxq).loops (getQ (getCore (on kRand) 3) .vxq).issue (entry 0 dRand).raw)).outs.all (mayTake (getCore (on kRand) 3)) = true ∧
    (slotUse (getCore (on kRand) 3) ((vPlan (vDesc 0x27)) (getCore (on kRand) 3) (getQ (getCore (on kRand) 3) .vxq).loops (effective (getQ (getCore (on kRand) 3) .vxq).loops (getQ (getCore (on kRand) 3) .vxq).issue (entry 0 dRand).raw) (entry 0 dRand)) (effective (getQ (getCore (on kRand) 3) .vxq).loops (getQ (getCore (on kRand) 3) .vxq).issue (entry 0 dRand).raw)).acc.all (mayTakeInplace (getCore (on kRand) 3)) = true :=
  ⟨by repeat first | exact List.Mem.head _ | apply List.Mem.tail, by decide +kernel⟩

/-- States and operands that meet the hypotheses of DataDescriptorsIssue. -/
theorem witness_dataDescriptorsIssue_22 :
    ((Instr.mvfill 3), .skq, (49 : Nat), mvfillPlan) ∈ [(Instr.mxmul (3 : CoreId), QueueId.mxq, 16, mxPlan), (Instr.mxconv (3 : CoreId), QueueId.mxq, 17, mxPlan), (Instr.velt (3 : CoreId), QueueId.vxq, 32, vPlan (vDesc 32)), (Instr.vred (3 : CoreId), QueueId.vxq, 33, vPlan (vDesc 33)), (Instr.vsoftmax (3 : CoreId), QueueId.vxq, 34, vPlan (vDesc 34)), (Instr.vnorm (3 : CoreId), QueueId.vxq, 35, vPlan (vDesc 35)), (Instr.vquant (3 : CoreId), QueueId.vxq, 36, qPlan), (Instr.vdequant (3 : CoreId), QueueId.vxq, 37, qPlan), (Instr.vsample (3 : CoreId), QueueId.vxq, 38, vPlan (vDesc 38)), (Instr.vrand (3 : CoreId), QueueId.vxq, 39, vPlan (vDesc 39)), (Instr.mvfill (3 : CoreId), QueueId.skq, 49, mvfillPlan), (Instr.mvcopy (3 : CoreId), QueueId.skq, 50, mvcopyPlan), (Instr.upstep (3 : CoreId), QueueId.upq, 64, uPlan)] ∧
    readyHead (on kFill) 3 .skq = some (entry 0 dFill) ∧
    opOf (entry 0 dFill).raw = (49 : Nat) ∧
    (getQ (getCore (on kFill) 3) .skq).fb = none ∧
    touchesOff (getCore (on kFill) 3) ((mvfillPlan (getCore (on kFill) 3) (getQ (getCore (on kFill) 3) .skq).loops (effective (getQ (getCore (on kFill) 3) .skq).loops (getQ (getCore (on kFill) 3) .skq).issue (entry 0 dFill).raw) (entry 0 dFill)).ins ++ (mvfillPlan (getCore (on kFill) 3) (getQ (getCore (on kFill) 3) .skq).loops (effective (getQ (getCore (on kFill) 3) .skq).loops (getQ (getCore (on kFill) 3) .skq).issue (entry 0 dFill).raw) (entry 0 dFill)).outs ++ trecRegion (effective (getQ (getCore (on kFill) 3) .skq).loops (getQ (getCore (on kFill) 3) .skq).issue (entry 0 dFill).raw)) = false ∧
    semsReady (getCore (on kFill) 3) .skq (entry 0 dFill) = true ∧
    (mvfillPlan (getCore (on kFill) 3) (getQ (getCore (on kFill) 3) .skq).loops (effective (getQ (getCore (on kFill) 3) .skq).loops (getQ (getCore (on kFill) 3) .skq).issue (entry 0 dFill).raw) (entry 0 dFill)).holds = false ∧
    (slotUse (getCore (on kFill) 3) (mvfillPlan (getCore (on kFill) 3) (getQ (getCore (on kFill) 3) .skq).loops (effective (getQ (getCore (on kFill) 3) .skq).loops (getQ (getCore (on kFill) 3) .skq).issue (entry 0 dFill).raw) (entry 0 dFill)) (effective (getQ (getCore (on kFill) 3) .skq).loops (getQ (getCore (on kFill) 3) .skq).issue (entry 0 dFill).raw)).ins.all (mayRead (getCore (on kFill) 3)) = true ∧
    (slotUse (getCore (on kFill) 3) (mvfillPlan (getCore (on kFill) 3) (getQ (getCore (on kFill) 3) .skq).loops (effective (getQ (getCore (on kFill) 3) .skq).loops (getQ (getCore (on kFill) 3) .skq).issue (entry 0 dFill).raw) (entry 0 dFill)) (effective (getQ (getCore (on kFill) 3) .skq).loops (getQ (getCore (on kFill) 3) .skq).issue (entry 0 dFill).raw)).outs.all (mayTake (getCore (on kFill) 3)) = true ∧
    (slotUse (getCore (on kFill) 3) (mvfillPlan (getCore (on kFill) 3) (getQ (getCore (on kFill) 3) .skq).loops (effective (getQ (getCore (on kFill) 3) .skq).loops (getQ (getCore (on kFill) 3) .skq).issue (entry 0 dFill).raw) (entry 0 dFill)) (effective (getQ (getCore (on kFill) 3) .skq).loops (getQ (getCore (on kFill) 3) .skq).issue (entry 0 dFill).raw)).acc.all (mayTakeInplace (getCore (on kFill) 3)) = true :=
  ⟨by repeat first | exact List.Mem.head _ | apply List.Mem.tail, by decide +kernel⟩

/-- States and operands that meet the hypotheses of DataDescriptorsIssue. -/
theorem witness_dataDescriptorsIssue_23 :
    ((Instr.mvcopy 3), .skq, (50 : Nat), mvcopyPlan) ∈ [(Instr.mxmul (3 : CoreId), QueueId.mxq, 16, mxPlan), (Instr.mxconv (3 : CoreId), QueueId.mxq, 17, mxPlan), (Instr.velt (3 : CoreId), QueueId.vxq, 32, vPlan (vDesc 32)), (Instr.vred (3 : CoreId), QueueId.vxq, 33, vPlan (vDesc 33)), (Instr.vsoftmax (3 : CoreId), QueueId.vxq, 34, vPlan (vDesc 34)), (Instr.vnorm (3 : CoreId), QueueId.vxq, 35, vPlan (vDesc 35)), (Instr.vquant (3 : CoreId), QueueId.vxq, 36, qPlan), (Instr.vdequant (3 : CoreId), QueueId.vxq, 37, qPlan), (Instr.vsample (3 : CoreId), QueueId.vxq, 38, vPlan (vDesc 38)), (Instr.vrand (3 : CoreId), QueueId.vxq, 39, vPlan (vDesc 39)), (Instr.mvfill (3 : CoreId), QueueId.skq, 49, mvfillPlan), (Instr.mvcopy (3 : CoreId), QueueId.skq, 50, mvcopyPlan), (Instr.upstep (3 : CoreId), QueueId.upq, 64, uPlan)] ∧
    readyHead (on kCopy) 3 .skq = some (entry 0 dCopy) ∧
    opOf (entry 0 dCopy).raw = (50 : Nat) ∧
    (getQ (getCore (on kCopy) 3) .skq).fb = none ∧
    touchesOff (getCore (on kCopy) 3) ((mvcopyPlan (getCore (on kCopy) 3) (getQ (getCore (on kCopy) 3) .skq).loops (effective (getQ (getCore (on kCopy) 3) .skq).loops (getQ (getCore (on kCopy) 3) .skq).issue (entry 0 dCopy).raw) (entry 0 dCopy)).ins ++ (mvcopyPlan (getCore (on kCopy) 3) (getQ (getCore (on kCopy) 3) .skq).loops (effective (getQ (getCore (on kCopy) 3) .skq).loops (getQ (getCore (on kCopy) 3) .skq).issue (entry 0 dCopy).raw) (entry 0 dCopy)).outs ++ trecRegion (effective (getQ (getCore (on kCopy) 3) .skq).loops (getQ (getCore (on kCopy) 3) .skq).issue (entry 0 dCopy).raw)) = false ∧
    semsReady (getCore (on kCopy) 3) .skq (entry 0 dCopy) = true ∧
    (mvcopyPlan (getCore (on kCopy) 3) (getQ (getCore (on kCopy) 3) .skq).loops (effective (getQ (getCore (on kCopy) 3) .skq).loops (getQ (getCore (on kCopy) 3) .skq).issue (entry 0 dCopy).raw) (entry 0 dCopy)).holds = false ∧
    (slotUse (getCore (on kCopy) 3) (mvcopyPlan (getCore (on kCopy) 3) (getQ (getCore (on kCopy) 3) .skq).loops (effective (getQ (getCore (on kCopy) 3) .skq).loops (getQ (getCore (on kCopy) 3) .skq).issue (entry 0 dCopy).raw) (entry 0 dCopy)) (effective (getQ (getCore (on kCopy) 3) .skq).loops (getQ (getCore (on kCopy) 3) .skq).issue (entry 0 dCopy).raw)).ins.all (mayRead (getCore (on kCopy) 3)) = true ∧
    (slotUse (getCore (on kCopy) 3) (mvcopyPlan (getCore (on kCopy) 3) (getQ (getCore (on kCopy) 3) .skq).loops (effective (getQ (getCore (on kCopy) 3) .skq).loops (getQ (getCore (on kCopy) 3) .skq).issue (entry 0 dCopy).raw) (entry 0 dCopy)) (effective (getQ (getCore (on kCopy) 3) .skq).loops (getQ (getCore (on kCopy) 3) .skq).issue (entry 0 dCopy).raw)).outs.all (mayTake (getCore (on kCopy) 3)) = true ∧
    (slotUse (getCore (on kCopy) 3) (mvcopyPlan (getCore (on kCopy) 3) (getQ (getCore (on kCopy) 3) .skq).loops (effective (getQ (getCore (on kCopy) 3) .skq).loops (getQ (getCore (on kCopy) 3) .skq).issue (entry 0 dCopy).raw) (entry 0 dCopy)) (effective (getQ (getCore (on kCopy) 3) .skq).loops (getQ (getCore (on kCopy) 3) .skq).issue (entry 0 dCopy).raw)).acc.all (mayTakeInplace (getCore (on kCopy) 3)) = true :=
  ⟨by repeat first | exact List.Mem.head _ | apply List.Mem.tail, by decide +kernel⟩

/-- States and operands that meet the hypotheses of DataDescriptorsIssue. -/
theorem witness_dataDescriptorsIssue_24 :
    ((Instr.upstep 3), .upq, (64 : Nat), uPlan) ∈ [(Instr.mxmul (3 : CoreId), QueueId.mxq, 16, mxPlan), (Instr.mxconv (3 : CoreId), QueueId.mxq, 17, mxPlan), (Instr.velt (3 : CoreId), QueueId.vxq, 32, vPlan (vDesc 32)), (Instr.vred (3 : CoreId), QueueId.vxq, 33, vPlan (vDesc 33)), (Instr.vsoftmax (3 : CoreId), QueueId.vxq, 34, vPlan (vDesc 34)), (Instr.vnorm (3 : CoreId), QueueId.vxq, 35, vPlan (vDesc 35)), (Instr.vquant (3 : CoreId), QueueId.vxq, 36, qPlan), (Instr.vdequant (3 : CoreId), QueueId.vxq, 37, qPlan), (Instr.vsample (3 : CoreId), QueueId.vxq, 38, vPlan (vDesc 38)), (Instr.vrand (3 : CoreId), QueueId.vxq, 39, vPlan (vDesc 39)), (Instr.mvfill (3 : CoreId), QueueId.skq, 49, mvfillPlan), (Instr.mvcopy (3 : CoreId), QueueId.skq, 50, mvcopyPlan), (Instr.upstep (3 : CoreId), QueueId.upq, 64, uPlan)] ∧
    readyHead (on kUp) 3 .upq = some (entry 0 dUp) ∧
    opOf (entry 0 dUp).raw = (64 : Nat) ∧
    (getQ (getCore (on kUp) 3) .upq).fb = none ∧
    touchesOff (getCore (on kUp) 3) ((uPlan (getCore (on kUp) 3) (getQ (getCore (on kUp) 3) .upq).loops (effective (getQ (getCore (on kUp) 3) .upq).loops (getQ (getCore (on kUp) 3) .upq).issue (entry 0 dUp).raw) (entry 0 dUp)).ins ++ (uPlan (getCore (on kUp) 3) (getQ (getCore (on kUp) 3) .upq).loops (effective (getQ (getCore (on kUp) 3) .upq).loops (getQ (getCore (on kUp) 3) .upq).issue (entry 0 dUp).raw) (entry 0 dUp)).outs ++ trecRegion (effective (getQ (getCore (on kUp) 3) .upq).loops (getQ (getCore (on kUp) 3) .upq).issue (entry 0 dUp).raw)) = false ∧
    semsReady (getCore (on kUp) 3) .upq (entry 0 dUp) = true ∧
    (uPlan (getCore (on kUp) 3) (getQ (getCore (on kUp) 3) .upq).loops (effective (getQ (getCore (on kUp) 3) .upq).loops (getQ (getCore (on kUp) 3) .upq).issue (entry 0 dUp).raw) (entry 0 dUp)).holds = false ∧
    (slotUse (getCore (on kUp) 3) (uPlan (getCore (on kUp) 3) (getQ (getCore (on kUp) 3) .upq).loops (effective (getQ (getCore (on kUp) 3) .upq).loops (getQ (getCore (on kUp) 3) .upq).issue (entry 0 dUp).raw) (entry 0 dUp)) (effective (getQ (getCore (on kUp) 3) .upq).loops (getQ (getCore (on kUp) 3) .upq).issue (entry 0 dUp).raw)).ins.all (mayRead (getCore (on kUp) 3)) = true ∧
    (slotUse (getCore (on kUp) 3) (uPlan (getCore (on kUp) 3) (getQ (getCore (on kUp) 3) .upq).loops (effective (getQ (getCore (on kUp) 3) .upq).loops (getQ (getCore (on kUp) 3) .upq).issue (entry 0 dUp).raw) (entry 0 dUp)) (effective (getQ (getCore (on kUp) 3) .upq).loops (getQ (getCore (on kUp) 3) .upq).issue (entry 0 dUp).raw)).outs.all (mayTake (getCore (on kUp) 3)) = true ∧
    (slotUse (getCore (on kUp) 3) (uPlan (getCore (on kUp) 3) (getQ (getCore (on kUp) 3) .upq).loops (effective (getQ (getCore (on kUp) 3) .upq).loops (getQ (getCore (on kUp) 3) .upq).issue (entry 0 dUp).raw) (entry 0 dUp)) (effective (getQ (getCore (on kUp) 3) .upq).loops (getQ (getCore (on kUp) 3) .upq).issue (entry 0 dUp).raw)).acc.all (mayTakeInplace (getCore (on kUp) 3)) = true :=
  ⟨by repeat first | exact List.Mem.head _ | apply List.Mem.tail, by decide +kernel⟩

/-- States and operands that meet the hypotheses of DataDescriptorsIssue. -/
theorem witness_dataDescriptorsIssue_25 :
    ((Instr.mvfill 3), .skq, (49 : Nat), mvfillPlan) ∈ [(Instr.mxmul (3 : CoreId), QueueId.mxq, 16, mxPlan), (Instr.mxconv (3 : CoreId), QueueId.mxq, 17, mxPlan), (Instr.velt (3 : CoreId), QueueId.vxq, 32, vPlan (vDesc 32)), (Instr.vred (3 : CoreId), QueueId.vxq, 33, vPlan (vDesc 33)), (Instr.vsoftmax (3 : CoreId), QueueId.vxq, 34, vPlan (vDesc 34)), (Instr.vnorm (3 : CoreId), QueueId.vxq, 35, vPlan (vDesc 35)), (Instr.vquant (3 : CoreId), QueueId.vxq, 36, qPlan), (Instr.vdequant (3 : CoreId), QueueId.vxq, 37, qPlan), (Instr.vsample (3 : CoreId), QueueId.vxq, 38, vPlan (vDesc 38)), (Instr.vrand (3 : CoreId), QueueId.vxq, 39, vPlan (vDesc 39)), (Instr.mvfill (3 : CoreId), QueueId.skq, 49, mvfillPlan), (Instr.mvcopy (3 : CoreId), QueueId.skq, 50, mvcopyPlan), (Instr.upstep (3 : CoreId), QueueId.upq, 64, uPlan)] ∧
    readyHead (on fillWaits) 3 .skq = some (entry 0 dFill) ∧
    opOf (entry 0 dFill).raw = (49 : Nat) ∧
    (getQ (getCore (on fillWaits) 3) .skq).fb = none ∧
    touchesOff (getCore (on fillWaits) 3) ((mvfillPlan (getCore (on fillWaits) 3) (getQ (getCore (on fillWaits) 3) .skq).loops (effective (getQ (getCore (on fillWaits) 3) .skq).loops (getQ (getCore (on fillWaits) 3) .skq).issue (entry 0 dFill).raw) (entry 0 dFill)).ins ++ (mvfillPlan (getCore (on fillWaits) 3) (getQ (getCore (on fillWaits) 3) .skq).loops (effective (getQ (getCore (on fillWaits) 3) .skq).loops (getQ (getCore (on fillWaits) 3) .skq).issue (entry 0 dFill).raw) (entry 0 dFill)).outs ++ trecRegion (effective (getQ (getCore (on fillWaits) 3) .skq).loops (getQ (getCore (on fillWaits) 3) .skq).issue (entry 0 dFill).raw)) = false ∧
    semsReady (getCore (on fillWaits) 3) .skq (entry 0 dFill) = true ∧
    (mvfillPlan (getCore (on fillWaits) 3) (getQ (getCore (on fillWaits) 3) .skq).loops (effective (getQ (getCore (on fillWaits) 3) .skq).loops (getQ (getCore (on fillWaits) 3) .skq).issue (entry 0 dFill).raw) (entry 0 dFill)).holds = false ∧
    (¬((slotUse (getCore (on fillWaits) 3) (mvfillPlan (getCore (on fillWaits) 3) (getQ (getCore (on fillWaits) 3) .skq).loops (effective (getQ (getCore (on fillWaits) 3) .skq).loops (getQ (getCore (on fillWaits) 3) .skq).issue (entry 0 dFill).raw) (entry 0 dFill)) (effective (getQ (getCore (on fillWaits) 3) .skq).loops (getQ (getCore (on fillWaits) 3) .skq).issue (entry 0 dFill).raw)).ins.all (mayRead (getCore (on fillWaits) 3)) = true ∧ (slotUse (getCore (on fillWaits) 3) (mvfillPlan (getCore (on fillWaits) 3) (getQ (getCore (on fillWaits) 3) .skq).loops (effective (getQ (getCore (on fillWaits) 3) .skq).loops (getQ (getCore (on fillWaits) 3) .skq).issue (entry 0 dFill).raw) (entry 0 dFill)) (effective (getQ (getCore (on fillWaits) 3) .skq).loops (getQ (getCore (on fillWaits) 3) .skq).issue (entry 0 dFill).raw)).outs.all (mayTake (getCore (on fillWaits) 3)) = true ∧ (slotUse (getCore (on fillWaits) 3) (mvfillPlan (getCore (on fillWaits) 3) (getQ (getCore (on fillWaits) 3) .skq).loops (effective (getQ (getCore (on fillWaits) 3) .skq).loops (getQ (getCore (on fillWaits) 3) .skq).issue (entry 0 dFill).raw) (entry 0 dFill)) (effective (getQ (getCore (on fillWaits) 3) .skq).loops (getQ (getCore (on fillWaits) 3) .skq).issue (entry 0 dFill).raw)).acc.all (mayTakeInplace (getCore (on fillWaits) 3)) = true)) :=
  ⟨by repeat first | exact List.Mem.head _ | apply List.Mem.tail, by decide +kernel⟩

/-- States and operands that meet the hypotheses of DataDescriptorsIssue. -/
theorem witness_dataDescriptorsIssue_26 :
    ((Instr.mvfill 3), .skq, (49 : Nat), mvfillPlan) ∈ [(Instr.mxmul (3 : CoreId), QueueId.mxq, 16, mxPlan), (Instr.mxconv (3 : CoreId), QueueId.mxq, 17, mxPlan), (Instr.velt (3 : CoreId), QueueId.vxq, 32, vPlan (vDesc 32)), (Instr.vred (3 : CoreId), QueueId.vxq, 33, vPlan (vDesc 33)), (Instr.vsoftmax (3 : CoreId), QueueId.vxq, 34, vPlan (vDesc 34)), (Instr.vnorm (3 : CoreId), QueueId.vxq, 35, vPlan (vDesc 35)), (Instr.vquant (3 : CoreId), QueueId.vxq, 36, qPlan), (Instr.vdequant (3 : CoreId), QueueId.vxq, 37, qPlan), (Instr.vsample (3 : CoreId), QueueId.vxq, 38, vPlan (vDesc 38)), (Instr.vrand (3 : CoreId), QueueId.vxq, 39, vPlan (vDesc 39)), (Instr.mvfill (3 : CoreId), QueueId.skq, 49, mvfillPlan), (Instr.mvcopy (3 : CoreId), QueueId.skq, 50, mvcopyPlan), (Instr.upstep (3 : CoreId), QueueId.upq, 64, uPlan)] ∧
    readyHead (on fillOff) 3 .skq = some (entry 0 dFill) ∧
    opOf (entry 0 dFill).raw = (49 : Nat) ∧
    (getQ (getCore (on fillOff) 3) .skq).fb = none ∧
    touchesOff (getCore (on fillOff) 3) ((mvfillPlan (getCore (on fillOff) 3) (getQ (getCore (on fillOff) 3) .skq).loops (effective (getQ (getCore (on fillOff) 3) .skq).loops (getQ (getCore (on fillOff) 3) .skq).issue (entry 0 dFill).raw) (entry 0 dFill)).ins ++ (mvfillPlan (getCore (on fillOff) 3) (getQ (getCore (on fillOff) 3) .skq).loops (effective (getQ (getCore (on fillOff) 3) .skq).loops (getQ (getCore (on fillOff) 3) .skq).issue (entry 0 dFill).raw) (entry 0 dFill)).outs ++ trecRegion (effective (getQ (getCore (on fillOff) 3) .skq).loops (getQ (getCore (on fillOff) 3) .skq).issue (entry 0 dFill).raw)) = true :=
  ⟨by repeat first | exact List.Mem.head _ | apply List.Mem.tail, by decide +kernel⟩

/-- States and operands that meet the hypotheses of DataDescriptorsIssue. -/
theorem witness_dataDescriptorsIssue_27 :
    ((Instr.mvfill 3), .skq, (49 : Nat), mvfillPlan) ∈ [(Instr.mxmul (3 : CoreId), QueueId.mxq, 16, mxPlan), (Instr.mxconv (3 : CoreId), QueueId.mxq, 17, mxPlan), (Instr.velt (3 : CoreId), QueueId.vxq, 32, vPlan (vDesc 32)), (Instr.vred (3 : CoreId), QueueId.vxq, 33, vPlan (vDesc 33)), (Instr.vsoftmax (3 : CoreId), QueueId.vxq, 34, vPlan (vDesc 34)), (Instr.vnorm (3 : CoreId), QueueId.vxq, 35, vPlan (vDesc 35)), (Instr.vquant (3 : CoreId), QueueId.vxq, 36, qPlan), (Instr.vdequant (3 : CoreId), QueueId.vxq, 37, qPlan), (Instr.vsample (3 : CoreId), QueueId.vxq, 38, vPlan (vDesc 38)), (Instr.vrand (3 : CoreId), QueueId.vxq, 39, vPlan (vDesc 39)), (Instr.mvfill (3 : CoreId), QueueId.skq, 49, mvfillPlan), (Instr.mvcopy (3 : CoreId), QueueId.skq, 50, mvcopyPlan), (Instr.upstep (3 : CoreId), QueueId.upq, 64, uPlan)] ∧
    readyHead (on (with1 .skq (desc 0x31 0 [(2, 2, 0x20), (0x14, 2, 1)]) [])) 3 .skq = some (entry 0 (desc 0x31 0 [(2, 2, 0x20), (0x14, 2, 1)])) ∧
    opOf (entry 0 (desc 0x31 0 [(2, 2, 0x20), (0x14, 2, 1)])).raw = (49 : Nat) ∧
    (getQ (getCore (on (with1 .skq (desc 0x31 0 [(2, 2, 0x20), (0x14, 2, 1)]) [])) 3) .skq).fb = none ∧
    touchesOff (getCore (on (with1 .skq (desc 0x31 0 [(2, 2, 0x20), (0x14, 2, 1)]) [])) 3) ((mvfillPlan (getCore (on (with1 .skq (desc 0x31 0 [(2, 2, 0x20), (0x14, 2, 1)]) [])) 3) (getQ (getCore (on (with1 .skq (desc 0x31 0 [(2, 2, 0x20), (0x14, 2, 1)]) [])) 3) .skq).loops (effective (getQ (getCore (on (with1 .skq (desc 0x31 0 [(2, 2, 0x20), (0x14, 2, 1)]) [])) 3) .skq).loops (getQ (getCore (on (with1 .skq (desc 0x31 0 [(2, 2, 0x20), (0x14, 2, 1)]) [])) 3) .skq).issue (entry 0 (desc 0x31 0 [(2, 2, 0x20), (0x14, 2, 1)])).raw) (entry 0 (desc 0x31 0 [(2, 2, 0x20), (0x14, 2, 1)]))).ins ++ (mvfillPlan (getCore (on (with1 .skq (desc 0x31 0 [(2, 2, 0x20), (0x14, 2, 1)]) [])) 3) (getQ (getCore (on (with1 .skq (desc 0x31 0 [(2, 2, 0x20), (0x14, 2, 1)]) [])) 3) .skq).loops (effective (getQ (getCore (on (with1 .skq (desc 0x31 0 [(2, 2, 0x20), (0x14, 2, 1)]) [])) 3) .skq).loops (getQ (getCore (on (with1 .skq (desc 0x31 0 [(2, 2, 0x20), (0x14, 2, 1)]) [])) 3) .skq).issue (entry 0 (desc 0x31 0 [(2, 2, 0x20), (0x14, 2, 1)])).raw) (entry 0 (desc 0x31 0 [(2, 2, 0x20), (0x14, 2, 1)]))).outs ++ trecRegion (effective (getQ (getCore (on (with1 .skq (desc 0x31 0 [(2, 2, 0x20), (0x14, 2, 1)]) [])) 3) .skq).loops (getQ (getCore (on (with1 .skq (desc 0x31 0 [(2, 2, 0x20), (0x14, 2, 1)]) [])) 3) .skq).issue (entry 0 (desc 0x31 0 [(2, 2, 0x20), (0x14, 2, 1)])).raw)) = false ∧
    (semsReady (getCore (on (with1 .skq (desc 0x31 0 [(2, 2, 0x20), (0x14, 2, 1)]) [])) 3) .skq (entry 0 (desc 0x31 0 [(2, 2, 0x20), (0x14, 2, 1)])) = false ∨ (mvfillPlan (getCore (on (with1 .skq (desc 0x31 0 [(2, 2, 0x20), (0x14, 2, 1)]) [])) 3) (getQ (getCore (on (with1 .skq (desc 0x31 0 [(2, 2, 0x20), (0x14, 2, 1)]) [])) 3) .skq).loops (effective (getQ (getCore (on (with1 .skq (desc 0x31 0 [(2, 2, 0x20), (0x14, 2, 1)]) [])) 3) .skq).loops (getQ (getCore (on (with1 .skq (desc 0x31 0 [(2, 2, 0x20), (0x14, 2, 1)]) [])) 3) .skq).issue (entry 0 (desc 0x31 0 [(2, 2, 0x20), (0x14, 2, 1)])).raw) (entry 0 (desc 0x31 0 [(2, 2, 0x20), (0x14, 2, 1)]))).holds = true) :=
  ⟨by repeat first | exact List.Mem.head _ | apply List.Mem.tail, by decide +kernel⟩

/-- States and operands that meet the hypotheses of DataDescriptorsIssue. -/
theorem witness_dataDescriptorsIssue_28 :
    ((Instr.upstep 3), .upq, (64 : Nat), uPlan) ∈ [(Instr.mxmul (3 : CoreId), QueueId.mxq, 16, mxPlan), (Instr.mxconv (3 : CoreId), QueueId.mxq, 17, mxPlan), (Instr.velt (3 : CoreId), QueueId.vxq, 32, vPlan (vDesc 32)), (Instr.vred (3 : CoreId), QueueId.vxq, 33, vPlan (vDesc 33)), (Instr.vsoftmax (3 : CoreId), QueueId.vxq, 34, vPlan (vDesc 34)), (Instr.vnorm (3 : CoreId), QueueId.vxq, 35, vPlan (vDesc 35)), (Instr.vquant (3 : CoreId), QueueId.vxq, 36, qPlan), (Instr.vdequant (3 : CoreId), QueueId.vxq, 37, qPlan), (Instr.vsample (3 : CoreId), QueueId.vxq, 38, vPlan (vDesc 38)), (Instr.vrand (3 : CoreId), QueueId.vxq, 39, vPlan (vDesc 39)), (Instr.mvfill (3 : CoreId), QueueId.skq, 49, mvfillPlan), (Instr.mvcopy (3 : CoreId), QueueId.skq, 50, mvcopyPlan), (Instr.upstep (3 : CoreId), QueueId.upq, 64, uPlan)] ∧
    readyHead (on upWaits) 3 .upq = some (entry 0 dUp) ∧
    opOf (entry 0 dUp).raw = (64 : Nat) ∧
    (getQ (getCore (on upWaits) 3) .upq).fb = none ∧
    touchesOff (getCore (on upWaits) 3) ((uPlan (getCore (on upWaits) 3) (getQ (getCore (on upWaits) 3) .upq).loops (effective (getQ (getCore (on upWaits) 3) .upq).loops (getQ (getCore (on upWaits) 3) .upq).issue (entry 0 dUp).raw) (entry 0 dUp)).ins ++ (uPlan (getCore (on upWaits) 3) (getQ (getCore (on upWaits) 3) .upq).loops (effective (getQ (getCore (on upWaits) 3) .upq).loops (getQ (getCore (on upWaits) 3) .upq).issue (entry 0 dUp).raw) (entry 0 dUp)).outs ++ trecRegion (effective (getQ (getCore (on upWaits) 3) .upq).loops (getQ (getCore (on upWaits) 3) .upq).issue (entry 0 dUp).raw)) = false ∧
    semsReady (getCore (on upWaits) 3) .upq (entry 0 dUp) = true ∧
    (uPlan (getCore (on upWaits) 3) (getQ (getCore (on upWaits) 3) .upq).loops (effective (getQ (getCore (on upWaits) 3) .upq).loops (getQ (getCore (on upWaits) 3) .upq).issue (entry 0 dUp).raw) (entry 0 dUp)).holds = false ∧
    (¬((slotUse (getCore (on upWaits) 3) (uPlan (getCore (on upWaits) 3) (getQ (getCore (on upWaits) 3) .upq).loops (effective (getQ (getCore (on upWaits) 3) .upq).loops (getQ (getCore (on upWaits) 3) .upq).issue (entry 0 dUp).raw) (entry 0 dUp)) (effective (getQ (getCore (on upWaits) 3) .upq).loops (getQ (getCore (on upWaits) 3) .upq).issue (entry 0 dUp).raw)).ins.all (mayRead (getCore (on upWaits) 3)) = true ∧ (slotUse (getCore (on upWaits) 3) (uPlan (getCore (on upWaits) 3) (getQ (getCore (on upWaits) 3) .upq).loops (effective (getQ (getCore (on upWaits) 3) .upq).loops (getQ (getCore (on upWaits) 3) .upq).issue (entry 0 dUp).raw) (entry 0 dUp)) (effective (getQ (getCore (on upWaits) 3) .upq).loops (getQ (getCore (on upWaits) 3) .upq).issue (entry 0 dUp).raw)).outs.all (mayTake (getCore (on upWaits) 3)) = true ∧ (slotUse (getCore (on upWaits) 3) (uPlan (getCore (on upWaits) 3) (getQ (getCore (on upWaits) 3) .upq).loops (effective (getQ (getCore (on upWaits) 3) .upq).loops (getQ (getCore (on upWaits) 3) .upq).issue (entry 0 dUp).raw) (entry 0 dUp)) (effective (getQ (getCore (on upWaits) 3) .upq).loops (getQ (getCore (on upWaits) 3) .upq).issue (entry 0 dUp).raw)).acc.all (mayTakeInplace (getCore (on upWaits) 3)) = true)) :=
  ⟨by repeat first | exact List.Mem.head _ | apply List.Mem.tail, by decide +kernel⟩

/-- States and operands that meet the hypotheses of DataDescriptorsIssue. -/
theorem witness_dataDescriptorsIssue_29 :
    (getQ copying .skq).flights[(0 : Nat)]? = some copyFlight ∧
    ({ cyc := 9, act := .write } : Ev).act = Act.write ∧
    copying.spd.bad = [] := by decide +kernel

/-- States and operands that meet the hypotheses of DataDescriptorsIssue. -/
theorem witness_dataDescriptorsIssue_30 :
    (getQ copying .skq).flights[(0 : Nat)]? = some copyFlight ∧
    ({ cyc := 9, act := .read [{ off := 0, len := 32 }] } : Ev).act = Act.read ([{ off := 0, len := 32 }] : List Region8) ∧
    badInRegions (flushRegions copying ([{ off := 0, len := 32 }] : List Region8)) ([{ off := 0, len := 32 }] : List Region8) = none := by decide +kernel

/-- States and operands that meet the hypotheses of DataDescriptorsIssue. -/
theorem witness_dataDescriptorsIssue_31 :
    (getQ (upsetWord copying 0 1) .skq).flights[(0 : Nat)]? = some copyFlight ∧
    ({ cyc := 9, act := .read [{ off := 0, len := 32 }] } : Ev).act = Act.read ([{ off := 0, len := 32 }] : List Region8) ∧
    badInRegions (flushRegions (upsetWord copying 0 1) ([{ off := 0, len := 32 }] : List Region8)) ([{ off := 0, len := 32 }] : List Region8) = some (0 : Nat) := by decide +kernel

/-- States and operands that meet the hypotheses of DataDescriptorsIssue. -/
theorem witness_dataDescriptorsIssue_32 :
    dFill.length = 64 ∧
    opOf dFill = 49 := by decide +kernel

/-- States and operands that meet the hypotheses of DataDescriptorsIssue. -/
theorem witness_dataDescriptorsIssue_33 :
    opOf dCopy = 50 := by decide +kernel

/-- States and operands that meet the hypotheses of CompletionEffect. -/
theorem witness_completionEffect :
    (getQ (getCore (untilEnd (on (flying .skq flown)) 3 .skq) 3) .skq).flights.head? = some flown ∧
    (∀ (g : Flight), g ∈ List.drop 1 (getQ (getCore (inOrder (untilEnd (on (flying .skq flown)) 3 .skq) 3 (rankDone .skq)) 3) .skq).flights → g.isLoop = false) ∧
    flown.isLoop = false ∧
    flown.work = WorkState.finished ∧
    flown.clipFires = false ∧
    flown.fallback = false ∧
    flown.hist = [] ∧
    flown.posts = [] ∧
    flown.bumps = [] ∧
    flown.regs = [] ∧
    flown.inplace = [] ∧
    flown.endSigs = [] ∧
    (∀ (n : Nat), n ∈ flown.held ++ flown.pins ++ flown.consume → untagged (getCore (inOrder (untilEnd (on (flying .skq flown)) 3 .skq) 3 (rankDone .skq)) 3) n = false) ∧
    (flown.held ++ flown.pins).Nodup ∧
    flown.consume.Nodup ∧
    (∀ (n : Nat), n ∈ flown.consume → n ∈ flown.pins ∧ (tagOf (getCore (inOrder (untilEnd (on (flying .skq flown)) 3 .skq) 3 (rankDone .skq)) 3) n).st = TagState.full ∧ 0 < (tagOf (getCore (inOrder (untilEnd (on (flying .skq flown)) 3 .skq) 3 (rankDone .skq)) 3) n).count) ∧
    (getQ (getCore (inOrder (untilEnd (on (flying .skq flown)) 3 .skq) 3 (rankDone .skq)) 3) .skq).mode = QMode.run ∧
    (∀ (e : Fetched), e ∈ (getQ (getCore (inOrder (untilEnd (on (flying .skq flown)) 3 .skq) 3 (rankDone .skq)) 3) .skq).buf → e.ok = true) ∧
    (getQ (getCore (untilEnd (on (flying .skq { flown with null := true })) 3 .skq) 3) .skq).flights.head? = some ({ flown with null := true } : Flight) ∧
    (∀ (g : Flight), g ∈ List.drop 1 (getQ (getCore (inOrder (untilEnd (on (flying .skq { flown with null := true })) 3 .skq) 3 (rankDone .skq)) 3) .skq).flights → g.isLoop = false) ∧
    ({ flown with null := true } : Flight).isLoop = false ∧
    ({ flown with null := true } : Flight).work = WorkState.finished ∧
    ({ flown with null := true } : Flight).clipFires = false ∧
    ({ flown with null := true } : Flight).fallback = false ∧
    ({ flown with null := true } : Flight).hist = [] ∧
    ({ flown with null := true } : Flight).posts = [] ∧
    ({ flown with null := true } : Flight).bumps = [] ∧
    ({ flown with null := true } : Flight).regs = [] ∧
    ({ flown with null := true } : Flight).inplace = [] ∧
    ({ flown with null := true } : Flight).endSigs = [] ∧
    (∀ (n : Nat), n ∈ ({ flown with null := true } : Flight).held ++ ({ flown with null := true } : Flight).pins ++ ({ flown with null := true } : Flight).consume → untagged (getCore (inOrder (untilEnd (on (flying .skq { flown with null := true })) 3 .skq) 3 (rankDone .skq)) 3) n = false) ∧
    (({ flown with null := true } : Flight).held ++ ({ flown with null := true } : Flight).pins).Nodup ∧
    ({ flown with null := true } : Flight).consume.Nodup ∧
    (∀ (n : Nat), n ∈ ({ flown with null := true } : Flight).consume → n ∈ ({ flown with null := true } : Flight).pins ∧ (tagOf (getCore (inOrder (untilEnd (on (flying .skq { flown with null := true })) 3 .skq) 3 (rankDone .skq)) 3) n).st = TagState.full ∧ 0 < (tagOf (getCore (inOrder (untilEnd (on (flying .skq { flown with null := true })) 3 .skq) 3 (rankDone .skq)) 3) n).count) ∧
    (getQ (getCore (inOrder (untilEnd (on (flying .skq { flown with null := true })) 3 .skq) 3 (rankDone .skq)) 3) .skq).mode = QMode.run ∧
    (∀ (e : Fetched), e ∈ (getQ (getCore (inOrder (untilEnd (on (flying .skq { flown with null := true })) 3 .skq) 3 (rankDone .skq)) 3) .skq).buf → e.ok = true) := by decide +kernel

/-- States and operands that meet the hypotheses of DescriptorFailures. -/
theorem witness_descriptorFailures :
    hasFailed (getQ (getCore (on (behind .skq (failed 3 1))) 3) .skq) = true ∧
    (getQ (getCore (inOrder (on (behind .skq (failed 3 1))) 3 7) 3) .skq).flights = (failed 3 1) :: ([{ idx := 1, raw := ctl 0 [] }] : List Flight) ∧
    (failed 3 1).work = WorkState.failed (3 : Nat) (0 : Word) (0 : Nat) ∧
    (failed 3 1).fallback = false ∧
    (getQ (getCore (inOrder (on (behind .skq (failed 3 1))) 3 7) 3) .skq).fb = none ∧
    (failed 3 1).acc = false ∧
    (∀ (g : Flight), g ∈ ([{ idx := 1, raw := ctl 0 [] }] : List Flight) → g.acc = false) ∧
    (failed 3 1).inplace = [] ∧
    (failed 3 1).dead = false ∧
    ((3 : Nat) = 2 ∨ (3 : Nat) = 3 ∨ (3 : Nat) = 14) ∧
    (∀ (e : Fetched), e ∈ (getQ (getCore (inOrder (on (behind .skq (failed 3 1))) 3 7) 3) .skq).buf → e.ok = true) ∧
    (failed 3 1).attempt ≤ fld (kReg (getCore (inOrder (on (behind .skq (failed 3 1))) 3 7) 3) 13 64) 0 3 ∧
    hasFailed (getQ (getCore (on (flying .skq (failed 0x0E 1))) 3) .skq) = true ∧
    (getQ (getCore (inOrder (on (flying .skq (failed 0x0E 1))) 3 7) 3) .skq).flights = (failed 0x0E 1) :: ([] : List Flight) ∧
    (failed 0x0E 1).work = WorkState.failed (0x0E : Nat) (0 : Word) (0 : Nat) ∧
    (failed 0x0E 1).fallback = false ∧
    (getQ (getCore (inOrder (on (flying .skq (failed 0x0E 1))) 3 7) 3) .skq).fb = none ∧
    (failed 0x0E 1).acc = false ∧
    (∀ (g : Flight), g ∈ ([] : List Flight) → g.acc = false) ∧
    (failed 0x0E 1).inplace = [] ∧
    (failed 0x0E 1).dead = false ∧
    ((0x0E : Nat) = 2 ∨ (0x0E : Nat) = 3 ∨ (0x0E : Nat) = 14) ∧
    (∀ (e : Fetched), e ∈ (getQ (getCore (inOrder (on (flying .skq (failed 0x0E 1))) 3 7) 3) .skq).buf → e.ok = true) ∧
    (failed 0x0E 1).attempt ≤ fld (kReg (getCore (inOrder (on (flying .skq (failed 0x0E 1))) 3 7) 3) 13 64) 0 3 ∧
    hasFailed (getQ (getCore (on (flying .skq (failed 0x0E 9))) 3) .skq) = true ∧
    (getQ (getCore (inOrder (on (flying .skq (failed 0x0E 9))) 3 7) 3) .skq).flights = (failed 0x0E 9) :: ([] : List Flight) ∧
    (failed 0x0E 9).work = WorkState.failed (0x0E : Nat) (0 : Word) (0 : Nat) ∧
    (failed 0x0E 9).fallback = false ∧
    (getQ (getCore (inOrder (on (flying .skq (failed 0x0E 9))) 3 7) 3) .skq).fb = none ∧
    (failed 0x0E 9).acc = false ∧
    (failed 0x0E 9).inplace = [] ∧
    (failed 0x0E 9).dead = false ∧
    (∀ (e : Fetched), e ∈ (getQ (getCore (inOrder (on (flying .skq (failed 0x0E 9))) 3 7) 3) .skq).buf → e.ok = true) ∧
    fld (kReg (getCore (inOrder (on (flying .skq (failed 0x0E 9))) 3 7) 3) 13 64) 0 3 < (failed 0x0E 9).attempt ∧
    ((0x0E : Nat) = 3 ∨ (0x0E : Nat) = 14) ∧
    ((getCore (atLeast multiplying ((Option.map (fun x => x.start) (getCore multiplying 3).mxq.flights[(0 : Nat)]?).getD 0)) 3).mxq.flights[(0 : Nat)]? = some mulFlight) ∧
    mulFlight.run = Run.mx mulPass mulTile ∧
    (0 : Nat) < mulPass.nv ∧
    ((getCore (atLeast (atLeast multiplying ((Option.map (fun x => x.start) (getCore multiplying 3).mxq.flights[(0 : Nat)]?).getD 0)) (mulFlight.start + mulFlight.load + (0 : Nat) * mulFlight.stepLen)) 3).mxq.flights[(0 : Nat)]? = some mulFlight0) ∧
    mulFlight0.opened = mulFlight.opened ∧
    mulFlight0.lines = [] ∧
    mulFlight0.isFailed = false := by decide +kernel

/-- States and operands that meet the hypotheses of ClipTestFires. -/
theorem witness_clipTestFires :
    ((Instr.mxmul 3), .mxq, (16 : Nat), mxPlan) ∈ [(Instr.mxmul (3 : CoreId), QueueId.mxq, 16, mxPlan), (Instr.mxconv (3 : CoreId), QueueId.mxq, 17, mxPlan), (Instr.vquant (3 : CoreId), QueueId.vxq, 36, qPlan)] ∧
    ((Instr.vquant 3), .vxq, (36 : Nat), qPlan) ∈ [(Instr.mxmul (3 : CoreId), QueueId.mxq, 16, mxPlan), (Instr.mxconv (3 : CoreId), QueueId.mxq, 17, mxPlan), (Instr.vquant (3 : CoreId), QueueId.vxq, 36, qPlan)] ∧
    (getQ (getCore (untilEnd (on (behind .vxq { flown with clipFires := true })) 3 .vxq) 3) .vxq).flights = ({ flown with clipFires := true } : Flight) :: ([{ idx := 1, raw := ctl 0 [] }] : List Flight) ∧
    ({ flown with clipFires := true } : Flight).clipFires = true ∧
    ({ flown with clipFires := true } : Flight).work = WorkState.finished ∧
    ({ flown with clipFires := true } : Flight).fallback = false ∧
    ({ flown with clipFires := true } : Flight).loops = [] ∧
    (∀ (g : Flight), g ∈ ([{ idx := 1, raw := ctl 0 [] }] : List Flight) → g.acc = false) ∧
    (getQ (getCore (untilEnd (on (putQ (flying .vxq { flown with clipFires := true }) .vxq { tail := 1, issue := 1, flights := [{ flown with clipFires := true }], buf := [{ entry 0 dQuant with fb := some (sealed dQuant) }] })) 3 .vxq) 3) .vxq).flights = ({ flown with clipFires := true } : Flight) :: ([] : List Flight) ∧
    (∀ (g : Flight), g ∈ ([] : List Flight) → g.acc = false) ∧
    (getQ (getCore (on (falling .mxq dMul)) 3) .mxq).fb = some (fallOf dMul) ∧
    (fallOf dMul).entry = some dMul ∧
    opOf dMul = (16 : Nat) ∧
    (getQ (getCore (on (falling .mxq dMul)) 3) .mxq).flights = [] ∧
    (getQ (getCore (on (falling .mxq dMul)) 3) .mxq).mode = QMode.run ∧
    (getCore (on (falling .mxq dMul)) 3).pwr.st = PState.active ∧
    (getOwner (on (falling .mxq dMul)) 3).felled = false ∧
    mayIssue (on (falling .mxq dMul)) 3 .mxq = true ∧
    (getQ (getCore (on (falling .mxq dMul)) 3) .mxq).waitRefetch = [] ∧
    fallbackLegal (fallOf dMul).orig.raw (fallbackRaw (fallOf dMul) dMul) = true ∧
    touchesOff (getCore (on (falling .mxq dMul)) 3) ((mxPlan (getCore (on (falling .mxq dMul)) 3) (fallOf dMul).orig.loops (fallbackRaw (fallOf dMul) dMul) { idx := (fallOf dMul).orig.idx, raw := dMul, ok := true }).ins ++ (mxPlan (getCore (on (falling .mxq dMul)) 3) (fallOf dMul).orig.loops (fallbackRaw (fallOf dMul) dMul) { idx := (fallOf dMul).orig.idx, raw := dMul, ok := true }).outs ++ trecRegion (fallbackRaw (fallOf dMul) dMul)) = false ∧
    (mxPlan (getCore (on (falling .mxq dMul)) 3) (fallOf dMul).orig.loops (fallbackRaw (fallOf dMul) dMul) { idx := (fallOf dMul).orig.idx, raw := dMul, ok := true }).holds = false ∧
    (slotsOfAll (mxPlan (getCore (on (falling .mxq dMul)) 3) (fallOf dMul).orig.loops (fallbackRaw (fallOf dMul) dMul) { idx := (fallOf dMul).orig.idx, raw := dMul, ok := true }).ins).all (mayRead (getCore (on (falling .mxq dMul)) 3)) = true ∧
    (getQ (getCore (on (falling .vxq dQuant)) 3) .vxq).fb = some (fallOf dQuant) ∧
    (fallOf dQuant).entry = some dQuant ∧
    opOf dQuant = (36 : Nat) ∧
    (getQ (getCore (on (falling .vxq dQuant)) 3) .vxq).flights = [] ∧
    (getQ (getCore (on (falling .vxq dQuant)) 3) .vxq).mode = QMode.run ∧
    (getCore (on (falling .vxq dQuant)) 3).pwr.st = PState.active ∧
    (getOwner (on (falling .vxq dQuant)) 3).felled = false ∧
    mayIssue (on (falling .vxq dQuant)) 3 .vxq = true ∧
    (getQ (getCore (on (falling .vxq dQuant)) 3) .vxq).waitRefetch = [] ∧
    fallbackLegal (fallOf dQuant).orig.raw (fallbackRaw (fallOf dQuant) dQuant) = true ∧
    touchesOff (getCore (on (falling .vxq dQuant)) 3) ((qPlan (getCore (on (falling .vxq dQuant)) 3) (fallOf dQuant).orig.loops (fallbackRaw (fallOf dQuant) dQuant) { idx := (fallOf dQuant).orig.idx, raw := dQuant, ok := true }).ins ++ (qPlan (getCore (on (falling .vxq dQuant)) 3) (fallOf dQuant).orig.loops (fallbackRaw (fallOf dQuant) dQuant) { idx := (fallOf dQuant).orig.idx, raw := dQuant, ok := true }).outs ++ trecRegion (fallbackRaw (fallOf dQuant) dQuant)) = false ∧
    (qPlan (getCore (on (falling .vxq dQuant)) 3) (fallOf dQuant).orig.loops (fallbackRaw (fallOf dQuant) dQuant) { idx := (fallOf dQuant).orig.idx, raw := dQuant, ok := true }).holds = false ∧
    (slotsOfAll (qPlan (getCore (on (falling .vxq dQuant)) 3) (fallOf dQuant).orig.loops (fallbackRaw (fallOf dQuant) dQuant) { idx := (fallOf dQuant).orig.idx, raw := dQuant, ok := true }).ins).all (mayRead (getCore (on (falling .vxq dQuant)) 3)) = true :=
  ⟨by repeat first | exact List.Mem.head _ | apply List.Mem.tail, by repeat first | exact List.Mem.head _ | apply List.Mem.tail, by decide +kernel⟩

/-- States and operands that meet the hypotheses of ArrivalRule. -/
theorem witness_arrivalRule :
    takeFlit (met awake arrival) (4 : Nat) = some (arrival, ({ met awake arrival with mesh := [] })) ∧
    arrival.dst = Node.core (3 : Nat) ∧
    arrival.hdr = none ∧
    (getOwner ({ met awake arrival with mesh := [] }) (3 : Nat)).felled = false ∧
    (arrival.kind = FlitKind.arrival ∨ arrival.kind = FlitKind.marker) ∧
    arrival.off ≤ 786431 ∧
    arrival.off + arrival.data.length ≤ 786432 ∧
    (segUp (getCore (inOrder (modCore ({ met awake arrival with mesh := [] }) (3 : Nat) fun k => noteWork (touchData k (met awake arrival).now) (met awake arrival).now) (3 : Nat) 9) (3 : Nat)) (arrival.off / 65536) = true) ∧
    ((getCore (inOrder (modCore ({ met awake arrival with mesh := [] }) (3 : Nat) fun k => noteWork (touchData k (met awake arrival).now) (met awake arrival).now) (3 : Nat) 9) (3 : Nat)).spd.bad = []) ∧
    (lockedSlot (getCore (inOrder (modCore ({ met awake arrival with mesh := [] }) (3 : Nat) fun k => noteWork (touchData k (met awake arrival).now) (met awake arrival).now) (3 : Nat) 9) (3 : Nat)) (arrival.off / 1024) = false) ∧
    (untagged (getCore (inOrder (modCore ({ met awake arrival with mesh := [] }) (3 : Nat) fun k => noteWork (touchData k (met awake arrival).now) (met awake arrival).now) (3 : Nat) 9) (3 : Nat)) (arrival.off / 1024) = false) ∧
    (if arrival.start = true then (tagOf (getCore (inOrder (modCore ({ met awake arrival with mesh := [] }) (3 : Nat) fun k => noteWork (touchData k (met awake arrival).now) (met awake arrival).now) (3 : Nat) 9) (3 : Nat)) (arrival.off / 1024)).st = TagState.empty ∧ (tagOf (getCore (inOrder (modCore ({ met awake arrival with mesh := [] }) (3 : Nat) fun k => noteWork (touchData k (met awake arrival).now) (met awake arrival).now) (3 : Nat) 9) (3 : Nat)) (arrival.off / 1024)).rdpin = 0 else (tagOf (getCore (inOrder (modCore ({ met awake arrival with mesh := [] }) (3 : Nat) fun k => noteWork (touchData k (met awake arrival).now) (met awake arrival).now) (3 : Nat) 9) (3 : Nat)) (arrival.off / 1024)).st = TagState.held ∧ (tagOf (getCore (inOrder (modCore ({ met awake arrival with mesh := [] }) (3 : Nat) fun k => noteWork (touchData k (met awake arrival).now) (met awake arrival).now) (3 : Nat) 9) (3 : Nat)) (arrival.off / 1024)).owner = Holder.onchip ∧ (tagOf (getCore (inOrder (modCore ({ met awake arrival with mesh := [] }) (3 : Nat) fun k => noteWork (touchData k (met awake arrival).now) (met awake arrival).now) (3 : Nat) 9) (3 : Nat)) (arrival.off / 1024)).src = arrival.core) ∧
    takeFlit (met heldBy7 marker) (4 : Nat) = some (marker, ({ met heldBy7 marker with mesh := [] })) ∧
    marker.dst = Node.core (3 : Nat) ∧
    marker.hdr = none ∧
    (getOwner ({ met heldBy7 marker with mesh := [] }) (3 : Nat)).felled = false ∧
    (marker.kind = FlitKind.arrival ∨ marker.kind = FlitKind.marker) ∧
    marker.off ≤ 786431 ∧
    marker.off + marker.data.length ≤ 786432 ∧
    (segUp (getCore (inOrder (modCore ({ met heldBy7 marker with mesh := [] }) (3 : Nat) fun k => noteWork (touchData k (met heldBy7 marker).now) (met heldBy7 marker).now) (3 : Nat) 9) (3 : Nat)) (marker.off / 65536) = true) ∧
    ((getCore (inOrder (modCore ({ met heldBy7 marker with mesh := [] }) (3 : Nat) fun k => noteWork (touchData k (met heldBy7 marker).now) (met heldBy7 marker).now) (3 : Nat) 9) (3 : Nat)).spd.bad = []) ∧
    (lockedSlot (getCore (inOrder (modCore ({ met heldBy7 marker with mesh := [] }) (3 : Nat) fun k => noteWork (touchData k (met heldBy7 marker).now) (met heldBy7 marker).now) (3 : Nat) 9) (3 : Nat)) (marker.off / 1024) = false) ∧
    (untagged (getCore (inOrder (modCore ({ met heldBy7 marker with mesh := [] }) (3 : Nat) fun k => noteWork (touchData k (met heldBy7 marker).now) (met heldBy7 marker).now) (3 : Nat) 9) (3 : Nat)) (marker.off / 1024) = false) ∧
    (if marker.start = true then (tagOf (getCore (inOrder (modCore ({ met heldBy7 marker with mesh := [] }) (3 : Nat) fun k => noteWork (touchData k (met heldBy7 marker).now) (met heldBy7 marker).now) (3 : Nat) 9) (3 : Nat)) (marker.off / 1024)).st = TagState.empty ∧ (tagOf (getCore (inOrder (modCore ({ met heldBy7 marker with mesh := [] }) (3 : Nat) fun k => noteWork (touchData k (met heldBy7 marker).now) (met heldBy7 marker).now) (3 : Nat) 9) (3 : Nat)) (marker.off / 1024)).rdpin = 0 else (tagOf (getCore (inOrder (modCore ({ met heldBy7 marker with mesh := [] }) (3 : Nat) fun k => noteWork (touchData k (met heldBy7 marker).now) (met heldBy7 marker).now) (3 : Nat) 9) (3 : Nat)) (marker.off / 1024)).st = TagState.held ∧ (tagOf (getCore (inOrder (modCore ({ met heldBy7 marker with mesh := [] }) (3 : Nat) fun k => noteWork (touchData k (met heldBy7 marker).now) (met heldBy7 marker).now) (3 : Nat) 9) (3 : Nat)) (marker.off / 1024)).owner = Holder.onchip ∧ (tagOf (getCore (inOrder (modCore ({ met heldBy7 marker with mesh := [] }) (3 : Nat) fun k => noteWork (touchData k (met heldBy7 marker).now) (met heldBy7 marker).now) (3 : Nat) 9) (3 : Nat)) (marker.off / 1024)).src = marker.core) ∧
    takeFlit (met heldBy7 arrival) (4 : Nat) = some (arrival, ({ met heldBy7 arrival with mesh := [] })) ∧
    (getOwner ({ met heldBy7 arrival with mesh := [] }) (3 : Nat)).felled = false ∧
    (segUp (getCore (inOrder (modCore ({ met heldBy7 arrival with mesh := [] }) (3 : Nat) fun k => noteWork (touchData k (met heldBy7 arrival).now) (met heldBy7 arrival).now) (3 : Nat) 9) (3 : Nat)) (arrival.off / 65536) = true) ∧
    ((getCore (inOrder (modCore ({ met heldBy7 arrival with mesh := [] }) (3 : Nat) fun k => noteWork (touchData k (met heldBy7 arrival).now) (met heldBy7 arrival).now) (3 : Nat) 9) (3 : Nat)).spd.bad = []) ∧
    (lockedSlot (getCore (inOrder (modCore ({ met heldBy7 arrival with mesh := [] }) (3 : Nat) fun k => noteWork (touchData k (met heldBy7 arrival).now) (met heldBy7 arrival).now) (3 : Nat) 9) (3 : Nat)) (arrival.off / 1024) = false) ∧
    (untagged (getCore (inOrder (modCore ({ met heldBy7 arrival with mesh := [] }) (3 : Nat) fun k => noteWork (touchData k (met heldBy7 arrival).now) (met heldBy7 arrival).now) (3 : Nat) 9) (3 : Nat)) (arrival.off / 1024) = false) ∧
    (¬if arrival.start = true then (tagOf (getCore (inOrder (modCore ({ met heldBy7 arrival with mesh := [] }) (3 : Nat) fun k => noteWork (touchData k (met heldBy7 arrival).now) (met heldBy7 arrival).now) (3 : Nat) 9) (3 : Nat)) (arrival.off / 1024)).st = TagState.empty ∧ (tagOf (getCore (inOrder (modCore ({ met heldBy7 arrival with mesh := [] }) (3 : Nat) fun k => noteWork (touchData k (met heldBy7 arrival).now) (met heldBy7 arrival).now) (3 : Nat) 9) (3 : Nat)) (arrival.off / 1024)).rdpin = 0 else (tagOf (getCore (inOrder (modCore ({ met heldBy7 arrival with mesh := [] }) (3 : Nat) fun k => noteWork (touchData k (met heldBy7 arrival).now) (met heldBy7 arrival).now) (3 : Nat) 9) (3 : Nat)) (arrival.off / 1024)).st = TagState.held ∧ (tagOf (getCore (inOrder (modCore ({ met heldBy7 arrival with mesh := [] }) (3 : Nat) fun k => noteWork (touchData k (met heldBy7 arrival).now) (met heldBy7 arrival).now) (3 : Nat) 9) (3 : Nat)) (arrival.off / 1024)).owner = Holder.onchip ∧ (tagOf (getCore (inOrder (modCore ({ met heldBy7 arrival with mesh := [] }) (3 : Nat) fun k => noteWork (touchData k (met heldBy7 arrival).now) (met heldBy7 arrival).now) (3 : Nat) 9) (3 : Nat)) (arrival.off / 1024)).src = arrival.core) := by decide +kernel

/-- States and operands that meet the hypotheses of GatherBufferWrites. -/
theorem witness_gatherBufferWrites :
    reaches (on gathers) (.mgmt : Port) (PageRef.core (3 : CoreId) 5) 104 (on gathers) ∧
    (getCore (on gathers) 3).spd.gather = gathered :: ([] : List Gather) ∧
    (((getCore (atLeast (on gathers) (gathered.since + 64)) 3).spd.gather.any fun e => e.row == gathered.row && e.since == gathered.since) = true) ∧
    (getCore ({ on gathers with now := 5 } : State) 3).spd.gather = gathered :: ([] : List Gather) ∧
    (((getCore (atLeast ({ on gathers with now := 5 } : State) (gathered.since + 64)) 3).spd.gather.any fun e => e.row == gathered.row && e.since == gathered.since) = true) := by decide +kernel

/-- States and operands that meet the hypotheses of SegmentPower. -/
theorem witness_segmentPower :
    reaches (on heldBy7) (.mgmt : Port) (PageRef.core (3 : CoreId) 5) 80 (on heldBy7) ∧
    segOn (getCore (on heldBy7) 3) (0 : Fin 12).val = true ∧
    segBusy (getCore (on heldBy7) 3) (0 : Fin 12).val = true ∧
    reaches (on awake) (.mgmt : Port) (PageRef.core (3 : CoreId) 5) 80 (on awake) ∧
    segOn (getCore (on awake) 3) (11 : Fin 12).val = true ∧
    segBusy (getCore (on awake) 3) (11 : Fin 12).val = false ∧
    reaches (on seg0Clear) (Port.host 5) (PageRef.core (3 : CoreId) 5) 80 (portOrder (on seg0Clear) (Port.host 5#8) (.core 3 5)) ∧
    segOn (getCore (portOrder (on seg0Clear) (Port.host 5#8) (.core 3 5)) 3) (0 : Fin 12).val = false ∧
    ((Port.host 5) = Port.mgmt ∨ segAllowed (getCore (portOrder (on seg0Clear) (Port.host 5#8) (.core 3 5)) 3) (0 : Fin 12).val = true) ∧
    reaches (on seg0Denied) (Port.host 5) (PageRef.core (3 : CoreId) 5) 80 (portOrder (on seg0Denied) (Port.host 5#8) (.core 3 5)) ∧
    segOn (getCore (portOrder (on seg0Denied) (Port.host 5#8) (.core 3 5)) 3) (0 : Fin 12).val = false ∧
    (Port.host 5) ≠ Port.mgmt ∧
    segAllowed (getCore (portOrder (on seg0Denied) (Port.host 5#8) (.core 3 5)) 3) (0 : Fin 12).val = false ∧
    fget (getCore (on { seg0Clear with spd := { segs := [(0, { phase := .ramping, since := 4 })] } }) 3).spd.segs (0 : Fin 12).val { } = { phase := SegPhase.ramping, since := (4 : Nat) } ∧
    fget (getCore (on { seg0Clear with spd := { segs := [(0, { phase := .zeroing, since := 4 })] } }) 3).spd.segs (0 : Fin 12).val { } = { phase := SegPhase.zeroing, since := (4 : Nat) } := by decide +kernel

/-- States and operands that meet the hypotheses of TagCommandsAndUntaggedRanges. -/
theorem witness_tagCommandsAndUntaggedRanges :
    reaches (on heldBy7) (.mgmt : Port) (PageRef.core (3 : CoreId) 5) 96 (on heldBy7) ∧
    (getCore (on heldBy7) 3).spd.cmd = none ∧
    (0 : BitVec 10).toNat ≤ (767 : BitVec 10).toNat ∧
    (767 : BitVec 10).toNat ≤ 767 ∧
    (2 : BitVec 10).toNat ≤ (2 : BitVec 10).toNat ∧
    (2 : BitVec 10).toNat ≤ 767 ∧
    reaches (on awake) (.mgmt : Port) (PageRef.core (3 : CoreId) 5) 96 (on awake) ∧
    ((0 : BitVec 10).toNat < (1 : BitVec 10).toNat ∨ 767 < (0 : BitVec 10).toNat ∨ (getCore (on awake) 3).spd.cmd ≠ none) ∧
    ((768 : BitVec 10).toNat < (0 : BitVec 10).toNat ∨ 767 < (768 : BitVec 10).toNat ∨ (getCore (on awake) 3).spd.cmd ≠ none) ∧
    (0 : BitVec 4) = 0#4 ∧
    notDozing (walking 1) ∧
    (walking 1).spd.cmd = some ({ op := 1, count := 2, first := 0, last := 7, since := 2, next := 0 } : TagCmd) ∧
    ({ op := 1, count := 2, first := 0, last := 7, since := 2, next := 0 } : TagCmd).next = ({ op := 1, count := 2, first := 0, last := 7, since := 2, next := 0 } : TagCmd).first ∧
    ({ op := 1, count := 2, first := 0, last := 7, since := 2, next := 0 } : TagCmd).first ≤ ({ op := 1, count := 2, first := 0, last := 7, since := 2, next := 0 } : TagCmd).last ∧
    ({ op := 1, count := 2, first := 0, last := 7, since := 2, next := 0 } : TagCmd).last ≤ 767 ∧
    (({ op := 1, count := 2, first := 0, last := 7, since := 2, next := 0 } : TagCmd).op = 1 ∨ ({ op := 1, count := 2, first := 0, last := 7, since := 2, next := 0 } : TagCmd).op = 2 ∨ ({ op := 1, count := 2, first := 0, last := 7, since := 2, next := 0 } : TagCmd).op = 3) ∧
    ({ op := 1, count := 2, first := 0, last := 7, since := 2, next := 0 } : TagCmd).last < ({ op := 1, count := 2, first := 0, last := 7, since := 2, next := 0 } : TagCmd).first + 8 * ((3 : Nat) - ({ op := 1, count := 2, first := 0, last := 7, since := 2, next := 0 } : TagCmd).since) ∧
    notDozing (walking 2) ∧
    (walking 2).spd.cmd = some ({ op := 2, count := 2, first := 0, last := 7, since := 2, next := 0 } : TagCmd) ∧
    ({ op := 2, count := 2, first := 0, last := 7, since := 2, next := 0 } : TagCmd).next = ({ op := 2, count := 2, first := 0, last := 7, since := 2, next := 0 } : TagCmd).first ∧
    ({ op := 2, count := 2, first := 0, last := 7, since := 2, next := 0 } : TagCmd).first ≤ ({ op := 2, count := 2, first := 0, last := 7, since := 2, next := 0 } : TagCmd).last ∧
    ({ op := 2, count := 2, first := 0, last := 7, since := 2, next := 0 } : TagCmd).last ≤ 767 ∧
    (({ op := 2, count := 2, first := 0, last := 7, since := 2, next := 0 } : TagCmd).op = 1 ∨ ({ op := 2, count := 2, first := 0, last := 7, since := 2, next := 0 } : TagCmd).op = 2 ∨ ({ op := 2, count := 2, first := 0, last := 7, since := 2, next := 0 } : TagCmd).op = 3) ∧
    ({ op := 2, count := 2, first := 0, last := 7, since := 2, next := 0 } : TagCmd).last < ({ op := 2, count := 2, first := 0, last := 7, since := 2, next := 0 } : TagCmd).first + 8 * ((3 : Nat) - ({ op := 2, count := 2, first := 0, last := 7, since := 2, next := 0 } : TagCmd).since) ∧
    notDozing (walking 3) ∧
    (walking 3).spd.cmd = some ({ op := 3, count := 2, first := 0, last := 7, since := 2, next := 0 } : TagCmd) ∧
    ({ op := 3, count := 2, first := 0, last := 7, since := 2, next := 0 } : TagCmd).next = ({ op := 3, count := 2, first := 0, last := 7, since := 2, next := 0 } : TagCmd).first ∧
    ({ op := 3, count := 2, first := 0, last := 7, since := 2, next := 0 } : TagCmd).first ≤ ({ op := 3, count := 2, first := 0, last := 7, since := 2, next := 0 } : TagCmd).last ∧
    ({ op := 3, count := 2, first := 0, last := 7, since := 2, next := 0 } : TagCmd).last ≤ 767 ∧
    (({ op := 3, count := 2, first := 0, last := 7, since := 2, next := 0 } : TagCmd).op = 1 ∨ ({ op := 3, count := 2, first := 0, last := 7, since := 2, next := 0 } : TagCmd).op = 2 ∨ ({ op := 3, count := 2, first := 0, last := 7, since := 2, next := 0 } : TagCmd).op = 3) ∧
    ({ op := 3, count := 2, first := 0, last := 7, since := 2, next := 0 } : TagCmd).last < ({ op := 3, count := 2, first := 0, last := 7, since := 2, next := 0 } : TagCmd).first + 8 * ((9 : Nat) - ({ op := 3, count := 2, first := 0, last := 7, since := 2, next := 0 } : TagCmd).since) ∧
    (getCore (on (walking 1)) 3).spd.cmd = some ({ op := 1, count := 2, first := 0, last := 7, since := 2, next := 0 } : TagCmd) ∧
    reaches (on heldBy7) (.mgmt : Port) (PageRef.core (3 : CoreId) 5) (64 + 4 * (3 : Fin 4).val) (on heldBy7) ∧
    notDozing (getCore (on heldBy7) 3) := by decide +kernel

/-- States and operands that meet the hypotheses of ParityErrorsAndRefetches. -/
theorem witness_parityErrorsAndRefetches :
    (∀ (q : QueueId) (i : BitVec 16), (.port : ParityReader) ≠ ParityReader.loopBuffer q i) ∧
    (getOwner (on awake) 3).felled = false ∧
    segUp (getCore (on awake) 3) ((196607 : Fin 196608).val / 16384) = true ∧
    (¬(196607 : Fin 196608).val ∈ (getCore (on awake) 3).spd.bad) ∧
    ((0 : Word) = 0#32 ∨ parityBit (BitVec.toNat (0 : Word)) = true) ∧
    segUp (getCore (on awake) 3) ((0 : Fin 196608).val / 16384) = true ∧
    (¬(0 : Fin 196608).val ∈ (getCore (on awake) 3).spd.bad) ∧
    ((0x80000000 : Word) = 0#32 ∨ parityBit (BitVec.toNat (0x80000000 : Word)) = true) ∧
    (3 : Word) ≠ 0#32 ∧
    parityBit (BitVec.toNat (3 : Word)) = false ∧
    (getOwner (on copying) 3).felled = false ∧
    segUp (getCore (on copying) 3) ((0 : Fin 196608).val / 16384) = true ∧
    (¬(0 : Fin 196608).val ∈ (getCore (on copying) 3).spd.bad) ∧
    (getQ (getCore (on copying) 3) .skq).flights[(0 : Nat)]? = some copyFlight ∧
    copyFlight.lines = [] ∧
    copyFlight.tail = [] ∧
    nextRead copyFlight (0 : Fin 196608).val = some (8 : Nat) ∧
    (getOwner (on (flying .skq flown)) 3).felled = false ∧
    segUp (getCore (on (flying .skq flown)) 3) ((0 : Fin 196608).val / 16384) = true ∧
    (¬(0 : Fin 196608).val ∈ (getCore (on (flying .skq flown)) 3).spd.bad) ∧
    (getQ (getCore (on (flying .skq flown)) 3) .skq).flights[(0 : Nat)]? = some flown ∧
    flown.lines = [] ∧
    flown.tail = [] ∧
    nextRead flown (0 : Fin 196608).val = none ∧
    badInRegions (flushRegions (upsetWord copying 0 1) ([{ off := 0, len := 32 }] : List Region8)) ([{ off := 0, len := 32 }] : List Region8) = some (0 : Nat) ∧
    (getQ (upsetWord copying 0 1) .skq).flights[(0 : Nat)]? = some copyFlight ∧
    inActiveBody (getQ (getCore (on looping) 3) .mxq) (1 : BitVec 16).toNat = true ∧
    fetchedAt (getQ (getCore (on looping) 3) .mxq) (1 : BitVec 16).toNat = some (entry 1 (ctl 0 [])) ∧
    (1 : SlotId).val ∈ (getCore (on (refetchWith (.here (List.replicate 64 7#8)))) 3).skd.refetch ∧
    refetchEnd (getCore (on (refetchWith (.here (List.replicate 64 7#8)))) 3) (1 : SlotId).val = some true ∧
    refetchCtx (getCore (on (refetchWith (.here (List.replicate 64 7#8)))) 3) (1 : SlotId).val = some (some ctxBlock) ∧
    (tagOf (getCore (on (refetchWith (.here (List.replicate 64 7#8)))) 3) (1 : SlotId).val).st = TagState.full ∧
    (tagOf (getCore (on (refetchWith (.here (List.replicate 64 7#8)))) 3) (1 : SlotId).val).backed = true ∧
    refetchWrites (getCore (on (refetchWith (.here (List.replicate 64 7#8)))) 3) ((1 : SlotId).val) ctxBlock = [((0x400 : Nat), (List.replicate 64 7#8))] ∧
    (1 : SlotId).val * 1024 ≤ (0x400 : Nat) ∧
    (0x400 : Nat) + (List.replicate 64 7#8).length ≤ (1 : SlotId).val * 1024 + 1024 ∧
    (1 : SlotId).val ∈ (getCore (on (refetchWith .asked)) 3).skd.refetch ∧
    refetchEnd (getCore (on (refetchWith .asked)) 3) (1 : SlotId).val = none ∧
    (1 : SlotId).val ∈ (getCore (on (refetchWith (.faulted 7))) 3).skd.refetch ∧
    refetchEnd (getCore (on (refetchWith (.faulted 7))) 3) (1 : SlotId).val = some false :=
  ⟨(by exact fun _ _ h => nomatch h), (by and_intros <;> decide +kernel)⟩

/-- States and operands that meet the hypotheses of StreamsStart. -/
theorem witness_streamsStart :
    readyHead startOff 3 QueueId.skq = some outEntry1 ∧
    opOf outEntry1.raw = 48 ∧
    skSegsUp (getCore startOff 3) (effective (getCore startOff 3).skq.loops (getCore startOff 3).skq.issue outEntry1.raw) (skSlots (getCore startOff 3) (skPlan (getCore startOff 3) (getCore startOff 3).skq.loops (effective (getCore startOff 3).skq.loops (getCore startOff 3).skq.issue outEntry1.raw) outEntry1)) = false ∧
    readyHead startBusy 3 QueueId.skq = some secondEntry ∧
    opOf secondEntry.raw = 48 ∧
    skSegsUp (getCore startBusy 3) (effective (getCore startBusy 3).skq.loops (getCore startBusy 3).skq.issue secondEntry.raw) (skSlots (getCore startBusy 3) (skPlan (getCore startBusy 3) (getCore startBusy 3).skq.loops (effective (getCore startBusy 3).skq.loops (getCore startBusy 3).skq.issue secondEntry.raw) secondEntry)) = true ∧
    (semsReady (getCore startBusy 3) QueueId.skq secondEntry = false ∨ (skPlan (getCore startBusy 3) (getCore startBusy 3).skq.loops (effective (getCore startBusy 3).skq.loops (getCore startBusy 3).skq.issue secondEntry.raw) secondEntry).walks = true ∧ streamFree startBusy 3 { ctx := (skPlan (getCore startBusy 3) (getCore startBusy 3).skq.loops (effective (getCore startBusy 3).skq.loops (getCore startBusy 3).skq.issue secondEntry.raw) secondEntry).st.ctx, raw := (skPlan (getCore startBusy 3) (getCore startBusy 3).skq.loops (effective (getCore startBusy 3).skq.loops (getCore startBusy 3).skq.issue secondEntry.raw) secondEntry).st.raw, cbytes := (skPlan (getCore startBusy 3) (getCore startBusy 3).skq.loops (effective (getCore startBusy 3).skq.loops (getCore startBusy 3).skq.issue secondEntry.raw) secondEntry).st.cbytes, group := (skPlan (getCore startBusy 3) (getCore startBusy 3).skq.loops (effective (getCore startBusy 3).skq.loops (getCore startBusy 3).skq.issue secondEntry.raw) secondEntry).st.group, counts := (skPlan (getCore startBusy 3) (getCore startBusy 3).skq.loops (effective (getCore startBusy 3).skq.loops (getCore startBusy 3).skq.issue secondEntry.raw) secondEntry).st.counts, total := (skPlan (getCore startBusy 3) (getCore startBusy 3).skq.loops (effective (getCore startBusy 3).skq.loops (getCore startBusy 3).skq.issue secondEntry.raw) secondEntry).st.total, pos := (skPlan (getCore startBusy 3) (getCore startBusy 3).skq.loops (effective (getCore startBusy 3).skq.loops (getCore startBusy 3).skq.issue secondEntry.raw) secondEntry).st.pos, st := (skPlan (getCore startBusy 3) (getCore startBusy 3).skq.loops (effective (getCore startBusy 3).skq.loops (getCore startBusy 3).skq.issue secondEntry.raw) secondEntry).st.st, code := (skPlan (getCore startBusy 3) (getCore startBusy 3).skq.loops (effective (getCore startBusy 3).skq.loops (getCore startBusy 3).skq.issue secondEntry.raw) secondEntry).st.code, halting := (skPlan (getCore startBusy 3) (getCore startBusy 3).skq.loops (effective (getCore startBusy 3).skq.loops (getCore startBusy 3).skq.issue secondEntry.raw) secondEntry).st.halting, lo := (skPlan (getCore startBusy 3) (getCore startBusy 3).skq.loops (effective (getCore startBusy 3).skq.loops (getCore startBusy 3).skq.issue secondEntry.raw) secondEntry).st.lo, hi := (skPlan (getCore startBusy 3) (getCore startBusy 3).skq.loops (effective (getCore startBusy 3).skq.loops (getCore startBusy 3).skq.issue secondEntry.raw) secondEntry).st.hi, visits := (skPlan (getCore startBusy 3) (getCore startBusy 3).skq.loops (effective (getCore startBusy 3).skq.loops (getCore startBusy 3).skq.issue secondEntry.raw) secondEntry).st.visits, reqs := (skPlan (getCore startBusy 3) (getCore startBusy 3).skq.loops (effective (getCore startBusy 3).skq.loops (getCore startBusy 3).skq.issue secondEntry.raw) secondEntry).st.reqs, nextSeq := (skPlan (getCore startBusy 3) (getCore startBusy 3).skq.loops (effective (getCore startBusy 3).skq.loops (getCore startBusy 3).skq.issue secondEntry.raw) secondEntry).st.nextSeq, held := (skPlan (getCore startBusy 3) (getCore startBusy 3).skq.loops (effective (getCore startBusy 3).skq.loops (getCore startBusy 3).skq.issue secondEntry.raw) secondEntry).st.held, target := targetOf startBusy 3 (skPlan (getCore startBusy 3) (getCore startBusy 3).skq.loops (effective (getCore startBusy 3).skq.loops (getCore startBusy 3).skq.issue secondEntry.raw) secondEntry).st.cbytes (skPlan (getCore startBusy 3) (getCore startBusy 3).skq.loops (effective (getCore startBusy 3).skq.loops (getCore startBusy 3).skq.issue secondEntry.raw) secondEntry).st.raw, order := (skPlan (getCore startBusy 3) (getCore startBusy 3).skq.loops (effective (getCore startBusy 3).skq.loops (getCore startBusy 3).skq.issue secondEntry.raw) secondEntry).st.order, xbuf := (skPlan (getCore startBusy 3) (getCore startBusy 3).skq.loops (effective (getCore startBusy 3).skq.loops (getCore startBusy 3).skq.issue secondEntry.raw) secondEntry).st.xbuf, block := (skPlan (getCore startBusy 3) (getCore startBusy 3).skq.loops (effective (getCore startBusy 3).skq.loops (getCore startBusy 3).skq.issue secondEntry.raw) secondEntry).st.block, opened := (skPlan (getCore startBusy 3) (getCore startBusy 3).skq.loops (effective (getCore startBusy 3).skq.loops (getCore startBusy 3).skq.issue secondEntry.raw) secondEntry).st.opened, freeing := (skPlan (getCore startBusy 3) (getCore startBusy 3).skq.loops (effective (getCore startBusy 3).skq.loops (getCore startBusy 3).skq.issue secondEntry.raw) secondEntry).st.freeing, nullMarks := (skPlan (getCore startBusy 3) (getCore startBusy 3).skq.loops (effective (getCore startBusy 3).skq.loops (getCore startBusy 3).skq.issue secondEntry.raw) secondEntry).st.nullMarks, null := (skPlan (getCore startBusy 3) (getCore startBusy 3).skq.loops (effective (getCore startBusy 3).skq.loops (getCore startBusy 3).skq.issue secondEntry.raw) secondEntry).st.null, trans := (skPlan (getCore startBusy 3) (getCore startBusy 3).skq.loops (effective (getCore startBusy 3).skq.loops (getCore startBusy 3).skq.issue secondEntry.raw) secondEntry).st.trans, refetched := (skPlan (getCore startBusy 3) (getCore startBusy 3).skq.loops (effective (getCore startBusy 3).skq.loops (getCore startBusy 3).skq.issue secondEntry.raw) secondEntry).st.refetched, bad := (skPlan (getCore startBusy 3) (getCore startBusy 3).skq.loops (effective (getCore startBusy 3).skq.loops (getCore startBusy 3).skq.issue secondEntry.raw) secondEntry).st.bad, loose := (skPlan (getCore startBusy 3) (getCore startBusy 3).skq.loops (effective (getCore startBusy 3).skq.loops (getCore startBusy 3).skq.issue secondEntry.raw) secondEntry).st.loose } = false) ∧
    readyHead startWaits 3 QueueId.skq = some entryOut ∧
    opOf entryOut.raw = 48 ∧
    skSegsUp (getCore startWaits 3) (effective (getCore startWaits 3).skq.loops (getCore startWaits 3).skq.issue entryOut.raw) (skSlots (getCore startWaits 3) (skPlan (getCore startWaits 3) (getCore startWaits 3).skq.loops (effective (getCore startWaits 3).skq.loops (getCore startWaits 3).skq.issue entryOut.raw) entryOut)) = true ∧
    semsReady (getCore startWaits 3) QueueId.skq entryOut = true ∧
    ((skPlan (getCore startWaits 3) (getCore startWaits 3).skq.loops (effective (getCore startWaits 3).skq.loops (getCore startWaits 3).skq.issue entryOut.raw) entryOut).walks = true → streamFree startWaits 3 { ctx := (skPlan (getCore startWaits 3) (getCore startWaits 3).skq.loops (effective (getCore startWaits 3).skq.loops (getCore startWaits 3).skq.issue entryOut.raw) entryOut).st.ctx, raw := (skPlan (getCore startWaits 3) (getCore startWaits 3).skq.loops (effective (getCore startWaits 3).skq.loops (getCore startWaits 3).skq.issue entryOut.raw) entryOut).st.raw, cbytes := (skPlan (getCore startWaits 3) (getCore startWaits 3).skq.loops (effective (getCore startWaits 3).skq.loops (getCore startWaits 3).skq.issue entryOut.raw) entryOut).st.cbytes, group := (skPlan (getCore startWaits 3) (getCore startWaits 3).skq.loops (effective (getCore startWaits 3).skq.loops (getCore startWaits 3).skq.issue entryOut.raw) entryOut).st.group, counts := (skPlan (getCore startWaits 3) (getCore startWaits 3).skq.loops (effective (getCore startWaits 3).skq.loops (getCore startWaits 3).skq.issue entryOut.raw) entryOut).st.counts, total := (skPlan (getCore startWaits 3) (getCore startWaits 3).skq.loops (effective (getCore startWaits 3).skq.loops (getCore startWaits 3).skq.issue entryOut.raw) entryOut).st.total, pos := (skPlan (getCore startWaits 3) (getCore startWaits 3).skq.loops (effective (getCore startWaits 3).skq.loops (getCore startWaits 3).skq.issue entryOut.raw) entryOut).st.pos, st := (skPlan (getCore startWaits 3) (getCore startWaits 3).skq.loops (effective (getCore startWaits 3).skq.loops (getCore startWaits 3).skq.issue entryOut.raw) entryOut).st.st, code := (skPlan (getCore startWaits 3) (getCore startWaits 3).skq.loops (effective (getCore startWaits 3).skq.loops (getCore startWaits 3).skq.issue entryOut.raw) entryOut).st.code, halting := (skPlan (getCore startWaits 3) (getCore startWaits 3).skq.loops (effective (getCore startWaits 3).skq.loops (getCore startWaits 3).skq.issue entryOut.raw) entryOut).st.halting, lo := (skPlan (getCore startWaits 3) (getCore startWaits 3).skq.loops (effective (getCore startWaits 3).skq.loops (getCore startWaits 3).skq.issue entryOut.raw) entryOut).st.lo, hi := (skPlan (getCore startWaits 3) (getCore startWaits 3).skq.loops (effective (getCore startWaits 3).skq.loops (getCore startWaits 3).skq.issue entryOut.raw) entryOut).st.hi, visits := (skPlan (getCore startWaits 3) (getCore startWaits 3).skq.loops (effective (getCore startWaits 3).skq.loops (getCore startWaits 3).skq.issue entryOut.raw) entryOut).st.visits, reqs := (skPlan (getCore startWaits 3) (getCore startWaits 3).skq.loops (effective (getCore startWaits 3).skq.loops (getCore startWaits 3).skq.issue entryOut.raw) entryOut).st.reqs, nextSeq := (skPlan (getCore startWaits 3) (getCore startWaits 3).skq.loops (effective (getCore startWaits 3).skq.loops (getCore startWaits 3).skq.issue entryOut.raw) entryOut).st.nextSeq, held := (skPlan (getCore startWaits 3) (getCore startWaits 3).skq.loops (effective (getCore startWaits 3).skq.loops (getCore startWaits 3).skq.issue entryOut.raw) entryOut).st.held, target := targetOf startWaits 3 (skPlan (getCore startWaits 3) (getCore startWaits 3).skq.loops (effective (getCore startWaits 3).skq.loops (getCore startWaits 3).skq.issue entryOut.raw) entryOut).st.cbytes (skPlan (getCore startWaits 3) (getCore startWaits 3).skq.loops (effective (getCore startWaits 3).skq.loops (getCore startWaits 3).skq.issue entryOut.raw) entryOut).st.raw, order := (skPlan (getCore startWaits 3) (getCore startWaits 3).skq.loops (effective (getCore startWaits 3).skq.loops (getCore startWaits 3).skq.issue entryOut.raw) entryOut).st.order, xbuf := (skPlan (getCore startWaits 3) (getCore startWaits 3).skq.loops (effective (getCore startWaits 3).skq.loops (getCore startWaits 3).skq.issue entryOut.raw) entryOut).st.xbuf, block := (skPlan (getCore startWaits 3) (getCore startWaits 3).skq.loops (effective (getCore startWaits 3).skq.loops (getCore startWaits 3).skq.issue entryOut.raw) entryOut).st.block, opened := (skPlan (getCore startWaits 3) (getCore startWaits 3).skq.loops (effective (getCore startWaits 3).skq.loops (getCore startWaits 3).skq.issue entryOut.raw) entryOut).st.opened, freeing := (skPlan (getCore startWaits 3) (getCore startWaits 3).skq.loops (effective (getCore startWaits 3).skq.loops (getCore startWaits 3).skq.issue entryOut.raw) entryOut).st.freeing, nullMarks := (skPlan (getCore startWaits 3) (getCore startWaits 3).skq.loops (effective (getCore startWaits 3).skq.loops (getCore startWaits 3).skq.issue entryOut.raw) entryOut).st.nullMarks, null := (skPlan (getCore startWaits 3) (getCore startWaits 3).skq.loops (effective (getCore startWaits 3).skq.loops (getCore startWaits 3).skq.issue entryOut.raw) entryOut).st.null, trans := (skPlan (getCore startWaits 3) (getCore startWaits 3).skq.loops (effective (getCore startWaits 3).skq.loops (getCore startWaits 3).skq.issue entryOut.raw) entryOut).st.trans, refetched := (skPlan (getCore startWaits 3) (getCore startWaits 3).skq.loops (effective (getCore startWaits 3).skq.loops (getCore startWaits 3).skq.issue entryOut.raw) entryOut).st.refetched, bad := (skPlan (getCore startWaits 3) (getCore startWaits 3).skq.loops (effective (getCore startWaits 3).skq.loops (getCore startWaits 3).skq.issue entryOut.raw) entryOut).st.bad, loose := (skPlan (getCore startWaits 3) (getCore startWaits 3).skq.loops (effective (getCore startWaits 3).skq.loops (getCore startWaits 3).skq.issue entryOut.raw) entryOut).st.loose } = true) ∧
    (¬((List.filter (fun n => !(List.filter (fun n => (skSlots (getCore startWaits 3) (skPlan (getCore startWaits 3) (getCore startWaits 3).skq.loops (effective (getCore startWaits 3).skq.loops (getCore startWaits 3).skq.issue entryOut.raw) entryOut)).takes.contains n || (skSlots (getCore startWaits 3) (skPlan (getCore startWaits 3) (getCore startWaits 3).skq.loops (effective (getCore startWaits 3).skq.loops (getCore startWaits 3).skq.issue entryOut.raw) entryOut)).tally.contains n) (dedup ((skSlots (getCore startWaits 3) (skPlan (getCore startWaits 3) (getCore startWaits 3).skq.loops (effective (getCore startWaits 3).skq.loops (getCore startWaits 3).skq.issue entryOut.raw) entryOut)).src ++ (skSlots (getCore startWaits 3) (skPlan (getCore startWaits 3) (getCore startWaits 3).skq.loops (effective (getCore startWaits 3).skq.loops (getCore startWaits 3).skq.issue entryOut.raw) entryOut)).gate))).contains n) (dedup ((skSlots (getCore startWaits 3) (skPlan (getCore startWaits 3) (getCore startWaits 3).skq.loops (effective (getCore startWaits 3).skq.loops (getCore startWaits 3).skq.issue entryOut.raw) entryOut)).src ++ (skSlots (getCore startWaits 3) (skPlan (getCore startWaits 3) (getCore startWaits 3).skq.loops (effective (getCore startWaits 3).skq.loops (getCore startWaits 3).skq.issue entryOut.raw) entryOut)).gate))).all (mayRead (getCore startWaits 3)) = true ∧ (List.filter (fun n => !(List.filter (fun n => (skSlots (getCore startWaits 3) (skPlan (getCore startWaits 3) (getCore startWaits 3).skq.loops (effective (getCore startWaits 3).skq.loops (getCore startWaits 3).skq.issue entryOut.raw) entryOut)).takes.contains n || (skSlots (getCore startWaits 3) (skPlan (getCore startWaits 3) (getCore startWaits 3).skq.loops (effective (getCore startWaits 3).skq.loops (getCore startWaits 3).skq.issue entryOut.raw) entryOut)).tally.contains n) (dedup ((skSlots (getCore startWaits 3) (skPlan (getCore startWaits 3) (getCore startWaits 3).skq.loops (effective (getCore startWaits 3).skq.loops (getCore startWaits 3).skq.issue entryOut.raw) entryOut)).src ++ (skSlots (getCore startWaits 3) (skPlan (getCore startWaits 3) (getCore startWaits 3).skq.loops (effective (getCore startWaits 3).skq.loops (getCore startWaits 3).skq.issue entryOut.raw) entryOut)).gate))).contains n) (dedup ((skSlots (getCore startWaits 3) (skPlan (getCore startWaits 3) (getCore startWaits 3).skq.loops (effective (getCore startWaits 3).skq.loops (getCore startWaits 3).skq.issue entryOut.raw) entryOut)).takes ++ (skSlots (getCore startWaits 3) (skPlan (getCore startWaits 3) (getCore startWaits 3).skq.loops (effective (getCore startWaits 3).skq.loops (getCore startWaits 3).skq.issue entryOut.raw) entryOut)).tally))).all (mayTake (getCore startWaits 3)) = true)) ∧
    readyHead startNone 3 QueueId.skq = some entryIn ∧
    opOf entryIn.raw = 48 ∧
    skSegsUp (getCore startNone 3) (effective (getCore startNone 3).skq.loops (getCore startNone 3).skq.issue entryIn.raw) (skSlots (getCore startNone 3) (skPlan (getCore startNone 3) (getCore startNone 3).skq.loops (effective (getCore startNone 3).skq.loops (getCore startNone 3).skq.issue entryIn.raw) entryIn)) = true ∧
    semsReady (getCore startNone 3) QueueId.skq entryIn = true ∧
    ((skPlan (getCore startNone 3) (getCore startNone 3).skq.loops (effective (getCore startNone 3).skq.loops (getCore startNone 3).skq.issue entryIn.raw) entryIn).walks = true → streamFree startNone 3 { ctx := (skPlan (getCore startNone 3) (getCore startNone 3).skq.loops (effective (getCore startNone 3).skq.loops (getCore startNone 3).skq.issue entryIn.raw) entryIn).st.ctx, raw := (skPlan (getCore startNone 3) (getCore startNone 3).skq.loops (effective (getCore startNone 3).skq.loops (getCore startNone 3).skq.issue entryIn.raw) entryIn).st.raw, cbytes := (skPlan (getCore startNone 3) (getCore startNone 3).skq.loops (effective (getCore startNone 3).skq.loops (getCore startNone 3).skq.issue entryIn.raw) entryIn).st.cbytes, group := (skPlan (getCore startNone 3) (getCore startNone 3).skq.loops (effective (getCore startNone 3).skq.loops (getCore startNone 3).skq.issue entryIn.raw) entryIn).st.group, counts := (skPlan (getCore startNone 3) (getCore startNone 3).skq.loops (effective (getCore startNone 3).skq.loops (getCore startNone 3).skq.issue entryIn.raw) entryIn).st.counts, total := (skPlan (getCore startNone 3) (getCore startNone 3).skq.loops (effective (getCore startNone 3).skq.loops (getCore startNone 3).skq.issue entryIn.raw) entryIn).st.total, pos := (skPlan (getCore startNone 3) (getCore startNone 3).skq.loops (effective (getCore startNone 3).skq.loops (getCore startNone 3).skq.issue entryIn.raw) entryIn).st.pos, st := (skPlan (getCore startNone 3) (getCore startNone 3).skq.loops (effective (getCore startNone 3).skq.loops (getCore startNone 3).skq.issue entryIn.raw) entryIn).st.st, code := (skPlan (getCore startNone 3) (getCore startNone 3).skq.loops (effective (getCore startNone 3).skq.loops (getCore startNone 3).skq.issue entryIn.raw) entryIn).st.code, halting := (skPlan (getCore startNone 3) (getCore startNone 3).skq.loops (effective (getCore startNone 3).skq.loops (getCore startNone 3).skq.issue entryIn.raw) entryIn).st.halting, lo := (skPlan (getCore startNone 3) (getCore startNone 3).skq.loops (effective (getCore startNone 3).skq.loops (getCore startNone 3).skq.issue entryIn.raw) entryIn).st.lo, hi := (skPlan (getCore startNone 3) (getCore startNone 3).skq.loops (effective (getCore startNone 3).skq.loops (getCore startNone 3).skq.issue entryIn.raw) entryIn).st.hi, visits := (skPlan (getCore startNone 3) (getCore startNone 3).skq.loops (effective (getCore startNone 3).skq.loops (getCore startNone 3).skq.issue entryIn.raw) entryIn).st.visits, reqs := (skPlan (getCore startNone 3) (getCore startNone 3).skq.loops (effective (getCore startNone 3).skq.loops (getCore startNone 3).skq.issue entryIn.raw) entryIn).st.reqs, nextSeq := (skPlan (getCore startNone 3) (getCore startNone 3).skq.loops (effective (getCore startNone 3).skq.loops (getCore startNone 3).skq.issue entryIn.raw) entryIn).st.nextSeq, held := (skPlan (getCore startNone 3) (getCore startNone 3).skq.loops (effective (getCore startNone 3).skq.loops (getCore startNone 3).skq.issue entryIn.raw) entryIn).st.held, target := targetOf startNone 3 (skPlan (getCore startNone 3) (getCore startNone 3).skq.loops (effective (getCore startNone 3).skq.loops (getCore startNone 3).skq.issue entryIn.raw) entryIn).st.cbytes (skPlan (getCore startNone 3) (getCore startNone 3).skq.loops (effective (getCore startNone 3).skq.loops (getCore startNone 3).skq.issue entryIn.raw) entryIn).st.raw, order := (skPlan (getCore startNone 3) (getCore startNone 3).skq.loops (effective (getCore startNone 3).skq.loops (getCore startNone 3).skq.issue entryIn.raw) entryIn).st.order, xbuf := (skPlan (getCore startNone 3) (getCore startNone 3).skq.loops (effective (getCore startNone 3).skq.loops (getCore startNone 3).skq.issue entryIn.raw) entryIn).st.xbuf, block := (skPlan (getCore startNone 3) (getCore startNone 3).skq.loops (effective (getCore startNone 3).skq.loops (getCore startNone 3).skq.issue entryIn.raw) entryIn).st.block, opened := (skPlan (getCore startNone 3) (getCore startNone 3).skq.loops (effective (getCore startNone 3).skq.loops (getCore startNone 3).skq.issue entryIn.raw) entryIn).st.opened, freeing := (skPlan (getCore startNone 3) (getCore startNone 3).skq.loops (effective (getCore startNone 3).skq.loops (getCore startNone 3).skq.issue entryIn.raw) entryIn).st.freeing, nullMarks := (skPlan (getCore startNone 3) (getCore startNone 3).skq.loops (effective (getCore startNone 3).skq.loops (getCore startNone 3).skq.issue entryIn.raw) entryIn).st.nullMarks, null := (skPlan (getCore startNone 3) (getCore startNone 3).skq.loops (effective (getCore startNone 3).skq.loops (getCore startNone 3).skq.issue entryIn.raw) entryIn).st.null, trans := (skPlan (getCore startNone 3) (getCore startNone 3).skq.loops (effective (getCore startNone 3).skq.loops (getCore startNone 3).skq.issue entryIn.raw) entryIn).st.trans, refetched := (skPlan (getCore startNone 3) (getCore startNone 3).skq.loops (effective (getCore startNone 3).skq.loops (getCore startNone 3).skq.issue entryIn.raw) entryIn).st.refetched, bad := (skPlan (getCore startNone 3) (getCore startNone 3).skq.loops (effective (getCore startNone 3).skq.loops (getCore startNone 3).skq.issue entryIn.raw) entryIn).st.bad, loose := (skPlan (getCore startNone 3) (getCore startNone 3).skq.loops (effective (getCore startNone 3).skq.loops (getCore startNone 3).skq.issue entryIn.raw) entryIn).st.loose } = true) ∧
    ((List.filter (fun n => !(List.filter (fun n => (skSlots (getCore startNone 3) (skPlan (getCore startNone 3) (getCore startNone 3).skq.loops (effective (getCore startNone 3).skq.loops (getCore startNone 3).skq.issue entryIn.raw) entryIn)).takes.contains n || (skSlots (getCore startNone 3) (skPlan (getCore startNone 3) (getCore startNone 3).skq.loops (effective (getCore startNone 3).skq.loops (getCore startNone 3).skq.issue entryIn.raw) entryIn)).tally.contains n) (dedup ((skSlots (getCore startNone 3) (skPlan (getCore startNone 3) (getCore startNone 3).skq.loops (effective (getCore startNone 3).skq.loops (getCore startNone 3).skq.issue entryIn.raw) entryIn)).src ++ (skSlots (getCore startNone 3) (skPlan (getCore startNone 3) (getCore startNone 3).skq.loops (effective (getCore startNone 3).skq.loops (getCore startNone 3).skq.issue entryIn.raw) entryIn)).gate))).contains n) (dedup ((skSlots (getCore startNone 3) (skPlan (getCore startNone 3) (getCore startNone 3).skq.loops (effective (getCore startNone 3).skq.loops (getCore startNone 3).skq.issue entryIn.raw) entryIn)).src ++ (skSlots (getCore startNone 3) (skPlan (getCore startNone 3) (getCore startNone 3).skq.loops (effective (getCore startNone 3).skq.loops (getCore startNone 3).skq.issue entryIn.raw) entryIn)).gate))).all (mayRead (getCore startNone 3)) = true) ∧
    ((List.filter (fun n => !(List.filter (fun n => (skSlots (getCore startNone 3) (skPlan (getCore startNone 3) (getCore startNone 3).skq.loops (effective (getCore startNone 3).skq.loops (getCore startNone 3).skq.issue entryIn.raw) entryIn)).takes.contains n || (skSlots (getCore startNone 3) (skPlan (getCore startNone 3) (getCore startNone 3).skq.loops (effective (getCore startNone 3).skq.loops (getCore startNone 3).skq.issue entryIn.raw) entryIn)).tally.contains n) (dedup ((skSlots (getCore startNone 3) (skPlan (getCore startNone 3) (getCore startNone 3).skq.loops (effective (getCore startNone 3).skq.loops (getCore startNone 3).skq.issue entryIn.raw) entryIn)).src ++ (skSlots (getCore startNone 3) (skPlan (getCore startNone 3) (getCore startNone 3).skq.loops (effective (getCore startNone 3).skq.loops (getCore startNone 3).skq.issue entryIn.raw) entryIn)).gate))).contains n) (dedup ((skSlots (getCore startNone 3) (skPlan (getCore startNone 3) (getCore startNone 3).skq.loops (effective (getCore startNone 3).skq.loops (getCore startNone 3).skq.issue entryIn.raw) entryIn)).takes ++ (skSlots (getCore startNone 3) (skPlan (getCore startNone 3) (getCore startNone 3).skq.loops (effective (getCore startNone 3).skq.loops (getCore startNone 3).skq.issue entryIn.raw) entryIn)).tally))).all (mayTake (getCore startNone 3)) = true) ∧
    (skFail (getCore (inOrder (atLeast startNone (getCore startNone 3).skq.winEnd) 3 (rankIssue (getCore startNone 3) QueueId.skq)) 3) (skPlan (getCore startNone 3) (getCore startNone 3).skq.loops (effective (getCore startNone 3).skq.loops (getCore startNone 3).skq.issue entryIn.raw) entryIn) (List.filter (fun n => (skSlots (getCore startNone 3) (skPlan (getCore startNone 3) (getCore startNone 3).skq.loops (effective (getCore startNone 3).skq.loops (getCore startNone 3).skq.issue entryIn.raw) entryIn)).takes.contains n || (skSlots (getCore startNone 3) (skPlan (getCore startNone 3) (getCore startNone 3).skq.loops (effective (getCore startNone 3).skq.loops (getCore startNone 3).skq.issue entryIn.raw) entryIn)).tally.contains n) (dedup ((skSlots (getCore startNone 3) (skPlan (getCore startNone 3) (getCore startNone 3).skq.loops (effective (getCore startNone 3).skq.loops (getCore startNone 3).skq.issue entryIn.raw) entryIn)).src ++ (skSlots (getCore startNone 3) (skPlan (getCore startNone 3) (getCore startNone 3).skq.loops (effective (getCore startNone 3).skq.loops (getCore startNone 3).skq.issue entryIn.raw) entryIn)).gate))) = some ({ code := 0x0F, page := 6 } : Fail)) ∧
    readyHead startIn 3 QueueId.skq = some entryIn ∧
    skSegsUp (getCore startIn 3) (effective (getCore startIn 3).skq.loops (getCore startIn 3).skq.issue entryIn.raw) (skSlots (getCore startIn 3) (skPlan (getCore startIn 3) (getCore startIn 3).skq.loops (effective (getCore startIn 3).skq.loops (getCore startIn 3).skq.issue entryIn.raw) entryIn)) = true ∧
    semsReady (getCore startIn 3) QueueId.skq entryIn = true ∧
    ((skPlan (getCore startIn 3) (getCore startIn 3).skq.loops (effective (getCore startIn 3).skq.loops (getCore startIn 3).skq.issue entryIn.raw) entryIn).walks = true → streamFree startIn 3 { ctx := (skPlan (getCore startIn 3) (getCore startIn 3).skq.loops (effective (getCore startIn 3).skq.loops (getCore startIn 3).skq.issue entryIn.raw) entryIn).st.ctx, raw := (skPlan (getCore startIn 3) (getCore startIn 3).skq.loops (effective (getCore startIn 3).skq.loops (getCore startIn 3).skq.issue entryIn.raw) entryIn).st.raw, cbytes := (skPlan (getCore startIn 3) (getCore startIn 3).skq.loops (effective (getCore startIn 3).skq.loops (getCore startIn 3).skq.issue entryIn.raw) entryIn).st.cbytes, group := (skPlan (getCore startIn 3) (getCore startIn 3).skq.loops (effective (getCore startIn 3).skq.loops (getCore startIn 3).skq.issue entryIn.raw) entryIn).st.group, counts := (skPlan (getCore startIn 3) (getCore startIn 3).skq.loops (effective (getCore startIn 3).skq.loops (getCore startIn 3).skq.issue entryIn.raw) entryIn).st.counts, total := (skPlan (getCore startIn 3) (getCore startIn 3).skq.loops (effective (getCore startIn 3).skq.loops (getCore startIn 3).skq.issue entryIn.raw) entryIn).st.total, pos := (skPlan (getCore startIn 3) (getCore startIn 3).skq.loops (effective (getCore startIn 3).skq.loops (getCore startIn 3).skq.issue entryIn.raw) entryIn).st.pos, st := (skPlan (getCore startIn 3) (getCore startIn 3).skq.loops (effective (getCore startIn 3).skq.loops (getCore startIn 3).skq.issue entryIn.raw) entryIn).st.st, code := (skPlan (getCore startIn 3) (getCore startIn 3).skq.loops (effective (getCore startIn 3).skq.loops (getCore startIn 3).skq.issue entryIn.raw) entryIn).st.code, halting := (skPlan (getCore startIn 3) (getCore startIn 3).skq.loops (effective (getCore startIn 3).skq.loops (getCore startIn 3).skq.issue entryIn.raw) entryIn).st.halting, lo := (skPlan (getCore startIn 3) (getCore startIn 3).skq.loops (effective (getCore startIn 3).skq.loops (getCore startIn 3).skq.issue entryIn.raw) entryIn).st.lo, hi := (skPlan (getCore startIn 3) (getCore startIn 3).skq.loops (effective (getCore startIn 3).skq.loops (getCore startIn 3).skq.issue entryIn.raw) entryIn).st.hi, visits := (skPlan (getCore startIn 3) (getCore startIn 3).skq.loops (effective (getCore startIn 3).skq.loops (getCore startIn 3).skq.issue entryIn.raw) entryIn).st.visits, reqs := (skPlan (getCore startIn 3) (getCore startIn 3).skq.loops (effective (getCore startIn 3).skq.loops (getCore startIn 3).skq.issue entryIn.raw) entryIn).st.reqs, nextSeq := (skPlan (getCore startIn 3) (getCore startIn 3).skq.loops (effective (getCore startIn 3).skq.loops (getCore startIn 3).skq.issue entryIn.raw) entryIn).st.nextSeq, held := (skPlan (getCore startIn 3) (getCore startIn 3).skq.loops (effective (getCore startIn 3).skq.loops (getCore startIn 3).skq.issue entryIn.raw) entryIn).st.held, target := targetOf startIn 3 (skPlan (getCore startIn 3) (getCore startIn 3).skq.loops (effective (getCore startIn 3).skq.loops (getCore startIn 3).skq.issue entryIn.raw) entryIn).st.cbytes (skPlan (getCore startIn 3) (getCore startIn 3).skq.loops (effective (getCore startIn 3).skq.loops (getCore startIn 3).skq.issue entryIn.raw) entryIn).st.raw, order := (skPlan (getCore startIn 3) (getCore startIn 3).skq.loops (effective (getCore startIn 3).skq.loops (getCore startIn 3).skq.issue entryIn.raw) entryIn).st.order, xbuf := (skPlan (getCore startIn 3) (getCore startIn 3).skq.loops (effective (getCore startIn 3).skq.loops (getCore startIn 3).skq.issue entryIn.raw) entryIn).st.xbuf, block := (skPlan (getCore startIn 3) (getCore startIn 3).skq.loops (effective (getCore startIn 3).skq.loops (getCore startIn 3).skq.issue entryIn.raw) entryIn).st.block, opened := (skPlan (getCore startIn 3) (getCore startIn 3).skq.loops (effective (getCore startIn 3).skq.loops (getCore startIn 3).skq.issue entryIn.raw) entryIn).st.opened, freeing := (skPlan (getCore startIn 3) (getCore startIn 3).skq.loops (effective (getCore startIn 3).skq.loops (getCore startIn 3).skq.issue entryIn.raw) entryIn).st.freeing, nullMarks := (skPlan (getCore startIn 3) (getCore startIn 3).skq.loops (effective (getCore startIn 3).skq.loops (getCore startIn 3).skq.issue entryIn.raw) entryIn).st.nullMarks, null := (skPlan (getCore startIn 3) (getCore startIn 3).skq.loops (effective (getCore startIn 3).skq.loops (getCore startIn 3).skq.issue entryIn.raw) entryIn).st.null, trans := (skPlan (getCore startIn 3) (getCore startIn 3).skq.loops (effective (getCore startIn 3).skq.loops (getCore startIn 3).skq.issue entryIn.raw) entryIn).st.trans, refetched := (skPlan (getCore startIn 3) (getCore startIn 3).skq.loops (effective (getCore startIn 3).skq.loops (getCore startIn 3).skq.issue entryIn.raw) entryIn).st.refetched, bad := (skPlan (getCore startIn 3) (getCore startIn 3).skq.loops (effective (getCore startIn 3).skq.loops (getCore startIn 3).skq.issue entryIn.raw) entryIn).st.bad, loose := (skPlan (getCore startIn 3) (getCore startIn 3).skq.loops (effective (getCore startIn 3).skq.loops (getCore startIn 3).skq.issue entryIn.raw) entryIn).st.loose } = true) ∧
    ((List.filter (fun n => !(List.filter (fun n => (skSlots (getCore startIn 3) (skPlan (getCore startIn 3) (getCore startIn 3).skq.loops (effective (getCore startIn 3).skq.loops (getCore startIn 3).skq.issue entryIn.raw) entryIn)).takes.contains n || (skSlots (getCore startIn 3) (skPlan (getCore startIn 3) (getCore startIn 3).skq.loops (effective (getCore startIn 3).skq.loops (getCore startIn 3).skq.issue entryIn.raw) entryIn)).tally.contains n) (dedup ((skSlots (getCore startIn 3) (skPlan (getCore startIn 3) (getCore startIn 3).skq.loops (effective (getCore startIn 3).skq.loops (getCore startIn 3).skq.issue entryIn.raw) entryIn)).src ++ (skSlots (getCore startIn 3) (skPlan (getCore startIn 3) (getCore startIn 3).skq.loops (effective (getCore startIn 3).skq.loops (getCore startIn 3).skq.issue entryIn.raw) entryIn)).gate))).contains n) (dedup ((skSlots (getCore startIn 3) (skPlan (getCore startIn 3) (getCore startIn 3).skq.loops (effective (getCore startIn 3).skq.loops (getCore startIn 3).skq.issue entryIn.raw) entryIn)).src ++ (skSlots (getCore startIn 3) (skPlan (getCore startIn 3) (getCore startIn 3).skq.loops (effective (getCore startIn 3).skq.loops (getCore startIn 3).skq.issue entryIn.raw) entryIn)).gate))).all (mayRead (getCore startIn 3)) = true) ∧
    ((List.filter (fun n => !(List.filter (fun n => (skSlots (getCore startIn 3) (skPlan (getCore startIn 3) (getCore startIn 3).skq.loops (effective (getCore startIn 3).skq.loops (getCore startIn 3).skq.issue entryIn.raw) entryIn)).takes.contains n || (skSlots (getCore startIn 3) (skPlan (getCore startIn 3) (getCore startIn 3).skq.loops (effective (getCore startIn 3).skq.loops (getCore startIn 3).skq.issue entryIn.raw) entryIn)).tally.contains n) (dedup ((skSlots (getCore startIn 3) (skPlan (getCore startIn 3) (getCore startIn 3).skq.loops (effective (getCore startIn 3).skq.loops (getCore startIn 3).skq.issue entryIn.raw) entryIn)).src ++ (skSlots (getCore startIn 3) (skPlan (getCore startIn 3) (getCore startIn 3).skq.loops (effective (getCore startIn 3).skq.loops (getCore startIn 3).skq.issue entryIn.raw) entryIn)).gate))).contains n) (dedup ((skSlots (getCore startIn 3) (skPlan (getCore startIn 3) (getCore startIn 3).skq.loops (effective (getCore startIn 3).skq.loops (getCore startIn 3).skq.issue entryIn.raw) entryIn)).takes ++ (skSlots (getCore startIn 3) (skPlan (getCore startIn 3) (getCore startIn 3).skq.loops (effective (getCore startIn 3).skq.loops (getCore startIn 3).skq.issue entryIn.raw) entryIn)).tally))).all (mayTake (getCore startIn 3)) = true) ∧
    (skFail (getCore (inOrder (atLeast startIn (getCore startIn 3).skq.winEnd) 3 (rankIssue (getCore startIn 3) QueueId.skq)) 3) (skPlan (getCore startIn 3) (getCore startIn 3).skq.loops (effective (getCore startIn 3).skq.loops (getCore startIn 3).skq.issue entryIn.raw) entryIn) (List.filter (fun n => (skSlots (getCore startIn 3) (skPlan (getCore startIn 3) (getCore startIn 3).skq.loops (effective (getCore startIn 3).skq.loops (getCore startIn 3).skq.issue entryIn.raw) entryIn)).takes.contains n || (skSlots (getCore startIn 3) (skPlan (getCore startIn 3) (getCore startIn 3).skq.loops (effective (getCore startIn 3).skq.loops (getCore startIn 3).skq.issue entryIn.raw) entryIn)).tally.contains n) (dedup ((skSlots (getCore startIn 3) (skPlan (getCore startIn 3) (getCore startIn 3).skq.loops (effective (getCore startIn 3).skq.loops (getCore startIn 3).skq.issue entryIn.raw) entryIn)).src ++ (skSlots (getCore startIn 3) (skPlan (getCore startIn 3) (getCore startIn 3).skq.loops (effective (getCore startIn 3).skq.loops (getCore startIn 3).skq.issue entryIn.raw) entryIn)).gate))) = none) ∧
    (skPlan (getCore startIn 3) (getCore startIn 3).skq.loops (effective (getCore startIn 3).skq.loops (getCore startIn 3).skq.issue entryIn.raw) entryIn).st.total ≠ 0 ∧
    readyHead startOut 3 QueueId.skq = some entryOut ∧
    skSegsUp (getCore startOut 3) (effective (getCore startOut 3).skq.loops (getCore startOut 3).skq.issue entryOut.raw) (skSlots (getCore startOut 3) (skPlan (getCore startOut 3) (getCore startOut 3).skq.loops (effective (getCore startOut 3).skq.loops (getCore startOut 3).skq.issue entryOut.raw) entryOut)) = true ∧
    semsReady (getCore startOut 3) QueueId.skq entryOut = true ∧
    ((skPlan (getCore startOut 3) (getCore startOut 3).skq.loops (effective (getCore startOut 3).skq.loops (getCore startOut 3).skq.issue entryOut.raw) entryOut).walks = true → streamFree startOut 3 { ctx := (skPlan (getCore startOut 3) (getCore startOut 3).skq.loops (effective (getCore startOut 3).skq.loops (getCore startOut 3).skq.issue entryOut.raw) entryOut).st.ctx, raw := (skPlan (getCore startOut 3) (getCore startOut 3).skq.loops (effective (getCore startOut 3).skq.loops (getCore startOut 3).skq.issue entryOut.raw) entryOut).st.raw, cbytes := (skPlan (getCore startOut 3) (getCore startOut 3).skq.loops (effective (getCore startOut 3).skq.loops (getCore startOut 3).skq.issue entryOut.raw) entryOut).st.cbytes, group := (skPlan (getCore startOut 3) (getCore startOut 3).skq.loops (effective (getCore startOut 3).skq.loops (getCore startOut 3).skq.issue entryOut.raw) entryOut).st.group, counts := (skPlan (getCore startOut 3) (getCore startOut 3).skq.loops (effective (getCore startOut 3).skq.loops (getCore startOut 3).skq.issue entryOut.raw) entryOut).st.counts, total := (skPlan (getCore startOut 3) (getCore startOut 3).skq.loops (effective (getCore startOut 3).skq.loops (getCore startOut 3).skq.issue entryOut.raw) entryOut).st.total, pos := (skPlan (getCore startOut 3) (getCore startOut 3).skq.loops (effective (getCore startOut 3).skq.loops (getCore startOut 3).skq.issue entryOut.raw) entryOut).st.pos, st := (skPlan (getCore startOut 3) (getCore startOut 3).skq.loops (effective (getCore startOut 3).skq.loops (getCore startOut 3).skq.issue entryOut.raw) entryOut).st.st, code := (skPlan (getCore startOut 3) (getCore startOut 3).skq.loops (effective (getCore startOut 3).skq.loops (getCore startOut 3).skq.issue entryOut.raw) entryOut).st.code, halting := (skPlan (getCore startOut 3) (getCore startOut 3).skq.loops (effective (getCore startOut 3).skq.loops (getCore startOut 3).skq.issue entryOut.raw) entryOut).st.halting, lo := (skPlan (getCore startOut 3) (getCore startOut 3).skq.loops (effective (getCore startOut 3).skq.loops (getCore startOut 3).skq.issue entryOut.raw) entryOut).st.lo, hi := (skPlan (getCore startOut 3) (getCore startOut 3).skq.loops (effective (getCore startOut 3).skq.loops (getCore startOut 3).skq.issue entryOut.raw) entryOut).st.hi, visits := (skPlan (getCore startOut 3) (getCore startOut 3).skq.loops (effective (getCore startOut 3).skq.loops (getCore startOut 3).skq.issue entryOut.raw) entryOut).st.visits, reqs := (skPlan (getCore startOut 3) (getCore startOut 3).skq.loops (effective (getCore startOut 3).skq.loops (getCore startOut 3).skq.issue entryOut.raw) entryOut).st.reqs, nextSeq := (skPlan (getCore startOut 3) (getCore startOut 3).skq.loops (effective (getCore startOut 3).skq.loops (getCore startOut 3).skq.issue entryOut.raw) entryOut).st.nextSeq, held := (skPlan (getCore startOut 3) (getCore startOut 3).skq.loops (effective (getCore startOut 3).skq.loops (getCore startOut 3).skq.issue entryOut.raw) entryOut).st.held, target := targetOf startOut 3 (skPlan (getCore startOut 3) (getCore startOut 3).skq.loops (effective (getCore startOut 3).skq.loops (getCore startOut 3).skq.issue entryOut.raw) entryOut).st.cbytes (skPlan (getCore startOut 3) (getCore startOut 3).skq.loops (effective (getCore startOut 3).skq.loops (getCore startOut 3).skq.issue entryOut.raw) entryOut).st.raw, order := (skPlan (getCore startOut 3) (getCore startOut 3).skq.loops (effective (getCore startOut 3).skq.loops (getCore startOut 3).skq.issue entryOut.raw) entryOut).st.order, xbuf := (skPlan (getCore startOut 3) (getCore startOut 3).skq.loops (effective (getCore startOut 3).skq.loops (getCore startOut 3).skq.issue entryOut.raw) entryOut).st.xbuf, block := (skPlan (getCore startOut 3) (getCore startOut 3).skq.loops (effective (getCore startOut 3).skq.loops (getCore startOut 3).skq.issue entryOut.raw) entryOut).st.block, opened := (skPlan (getCore startOut 3) (getCore startOut 3).skq.loops (effective (getCore startOut 3).skq.loops (getCore startOut 3).skq.issue entryOut.raw) entryOut).st.opened, freeing := (skPlan (getCore startOut 3) (getCore startOut 3).skq.loops (effective (getCore startOut 3).skq.loops (getCore startOut 3).skq.issue entryOut.raw) entryOut).st.freeing, nullMarks := (skPlan (getCore startOut 3) (getCore startOut 3).skq.loops (effective (getCore startOut 3).skq.loops (getCore startOut 3).skq.issue entryOut.raw) entryOut).st.nullMarks, null := (skPlan (getCore startOut 3) (getCore startOut 3).skq.loops (effective (getCore startOut 3).skq.loops (getCore startOut 3).skq.issue entryOut.raw) entryOut).st.null, trans := (skPlan (getCore startOut 3) (getCore startOut 3).skq.loops (effective (getCore startOut 3).skq.loops (getCore startOut 3).skq.issue entryOut.raw) entryOut).st.trans, refetched := (skPlan (getCore startOut 3) (getCore startOut 3).skq.loops (effective (getCore startOut 3).skq.loops (getCore startOut 3).skq.issue entryOut.raw) entryOut).st.refetched, bad := (skPlan (getCore startOut 3) (getCore startOut 3).skq.loops (effective (getCore startOut 3).skq.loops (getCore startOut 3).skq.issue entryOut.raw) entryOut).st.bad, loose := (skPlan (getCore startOut 3) (getCore startOut 3).skq.loops (effective (getCore startOut 3).skq.loops (getCore startOut 3).skq.issue entryOut.raw) entryOut).st.loose } = true) ∧
    ((List.filter (fun n => !(List.filter (fun n => (skSlots (getCore startOut 3) (skPlan (getCore startOut 3) (getCore startOut 3).skq.loops (effective (getCore startOut 3).skq.loops (getCore startOut 3).skq.issue entryOut.raw) entryOut)).takes.contains n || (skSlots (getCore startOut 3) (skPlan (getCore startOut 3) (getCore startOut 3).skq.loops (effective (getCore startOut 3).skq.loops (getCore startOut 3).skq.issue entryOut.raw) entryOut)).tally.contains n) (dedup ((skSlots (getCore startOut 3) (skPlan (getCore startOut 3) (getCore startOut 3).skq.loops (effective (getCore startOut 3).skq.loops (getCore startOut 3).skq.issue entryOut.raw) entryOut)).src ++ (skSlots (getCore startOut 3) (skPlan (getCore startOut 3) (getCore startOut 3).skq.loops (effective (getCore startOut 3).skq.loops (getCore startOut 3).skq.issue entryOut.raw) entryOut)).gate))).contains n) (dedup ((skSlots (getCore startOut 3) (skPlan (getCore startOut 3) (getCore startOut 3).skq.loops (effective (getCore startOut 3).skq.loops (getCore startOut 3).skq.issue entryOut.raw) entryOut)).src ++ (skSlots (getCore startOut 3) (skPlan (getCore startOut 3) (getCore startOut 3).skq.loops (effective (getCore startOut 3).skq.loops (getCore startOut 3).skq.issue entryOut.raw) entryOut)).gate))).all (mayRead (getCore startOut 3)) = true) ∧
    ((List.filter (fun n => !(List.filter (fun n => (skSlots (getCore startOut 3) (skPlan (getCore startOut 3) (getCore startOut 3).skq.loops (effective (getCore startOut 3).skq.loops (getCore startOut 3).skq.issue entryOut.raw) entryOut)).takes.contains n || (skSlots (getCore startOut 3) (skPlan (getCore startOut 3) (getCore startOut 3).skq.loops (effective (getCore startOut 3).skq.loops (getCore startOut 3).skq.issue entryOut.raw) entryOut)).tally.contains n) (dedup ((skSlots (getCore startOut 3) (skPlan (getCore startOut 3) (getCore startOut 3).skq.loops (effective (getCore startOut 3).skq.loops (getCore startOut 3).skq.issue entryOut.raw) entryOut)).src ++ (skSlots (getCore startOut 3) (skPlan (getCore startOut 3) (getCore startOut 3).skq.loops (effective (getCore startOut 3).skq.loops (getCore startOut 3).skq.issue entryOut.raw) entryOut)).gate))).contains n) (dedup ((skSlots (getCore startOut 3) (skPlan (getCore startOut 3) (getCore startOut 3).skq.loops (effective (getCore startOut 3).skq.loops (getCore startOut 3).skq.issue entryOut.raw) entryOut)).takes ++ (skSlots (getCore startOut 3) (skPlan (getCore startOut 3) (getCore startOut 3).skq.loops (effective (getCore startOut 3).skq.loops (getCore startOut 3).skq.issue entryOut.raw) entryOut)).tally))).all (mayTake (getCore startOut 3)) = true) ∧
    (skFail (getCore (inOrder (atLeast startOut (getCore startOut 3).skq.winEnd) 3 (rankIssue (getCore startOut 3) QueueId.skq)) 3) (skPlan (getCore startOut 3) (getCore startOut 3).skq.loops (effective (getCore startOut 3).skq.loops (getCore startOut 3).skq.issue entryOut.raw) entryOut) (List.filter (fun n => (skSlots (getCore startOut 3) (skPlan (getCore startOut 3) (getCore startOut 3).skq.loops (effective (getCore startOut 3).skq.loops (getCore startOut 3).skq.issue entryOut.raw) entryOut)).takes.contains n || (skSlots (getCore startOut 3) (skPlan (getCore startOut 3) (getCore startOut 3).skq.loops (effective (getCore startOut 3).skq.loops (getCore startOut 3).skq.issue entryOut.raw) entryOut)).tally.contains n) (dedup ((skSlots (getCore startOut 3) (skPlan (getCore startOut 3) (getCore startOut 3).skq.loops (effective (getCore startOut 3).skq.loops (getCore startOut 3).skq.issue entryOut.raw) entryOut)).src ++ (skSlots (getCore startOut 3) (skPlan (getCore startOut 3) (getCore startOut 3).skq.loops (effective (getCore startOut 3).skq.loops (getCore startOut 3).skq.issue entryOut.raw) entryOut)).gate))) = none) ∧
    (skPlan (getCore startOut 3) (getCore startOut 3).skq.loops (effective (getCore startOut 3).skq.loops (getCore startOut 3).skq.issue entryOut.raw) entryOut).st.total ≠ 0 := by decide +kernel

/-- States and operands that meet the hypotheses of InjectionRule. -/
theorem witness_injectionRule :
    (∀ (f : Fetch) (va : Nat) (wr : Bool), (fetchCands (getCore (if (getCore sendsRead 3).skd.lastOut = some sendsRead.now then atLeast sendsRead (sendsRead.now + 1) else sendsRead) 3)).head? ≠ some (f, Next.lookup va wr)) ∧
    (∀ (f : Fetch) (va : Nat) (wr : Bool), (fetchCands (getCore (if (getCore sendsWrite 3).skd.lastOut = some sendsWrite.now then atLeast sendsWrite (sendsWrite.now + 1) else sendsWrite) 3)).head? ≠ some (f, Next.lookup va wr)) ∧
    (∀ (f : Fetch) (va : Nat) (wr : Bool), (fetchCands (getCore (if (getCore sendsArrival 3).skd.lastOut = some sendsArrival.now then atLeast sendsArrival (sendsArrival.now + 1) else sendsArrival) 3)).head? ≠ some (f, Next.lookup va wr)) ∧
    (∀ (f : Fetch) (va : Nat) (wr : Bool), (fetchCands (getCore (if (getCore (on awake) 3).skd.lastOut = some (on awake).now then atLeast (on awake) ((on awake).now + 1) else (on awake)) 3)).head? ≠ some (f, Next.lookup va wr)) ∧
    (getOwner felled3 3).felled = true ∧
    (getCore (on stagingAsleep) 3).pwr.st ≠ PState.active ∧
    (fetchCands (getCore (on stagingAsleep) 3)).head? = some (wantedImage 0 16, Next.go (0 : Nat) (0x20000 : Nat) (0 : Nat) (16 : Nat)) ∧
    (getOwner (on stagingAsleep) 3).felled = false ∧
    findStream (getCore (on stagingAsleep) 3) 1024 = none ∧
    pickRequester (accrue (getCore (on stagingAsleep) 3).skd.shares 0) [(1024, Next.go 0 0x20000 0 16)] = some ((0 : Nat), 1024) ∧
    (getCore (on (streaming (strm 0 0x10000) [] [])) 3).pwr.st = PState.active ∧
    (getOwner (on (streaming (strm 0 0x10000) [] [])) 3).felled = false ∧
    (findStream (getCore (if (getCore (on (streaming (strm 0 0x10000) [] [])) 3).skd.lastOut = some (on (streaming (strm 0 0x10000) [] [])).now then atLeast (on (streaming (strm 0 0x10000) [] [])) ((on (streaming (strm 0 0x10000) [] [])).now + 1) else (on (streaming (strm 0 0x10000) [] []))) 3) (strm 0 0x10000).ctx = some (strm 0 0x10000)) ∧
    (List.find? (fun a => a.snd.first) (if (getCore (if (getCore (on (streaming (strm 0 0x10000) [] [])) 3).skd.lastOut = some (on (streaming (strm 0 0x10000) [] [])).now then atLeast (on (streaming (strm 0 0x10000) [] [])) ((on (streaming (strm 0 0x10000) [] [])).now + 1) else (on (streaming (strm 0 0x10000) [] []))) 3).pwr.st = PState.active then List.map (fun o => (o.ctx, peek (if (getCore (on (streaming (strm 0 0x10000) [] [])) 3).skd.lastOut = some (on (streaming (strm 0 0x10000) [] [])).now then atLeast (on (streaming (strm 0 0x10000) [] [])) ((on (streaming (strm 0 0x10000) [] [])).now + 1) else (on (streaming (strm 0 0x10000) [] []))) 3 o)) (getCore (if (getCore (on (streaming (strm 0 0x10000) [] [])) 3).skd.lastOut = some (on (streaming (strm 0 0x10000) [] [])).now then atLeast (on (streaming (strm 0 0x10000) [] [])) ((on (streaming (strm 0 0x10000) [] [])).now + 1) else (on (streaming (strm 0 0x10000) [] []))) 3).skd.streams else []) = some ((strm 0 0x10000).ctx, Next.lookup (0x10000 : Nat) false)) ∧
    (getCore streamOff 3).pwr.st = PState.active ∧
    (getOwner streamOff 3).felled = false ∧
    (findStream (getCore (if (getCore streamOff 3).skd.lastOut = some streamOff.now then atLeast streamOff (streamOff.now + 1) else streamOff) 3) (strm 0 0x10000).ctx = some (strm 0 0x10000)) ∧
    (List.find? (fun a => a.snd.first) (if (getCore (if (getCore streamOff 3).skd.lastOut = some streamOff.now then atLeast streamOff (streamOff.now + 1) else streamOff) 3).pwr.st = PState.active then List.map (fun o => (o.ctx, peek (if (getCore streamOff 3).skd.lastOut = some streamOff.now then atLeast streamOff (streamOff.now + 1) else streamOff) 3 o)) (getCore (if (getCore streamOff 3).skd.lastOut = some streamOff.now then atLeast streamOff (streamOff.now + 1) else streamOff) 3).skd.streams else []) = some ((strm 0 0x10000).ctx, Next.halt ({ code := 0x0E, pos := 0 } : Halting))) ∧
    ({ code := 0x0E, pos := 0 } : Halting).bad = none ∧
    (getCore sendsRead 3).pwr.st = PState.active ∧
    (getOwner sendsRead 3).felled = false ∧
    (findStream (getCore (if (getCore sendsRead 3).skd.lastOut = some sendsRead.now then atLeast sendsRead (sendsRead.now + 1) else sendsRead) 3) visiting.ctx = some visiting) ∧
    (List.find? (fun a => a.snd.first) (if (getCore (if (getCore sendsRead 3).skd.lastOut = some sendsRead.now then atLeast sendsRead (sendsRead.now + 1) else sendsRead) 3).pwr.st = PState.active then List.map (fun o => (o.ctx, peek (if (getCore sendsRead 3).skd.lastOut = some sendsRead.now then atLeast sendsRead (sendsRead.now + 1) else sendsRead) 3 o)) (getCore (if (getCore sendsRead 3).skd.lastOut = some sendsRead.now then atLeast sendsRead (sendsRead.now + 1) else sendsRead) 3).skd.streams else []) = none) ∧
    (pickRequester (accrue (getCore (if (getCore sendsRead 3).skd.lastOut = some sendsRead.now then atLeast sendsRead (sendsRead.now + 1) else sendsRead) 3).skd.shares (if (getCore sendsRead 3).skd.lastOut = some sendsRead.now then atLeast sendsRead (sendsRead.now + 1) else sendsRead).now) ((if (getCore (if (getCore sendsRead 3).skd.lastOut = some sendsRead.now then atLeast sendsRead (sendsRead.now + 1) else sendsRead) 3).pwr.st = PState.active then List.map (fun o => (o.ctx, peek (if (getCore sendsRead 3).skd.lastOut = some sendsRead.now then atLeast sendsRead (sendsRead.now + 1) else sendsRead) 3 o)) (getCore (if (getCore sendsRead 3).skd.lastOut = some sendsRead.now then atLeast sendsRead (sendsRead.now + 1) else sendsRead) 3).skd.streams else []) ++ (Option.map (fun a => (1024, a.snd)) (fetchCands (getCore (if (getCore sendsRead 3).skd.lastOut = some sendsRead.now then atLeast sendsRead (sendsRead.now + 1) else sendsRead) 3)).head?).toList) = some ((0 : Nat), visiting.ctx)) ∧
    (peek (if (getCore sendsRead 3).skd.lastOut = some sendsRead.now then atLeast sendsRead (sendsRead.now + 1) else sendsRead) 3 visiting = Next.go (0 : Nat) (0x20000 : Nat) (0x400 : Nat) (64 : Nat)) ∧
    (getCore sendsWrite 3).pwr.st = PState.active ∧
    (getOwner sendsWrite 3).felled = false ∧
    (findStream (getCore (if (getCore sendsWrite 3).skd.lastOut = some sendsWrite.now then atLeast sendsWrite (sendsWrite.now + 1) else sendsWrite) 3) (strm 1 0x10000).ctx = some (strm 1 0x10000)) ∧
    (List.find? (fun a => a.snd.first) (if (getCore (if (getCore sendsWrite 3).skd.lastOut = some sendsWrite.now then atLeast sendsWrite (sendsWrite.now + 1) else sendsWrite) 3).pwr.st = PState.active then List.map (fun o => (o.ctx, peek (if (getCore sendsWrite 3).skd.lastOut = some sendsWrite.now then atLeast sendsWrite (sendsWrite.now + 1) else sendsWrite) 3 o)) (getCore (if (getCore sendsWrite 3).skd.lastOut = some sendsWrite.now then atLeast sendsWrite (sendsWrite.now + 1) else sendsWrite) 3).skd.streams else []) = none) ∧
    (pickRequester (accrue (getCore (if (getCore sendsWrite 3).skd.lastOut = some sendsWrite.now then atLeast sendsWrite (sendsWrite.now + 1) else sendsWrite) 3).skd.shares (if (getCore sendsWrite 3).skd.lastOut = some sendsWrite.now then atLeast sendsWrite (sendsWrite.now + 1) else sendsWrite).now) ((if (getCore (if (getCore sendsWrite 3).skd.lastOut = some sendsWrite.now then atLeast sendsWrite (sendsWrite.now + 1) else sendsWrite) 3).pwr.st = PState.active then List.map (fun o => (o.ctx, peek (if (getCore sendsWrite 3).skd.lastOut = some sendsWrite.now then atLeast sendsWrite (sendsWrite.now + 1) else sendsWrite) 3 o)) (getCore (if (getCore sendsWrite 3).skd.lastOut = some sendsWrite.now then atLeast sendsWrite (sendsWrite.now + 1) else sendsWrite) 3).skd.streams else []) ++ (Option.map (fun a => (1024, a.snd)) (fetchCands (getCore (if (getCore sendsWrite 3).skd.lastOut = some sendsWrite.now then atLeast sendsWrite (sendsWrite.now + 1) else sendsWrite) 3)).head?).toList) = some ((1 : Nat), (strm 1 0x10000).ctx)) ∧
    (peek (if (getCore sendsWrite 3).skd.lastOut = some sendsWrite.now then atLeast sendsWrite (sendsWrite.now + 1) else sendsWrite) 3 (strm 1 0x10000) = Next.go (1 : Nat) (0x20000 : Nat) (0 : Nat) (64 : Nat)) ∧
    (getCore sendsArrival 3).pwr.st = PState.active ∧
    (getOwner sendsArrival 3).felled = false ∧
    (findStream (getCore (if (getCore sendsArrival 3).skd.lastOut = some sendsArrival.now then atLeast sendsArrival (sendsArrival.now + 1) else sendsArrival) 3) (strm 2 0x800).ctx = some (strm 2 0x800)) ∧
    (List.find? (fun a => a.snd.first) (if (getCore (if (getCore sendsArrival 3).skd.lastOut = some sendsArrival.now then atLeast sendsArrival (sendsArrival.now + 1) else sendsArrival) 3).pwr.st = PState.active then List.map (fun o => (o.ctx, peek (if (getCore sendsArrival 3).skd.lastOut = some sendsArrival.now then atLeast sendsArrival (sendsArrival.now + 1) else sendsArrival) 3 o)) (getCore (if (getCore sendsArrival 3).skd.lastOut = some sendsArrival.now then atLeast sendsArrival (sendsArrival.now + 1) else sendsArrival) 3).skd.streams else []) = none) ∧
    (pickRequester (accrue (getCore (if (getCore sendsArrival 3).skd.lastOut = some sendsArrival.now then atLeast sendsArrival (sendsArrival.now + 1) else sendsArrival) 3).skd.shares (if (getCore sendsArrival 3).skd.lastOut = some sendsArrival.now then atLeast sendsArrival (sendsArrival.now + 1) else sendsArrival).now) ((if (getCore (if (getCore sendsArrival 3).skd.lastOut = some sendsArrival.now then atLeast sendsArrival (sendsArrival.now + 1) else sendsArrival) 3).pwr.st = PState.active then List.map (fun o => (o.ctx, peek (if (getCore sendsArrival 3).skd.lastOut = some sendsArrival.now then atLeast sendsArrival (sendsArrival.now + 1) else sendsArrival) 3 o)) (getCore (if (getCore sendsArrival 3).skd.lastOut = some sendsArrival.now then atLeast sendsArrival (sendsArrival.now + 1) else sendsArrival) 3).skd.streams else []) ++ (Option.map (fun a => (1024, a.snd)) (fetchCands (getCore (if (getCore sendsArrival 3).skd.lastOut = some sendsArrival.now then atLeast sendsArrival (sendsArrival.now + 1) else sendsArrival) 3)).head?).toList) = some ((2 : Nat), (strm 2 0x800).ctx)) ∧
    (peek (if (getCore sendsArrival 3).skd.lastOut = some sendsArrival.now then atLeast sendsArrival (sendsArrival.now + 1) else sendsArrival) 3 (strm 2 0x800) = Next.go (2 : Nat) (0x800 : Nat) (0 : Nat) (64 : Nat)) ∧
    (getCore (on (wanting [])) 3).pwr.st = PState.active ∧
    (getOwner (on (wanting [])) 3).felled = false ∧
    (List.find? (fun a => a.snd.first) (if (getCore (if (getCore (on (wanting [])) 3).skd.lastOut = some (on (wanting [])).now then atLeast (on (wanting [])) ((on (wanting [])).now + 1) else (on (wanting []))) 3).pwr.st = PState.active then List.map (fun o => (o.ctx, peek (if (getCore (on (wanting [])) 3).skd.lastOut = some (on (wanting [])).now then atLeast (on (wanting [])) ((on (wanting [])).now + 1) else (on (wanting []))) 3 o)) (getCore (if (getCore (on (wanting [])) 3).skd.lastOut = some (on (wanting [])).now then atLeast (on (wanting [])) ((on (wanting [])).now + 1) else (on (wanting []))) 3).skd.streams else []) = none) ∧
    ((fetchCands (getCore (if (getCore (on (wanting [])) 3).skd.lastOut = some (on (wanting [])).now then atLeast (on (wanting [])) ((on (wanting [])).now + 1) else (on (wanting []))) 3)).head? = some (wanted, Next.lookup (0 : Nat) false)) ∧
    (getCore (on (wanting paged0)) 3).pwr.st = PState.active ∧
    (getOwner (on (wanting paged0)) 3).felled = false ∧
    (List.find? (fun a => a.snd.first) (if (getCore (if (getCore (on (wanting paged0)) 3).skd.lastOut = some (on (wanting paged0)).now then atLeast (on (wanting paged0)) ((on (wanting paged0)).now + 1) else (on (wanting paged0))) 3).pwr.st = PState.active then List.map (fun o => (o.ctx, peek (if (getCore (on (wanting paged0)) 3).skd.lastOut = some (on (wanting paged0)).now then atLeast (on (wanting paged0)) ((on (wanting paged0)).now + 1) else (on (wanting paged0))) 3 o)) (getCore (if (getCore (on (wanting paged0)) 3).skd.lastOut = some (on (wanting paged0)).now then atLeast (on (wanting paged0)) ((on (wanting paged0)).now + 1) else (on (wanting paged0))) 3).skd.streams else []) = none) ∧
    ((fetchCands (getCore (if (getCore (on (wanting paged0)) 3).skd.lastOut = some (on (wanting paged0)).now then atLeast (on (wanting paged0)) ((on (wanting paged0)).now + 1) else (on (wanting paged0))) 3)).head? = some (wanted, Next.go (0 : Nat) (0x20000 : Nat) (0 : Nat) (64 : Nat))) ∧
    (findStream (getCore (if (getCore (on (wanting paged0)) 3).skd.lastOut = some (on (wanting paged0)).now then atLeast (on (wanting paged0)) ((on (wanting paged0)).now + 1) else (on (wanting paged0))) 3) 1024 = none) ∧
    (pickRequester (accrue (getCore (if (getCore (on (wanting paged0)) 3).skd.lastOut = some (on (wanting paged0)).now then atLeast (on (wanting paged0)) ((on (wanting paged0)).now + 1) else (on (wanting paged0))) 3).skd.shares (if (getCore (on (wanting paged0)) 3).skd.lastOut = some (on (wanting paged0)).now then atLeast (on (wanting paged0)) ((on (wanting paged0)).now + 1) else (on (wanting paged0))).now) ((if (getCore (if (getCore (on (wanting paged0)) 3).skd.lastOut = some (on (wanting paged0)).now then atLeast (on (wanting paged0)) ((on (wanting paged0)).now + 1) else (on (wanting paged0))) 3).pwr.st = PState.active then List.map (fun o => (o.ctx, peek (if (getCore (on (wanting paged0)) 3).skd.lastOut = some (on (wanting paged0)).now then atLeast (on (wanting paged0)) ((on (wanting paged0)).now + 1) else (on (wanting paged0))) 3 o)) (getCore (if (getCore (on (wanting paged0)) 3).skd.lastOut = some (on (wanting paged0)).now then atLeast (on (wanting paged0)) ((on (wanting paged0)).now + 1) else (on (wanting paged0))) 3).skd.streams else []) ++ (Option.map (fun a => (1024, a.snd)) (fetchCands (getCore (if (getCore (on (wanting paged0)) 3).skd.lastOut = some (on (wanting paged0)).now then atLeast (on (wanting paged0)) ((on (wanting paged0)).now + 1) else (on (wanting paged0))) 3)).head?).toList) = some ((0 : Nat), 1024)) ∧
    (getCore (on awake) 3).pwr.st = PState.active ∧
    (getOwner (on awake) 3).felled = false ∧
    (List.find? (fun a => a.snd.first) (if (getCore (if (getCore (on awake) 3).skd.lastOut = some (on awake).now then atLeast (on awake) ((on awake).now + 1) else (on awake)) 3).pwr.st = PState.active then List.map (fun o => (o.ctx, peek (if (getCore (on awake) 3).skd.lastOut = some (on awake).now then atLeast (on awake) ((on awake).now + 1) else (on awake)) 3 o)) (getCore (if (getCore (on awake) 3).skd.lastOut = some (on awake).now then atLeast (on awake) ((on awake).now + 1) else (on awake)) 3).skd.streams else []) = none) ∧
    (pickRequester (accrue (getCore (if (getCore (on awake) 3).skd.lastOut = some (on awake).now then atLeast (on awake) ((on awake).now + 1) else (on awake)) 3).skd.shares (if (getCore (on awake) 3).skd.lastOut = some (on awake).now then atLeast (on awake) ((on awake).now + 1) else (on awake)).now) ((if (getCore (if (getCore (on awake) 3).skd.lastOut = some (on awake).now then atLeast (on awake) ((on awake).now + 1) else (on awake)) 3).pwr.st = PState.active then List.map (fun o => (o.ctx, peek (if (getCore (on awake) 3).skd.lastOut = some (on awake).now then atLeast (on awake) ((on awake).now + 1) else (on awake)) 3 o)) (getCore (if (getCore (on awake) 3).skd.lastOut = some (on awake).now then atLeast (on awake) ((on awake).now + 1) else (on awake)) 3).skd.streams else []) ++ (Option.map (fun a => (1024, a.snd)) (fetchCands (getCore (if (getCore (on awake) 3).skd.lastOut = some (on awake).now then atLeast (on awake) ((on awake).now + 1) else (on awake)) 3)).head?).toList) = none) :=
  ⟨fun f va wr => ne_some _ (by decide +kernel) _, fun f va wr => ne_some _ (by decide +kernel) _, fun f va wr => ne_some _ (by decide +kernel) _, fun f va wr => ne_some _ (by decide +kernel) _, by and_intros <;> decide +kernel⟩

/-- States and operands that meet the hypotheses of StreamAnswers. -/
theorem witness_streamAnswers :
    ((∃ d, (answer1 .nack 1).src = Node.core d) ∨ ∃ p i, (answer1 .nack 1).src = Node.land p i ∧ (answer1 .nack 1).ctx ≠ 1024) ∧
    takeFlit (met (streaming (waiting1 0) paged streamTags) (answer1 .readResp 0)) (4 : Nat) = some ((answer1 .readResp 0), ({ met (streaming (waiting1 0) paged streamTags) (answer1 .readResp 0) with mesh := [] })) ∧
    ((answer1 .readResp 0).kind = FlitKind.readResp ∧ (answer1 .readResp 0).ctx ≠ 1024 ∨ (answer1 .readResp 0).kind = FlitKind.pullResp ∧ (answer1 .readResp 0).hdr = none) ∧
    (answer1 .readResp 0).dst = Node.core (3 : Nat) ∧
    findStream (getCore ({ met (streaming (waiting1 0) paged streamTags) (answer1 .readResp 0) with mesh := [] }) (3 : Nat)) (answer1 .readResp 0).ctx = some (waiting1 0) ∧
    findReq (waiting1 0) (answer1 .readResp 0).seq = some req1 ∧
    req1.waiting ≤ 1 ∧
    blockwise (waiting1 0) = false ∧
    writesOff (getCore ({ met (streaming (waiting1 0) paged streamTags) (answer1 .readResp 0) with mesh := [] }) (3 : Nat)) [((pieceAt (waiting1 0) req1.pos).snd.fst.toNat, (answer1 .readResp 0).data)] = false ∧
    (getCore ({ met (streaming (waiting1 0) paged streamTags) (answer1 .readResp 0) with mesh := [] }) (3 : Nat)).spd.bad = [] ∧
    (∀ (g : Gather), g ∈ (getCore ({ met (streaming (waiting1 0) paged streamTags) (answer1 .readResp 0) with mesh := [] }) (3 : Nat)).spd.gather → g.bytes.length = 32) ∧
    takeFlit (met { streaming (waiting1 0) paged streamTags with spd := { segs := [(0, { phase := .off })] } } (answer1 .readResp 0)) (4 : Nat) = some ((answer1 .readResp 0), ({ met { streaming (waiting1 0) paged streamTags with spd := { segs := [(0, { phase := .off })] } } (answer1 .readResp 0) with mesh := [] })) ∧
    findStream (getCore ({ met { streaming (waiting1 0) paged streamTags with spd := { segs := [(0, { phase := .off })] } } (answer1 .readResp 0) with mesh := [] }) (3 : Nat)) (answer1 .readResp 0).ctx = some (waiting1 0) ∧
    writesOff (getCore ({ met { streaming (waiting1 0) paged streamTags with spd := { segs := [(0, { phase := .off })] } } (answer1 .readResp 0) with mesh := [] }) (3 : Nat)) [((pieceAt (waiting1 0) req1.pos).snd.fst.toNat, (answer1 .readResp 0).data)] = true ∧
    (waiting1 0).halting = none ∧
    takeFlit (met sentFetch (fetchAnswer .readResp)) (4 : Nat) = some ((fetchAnswer .readResp), ({ met sentFetch (fetchAnswer .readResp) with mesh := [] })) ∧
    (fetchAnswer .readResp).kind = FlitKind.readResp ∧
    (fetchAnswer .readResp).ctx = 1024 ∧
    (fetchAnswer .readResp).dst = Node.core (3 : Nat) ∧
    (getCore ({ met sentFetch (fetchAnswer .readResp) with mesh := [] }) 3).skd.fetches.find? (fun g => g.n = (fetchAnswer .readResp).seq ∧ g.stage = .sent) = some { wanted with stage := .sent } ∧
    fetchStale (getCore ({ met sentFetch (fetchAnswer .readResp) with mesh := [] }) 3) { wanted with stage := .sent } = false ∧
    (∀ g ∈ (getCore ({ met awake (fetchAnswer .readResp) with mesh := [] }) 3).skd.fetches, ¬ (g.n = (fetchAnswer .readResp).seq ∧ g.stage = .sent)) ∧
    (getCore (on (fetching (wantedImage 0 16) (load1 4 16))) 3).skd.fetches.find? (fun g => g.n = (fetchAnswer .readResp).seq ∧ g.stage = .sent) = some { wantedImage 0 16 with stage := .sent } ∧
    fetchStale (getCore (on (fetching (wantedImage 0 16) (load1 4 16))) 3) { wantedImage 0 16 with stage := .sent } = true ∧
    (getCore (on (fetching (wantedImage 0 16) (load1 1 16))) 3).skd.fetches.find? (fun g => g.n = (fetchAnswer .readResp).seq ∧ g.stage = .sent) = some { wantedImage 0 16 with stage := .sent } ∧
    (getCore (on (fetching (wantedImage 0 16) (load1 1 16))) 3).grv.load = some (load1 1 16) ∧ (load1 1 16).phase = 1 ∧ (load1 1 16).slots.Nodup ∧
    (fetchAnswer .readResp).data.length ≤ 256 ∧ 0 + (fetchAnswer .readResp).data.length ≤ 1024 * (load1 1 16).slots.length ∧
    takeFlit (met (streaming (waiting1 1) paged streamTags) (answer1 .ack 0)) (4 : Nat) = some ((answer1 .ack 0), ({ met (streaming (waiting1 1) paged streamTags) (answer1 .ack 0) with mesh := [] })) ∧
    (answer1 .ack 0).kind = FlitKind.ack ∧
    (answer1 .ack 0).dst = Node.core (3 : Nat) ∧
    (answer1 .ack 0).hdr = none ∧
    findStream (getCore ({ met (streaming (waiting1 1) paged streamTags) (answer1 .ack 0) with mesh := [] }) (3 : Nat)) (answer1 .ack 0).ctx = some (waiting1 1) ∧
    findReq (waiting1 1) (answer1 .ack 0).seq = some req1 ∧
    takeFlit (met (streaming (waiting1 0) paged streamTags) (answer1 .nack 1)) (4 : Nat) = some ((answer1 .nack 1), ({ met (streaming (waiting1 0) paged streamTags) (answer1 .nack 1) with mesh := [] })) ∧
    (answer1 .nack 1).kind = FlitKind.nack ∧
    (answer1 .nack 1).dst = Node.core (3 : Nat) ∧
    (answer1 .nack 1).hdr = none ∧
    findStream (getCore ({ met (streaming (waiting1 0) paged streamTags) (answer1 .nack 1) with mesh := [] }) (3 : Nat)) (answer1 .nack 1).ctx = some (waiting1 0) ∧
    findReq (waiting1 0) (answer1 .nack 1).seq = some req1 ∧
    takeFlit (met sentFetch (fetchAnswer .nack)) (4 : Nat) = some ((fetchAnswer .nack), ({ met sentFetch (fetchAnswer .nack) with mesh := [] })) ∧
    (fetchAnswer .nack).kind = FlitKind.nack ∧
    (fetchAnswer .nack).dst = Node.core (3 : Nat) ∧
    (fetchAnswer .nack).hdr = none ∧
    (fetchAnswer .nack).src = Node.land (0 : Nat) (0 : Nat) ∧
    (fetchAnswer .nack).ctx = 1024 ∧
    takeFlit (met allUntagged (pull 0xBFFFC)) (4 : Nat) = some ((pull 0xBFFFC), ({ met allUntagged (pull 0xBFFFC) with mesh := [] })) ∧
    (pull 0xBFFFC).kind = FlitKind.pullReq ∧
    (pull 0xBFFFC).dst = Node.core (3 : Nat) ∧
    (pull 0xBFFFC).hdr = none ∧
    takeFlit (met allUntagged (pull 0xBFFFE)) (4 : Nat) = some ((pull 0xBFFFE), ({ met allUntagged (pull 0xBFFFE) with mesh := [] })) ∧
    (pull 0xBFFFE).kind = FlitKind.pullReq ∧
    (pull 0xBFFFE).dst = Node.core (3 : Nat) ∧
    (pull 0xBFFFE).hdr = none ∧
    takeFlit (met awake (pull 0)) (4 : Nat) = some ((pull 0), ({ met awake (pull 0) with mesh := [] })) ∧
    (pull 0).kind = FlitKind.pullReq ∧
    (pull 0).dst = Node.core (3 : Nat) ∧
    (pull 0).hdr = none ∧
    takeFlit (met { allUntagged with spd := { segs := [(0, { phase := .off })] } } (pull 0)) (4 : Nat) = some ((pull 0), ({ met { allUntagged with spd := { segs := [(0, { phase := .off })] } } (pull 0) with mesh := [] })) ∧
    (¬(0x10000 : BitVec 44).toNat / 65536 ∈ (getCore (on awake) 3).skd.asked) ∧
    (0x10000 : BitVec 44).toNat / 65536 ∈ (getCore (on (asking [] [])) 3).skd.asked ∧
    (∀ (v : Save), v ∈ (getCore (on (asking [] [])) 3).skd.saves → v.va / 65536 ≠ (0x10000 : BitVec 44).toNat / 65536) ∧
    (0x10000 : BitVec 44).toNat / 65536 ∈ (getCore (on (asking (List.replicate 64 { large := false, vpage := 9, pa := 0, writable := true }) [])) 3).skd.asked ∧
    (∀ (v : Save), v ∈ (getCore (on (asking (List.replicate 64 { large := false, vpage := 9, pa := 0, writable := true }) [])) 3).skd.saves → v.va / 65536 ≠ (0x10000 : BitVec 44).toNat / 65536) ∧
    (0x10000 : BitVec 44).toNat / 65536 ∈ (getCore (on (asking [] [save1])) 3).skd.asked ∧
    (List.filter (fun v => decide (v.va / 65536 = (0x10000 : BitVec 44).toNat / 65536)) (getCore (on (asking [] [save1])) 3).skd.saves = [save1]) :=
  ⟨(by exact Or.inr ⟨0, 0, rfl, by decide⟩), (by and_intros <;> decide +kernel)⟩

/-- States and operands that meet the hypotheses of SlotVisits. -/
theorem witness_slotVisits :
    findStream (getCore (on (streaming (strm 0 0x10000) paged [])) 3) (2 : CtxId).val = some (strm 0 0x10000) ∧
    peek (on (streaming (strm 0 0x10000) paged [])) 3 (strm 0 0x10000) = Next.visit ∧
    unvisited (getCore (on (streaming (strm 0 0x10000) paged [])) 3) (strm 0 0x10000) = some (1 : Nat) ∧
    (¬(1 : Nat) ∈ (strm 0 0x10000).held) ∧
    mayTake (getCore (on (streaming (strm 0 0x10000) paged [])) 3) (1 : Nat) = true ∧
    untagged (getCore (on (streaming (strm 0 0x10000) paged [])) 3) (1 : Nat) = false ∧
    findStream (getCore (on (streaming (strm 0 0x10000) paged streamTags)) 3) (2 : CtxId).val = some (strm 0 0x10000) ∧
    peek (on (streaming (strm 0 0x10000) paged streamTags)) 3 (strm 0 0x10000) = Next.visit ∧
    unvisited (getCore (on (streaming (strm 0 0x10000) paged streamTags)) 3) (strm 0 0x10000) = some (1 : Nat) ∧
    mayTake (getCore (on (streaming (strm 0 0x10000) paged streamTags)) 3) (1 : Nat) = false ∧
    (strm 0 0x10000).st ≠ StreamState.waitslot ∧
    findStream (getCore (on (streaming { strm 0 0x10000 with st := .waitslot } paged streamTags)) 3) (2 : CtxId).val = some ({ strm 0 0x10000 with st := .waitslot } : Machine.Stream) ∧
    peek (on (streaming { strm 0 0x10000 with st := .waitslot } paged streamTags)) 3 ({ strm 0 0x10000 with st := .waitslot } : Machine.Stream) = Next.visit ∧
    unvisited (getCore (on (streaming { strm 0 0x10000 with st := .waitslot } paged streamTags)) 3) ({ strm 0 0x10000 with st := .waitslot } : Machine.Stream) = some (1 : Nat) ∧
    (¬(1 : Nat) ∈ ({ strm 0 0x10000 with st := .waitslot } : Machine.Stream).held) ∧
    mayTake (getCore (on (streaming { strm 0 0x10000 with st := .waitslot } paged streamTags)) 3) (1 : Nat) = false ∧
    ({ strm 0 0x10000 with st := .waitslot } : Machine.Stream).st = StreamState.waitslot ∧
    findStream (getCore (on (streaming { strm 0 0x10000 with held := [1] } paged streamTags)) 3) (2 : CtxId).val = some ({ strm 0 0x10000 with held := [1] } : Machine.Stream) ∧
    peek (on (streaming { strm 0 0x10000 with held := [1] } paged streamTags)) 3 ({ strm 0 0x10000 with held := [1] } : Machine.Stream) = Next.visit ∧
    unvisited (getCore (on (streaming { strm 0 0x10000 with held := [1] } paged streamTags)) 3) ({ strm 0 0x10000 with held := [1] } : Machine.Stream) = some (1 : Nat) ∧
    (1 : Nat) ∈ ({ strm 0 0x10000 with held := [1] } : Machine.Stream).held ∧
    findStream (getCore (on (streaming { waiting1 0 with reqs := [] } paged streamTags)) 3) (2 : CtxId).val = some ({ waiting1 0 with reqs := [] } : Machine.Stream) ∧
    deliversOwn ({ waiting1 0 with reqs := [] } : Machine.Stream) = true ∧
    List.find? (visitDone ({ waiting1 0 with reqs := [] } : Machine.Stream)) ({ waiting1 0 with reqs := [] } : Machine.Stream).visits = some ({ visit1 with upto := 64, left := true } : Visit) ∧
    untagged (getCore (on (streaming { waiting1 0 with reqs := [] } paged streamTags)) 3) ({ visit1 with upto := 64, left := true } : Visit).slot = false ∧
    findStream (getCore (on (streaming { waiting1 2 with reqs := [] } paged streamTags)) 3) (2 : CtxId).val = some ({ waiting1 2 with reqs := [] } : Machine.Stream) ∧
    mayMark ({ waiting1 2 with reqs := [] } : Machine.Stream) = true ∧
    nextNull ({ waiting1 2 with reqs := [] } : Machine.Stream) = none ∧
    nextEnding ({ waiting1 2 with reqs := [] } : Machine.Stream) = some ({ visit1 with upto := 64, left := true } : Visit) ∧
    findStream (getCore (on (streaming { strm 2 0x800 with nullMarks := [2], null := true } paged streamTags)) 3) (2 : CtxId).val = some ({ strm 2 0x800 with nullMarks := [2], null := true } : Machine.Stream) ∧
    mayMark ({ strm 2 0x800 with nullMarks := [2], null := true } : Machine.Stream) = true ∧
    nextNull ({ strm 2 0x800 with nullMarks := [2], null := true } : Machine.Stream) = some (2 : Nat) ∧
    List.find? (foreign (on (streaming { strm 2 0x800 with nullMarks := [2], null := true } paged streamTags)) 3) (streamDests ({ strm 2 0x800 with nullMarks := [2], null := true } : Machine.Stream)) = none ∧
    (skDir ({ strm 2 0x800 with nullMarks := [2], null := true } : Machine.Stream).raw = 3 → targetBad (on (streaming { strm 2 0x800 with nullMarks := [2], null := true } paged streamTags)) 3 ({ strm 2 0x800 with nullMarks := [2], null := true } : Machine.Stream) = false) := by decide +kernel

/-- States and operands that meet the hypotheses of StreamContextCommands. -/
theorem witness_streamContextCommands :
    findStream (getCore (on (streaming (walked 0 0x10000) paged [])) 3) (2 : CtxId).val = some (walked 0 0x10000) ∧
    streamDone (walked 0 0x10000) = true ∧
    findStream (getCore (on (streaming (walked 0 0x10000) paged0 [])) 3) (2 : CtxId).val = some (walked 0 0x10000) ∧
    findStream (getCore (on (streaming { strm 0 0x10000 with halting := some { code := 5, pos := 0 } } paged [])) 3) (2 : CtxId).val = some ({ strm 0 0x10000 with halting := some { code := 5, pos := 0 } } : Machine.Stream) ∧
    ({ strm 0 0x10000 with halting := some { code := 5, pos := 0 } } : Machine.Stream).halting = some ({ code := 5, pos := 0 } : Halting) ∧
    (({ strm 0 0x10000 with halting := some { code := 5, pos := 0 } } : Machine.Stream).st = StreamState.run ∨ ({ strm 0 0x10000 with halting := some { code := 5, pos := 0 } } : Machine.Stream).st = StreamState.waitslot) ∧
    ({ strm 0 0x10000 with halting := some { code := 5, pos := 0 } } : Machine.Stream).reqs = [] ∧
    awaiting (getCore (on (streaming { strm 0 0x10000 with halting := some { code := 5, pos := 0 } } paged [])) 3) ({ strm 0 0x10000 with halting := some { code := 5, pos := 0 } } : Machine.Stream).ctx = false ∧
    ({ code := 5, pos := 0 } : Halting).report = false ∧
    ({ code := 5, pos := 0 } : Halting).bad = none ∧
    ({ code := 5, pos := 0 } : Halting).nack = false ∧
    findStream (getCore (on (streaming reporting paged [])) 3) (2 : CtxId).val = some reporting ∧
    reporting.halting = some ({ code := 4, pos := 0, report := true } : Halting) ∧
    (reporting.st = StreamState.run ∨ reporting.st = StreamState.waitslot) ∧
    reporting.reqs = [] ∧
    awaiting (getCore (on (streaming reporting paged [])) 3) reporting.ctx = false ∧
    ({ code := 4, pos := 0, report := true } : Halting).report = true ∧
    reporting.visits ≠ [] ∧
    skDir reporting.raw = 2 ∧
    reporting.group = [] ∧
    reaches (on (streaming { strm 0 0x10000 with st := .halted, code := 5 } paged [])) (.mgmt : Port) (PageRef.core (3 : CoreId) 6) 88 (on (streaming { strm 0 0x10000 with st := .halted, code := 5 } paged [])) ∧
    findStream (getCore (on (streaming { strm 0 0x10000 with st := .halted, code := 5 } paged [])) 3) (2 : CtxId).val = some ({ strm 0 0x10000 with st := .halted, code := 5 } : Machine.Stream) ∧
    (({ strm 0 0x10000 with st := .halted, code := 5 } : Machine.Stream).st = StreamState.halted ∨ ({ strm 0 0x10000 with st := .halted, code := 5 } : Machine.Stream).st = StreamState.aborted) ∧
    reaches (on (streaming (strm 0 0x10000) paged [])) (.mgmt : Port) (PageRef.core (3 : CoreId) 6) 88 (on (streaming (strm 0 0x10000) paged [])) ∧
    findStream (getCore (on (streaming (strm 0 0x10000) paged [])) 3) (2 : CtxId).val = some (strm 0 0x10000) ∧
    ((strm 0 0x10000).st = StreamState.run ∨ (strm 0 0x10000).st = StreamState.waitslot ∨ (strm 0 0x10000).st = StreamState.halted) ∧
    ((strm 0 0x10000).st = StreamState.run ∨ (strm 0 0x10000).st = StreamState.waitslot ∨ (strm 0 0x10000).st = StreamState.aborting) ∧
    reaches (on (streaming { strm 0 0x10000 with st := .aborting } paged [])) (.mgmt : Port) (PageRef.core (3 : CoreId) 6) 88 (on (streaming { strm 0 0x10000 with st := .aborting } paged [])) ∧
    findStream (getCore (on (streaming { strm 0 0x10000 with st := .aborting } paged [])) 3) (2 : CtxId).val = some ({ strm 0 0x10000 with st := .aborting } : Machine.Stream) ∧
    (({ strm 0 0x10000 with st := .aborting } : Machine.Stream).st = StreamState.aborting ∨ ({ strm 0 0x10000 with st := .aborting } : Machine.Stream).st = StreamState.aborted) ∧
    (strm 0 0x10000).st ≠ StreamState.aborted ∧
    reaches (on (streaming { strm 0 0x10000 with st := .aborted } paged [])) (.mgmt : Port) (PageRef.core (3 : CoreId) 6) 88 (on (streaming { strm 0 0x10000 with st := .aborted } paged [])) ∧
    findStream (getCore (on (streaming { strm 0 0x10000 with st := .aborted } paged [])) 3) (2 : CtxId).val = some ({ strm 0 0x10000 with st := .aborted } : Machine.Stream) ∧
    ({ strm 0 0x10000 with st := .aborted } : Machine.Stream).st = StreamState.aborted ∧
    reaches (on refetching) (.mgmt : Port) (PageRef.core (3 : CoreId) 6) 88 (on refetching) ∧
    findStream (getCore (on refetching) 3) (1023 : CtxId).val = none ∧
    findStream (getCore (on (streaming { strm 0 0x10000 with st := .aborting, halting := some { code := 0, pos := 0, report := true } } paged [])) 3) (2 : CtxId).val = some ({ strm 0 0x10000 with st := .aborting, halting := some { code := 0, pos := 0, report := true } } : Machine.Stream) ∧
    ({ strm 0 0x10000 with st := .aborting, halting := some { code := 0, pos := 0, report := true } } : Machine.Stream).st = StreamState.aborting ∧
    ({ strm 0 0x10000 with st := .aborting, halting := some { code := 0, pos := 0, report := true } } : Machine.Stream).reqs = [] ∧
    awaiting (getCore (on (streaming { strm 0 0x10000 with st := .aborting, halting := some { code := 0, pos := 0, report := true } } paged [])) 3) ({ strm 0 0x10000 with st := .aborting, halting := some { code := 0, pos := 0, report := true } } : Machine.Stream).ctx = false ∧
    ({ strm 0 0x10000 with st := .aborting, halting := some { code := 0, pos := 0, report := true } } : Machine.Stream).halting = some ({ code := 0, pos := 0, report := true } : Halting) ∧
    ({ code := 0, pos := 0, report := true } : Halting).report = true ∧
    ({ strm 0 0x10000 with st := .aborting, halting := some { code := 0, pos := 0, report := true } } : Machine.Stream).visits = [] ∧
    ({ strm 0 0x10000 with st := .aborting, halting := some { code := 0, pos := 0, report := true } } : Machine.Stream).freeing = false ∧
    ownHeld ({ strm 0 0x10000 with st := .aborting, halting := some { code := 0, pos := 0, report := true } } : Machine.Stream) = [] ∧
    ({ strm 0 0x10000 with st := .aborting, halting := some { code := 0, pos := 0, report := true } } : Machine.Stream).block = [] ∧
    ({ strm 0 0x10000 with st := .aborting, halting := some { code := 0, pos := 0, report := true } } : Machine.Stream).xbuf = [] ∧
    (CmdSrc.torus 1 (cmd3 8 5) (cmdBody 0x3F 7 [0, 5])).wf = true ∧
    takeCmd (on { awake with skd := { awaited := [{ chip := 9, core := 1, ctx := 2 }] } }) (CmdSrc.torus 1 (cmd3 8 5) (cmdBody 0x3F 7 [0, 5])) 63 = some ((Via.port 1), (cmd3 8 5), (cmdBody 0x3F 7 [0, 5]), (portOrder (on { awake with skd := { awaited := [{ chip := 9, core := 1, ctx := 2 }] } }) .mgmt .blk)) ∧
    bodyArg (cmdBody 0x3F 7 [0, 5]) 9 1 = 5 ∧
    (List.find? (fun a => decide (a.chip = (cmd3 8 5).srcChip ∧ a.core = (cmd3 8 5).srcCore.toNat)) (getCore (portOrder (on { awake with skd := { awaited := [{ chip := 9, core := 1, ctx := 2 }] } }) .mgmt .blk) ↑(cmd3 8 5).core).skd.awaited = some ({ chip := 9, core := 1, ctx := 2 } : Await)) ∧
    (fld (kReg (getCore (on awake) 3) 6 80) 0 24 = 0 ∨ groupEmpty (getCore (on awake) 3) = true) ∧
    fld (kReg (getCore (on { streaming { strm 0 0x10000 with st := .waitslot } paged streamTags with pages := [(6, { act := [(0x50, 0xFFFFFF#32)] })] }) 3) 6 80) 0 24 ≠ 0 ∧
    groupEmpty (getCore (on { streaming { strm 0 0x10000 with st := .waitslot } paged streamTags with pages := [(6, { act := [(0x50, 0xFFFFFF#32)] })] }) 3) = false := by and_intros <;> decide +kernel

/-- States and operands that meet the hypotheses of LinkRule. -/
theorem witness_linkRule :
    hasTurn (met awake moving) (4, 0) (portInto moving (4, 0)) moving = true ∧
    (([(5, 0)] : List (Nat × Nat)) ≠ [] ∨ ∀ (q : Nat), moving.dst ≠ Node.torus q) ∧
    hasTurn (met awake leaving) (4, 0) (portInto leaving (4, 0)) leaving = true ∧
    hasTurn (met awake branching) (3, 0) (portInto ({ branching with route := [(3, 0)], tree := [5, 43] } : Flit) (3, 0)) ({ branching with route := [(3, 0)], tree := [5, 43] } : Flit) = true ∧
    hasTurn (met awake branched) (4, 0) (portInto branched (4, 0)) branched = true ∧
    (hasTurn ({ met awake moving with failedLinks := [((4, 0), 4)] } : State) (4, 0) (portInto moving (4, 0)) moving = false ∨ ((4, 0), portInto moving (4, 0)) ∈ ({ met awake moving with failedLinks := [((4, 0), 4)] } : State).failedLinks) ∧
    findFlit (met awake moving) (4 : Nat) = some moving ∧
    moving.route = (4, 0) :: ([(5, 0)] : List (Nat × Nat)) ∧
    (¬((4, 0), portInto moving (4, 0)) ∈ (met awake moving).failedLinks) ∧
    moving.tree = [] ∧
    findFlit (met awake leaving) (4 : Nat) = some leaving ∧
    leaving.route = (4, 0) :: ([] : List (Nat × Nat)) ∧
    (¬((4, 0), portInto leaving (4, 0)) ∈ (met awake leaving).failedLinks) ∧
    leaving.tree = [] ∧
    ([] : List (Nat × Nat)) = [] ∧
    leaving.dst = Node.torus (2 : Nat) ∧
    findFlit (met awake branching) (4 : Nat) = some ({ branching with route := [(3, 0)], tree := [5, 43] } : Flit) ∧
    ({ branching with route := [(3, 0)], tree := [5, 43] } : Flit).route = (3, 0) :: ([] : List (Nat × Nat)) ∧
    (¬((3, 0), portInto ({ branching with route := [(3, 0)], tree := [5, 43] } : Flit) (3, 0)) ∈ (met awake branching).failedLinks) ∧
    ({ branching with route := [(3, 0)], tree := [5, 43] } : Flit).tree ≠ [] ∧
    ({ branching with route := [(3, 0)], tree := [5, 43] } : Flit).here = none ∧
    (∀ (m : Nat), m ∈ ({ branching with route := [(3, 0)], tree := [5, 43] } : Flit).tree → coreXY m ≠ (3, 0)) ∧
    findFlit (met awake branched) (4 : Nat) = some branched ∧
    branched.route = (4, 0) :: ([] : List (Nat × Nat)) ∧
    (¬((4, 0), portInto branched (4, 0)) ∈ (met awake branched).failedLinks) ∧
    branched.here = some (3, 0) ∧
    treeBranches (3, 0) branched.tree = (([4, 5] : List Nat), (4, 0)) :: ([] : List (List Nat × Nat × Nat)) ∧
    findFlit ({ met awake moving with failedLinks := [((4, 0), 4)] } : State) (4 : Nat) = some moving ∧
    findFlit (met awake { moving with resend := true, fails := 7 }) (4 : Nat) = some ({ moving with resend := true, fails := 7 } : Flit) ∧
    ({ moving with resend := true, fails := 7 } : Flit).route = (4, 0) :: ([(5, 0)] : List (Nat × Nat)) ∧
    ({ moving with resend := true, fails := 7 } : Flit).resend = true ∧
    ({ moving with resend := true, fails := 7 } : Flit).fails < 8 ∧
    findFlit (met awake { moving with resend := true, fails := 8 }) (4 : Nat) = some ({ moving with resend := true, fails := 8 } : Flit) ∧
    ({ moving with resend := true, fails := 8 } : Flit).route = (4, 0) :: ([(5, 0)] : List (Nat × Nat)) ∧
    8 ≤ ({ moving with resend := true, fails := 8 } : Flit).fails ∧
    (¬((4, 0), portInto ({ moving with resend := true, fails := 8 } : Flit) (4, 0)) ∈ (met awake { moving with resend := true, fails := 8 }).failedLinks) :=
  ⟨(by exact turn_of _ _ _ _ (by decide +kernel) (by decide +kernel) (by decide +kernel)), (by exact Or.inl (by decide +kernel)), (by exact turn_of _ _ _ _ (by decide +kernel) (by decide +kernel) (by decide +kernel)), (by exact turn_of _ _ _ _ (by decide +kernel) (by decide +kernel) (by decide +kernel)), (by exact turn_of _ _ _ _ (by decide +kernel) (by decide +kernel) (by decide +kernel)), (by exact Or.inr (by decide +kernel)), (by and_intros <;> decide +kernel)⟩

/-- States and operands that meet the hypotheses of YardRule. -/
theorem witness_yardRule :
    takeFlit (atYard { lost := [lineOf 0x2040] } (toYard .readReq 64 [])) (4 : Nat) = some ((toYard .readReq 64 []), ({ atYard { lost := [lineOf 0x2040] } (toYard .readReq 64 []) with mesh := [] })) ∧
    (toYard .readReq 64 []).kind = FlitKind.readReq ∧
    (toYard .readReq 64 []).dst = Node.land (2 : Nat) (0 : Nat) ∧
    (getYard (atYard { lost := [lineOf 0x2040] } (toYard .readReq 64 [])) (2 : Nat)).stopped = false ∧
    lineOf (toYard .readReq 64 []).addr ∈ (getYard ({ atYard { lost := [lineOf 0x2040] } (toYard .readReq 64 []) with mesh := [] }) (2 : Nat)).lost ∧
    takeFlit (atYard yarded (toYard .readReq 64 [])) (4 : Nat) = some ((toYard .readReq 64 []), ({ atYard yarded (toYard .readReq 64 []) with mesh := [] })) ∧
    (getYard (atYard yarded (toYard .readReq 64 [])) (2 : Nat)).stopped = false ∧
    (¬lineOf (toYard .readReq 64 []).addr ∈ (getYard ({ atYard yarded (toYard .readReq 64 []) with mesh := [] }) (2 : Nat)).lost) ∧
    findLine (getYard ({ atYard yarded (toYard .readReq 64 []) with mesh := [] }) (2 : Nat)) (lineOf (toYard .readReq 64 []).addr) = some line1 ∧
    takeFlit (atYard {} (toYard .readReq 64 [])) (4 : Nat) = some ((toYard .readReq 64 []), ({ atYard {} (toYard .readReq 64 []) with mesh := [] })) ∧
    (getYard (atYard {} (toYard .readReq 64 [])) (2 : Nat)).stopped = false ∧
    (¬lineOf (toYard .readReq 64 []).addr ∈ (getYard ({ atYard {} (toYard .readReq 64 []) with mesh := [] }) (2 : Nat)).lost) ∧
    findLine (getYard ({ atYard {} (toYard .readReq 64 []) with mesh := [] }) (2 : Nat)) (lineOf (toYard .readReq 64 []).addr) = none ∧
    takeFlit (atYard {} (toYard .yardWrite 256 (List.replicate 256 1#8))) (4 : Nat) = some ((toYard .yardWrite 256 (List.replicate 256 1#8)), ({ atYard {} (toYard .yardWrite 256 (List.replicate 256 1#8)) with mesh := [] })) ∧
    (toYard .yardWrite 256 (List.replicate 256 1#8)).kind = FlitKind.yardWrite ∧
    (toYard .yardWrite 256 (List.replicate 256 1#8)).dst = Node.land (2 : Nat) (0 : Nat) ∧
    (getYard (atYard {} (toYard .yardWrite 256 (List.replicate 256 1#8))) (2 : Nat)).stopped = false ∧
    (toYard .yardWrite 256 (List.replicate 256 1#8)).data.length = 256 ∧
    takeFlit (atYard yarded (toYard .yardWrite 4 four)) (4 : Nat) = some ((toYard .yardWrite 4 four), ({ atYard yarded (toYard .yardWrite 4 four) with mesh := [] })) ∧
    (toYard .yardWrite 4 four).kind = FlitKind.yardWrite ∧
    (toYard .yardWrite 4 four).dst = Node.land (2 : Nat) (0 : Nat) ∧
    (getYard (atYard yarded (toYard .yardWrite 4 four)) (2 : Nat)).stopped = false ∧
    (toYard .yardWrite 4 four).data.length ≠ 256 ∧
    findLine (getYard ({ atYard yarded (toYard .yardWrite 4 four) with mesh := [] }) (2 : Nat)) (lineOf (toYard .yardWrite 4 four).addr) = some line1 ∧
    (List.replicate 256 1#8).length = 256 ∧
    (getYard ({ on awake with yards := [(2, { waiting := [toYard .readReq 64 []] })] }) (2 : LandingPort).val).stopped = false ∧
    (List.filter (fun g => lineOf g.addr == (lineOf 0x2040)) (getYard ({ on awake with yards := [(2, { waiting := [toYard .readReq 64 []] })] }) (2 : LandingPort).val).waiting = [(toYard .readReq 64 [])]) ∧
    findLine (getYard ({ on awake with yards := [(2, { waiting := [toYard .readReq 64 []] })] }) (2 : LandingPort).val) (lineOf 0x2040) = none ∧
    (toYard .readReq 64 []).group = [] ∧
    (toYard .readReq 64 []).hint = 0 ∧
    (setOf (getYard ({ on awake with yards := [(2, { waiting := [toYard .readReq 64 []] })] }) (2 : LandingPort).val) (lineOf 0x2040)).length < 16 ∧
    findLine (getYard ({ on awake with yards := [(2, yarded)] }) ((0x2040 : BitVec 48).toNat / 4096 % 16)) (lineOf (0x2040 : BitVec 48).toNat) = some line1 ∧
    findLine (getYard (on awake) ((0x2040 : BitVec 48).toNat / 4096 % 16)) (lineOf (0x2040 : BitVec 48).toNat) = none := by decide +kernel

/-- States and operands that meet the hypotheses of WindowOpenClose. -/
theorem witness_windowOpenClose :
    reaches ({ on windowed with tenants := [(5, { ctrl := 0x90000002#32 })] }) (.mgmt : Port) (PageRef.core (3 : CoreId) 7) 1856 ({ on windowed with tenants := [(5, { ctrl := 0x90000002#32 })] }) ∧
    (winAxes (getCore ({ on windowed with tenants := [(5, { ctrl := 0x90000002#32 })] }) 3) (0 : WinId).val = 0 ∨ remoteOk ({ on windowed with tenants := [(5, { ctrl := 0x90000002#32 })] }) 3 = true) ∧
    reaches (on opened) (.mgmt : Port) (PageRef.core (3 : CoreId) 7) 1856 (on opened) ∧
    (winAxes (getCore (on opened) 3) (1 : WinId).val = 0 ∨ remoteOk (on opened) 3 = true) ∧
    reaches (on windowed) (.mgmt : Port) (PageRef.core (3 : CoreId) 7) 1856 (on windowed) ∧
    winAxes (getCore (on windowed) 3) (0 : WinId).val ≠ 0 ∧
    remoteOk (on windowed) 3 = false ∧
    reaches (on { opened with spd := { tags := [(1, { st := .held, owner := .remote, src := 0 })] } }) (.mgmt : Port) (PageRef.core (3 : CoreId) 7) 1856 (on { opened with spd := { tags := [(1, { st := .held, owner := .remote, src := 0 })] } }) ∧
    (getWin (getCore (inOrder (on { opened with spd := { tags := [(1, { st := .held, owner := .remote, src := 0 })] } }) 3 7) 3) (0 : WinId).val).open_ = true ∧
    (getWin (getCore (inOrder (on opened) 3 7) 3) (63 : WinId).val).open_ = false ∧
    (getWin (getCore (on { windowed with wins := [(0, { guard := true, guardEnd := 40 })] }) 3) (0 : WinId).val).guard = true := by decide +kernel

/-- States and operands that meet the hypotheses of WindowChecks. -/
theorem witness_windowChecks :
    (hdr0 8 5 0 4).kind = 0#4 ∧
    four.length = (hdr0 8 5 0 4).len.toNat ∧
    1 ≤ four.length ∧
    four.length ≤ 256 ∧
    (hdr0 8 5 0 4).dstCore.toNat < 1200 ∧
    (getOwner felled3 (hdr0 8 5 0 4).dstCore.toNat).felled = true ∧
    (hdr0 7 5 0 4).kind = 0#4 ∧
    four.length = (hdr0 7 5 0 4).len.toNat ∧
    (hdr0 7 5 0 4).dstCore.toNat < 1200 ∧
    (getOwner (on opened) (hdr0 7 5 0 4).dstCore.toNat).felled = false ∧
    ((getWin (getCore (on opened) (hdr0 7 5 0 4).dstCore.toNat) ↑(hdr0 7 5 0 4).window).open_ = false ∨ (getWin (getCore (on opened) (hdr0 7 5 0 4).dstCore.toNat) ↑(hdr0 7 5 0 4).window).epoch ≠ (hdr0 7 5 0 4).epoch.toNat) ∧
    (hdr0 8 6 0 4).kind = 0#4 ∧
    four.length = (hdr0 8 6 0 4).len.toNat ∧
    (hdr0 8 6 0 4).dstCore.toNat < 1200 ∧
    (getOwner (on opened) (hdr0 8 6 0 4).dstCore.toNat).felled = false ∧
    (¬((getWin (getCore (on opened) (hdr0 8 6 0 4).dstCore.toNat) ↑(hdr0 8 6 0 4).window).open_ = false ∨ (getWin (getCore (on opened) (hdr0 8 6 0 4).dstCore.toNat) ↑(hdr0 8 6 0 4).window).epoch ≠ (hdr0 8 6 0 4).epoch.toNat)) ∧
    BitVec.toNat (hdr0 8 6 0 4).tenant ≠ winTenant (getCore (on opened) (hdr0 8 6 0 4).dstCore.toNat) ↑(hdr0 8 6 0 4).window ∧
    (getOwner (on (openAs 0x60050000#32)) (hdr0 8 5 0 4).dstCore.toNat).felled = false ∧
    (¬((getWin (getCore (on (openAs 0x60050000#32)) (hdr0 8 5 0 4).dstCore.toNat) ↑(hdr0 8 5 0 4).window).open_ = false ∨ (getWin (getCore (on (openAs 0x60050000#32)) (hdr0 8 5 0 4).dstCore.toNat) ↑(hdr0 8 5 0 4).window).epoch ≠ (hdr0 8 5 0 4).epoch.toNat)) ∧
    (¬BitVec.toNat (hdr0 8 5 0 4).tenant ≠ winTenant (getCore (on (openAs 0x60050000#32)) (hdr0 8 5 0 4).dstCore.toNat) ↑(hdr0 8 5 0 4).window) ∧
    (winAxes (getCore (on (openAs 0x60050000#32)) (hdr0 8 5 0 4).dstCore.toNat) ↑(hdr0 8 5 0 4).window).testBit ((0 : TorusPort).val / 2) = false ∧
    (getOwner (on (openAs 0x4F050000#32)) (hdr0 8 5 0 4).dstCore.toNat).felled = false ∧
    (¬((getWin (getCore (on (openAs 0x4F050000#32)) (hdr0 8 5 0 4).dstCore.toNat) ↑(hdr0 8 5 0 4).window).open_ = false ∨ (getWin (getCore (on (openAs 0x4F050000#32)) (hdr0 8 5 0 4).dstCore.toNat) ↑(hdr0 8 5 0 4).window).epoch ≠ (hdr0 8 5 0 4).epoch.toNat)) ∧
    (¬BitVec.toNat (hdr0 8 5 0 4).tenant ≠ winTenant (getCore (on (openAs 0x4F050000#32)) (hdr0 8 5 0 4).dstCore.toNat) ↑(hdr0 8 5 0 4).window) ∧
    (¬(winAxes (getCore (on (openAs 0x4F050000#32)) (hdr0 8 5 0 4).dstCore.toNat) ↑(hdr0 8 5 0 4).window).testBit ((0 : TorusPort).val / 2) = false) ∧
    (winPerm (getCore (on (openAs 0x4F050000#32)) (hdr0 8 5 0 4).dstCore.toNat) ↑(hdr0 8 5 0 4).window).testBit 0 = false ∧
    (hdr0 8 5 2045 4).kind = 0#4 ∧
    four.length = (hdr0 8 5 2045 4).len.toNat ∧
    (hdr0 8 5 2045 4).dstCore.toNat < 1200 ∧
    (getOwner (on opened) (hdr0 8 5 2045 4).dstCore.toNat).felled = false ∧
    (¬((getWin (getCore (on opened) (hdr0 8 5 2045 4).dstCore.toNat) ↑(hdr0 8 5 2045 4).window).open_ = false ∨ (getWin (getCore (on opened) (hdr0 8 5 2045 4).dstCore.toNat) ↑(hdr0 8 5 2045 4).window).epoch ≠ (hdr0 8 5 2045 4).epoch.toNat)) ∧
    (¬BitVec.toNat (hdr0 8 5 2045 4).tenant ≠ winTenant (getCore (on opened) (hdr0 8 5 2045 4).dstCore.toNat) ↑(hdr0 8 5 2045 4).window) ∧
    (¬(winAxes (getCore (on opened) (hdr0 8 5 2045 4).dstCore.toNat) ↑(hdr0 8 5 2045 4).window).testBit ((0 : TorusPort).val / 2) = false) ∧
    (¬(winPerm (getCore (on opened) (hdr0 8 5 2045 4).dstCore.toNat) ↑(hdr0 8 5 2045 4).window).testBit 0 = false) ∧
    winBytes (getCore (on opened) (hdr0 8 5 2045 4).dstCore.toNat) ↑(hdr0 8 5 2045 4).window < (hdr0 8 5 2045 4).offset.toNat + four.length ∧
    (hdr0 8 5 2044 4).kind = 0#4 ∧
    four.length = (hdr0 8 5 2044 4).len.toNat ∧
    (hdr0 8 5 2044 4).dstCore.toNat < 1200 ∧
    (getOwner openOff (hdr0 8 5 2044 4).dstCore.toNat).felled = false ∧
    (¬((getWin (getCore openOff (hdr0 8 5 2044 4).dstCore.toNat) ↑(hdr0 8 5 2044 4).window).open_ = false ∨ (getWin (getCore openOff (hdr0 8 5 2044 4).dstCore.toNat) ↑(hdr0 8 5 2044 4).window).epoch ≠ (hdr0 8 5 2044 4).epoch.toNat)) ∧
    (¬BitVec.toNat (hdr0 8 5 2044 4).tenant ≠ winTenant (getCore openOff (hdr0 8 5 2044 4).dstCore.toNat) ↑(hdr0 8 5 2044 4).window) ∧
    (¬(winAxes (getCore openOff (hdr0 8 5 2044 4).dstCore.toNat) ↑(hdr0 8 5 2044 4).window).testBit ((0 : TorusPort).val / 2) = false) ∧
    (¬(winPerm (getCore openOff (hdr0 8 5 2044 4).dstCore.toNat) ↑(hdr0 8 5 2044 4).window).testBit 0 = false) ∧
    (¬winBytes (getCore openOff (hdr0 8 5 2044 4).dstCore.toNat) ↑(hdr0 8 5 2044 4).window < (hdr0 8 5 2044 4).offset.toNat + four.length) ∧
    (segUp (getCore openOff (hdr0 8 5 2044 4).dstCore.toNat) ((1024 * winFirst (getCore openOff (hdr0 8 5 2044 4).dstCore.toNat) ↑(hdr0 8 5 2044 4).window + (hdr0 8 5 2044 4).offset.toNat) / 65536) = false ∨ segUp (getCore openOff (hdr0 8 5 2044 4).dstCore.toNat) ((1024 * winFirst (getCore openOff (hdr0 8 5 2044 4).dstCore.toNat) ↑(hdr0 8 5 2044 4).window + (hdr0 8 5 2044 4).offset.toNat + four.length - 1) / 65536) = false) ∧
    (getOwner openFull (hdr0 8 5 0 4).dstCore.toNat).felled = false ∧
    (¬((getWin (getCore openFull (hdr0 8 5 0 4).dstCore.toNat) ↑(hdr0 8 5 0 4).window).open_ = false ∨ (getWin (getCore openFull (hdr0 8 5 0 4).dstCore.toNat) ↑(hdr0 8 5 0 4).window).epoch ≠ (hdr0 8 5 0 4).epoch.toNat)) ∧
    (¬BitVec.toNat (hdr0 8 5 0 4).tenant ≠ winTenant (getCore openFull (hdr0 8 5 0 4).dstCore.toNat) ↑(hdr0 8 5 0 4).window) ∧
    (¬(winAxes (getCore openFull (hdr0 8 5 0 4).dstCore.toNat) ↑(hdr0 8 5 0 4).window).testBit ((0 : TorusPort).val / 2) = false) ∧
    (¬(winPerm (getCore openFull (hdr0 8 5 0 4).dstCore.toNat) ↑(hdr0 8 5 0 4).window).testBit 0 = false) ∧
    (¬winBytes (getCore openFull (hdr0 8 5 0 4).dstCore.toNat) ↑(hdr0 8 5 0 4).window < (hdr0 8 5 0 4).offset.toNat + four.length) ∧
    (¬(segUp (getCore openFull (hdr0 8 5 0 4).dstCore.toNat) ((1024 * winFirst (getCore openFull (hdr0 8 5 0 4).dstCore.toNat) ↑(hdr0 8 5 0 4).window + (hdr0 8 5 0 4).offset.toNat) / 65536) = false ∨ segUp (getCore openFull (hdr0 8 5 0 4).dstCore.toNat) ((1024 * winFirst (getCore openFull (hdr0 8 5 0 4).dstCore.toNat) ↑(hdr0 8 5 0 4).window + (hdr0 8 5 0 4).offset.toNat + four.length - 1) / 65536) = false)) ∧
    (¬(lockedSlot (getCore (inOrder (putCore openFull (hdr0 8 5 0 4).dstCore.toNat (noteWork (touchData (getCore openFull (hdr0 8 5 0 4).dstCore.toNat) openFull.now) openFull.now)) (hdr0 8 5 0 4).dstCore.toNat 9) (hdr0 8 5 0 4).dstCore.toNat) ((1024 * winFirst (getCore (inOrder (putCore openFull (hdr0 8 5 0 4).dstCore.toNat (noteWork (touchData (getCore openFull (hdr0 8 5 0 4).dstCore.toNat) openFull.now) openFull.now)) (hdr0 8 5 0 4).dstCore.toNat 9) (hdr0 8 5 0 4).dstCore.toNat) ↑(hdr0 8 5 0 4).window + (hdr0 8 5 0 4).offset.toNat) / 1024) = false ∧ (untagged (getCore (inOrder (putCore openFull (hdr0 8 5 0 4).dstCore.toNat (noteWork (touchData (getCore openFull (hdr0 8 5 0 4).dstCore.toNat) openFull.now) openFull.now)) (hdr0 8 5 0 4).dstCore.toNat 9) (hdr0 8 5 0 4).dstCore.toNat) ((1024 * winFirst (getCore (inOrder (putCore openFull (hdr0 8 5 0 4).dstCore.toNat (noteWork (touchData (getCore openFull (hdr0 8 5 0 4).dstCore.toNat) openFull.now) openFull.now)) (hdr0 8 5 0 4).dstCore.toNat 9) (hdr0 8 5 0 4).dstCore.toNat) ↑(hdr0 8 5 0 4).window + (hdr0 8 5 0 4).offset.toNat) / 1024) = true ∨ if (hdr0 8 5 0 4).slotStart = true then (tagOf (getCore (inOrder (putCore openFull (hdr0 8 5 0 4).dstCore.toNat (noteWork (touchData (getCore openFull (hdr0 8 5 0 4).dstCore.toNat) openFull.now) openFull.now)) (hdr0 8 5 0 4).dstCore.toNat 9) (hdr0 8 5 0 4).dstCore.toNat) ((1024 * winFirst (getCore (inOrder (putCore openFull (hdr0 8 5 0 4).dstCore.toNat (noteWork (touchData (getCore openFull (hdr0 8 5 0 4).dstCore.toNat) openFull.now) openFull.now)) (hdr0 8 5 0 4).dstCore.toNat 9) (hdr0 8 5 0 4).dstCore.toNat) ↑(hdr0 8 5 0 4).window + (hdr0 8 5 0 4).offset.toNat) / 1024)).st = TagState.empty ∧ (tagOf (getCore (inOrder (putCore openFull (hdr0 8 5 0 4).dstCore.toNat (noteWork (touchData (getCore openFull (hdr0 8 5 0 4).dstCore.toNat) openFull.now) openFull.now)) (hdr0 8 5 0 4).dstCore.toNat 9) (hdr0 8 5 0 4).dstCore.toNat) ((1024 * winFirst (getCore (inOrder (putCore openFull (hdr0 8 5 0 4).dstCore.toNat (noteWork (touchData (getCore openFull (hdr0 8 5 0 4).dstCore.toNat) openFull.now) openFull.now)) (hdr0 8 5 0 4).dstCore.toNat 9) (hdr0 8 5 0 4).dstCore.toNat) ↑(hdr0 8 5 0 4).window + (hdr0 8 5 0 4).offset.toNat) / 1024)).rdpin = 0 else (tagOf (getCore (inOrder (putCore openFull (hdr0 8 5 0 4).dstCore.toNat (noteWork (touchData (getCore openFull (hdr0 8 5 0 4).dstCore.toNat) openFull.now) openFull.now)) (hdr0 8 5 0 4).dstCore.toNat 9) (hdr0 8 5 0 4).dstCore.toNat) ((1024 * winFirst (getCore (inOrder (putCore openFull (hdr0 8 5 0 4).dstCore.toNat (noteWork (touchData (getCore openFull (hdr0 8 5 0 4).dstCore.toNat) openFull.now) openFull.now)) (hdr0 8 5 0 4).dstCore.toNat 9) (hdr0 8 5 0 4).dstCore.toNat) ↑(hdr0 8 5 0 4).window + (hdr0 8 5 0 4).offset.toNat) / 1024)).st = TagState.held ∧ (tagOf (getCore (inOrder (putCore openFull (hdr0 8 5 0 4).dstCore.toNat (noteWork (touchData (getCore openFull (hdr0 8 5 0 4).dstCore.toNat) openFull.now) openFull.now)) (hdr0 8 5 0 4).dstCore.toNat 9) (hdr0 8 5 0 4).dstCore.toNat) ((1024 * winFirst (getCore (inOrder (putCore openFull (hdr0 8 5 0 4).dstCore.toNat (noteWork (touchData (getCore openFull (hdr0 8 5 0 4).dstCore.toNat) openFull.now) openFull.now)) (hdr0 8 5 0 4).dstCore.toNat 9) (hdr0 8 5 0 4).dstCore.toNat) ↑(hdr0 8 5 0 4).window + (hdr0 8 5 0 4).offset.toNat) / 1024)).owner = Holder.remote ∧ (tagOf (getCore (inOrder (putCore openFull (hdr0 8 5 0 4).dstCore.toNat (noteWork (touchData (getCore openFull (hdr0 8 5 0 4).dstCore.toNat) openFull.now) openFull.now)) (hdr0 8 5 0 4).dstCore.toNat 9) (hdr0 8 5 0 4).dstCore.toNat) ((1024 * winFirst (getCore (inOrder (putCore openFull (hdr0 8 5 0 4).dstCore.toNat (noteWork (touchData (getCore openFull (hdr0 8 5 0 4).dstCore.toNat) openFull.now) openFull.now)) (hdr0 8 5 0 4).dstCore.toNat 9) (hdr0 8 5 0 4).dstCore.toNat) ↑(hdr0 8 5 0 4).window + (hdr0 8 5 0 4).offset.toNat) / 1024)).src = ↑(hdr0 8 5 0 4).window))) ∧
    hdr32.kind = 0#4 ∧
    (List.replicate 32 3#8).length = hdr32.len.toNat ∧
    1 ≤ (List.replicate 32 3#8).length ∧
    (List.replicate 32 3#8).length ≤ 256 ∧
    hdr32.dstCore.toNat < 1200 ∧
    (getOwner openUntagged hdr32.dstCore.toNat).felled = false ∧
    (¬((getWin (getCore openUntagged hdr32.dstCore.toNat) hdr32.window.val).open_ = false ∨ (getWin (getCore openUntagged hdr32.dstCore.toNat) hdr32.window.val).epoch ≠ hdr32.epoch.toNat)) ∧
    (¬BitVec.toNat hdr32.tenant ≠ winTenant (getCore openUntagged hdr32.dstCore.toNat) hdr32.window.val) ∧
    (¬(winAxes (getCore openUntagged hdr32.dstCore.toNat) hdr32.window.val).testBit ((0 : TorusPort).val / 2) = false) ∧
    (¬(winPerm (getCore openUntagged hdr32.dstCore.toNat) hdr32.window.val).testBit 0 = false) ∧
    (¬winBytes (getCore openUntagged hdr32.dstCore.toNat) hdr32.window.val < hdr32.offset.toNat + (List.replicate 32 3#8).length) ∧
    (¬(segUp (getCore openUntagged hdr32.dstCore.toNat) ((1024 * winFirst (getCore openUntagged hdr32.dstCore.toNat) hdr32.window.val + hdr32.offset.toNat) / 65536) = false ∨ segUp (getCore openUntagged hdr32.dstCore.toNat) ((1024 * winFirst (getCore openUntagged hdr32.dstCore.toNat) hdr32.window.val + hdr32.offset.toNat + (List.replicate 32 3#8).length - 1) / 65536) = false)) ∧
    (lockedSlot (getCore (inOrder (putCore openUntagged hdr32.dstCore.toNat (noteWork (touchData (getCore openUntagged hdr32.dstCore.toNat) openUntagged.now) openUntagged.now)) hdr32.dstCore.toNat 9) hdr32.dstCore.toNat) ((1024 * winFirst (getCore (inOrder (putCore openUntagged hdr32.dstCore.toNat (noteWork (touchData (getCore openUntagged hdr32.dstCore.toNat) openUntagged.now) openUntagged.now)) hdr32.dstCore.toNat 9) hdr32.dstCore.toNat) hdr32.window.val + hdr32.offset.toNat) / 1024) = false ∧ (untagged (getCore (inOrder (putCore openUntagged hdr32.dstCore.toNat (noteWork (touchData (getCore openUntagged hdr32.dstCore.toNat) openUntagged.now) openUntagged.now)) hdr32.dstCore.toNat 9) hdr32.dstCore.toNat) ((1024 * winFirst (getCore (inOrder (putCore openUntagged hdr32.dstCore.toNat (noteWork (touchData (getCore openUntagged hdr32.dstCore.toNat) openUntagged.now) openUntagged.now)) hdr32.dstCore.toNat 9) hdr32.dstCore.toNat) hdr32.window.val + hdr32.offset.toNat) / 1024) = true ∨ if hdr32.slotStart = true then (tagOf (getCore (inOrder (putCore openUntagged hdr32.dstCore.toNat (noteWork (touchData (getCore openUntagged hdr32.dstCore.toNat) openUntagged.now) openUntagged.now)) hdr32.dstCore.toNat 9) hdr32.dstCore.toNat) ((1024 * winFirst (getCore (inOrder (putCore openUntagged hdr32.dstCore.toNat (noteWork (touchData (getCore openUntagged hdr32.dstCore.toNat) openUntagged.now) openUntagged.now)) hdr32.dstCore.toNat 9) hdr32.dstCore.toNat) hdr32.window.val + hdr32.offset.toNat) / 1024)).st = TagState.empty ∧ (tagOf (getCore (inOrder (putCore openUntagged hdr32.dstCore.toNat (noteWork (touchData (getCore openUntagged hdr32.dstCore.toNat) openUntagged.now) openUntagged.now)) hdr32.dstCore.toNat 9) hdr32.dstCore.toNat) ((1024 * winFirst (getCore (inOrder (putCore openUntagged hdr32.dstCore.toNat (noteWork (touchData (getCore openUntagged hdr32.dstCore.toNat) openUntagged.now) openUntagged.now)) hdr32.dstCore.toNat 9) hdr32.dstCore.toNat) hdr32.window.val + hdr32.offset.toNat) / 1024)).rdpin = 0 else (tagOf (getCore (inOrder (putCore openUntagged hdr32.dstCore.toNat (noteWork (touchData (getCore openUntagged hdr32.dstCore.toNat) openUntagged.now) openUntagged.now)) hdr32.dstCore.toNat 9) hdr32.dstCore.toNat) ((1024 * winFirst (getCore (inOrder (putCore openUntagged hdr32.dstCore.toNat (noteWork (touchData (getCore openUntagged hdr32.dstCore.toNat) openUntagged.now) openUntagged.now)) hdr32.dstCore.toNat 9) hdr32.dstCore.toNat) hdr32.window.val + hdr32.offset.toNat) / 1024)).st = TagState.held ∧ (tagOf (getCore (inOrder (putCore openUntagged hdr32.dstCore.toNat (noteWork (touchData (getCore openUntagged hdr32.dstCore.toNat) openUntagged.now) openUntagged.now)) hdr32.dstCore.toNat 9) hdr32.dstCore.toNat) ((1024 * winFirst (getCore (inOrder (putCore openUntagged hdr32.dstCore.toNat (noteWork (touchData (getCore openUntagged hdr32.dstCore.toNat) openUntagged.now) openUntagged.now)) hdr32.dstCore.toNat 9) hdr32.dstCore.toNat) hdr32.window.val + hdr32.offset.toNat) / 1024)).owner = Holder.remote ∧ (tagOf (getCore (inOrder (putCore openUntagged hdr32.dstCore.toNat (noteWork (touchData (getCore openUntagged hdr32.dstCore.toNat) openUntagged.now) openUntagged.now)) hdr32.dstCore.toNat 9) hdr32.dstCore.toNat) ((1024 * winFirst (getCore (inOrder (putCore openUntagged hdr32.dstCore.toNat (noteWork (touchData (getCore openUntagged hdr32.dstCore.toNat) openUntagged.now) openUntagged.now)) hdr32.dstCore.toNat 9) hdr32.dstCore.toNat) hdr32.window.val + hdr32.offset.toNat) / 1024)).src = hdr32.window.val)) ∧
    (getCore (inOrder (putCore openUntagged hdr32.dstCore.toNat (noteWork (touchData (getCore openUntagged hdr32.dstCore.toNat) openUntagged.now) openUntagged.now)) hdr32.dstCore.toNat 9) hdr32.dstCore.toNat).spd.bad = [] ∧
    (∀ (g : Gather), g ∈ (getCore (inOrder (putCore openUntagged hdr32.dstCore.toNat (noteWork (touchData (getCore openUntagged hdr32.dstCore.toNat) openUntagged.now) openUntagged.now)) hdr32.dstCore.toNat 9) hdr32.dstCore.toNat).spd.gather → g.bytes.length = 32) ∧
    ((0 : TorusPort).val / 2 = 1 ∨ winFwd (getCore (inOrder (putCore openUntagged hdr32.dstCore.toNat (noteWork (touchData (getCore openUntagged hdr32.dstCore.toNat) openUntagged.now) openUntagged.now)) hdr32.dstCore.toNat 9) hdr32.dstCore.toNat) hdr32.window.val = false) ∧
    hdr32.fwdLeft = 0#2 ∧
    (getOwner (on opened) (hdr0 8 5 2044 4).dstCore.toNat).felled = false ∧
    (¬((getWin (getCore (on opened) (hdr0 8 5 2044 4).dstCore.toNat) ↑(hdr0 8 5 2044 4).window).open_ = false ∨ (getWin (getCore (on opened) (hdr0 8 5 2044 4).dstCore.toNat) ↑(hdr0 8 5 2044 4).window).epoch ≠ (hdr0 8 5 2044 4).epoch.toNat)) ∧
    (¬BitVec.toNat (hdr0 8 5 2044 4).tenant ≠ winTenant (getCore (on opened) (hdr0 8 5 2044 4).dstCore.toNat) ↑(hdr0 8 5 2044 4).window) ∧
    (¬(winAxes (getCore (on opened) (hdr0 8 5 2044 4).dstCore.toNat) ↑(hdr0 8 5 2044 4).window).testBit ((3 : TorusPort).val / 2) = false) ∧
    (¬(winPerm (getCore (on opened) (hdr0 8 5 2044 4).dstCore.toNat) ↑(hdr0 8 5 2044 4).window).testBit 0 = false) ∧
    (¬winBytes (getCore (on opened) (hdr0 8 5 2044 4).dstCore.toNat) ↑(hdr0 8 5 2044 4).window < (hdr0 8 5 2044 4).offset.toNat + four.length) ∧
    (¬(segUp (getCore (on opened) (hdr0 8 5 2044 4).dstCore.toNat) ((1024 * winFirst (getCore (on opened) (hdr0 8 5 2044 4).dstCore.toNat) ↑(hdr0 8 5 2044 4).window + (hdr0 8 5 2044 4).offset.toNat) / 65536) = false ∨ segUp (getCore (on opened) (hdr0 8 5 2044 4).dstCore.toNat) ((1024 * winFirst (getCore (on opened) (hdr0 8 5 2044 4).dstCore.toNat) ↑(hdr0 8 5 2044 4).window + (hdr0 8 5 2044 4).offset.toNat + four.length - 1) / 65536) = false)) ∧
    (lockedSlot (getCore (inOrder (putCore (on opened) (hdr0 8 5 2044 4).dstCore.toNat (noteWork (touchData (getCore (on opened) (hdr0 8 5 2044 4).dstCore.toNat) (on opened).now) (on opened).now)) (hdr0 8 5 2044 4).dstCore.toNat 9) (hdr0 8 5 2044 4).dstCore.toNat) ((1024 * winFirst (getCore (inOrder (putCore (on opened) (hdr0 8 5 2044 4).dstCore.toNat (noteWork (touchData (getCore (on opened) (hdr0 8 5 2044 4).dstCore.toNat) (on opened).now) (on opened).now)) (hdr0 8 5 2044 4).dstCore.toNat 9) (hdr0 8 5 2044 4).dstCore.toNat) ↑(hdr0 8 5 2044 4).window + (hdr0 8 5 2044 4).offset.toNat) / 1024) = false ∧ (untagged (getCore (inOrder (putCore (on opened) (hdr0 8 5 2044 4).dstCore.toNat (noteWork (touchData (getCore (on opened) (hdr0 8 5 2044 4).dstCore.toNat) (on opened).now) (on opened).now)) (hdr0 8 5 2044 4).dstCore.toNat 9) (hdr0 8 5 2044 4).dstCore.toNat) ((1024 * winFirst (getCore (inOrder (putCore (on opened) (hdr0 8 5 2044 4).dstCore.toNat (noteWork (touchData (getCore (on opened) (hdr0 8 5 2044 4).dstCore.toNat) (on opened).now) (on opened).now)) (hdr0 8 5 2044 4).dstCore.toNat 9) (hdr0 8 5 2044 4).dstCore.toNat) ↑(hdr0 8 5 2044 4).window + (hdr0 8 5 2044 4).offset.toNat) / 1024) = true ∨ if (hdr0 8 5 2044 4).slotStart = true then (tagOf (getCore (inOrder (putCore (on opened) (hdr0 8 5 2044 4).dstCore.toNat (noteWork (touchData (getCore (on opened) (hdr0 8 5 2044 4).dstCore.toNat) (on opened).now) (on opened).now)) (hdr0 8 5 2044 4).dstCore.toNat 9) (hdr0 8 5 2044 4).dstCore.toNat) ((1024 * winFirst (getCore (inOrder (putCore (on opened) (hdr0 8 5 2044 4).dstCore.toNat (noteWork (touchData (getCore (on opened) (hdr0 8 5 2044 4).dstCore.toNat) (on opened).now) (on opened).now)) (hdr0 8 5 2044 4).dstCore.toNat 9) (hdr0 8 5 2044 4).dstCore.toNat) ↑(hdr0 8 5 2044 4).window + (hdr0 8 5 2044 4).offset.toNat) / 1024)).st = TagState.empty ∧ (tagOf (getCore (inOrder (putCore (on opened) (hdr0 8 5 2044 4).dstCore.toNat (noteWork (touchData (getCore (on opened) (hdr0 8 5 2044 4).dstCore.toNat) (on opened).now) (on opened).now)) (hdr0 8 5 2044 4).dstCore.toNat 9) (hdr0 8 5 2044 4).dstCore.toNat) ((1024 * winFirst (getCore (inOrder (putCore (on opened) (hdr0 8 5 2044 4).dstCore.toNat (noteWork (touchData (getCore (on opened) (hdr0 8 5 2044 4).dstCore.toNat) (on opened).now) (on opened).now)) (hdr0 8 5 2044 4).dstCore.toNat 9) (hdr0 8 5 2044 4).dstCore.toNat) ↑(hdr0 8 5 2044 4).window + (hdr0 8 5 2044 4).offset.toNat) / 1024)).rdpin = 0 else (tagOf (getCore (inOrder (putCore (on opened) (hdr0 8 5 2044 4).dstCore.toNat (noteWork (touchData (getCore (on opened) (hdr0 8 5 2044 4).dstCore.toNat) (on opened).now) (on opened).now)) (hdr0 8 5 2044 4).dstCore.toNat 9) (hdr0 8 5 2044 4).dstCore.toNat) ((1024 * winFirst (getCore (inOrder (putCore (on opened) (hdr0 8 5 2044 4).dstCore.toNat (noteWork (touchData (getCore (on opened) (hdr0 8 5 2044 4).dstCore.toNat) (on opened).now) (on opened).now)) (hdr0 8 5 2044 4).dstCore.toNat 9) (hdr0 8 5 2044 4).dstCore.toNat) ↑(hdr0 8 5 2044 4).window + (hdr0 8 5 2044 4).offset.toNat) / 1024)).st = TagState.held ∧ (tagOf (getCore (inOrder (putCore (on opened) (hdr0 8 5 2044 4).dstCore.toNat (noteWork (touchData (getCore (on opened) (hdr0 8 5 2044 4).dstCore.toNat) (on opened).now) (on opened).now)) (hdr0 8 5 2044 4).dstCore.toNat 9) (hdr0 8 5 2044 4).dstCore.toNat) ((1024 * winFirst (getCore (inOrder (putCore (on opened) (hdr0 8 5 2044 4).dstCore.toNat (noteWork (touchData (getCore (on opened) (hdr0 8 5 2044 4).dstCore.toNat) (on opened).now) (on opened).now)) (hdr0 8 5 2044 4).dstCore.toNat 9) (hdr0 8 5 2044 4).dstCore.toNat) ↑(hdr0 8 5 2044 4).window + (hdr0 8 5 2044 4).offset.toNat) / 1024)).owner = Holder.remote ∧ (tagOf (getCore (inOrder (putCore (on opened) (hdr0 8 5 2044 4).dstCore.toNat (noteWork (touchData (getCore (on opened) (hdr0 8 5 2044 4).dstCore.toNat) (on opened).now) (on opened).now)) (hdr0 8 5 2044 4).dstCore.toNat 9) (hdr0 8 5 2044 4).dstCore.toNat) ((1024 * winFirst (getCore (inOrder (putCore (on opened) (hdr0 8 5 2044 4).dstCore.toNat (noteWork (touchData (getCore (on opened) (hdr0 8 5 2044 4).dstCore.toNat) (on opened).now) (on opened).now)) (hdr0 8 5 2044 4).dstCore.toNat 9) (hdr0 8 5 2044 4).dstCore.toNat) ↑(hdr0 8 5 2044 4).window + (hdr0 8 5 2044 4).offset.toNat) / 1024)).src = ↑(hdr0 8 5 2044 4).window)) ∧
    (getCore (inOrder (putCore (on opened) (hdr0 8 5 2044 4).dstCore.toNat (noteWork (touchData (getCore (on opened) (hdr0 8 5 2044 4).dstCore.toNat) (on opened).now) (on opened).now)) (hdr0 8 5 2044 4).dstCore.toNat 9) (hdr0 8 5 2044 4).dstCore.toNat).spd.bad = [] ∧
    (∀ (g : Gather), g ∈ (getCore (inOrder (putCore (on opened) (hdr0 8 5 2044 4).dstCore.toNat (noteWork (touchData (getCore (on opened) (hdr0 8 5 2044 4).dstCore.toNat) (on opened).now) (on opened).now)) (hdr0 8 5 2044 4).dstCore.toNat 9) (hdr0 8 5 2044 4).dstCore.toNat).spd.gather → g.bytes.length = 32) ∧
    ((3 : TorusPort).val / 2 = 1 ∨ winFwd (getCore (inOrder (putCore (on opened) (hdr0 8 5 2044 4).dstCore.toNat (noteWork (touchData (getCore (on opened) (hdr0 8 5 2044 4).dstCore.toNat) (on opened).now) (on opened).now)) (hdr0 8 5 2044 4).dstCore.toNat 9) (hdr0 8 5 2044 4).dstCore.toNat) ↑(hdr0 8 5 2044 4).window = false) ∧
    (hdr0 8 5 2044 4).fwdLeft = 0#2 ∧
    (getOwner (on copyingWindow) (hdr0 8 5 0 4).dstCore.toNat).felled = false ∧
    (¬((getWin (getCore (on copyingWindow) (hdr0 8 5 0 4).dstCore.toNat) ↑(hdr0 8 5 0 4).window).open_ = false ∨ (getWin (getCore (on copyingWindow) (hdr0 8 5 0 4).dstCore.toNat) ↑(hdr0 8 5 0 4).window).epoch ≠ (hdr0 8 5 0 4).epoch.toNat)) ∧
    (¬BitVec.toNat (hdr0 8 5 0 4).tenant ≠ winTenant (getCore (on copyingWindow) (hdr0 8 5 0 4).dstCore.toNat) ↑(hdr0 8 5 0 4).window) ∧
    (¬(winAxes (getCore (on copyingWindow) (hdr0 8 5 0 4).dstCore.toNat) ↑(hdr0 8 5 0 4).window).testBit ((4 : TorusPort).val / 2) = false) ∧
    (¬(winPerm (getCore (on copyingWindow) (hdr0 8 5 0 4).dstCore.toNat) ↑(hdr0 8 5 0 4).window).testBit 0 = false) ∧
    (¬winBytes (getCore (on copyingWindow) (hdr0 8 5 0 4).dstCore.toNat) ↑(hdr0 8 5 0 4).window < (hdr0 8 5 0 4).offset.toNat + four.length) ∧
    (¬(segUp (getCore (on copyingWindow) (hdr0 8 5 0 4).dstCore.toNat) ((1024 * winFirst (getCore (on copyingWindow) (hdr0 8 5 0 4).dstCore.toNat) ↑(hdr0 8 5 0 4).window + (hdr0 8 5 0 4).offset.toNat) / 65536) = false ∨ segUp (getCore (on copyingWindow) (hdr0 8 5 0 4).dstCore.toNat) ((1024 * winFirst (getCore (on copyingWindow) (hdr0 8 5 0 4).dstCore.toNat) ↑(hdr0 8 5 0 4).window + (hdr0 8 5 0 4).offset.toNat + four.length - 1) / 65536) = false)) ∧
    (lockedSlot (getCore (inOrder (putCore (on copyingWindow) (hdr0 8 5 0 4).dstCore.toNat (noteWork (touchData (getCore (on copyingWindow) (hdr0 8 5 0 4).dstCore.toNat) (on copyingWindow).now) (on copyingWindow).now)) (hdr0 8 5 0 4).dstCore.toNat 9) (hdr0 8 5 0 4).dstCore.toNat) ((1024 * winFirst (getCore (inOrder (putCore (on copyingWindow) (hdr0 8 5 0 4).dstCore.toNat (noteWork (touchData (getCore (on copyingWindow) (hdr0 8 5 0 4).dstCore.toNat) (on copyingWindow).now) (on copyingWindow).now)) (hdr0 8 5 0 4).dstCore.toNat 9) (hdr0 8 5 0 4).dstCore.toNat) ↑(hdr0 8 5 0 4).window + (hdr0 8 5 0 4).offset.toNat) / 1024) = false ∧ (untagged (getCore (inOrder (putCore (on copyingWindow) (hdr0 8 5 0 4).dstCore.toNat (noteWork (touchData (getCore (on copyingWindow) (hdr0 8 5 0 4).dstCore.toNat) (on copyingWindow).now) (on copyingWindow).now)) (hdr0 8 5 0 4).dstCore.toNat 9) (hdr0 8 5 0 4).dstCore.toNat) ((1024 * winFirst (getCore (inOrder (putCore (on copyingWindow) (hdr0 8 5 0 4).dstCore.toNat (noteWork (touchData (getCore (on copyingWindow) (hdr0 8 5 0 4).dstCore.toNat) (on copyingWindow).now) (on copyingWindow).now)) (hdr0 8 5 0 4).dstCore.toNat 9) (hdr0 8 5 0 4).dstCore.toNat) ↑(hdr0 8 5 0 4).window + (hdr0 8 5 0 4).offset.toNat) / 1024) = true ∨ if (hdr0 8 5 0 4).slotStart = true then (tagOf (getCore (inOrder (putCore (on copyingWindow) (hdr0 8 5 0 4).dstCore.toNat (noteWork (touchData (getCore (on copyingWindow) (hdr0 8 5 0 4).dstCore.toNat) (on copyingWindow).now) (on copyingWindow).now)) (hdr0 8 5 0 4).dstCore.toNat 9) (hdr0 8 5 0 4).dstCore.toNat) ((1024 * winFirst (getCore (inOrder (putCore (on copyingWindow) (hdr0 8 5 0 4).dstCore.toNat (noteWork (touchData (getCore (on copyingWindow) (hdr0 8 5 0 4).dstCore.toNat) (on copyingWindow).now) (on copyingWindow).now)) (hdr0 8 5 0 4).dstCore.toNat 9) (hdr0 8 5 0 4).dstCore.toNat) ↑(hdr0 8 5 0 4).window + (hdr0 8 5 0 4).offset.toNat) / 1024)).st = TagState.empty ∧ (tagOf (getCore (inOrder (putCore (on copyingWindow) (hdr0 8 5 0 4).dstCore.toNat (noteWork (touchData (getCore (on copyingWindow) (hdr0 8 5 0 4).dstCore.toNat) (on copyingWindow).now) (on copyingWindow).now)) (hdr0 8 5 0 4).dstCore.toNat 9) (hdr0 8 5 0 4).dstCore.toNat) ((1024 * winFirst (getCore (inOrder (putCore (on copyingWindow) (hdr0 8 5 0 4).dstCore.toNat (noteWork (touchData (getCore (on copyingWindow) (hdr0 8 5 0 4).dstCore.toNat) (on copyingWindow).now) (on copyingWindow).now)) (hdr0 8 5 0 4).dstCore.toNat 9) (hdr0 8 5 0 4).dstCore.toNat) ↑(hdr0 8 5 0 4).window + (hdr0 8 5 0 4).offset.toNat) / 1024)).rdpin = 0 else (tagOf (getCore (inOrder (putCore (on copyingWindow) (hdr0 8 5 0 4).dstCore.toNat (noteWork (touchData (getCore (on copyingWindow) (hdr0 8 5 0 4).dstCore.toNat) (on copyingWindow).now) (on copyingWindow).now)) (hdr0 8 5 0 4).dstCore.toNat 9) (hdr0 8 5 0 4).dstCore.toNat) ((1024 * winFirst (getCore (inOrder (putCore (on copyingWindow) (hdr0 8 5 0 4).dstCore.toNat (noteWork (touchData (getCore (on copyingWindow) (hdr0 8 5 0 4).dstCore.toNat) (on copyingWindow).now) (on copyingWindow).now)) (hdr0 8 5 0 4).dstCore.toNat 9) (hdr0 8 5 0 4).dstCore.toNat) ↑(hdr0 8 5 0 4).window + (hdr0 8 5 0 4).offset.toNat) / 1024)).st = TagState.held ∧ (tagOf (getCore (inOrder (putCore (on copyingWindow) (hdr0 8 5 0 4).dstCore.toNat (noteWork (touchData (getCore (on copyingWindow) (hdr0 8 5 0 4).dstCore.toNat) (on copyingWindow).now) (on copyingWindow).now)) (hdr0 8 5 0 4).dstCore.toNat 9) (hdr0 8 5 0 4).dstCore.toNat) ((1024 * winFirst (getCore (inOrder (putCore (on copyingWindow) (hdr0 8 5 0 4).dstCore.toNat (noteWork (touchData (getCore (on copyingWindow) (hdr0 8 5 0 4).dstCore.toNat) (on copyingWindow).now) (on copyingWindow).now)) (hdr0 8 5 0 4).dstCore.toNat 9) (hdr0 8 5 0 4).dstCore.toNat) ↑(hdr0 8 5 0 4).window + (hdr0 8 5 0 4).offset.toNat) / 1024)).owner = Holder.remote ∧ (tagOf (getCore (inOrder (putCore (on copyingWindow) (hdr0 8 5 0 4).dstCore.toNat (noteWork (touchData (getCore (on copyingWindow) (hdr0 8 5 0 4).dstCore.toNat) (on copyingWindow).now) (on copyingWindow).now)) (hdr0 8 5 0 4).dstCore.toNat 9) (hdr0 8 5 0 4).dstCore.toNat) ((1024 * winFirst (getCore (inOrder (putCore (on copyingWindow) (hdr0 8 5 0 4).dstCore.toNat (noteWork (touchData (getCore (on copyingWindow) (hdr0 8 5 0 4).dstCore.toNat) (on copyingWindow).now) (on copyingWindow).now)) (hdr0 8 5 0 4).dstCore.toNat 9) (hdr0 8 5 0 4).dstCore.toNat) ↑(hdr0 8 5 0 4).window + (hdr0 8 5 0 4).offset.toNat) / 1024)).src = ↑(hdr0 8 5 0 4).window)) ∧
    (getCore (inOrder (putCore (on copyingWindow) (hdr0 8 5 0 4).dstCore.toNat (noteWork (touchData (getCore (on copyingWindow) (hdr0 8 5 0 4).dstCore.toNat) (on copyingWindow).now) (on copyingWindow).now)) (hdr0 8 5 0 4).dstCore.toNat 9) (hdr0 8 5 0 4).dstCore.toNat).spd.bad = [] ∧
    (∀ (g : Gather), g ∈ (getCore (inOrder (putCore (on copyingWindow) (hdr0 8 5 0 4).dstCore.toNat (noteWork (touchData (getCore (on copyingWindow) (hdr0 8 5 0 4).dstCore.toNat) (on copyingWindow).now) (on copyingWindow).now)) (hdr0 8 5 0 4).dstCore.toNat 9) (hdr0 8 5 0 4).dstCore.toNat).spd.gather → g.bytes.length = 32) ∧
    (4 : TorusPort).val / 2 ≠ 1 ∧
    winFwd (getCore (inOrder (putCore (on copyingWindow) (hdr0 8 5 0 4).dstCore.toNat (noteWork (touchData (getCore (on copyingWindow) (hdr0 8 5 0 4).dstCore.toNat) (on copyingWindow).now) (on copyingWindow).now)) (hdr0 8 5 0 4).dstCore.toNat 9) (hdr0 8 5 0 4).dstCore.toNat) ↑(hdr0 8 5 0 4).window = true := by and_intros <;> decide +kernel

/-- States and operands that meet the hypotheses of RemoteCommands. -/
theorem witness_remoteCommands :
    ((getWin (getCore (cmdEnter (portOrder (on opened) .mgmt .blk) (cmd3 8 5) 0) ↑(cmd3 8 5).core) ↑(cmd3 8 5).win).open_ = true ∧ (getWin (getCore (cmdEnter (portOrder (on opened) .mgmt .blk) (cmd3 8 5) 0) ↑(cmd3 8 5).core) ↑(cmd3 8 5).win).epoch = (cmd3 8 5).epoch.toNat ∧ BitVec.toNat (cmd3 8 5).tenant = winTenant (getCore (cmdEnter (portOrder (on opened) .mgmt .blk) (cmd3 8 5) 0) ↑(cmd3 8 5).core) ↑(cmd3 8 5).win ∧ ∀ (p : Nat), (Via.port 1) = Via.port p → (winAxes (getCore (cmdEnter (portOrder (on opened) .mgmt .blk) (cmd3 8 5) 0) ↑(cmd3 8 5).core) ↑(cmd3 8 5).win).testBit (p / 2) = true) ∧
    (¬((getWin (getCore (cmdEnter (portOrder (on opened) .mgmt .blk) (cmd3 7 5) 0) ↑(cmd3 7 5).core) ↑(cmd3 7 5).win).open_ = true ∧ (getWin (getCore (cmdEnter (portOrder (on opened) .mgmt .blk) (cmd3 7 5) 0) ↑(cmd3 7 5).core) ↑(cmd3 7 5).win).epoch = (cmd3 7 5).epoch.toNat ∧ BitVec.toNat (cmd3 7 5).tenant = winTenant (getCore (cmdEnter (portOrder (on opened) .mgmt .blk) (cmd3 7 5) 0) ↑(cmd3 7 5).core) ↑(cmd3 7 5).win ∧ ∀ (p : Nat), (Via.port 1) = Via.port p → (winAxes (getCore (cmdEnter (portOrder (on opened) .mgmt .blk) (cmd3 7 5) 0) ↑(cmd3 7 5).core) ↑(cmd3 7 5).win).testBit (p / 2) = true)) ∧
    (¬((getWin (getCore (cmdEnter (portOrder (on opened) .mgmt .blk) (cmd3 8 6) 0) ↑(cmd3 8 6).core) ↑(cmd3 8 6).win).open_ = true ∧ (getWin (getCore (cmdEnter (portOrder (on opened) .mgmt .blk) (cmd3 8 6) 0) ↑(cmd3 8 6).core) ↑(cmd3 8 6).win).epoch = (cmd3 8 6).epoch.toNat ∧ BitVec.toNat (cmd3 8 6).tenant = winTenant (getCore (cmdEnter (portOrder (on opened) .mgmt .blk) (cmd3 8 6) 0) ↑(cmd3 8 6).core) ↑(cmd3 8 6).win ∧ ∀ (p : Nat), (Via.port 1) = Via.port p → (winAxes (getCore (cmdEnter (portOrder (on opened) .mgmt .blk) (cmd3 8 6) 0) ↑(cmd3 8 6).core) ↑(cmd3 8 6).win).testBit (p / 2) = true)) ∧
    ((getWin (getCore (cmdEnter (portOrder (on opened) .mgmt .blk) (cmd3 8 5) 7) ↑(cmd3 8 5).core) ↑(cmd3 8 5).win).open_ = true ∧ (getWin (getCore (cmdEnter (portOrder (on opened) .mgmt .blk) (cmd3 8 5) 7) ↑(cmd3 8 5).core) ↑(cmd3 8 5).win).epoch = (cmd3 8 5).epoch.toNat ∧ BitVec.toNat (cmd3 8 5).tenant = winTenant (getCore (cmdEnter (portOrder (on opened) .mgmt .blk) (cmd3 8 5) 7) ↑(cmd3 8 5).core) ↑(cmd3 8 5).win ∧ ∀ (p : Nat), (Via.port 1) = Via.port p → (winAxes (getCore (cmdEnter (portOrder (on opened) .mgmt .blk) (cmd3 8 5) 7) ↑(cmd3 8 5).core) ↑(cmd3 8 5).win).testBit (p / 2) = true) ∧
    (¬((getWin (getCore (cmdEnter (portOrder (on opened) .mgmt .blk) (cmd3 7 5) 7) ↑(cmd3 7 5).core) ↑(cmd3 7 5).win).open_ = true ∧ (getWin (getCore (cmdEnter (portOrder (on opened) .mgmt .blk) (cmd3 7 5) 7) ↑(cmd3 7 5).core) ↑(cmd3 7 5).win).epoch = (cmd3 7 5).epoch.toNat ∧ BitVec.toNat (cmd3 7 5).tenant = winTenant (getCore (cmdEnter (portOrder (on opened) .mgmt .blk) (cmd3 7 5) 7) ↑(cmd3 7 5).core) ↑(cmd3 7 5).win ∧ ∀ (p : Nat), (Via.port 1) = Via.port p → (winAxes (getCore (cmdEnter (portOrder (on opened) .mgmt .blk) (cmd3 7 5) 7) ↑(cmd3 7 5).core) ↑(cmd3 7 5).win).testBit (p / 2) = true)) ∧
    ((getWin (getCore (cmdEnter (portOrder (on opened) .mgmt .blk) (cmd3 8 5) 6) ↑(cmd3 8 5).core) ↑(cmd3 8 5).win).open_ = true ∧ (getWin (getCore (cmdEnter (portOrder (on opened) .mgmt .blk) (cmd3 8 5) 6) ↑(cmd3 8 5).core) ↑(cmd3 8 5).win).epoch = (cmd3 8 5).epoch.toNat ∧ BitVec.toNat (cmd3 8 5).tenant = winTenant (getCore (cmdEnter (portOrder (on opened) .mgmt .blk) (cmd3 8 5) 6) ↑(cmd3 8 5).core) ↑(cmd3 8 5).win ∧ ∀ (p : Nat), (Via.port 1) = Via.port p → (winAxes (getCore (cmdEnter (portOrder (on opened) .mgmt .blk) (cmd3 8 5) 6) ↑(cmd3 8 5).core) ↑(cmd3 8 5).win).testBit (p / 2) = true) ∧
    (¬((getWin (getCore (cmdEnter (portOrder (on opened) .mgmt .blk) (cmd3 7 5) 6) ↑(cmd3 7 5).core) ↑(cmd3 7 5).win).open_ = true ∧ (getWin (getCore (cmdEnter (portOrder (on opened) .mgmt .blk) (cmd3 7 5) 6) ↑(cmd3 7 5).core) ↑(cmd3 7 5).win).epoch = (cmd3 7 5).epoch.toNat ∧ BitVec.toNat (cmd3 7 5).tenant = winTenant (getCore (cmdEnter (portOrder (on opened) .mgmt .blk) (cmd3 7 5) 6) ↑(cmd3 7 5).core) ↑(cmd3 7 5).win ∧ ∀ (p : Nat), (Via.port 1) = Via.port p → (winAxes (getCore (cmdEnter (portOrder (on opened) .mgmt .blk) (cmd3 7 5) 6) ↑(cmd3 7 5).core) ↑(cmd3 7 5).win).testBit (p / 2) = true)) ∧
    (((cmd3 8 5).direct = true ∧ ∃ d, (Via.port 1) = Via.loop d) ∨ BitVec.toNat (cmd3 8 5).tenant = winTenant (getCore (cmdEnter (portOrder (on opened) .mgmt .blk) (cmd3 8 5) 7) ↑(cmd3 8 5).core) ↑(cmd3 8 5).win) ∧
    (((cmd3 8 5).direct = true ∧ ∃ d, (Via.port 1) = Via.loop d) ∨ BitVec.toNat (cmd3 8 5).tenant = winTenant (getCore (cmdEnter (portOrder (on copyingWindow) .mgmt .blk) (cmd3 8 5) 7) ↑(cmd3 8 5).core) ↑(cmd3 8 5).win) ∧
    (¬((cmd3 8 6).direct = true ∧ ∃ d, (Via.port 1) = Via.loop d)) ∧
    (command 8 5 1 [31]).wf = true ∧
    (getOwner (portOrder felled3 .mgmt .blk) ↑(cmd3 8 5).core).felled = true ∧
    takeCmd felled3 (command 8 5 1 [31]) 1 = some ((Via.port 1), (cmd3 8 5), (cmdBody 1 7 [31]), (portOrder felled3 .mgmt .blk)) ∧
    (command 8 5 2 [31]).wf = true ∧
    takeCmd felled3 (command 8 5 2 [31]) 2 = some ((Via.port 1), (cmd3 8 5), (cmdBody 2 7 [31]), (portOrder felled3 .mgmt .blk)) ∧
    (command 8 5 3 []).wf = true ∧
    takeCmd felled3 (command 8 5 3 []) 3 = some ((Via.port 1), (cmd3 8 5), (cmdBody 3 7 []), (portOrder felled3 .mgmt .blk)) ∧
    (command 8 5 4 []).wf = true ∧
    takeCmd felled3 (command 8 5 4 []) 4 = some ((Via.port 1), (cmd3 8 5), (cmdBody 4 7 []), (portOrder felled3 .mgmt .blk)) ∧
    (command 8 5 5 [2]).wf = true ∧
    takeCmd felled3 (command 8 5 5 [2]) 5 = some ((Via.port 1), (cmd3 8 5), (cmdBody 5 7 [2]), (portOrder felled3 .mgmt .blk)) ∧
    reportCopies (getCore (portOrder felled3 .mgmt .blk) ↑(cmd3 8 5).core) (Via.port 1) (cmd3 8 5) = 0 ∧
    (command 8 5 6 []).wf = true ∧
    srcOp felled3 (command 8 5 6 []) = (6 : Nat) ∧
    (6 : Nat) ≠ 63 ∧
    ((6 : Nat) = 0 ∨ 5 < (6 : Nat)) ∧
    takeCmd felled3 (command 8 5 6 []) (6 : Nat) = some ((Via.port 1), (cmd3 8 5), (cmdBody 6 7 []), (portOrder felled3 .mgmt .blk)) ∧
    (getOwner (portOrder (on opened) .mgmt .blk) ↑(cmd3 8 5).core).felled = false ∧
    takeCmd (on opened) (command 8 5 1 [31]) 1 = some ((Via.port 1), (cmd3 8 5), (cmdBody 1 7 [31]), (portOrder (on opened) .mgmt .blk)) ∧
    takeCmd (on opened) (command 8 5 2 [31]) 2 = some ((Via.port 1), (cmd3 8 5), (cmdBody 2 7 [31]), (portOrder (on opened) .mgmt .blk)) ∧
    (command 7 5 1 [31]).wf = true ∧
    (getOwner (portOrder (on opened) .mgmt .blk) ↑(cmd3 7 5).core).felled = false ∧
    takeCmd (on opened) (command 7 5 1 [31]) 1 = some ((Via.port 1), (cmd3 7 5), (cmdBody 1 7 [31]), (portOrder (on opened) .mgmt .blk)) ∧
    (command 8 6 2 [31]).wf = true ∧
    (getOwner (portOrder (on opened) .mgmt .blk) ↑(cmd3 8 6).core).felled = false ∧
    takeCmd (on opened) (command 8 6 2 [31]) 2 = some ((Via.port 1), (cmd3 8 6), (cmdBody 2 7 [31]), (portOrder (on opened) .mgmt .blk)) ∧
    takeCmd (on opened) (command 8 5 3 []) 3 = some ((Via.port 1), (cmd3 8 5), (cmdBody 3 7 []), (portOrder (on opened) .mgmt .blk)) ∧
    (getWin (getCore (inOrder (cmdEnter (portOrder (on opened) .mgmt .blk) (cmd3 8 5) 7) (↑(cmd3 8 5).core) 7) ↑(cmd3 8 5).core) ↑(cmd3 8 5).win).open_ = true ∧
    (command 7 5 3 []).wf = true ∧
    takeCmd (on opened) (command 7 5 3 []) 3 = some ((Via.port 1), (cmd3 7 5), (cmdBody 3 7 []), (portOrder (on opened) .mgmt .blk)) ∧
    takeCmd (on opened) (command 8 5 4 []) 4 = some ((Via.port 1), (cmd3 8 5), (cmdBody 4 7 []), (portOrder (on opened) .mgmt .blk)) ∧
    (command 7 5 4 []).wf = true ∧
    takeCmd (on opened) (command 7 5 4 []) 4 = some ((Via.port 1), (cmd3 7 5), (cmdBody 4 7 []), (portOrder (on opened) .mgmt .blk)) ∧
    takeCmd (on opened) (command 8 5 5 [2]) 5 = some ((Via.port 1), (cmd3 8 5), (cmdBody 5 7 [2]), (portOrder (on opened) .mgmt .blk)) ∧
    reportCopies (getCore (portOrder (on opened) .mgmt .blk) ↑(cmd3 8 5).core) (Via.port 1) (cmd3 8 5) = 0 ∧
    (getOwner (portOrder (on copyingWindow) .mgmt .blk) ↑(cmd3 8 5).core).felled = false ∧
    takeCmd (on copyingWindow) (command 8 5 5 [2]) 5 = some ((Via.port 1), (cmd3 8 5), (cmdBody 5 7 [2]), (portOrder (on copyingWindow) .mgmt .blk)) ∧
    (Via.port 1) = Via.port (1 : Nat) ∧
    reportCopies (getCore (portOrder (on copyingWindow) .mgmt .blk) ↑(cmd3 8 5).core) (Via.port 1) (cmd3 8 5) = (2 : Nat) + 1 ∧
    (command 8 6 5 [2]).wf = true ∧
    takeCmd (on opened) (command 8 6 5 [2]) 5 = some ((Via.port 1), (cmd3 8 6), (cmdBody 5 7 [2]), (portOrder (on opened) .mgmt .blk)) ∧
    BitVec.toNat (cmd3 8 6).tenant ≠ winTenant (getCore (cmdEnter (portOrder (on opened) .mgmt .blk) (cmd3 8 6) 7) ↑(cmd3 8 6).core) ↑(cmd3 8 6).win ∧
    reportCopies (getCore (portOrder (on opened) .mgmt .blk) ↑(cmd3 8 6).core) (Via.port 1) (cmd3 8 6) = 0 ∧
    srcOp (on opened) (command 8 5 6 []) = (6 : Nat) ∧
    takeCmd (on opened) (command 8 5 6 []) (6 : Nat) = some ((Via.port 1), (cmd3 8 5), (cmdBody 6 7 []), (portOrder (on opened) .mgmt .blk)) ∧
    (List.find? (fun f => f.n == (6 : Nat)) ({ on awake with forwards := [forwarded] }).forwards = some forwarded) ∧
    forwarded.hdr = some (hdr0 8 5 0 4) ∧
    (List.find? (fun f => f.n == (6 : Nat)) ({ on awake with forwards := [{ forwarded with hdr := none, report := some (cmd3 8 5, cmdBody 5 7 [2]) }] }).forwards = some ({ forwarded with hdr := none, report := some (cmd3 8 5, cmdBody 5 7 [2]) } : Forward)) ∧
    ({ forwarded with hdr := none, report := some (cmd3 8 5, cmdBody 5 7 [2]) } : Forward).hdr = none ∧
    ({ forwarded with hdr := none, report := some (cmd3 8 5, cmdBody 5 7 [2]) } : Forward).report = some ((cmd3 8 5), (cmdBody 5 7 [2])) ∧
    (cmdBody 1 7 []).length = 32 ∧
    bodyOp (cmdBody 1 7 []) = 1 ∧
    (cmdBody 2 7 []).length = 32 ∧
    bodyOp (cmdBody 2 7 []) = 2 ∧
    (cmdBody 3 7 []).length = 32 ∧
    bodyOp (cmdBody 3 7 []) = 3 ∧
    (cmdBody 4 7 []).length = 32 ∧
    bodyOp (cmdBody 4 7 []) = 4 ∧
    (cmdBody 5 7 []).length = 32 ∧
    bodyOp (cmdBody 5 7 []) = 5 ∧
    (cmdBody 0x24 7 []).length = 32 ∧
    bodyOp (cmdBody 0x24 7 []) ≠ 63 ∧
    (bodyOp (cmdBody 0x24 7 []) < 16 ∨ 22 < bodyOp (cmdBody 0x24 7 []) ∧ bodyOp (cmdBody 0x24 7 []) < 32 ∨ 35 < bodyOp (cmdBody 0x24 7 [])) ∧
    (command 8 5 0x3F []).wf = true ∧
    srcOp (on awake) (command 8 5 0x3F []) = 63 :=
  ⟨(by exact ⟨rfl, rfl, rfl, fun p hp => by cases hp; decide +kernel⟩), (by exact fun h => nomatch h), (by exact fun h => nomatch h), (by exact ⟨rfl, rfl, rfl, fun p hp => by cases hp; decide +kernel⟩), (by exact fun h => nomatch h), (by exact ⟨rfl, rfl, rfl, fun p hp => by cases hp; decide +kernel⟩), (by exact fun h => nomatch h), (by exact Or.inr rfl), (by exact Or.inr rfl), (by exact fun h => nomatch h), (by and_intros <;> decide +kernel)⟩

/-- States and operands that meet the hypotheses of JobBroadcasts. -/
theorem witness_jobBroadcasts :
    (body7 0x20 (natLe 16 0x112233445566778899AABBCCDDEEFF00 ++ natLe 2 5)).length = 32 ∧
    jobById ({ on awake with jobs := [jobOn 2 [3]] }) (bodyJob (body7 0x20 (natLe 16 0x112233445566778899AABBCCDDEEFF00 ++ natLe 2 5))) = some (jobOn 2 [3]) ∧
    (9 : ChipId) = headChip ({ on awake with jobs := [jobOn 2 [3]] }) (jobOn 2 [3]) ∧
    bodyOp (body7 0x20 (natLe 16 0x112233445566778899AABBCCDDEEFF00 ++ natLe 2 5)) = 32 ∧
    (body7 0x21 (natLe 2 6)).length = 32 ∧
    jobById ({ on awake with jobs := [jobOn 2 [3]] }) (bodyJob (body7 0x21 (natLe 2 6))) = some (jobOn 2 [3]) ∧
    bodyOp (body7 0x21 (natLe 2 6)) = 33 ∧
    reaches ({ on awake with jobs := [jobOn 1 [3]] }) (.mgmt : Port) (PageRef.core (3 : CoreId) 7) 1872 ({ on awake with jobs := [jobOn 1 [3]] }) ∧
    jobOfCore ({ on awake with jobs := [jobOn 1 [3]] }) 3 = some (jobOn 1 [3]) ∧
    (jobOn 1 [3]).role ≠ 2 ∧
    reaches (on awake) (.mgmt : Port) (PageRef.core (3 : CoreId) 7) 1872 (on awake) ∧
    (∀ (j : Job), jobOfCore (on awake) 3 = some j → j.role = 2) ∧
    jobOfCore ({ on barred with jobs := [jobOn 2 [3, 4]], cores := [(3, barred), (4, awake)] }) 3 = some (jobOn 2 [3, 4]) ∧
    jobById ({ on barred with jobs := [jobOn 2 [3, 4]], cores := [(3, barred), (4, awake)] }) (jobOn 2 [3, 4]).jobid = some (jobOn 2 [3, 4]) ∧
    notDozing (getCore ({ on barred with jobs := [jobOn 2 [3, 4]], cores := [(3, barred), (4, awake)] }) 3) ∧
    (kReg (getCore ({ on barred with jobs := [jobOn 2 [3, 4]], cores := [(3, barred), (4, awake)] }) 3) 7 1860).testBit 31 = true ∧
    (getCore ({ on barred with jobs := [jobOn 2 [3, 4]], cores := [(3, barred), (4, awake)] }) 3).barrier.arrived = false ∧
    (getOwner ({ on barred with jobs := [jobOn 2 [3, 4]], cores := [(3, barred), (4, awake)] }) 3).felled = false ∧
    1 ≤ semGet (getCore ({ on barred with jobs := [jobOn 2 [3, 4]], cores := [(3, barred), (4, awake)] }) 3) (fld (kReg (getCore ({ on barred with jobs := [jobOn 2 [3, 4]], cores := [(3, barred), (4, awake)] }) 3) 7 1860) 0 5) ∧
    (∃ d, d ∈ (jobOn 2 [3, 4]).cores ∧ d ≠ 3 ∧ (getCore ({ on barred with jobs := [jobOn 2 [3, 4]], cores := [(3, barred), (4, awake)] }) d).barrier.arrived = false ∧ (getOwner ({ on barred with jobs := [jobOn 2 [3, 4]], cores := [(3, barred), (4, awake)] }) d).felled = false) ∧
    jobOfCore ({ on barred with jobs := [jobOn 2 [3]] }) 3 = some (jobOn 2 [3]) ∧
    jobById ({ on barred with jobs := [jobOn 2 [3]] }) (jobOn 2 [3]).jobid = some (jobOn 2 [3]) ∧
    notDozing (getCore ({ on barred with jobs := [jobOn 2 [3]] }) 3) ∧
    (kReg (getCore ({ on barred with jobs := [jobOn 2 [3]] }) 3) 7 1860).testBit 31 = true ∧
    (getCore ({ on barred with jobs := [jobOn 2 [3]] }) 3).barrier.arrived = false ∧
    (getOwner ({ on barred with jobs := [jobOn 2 [3]] }) 3).felled = false ∧
    1 ≤ semGet (getCore ({ on barred with jobs := [jobOn 2 [3]] }) 3) (fld (kReg (getCore ({ on barred with jobs := [jobOn 2 [3]] }) 3) 7 1860) 0 5) ∧
    (∀ (d : Nat), d ∈ (jobOn 2 [3]).cores → d ≠ 3 → (getCore ({ on barred with jobs := [jobOn 2 [3]] }) d).barrier.arrived = true ∨ (getOwner ({ on barred with jobs := [jobOn 2 [3]] }) d).felled = true) ∧
    (∀ (d : Nat), d ∈ (jobOn 2 [3]).cores → (getCore ({ on barred with jobs := [jobOn 2 [3]] }) d).barrier.gen = (getCore ({ on barred with jobs := [jobOn 2 [3]] }) 3).barrier.gen) ∧
    (jobOn 2 [3]).chipArrived = false ∧
    (jobOn 2 [3]).role = 2 ∧
    jobOfCore ({ on barred with jobs := [jobOn 1 [3]] }) 3 = some (jobOn 1 [3]) ∧
    jobById ({ on barred with jobs := [jobOn 1 [3]] }) (jobOn 1 [3]).jobid = some (jobOn 1 [3]) ∧
    notDozing (getCore ({ on barred with jobs := [jobOn 1 [3]] }) 3) ∧
    (kReg (getCore ({ on barred with jobs := [jobOn 1 [3]] }) 3) 7 1860).testBit 31 = true ∧
    (getCore ({ on barred with jobs := [jobOn 1 [3]] }) 3).barrier.arrived = false ∧
    (getOwner ({ on barred with jobs := [jobOn 1 [3]] }) 3).felled = false ∧
    1 ≤ semGet (getCore ({ on barred with jobs := [jobOn 1 [3]] }) 3) (fld (kReg (getCore ({ on barred with jobs := [jobOn 1 [3]] }) 3) 7 1860) 0 5) ∧
    (∀ (d : Nat), d ∈ (jobOn 1 [3]).cores → d ≠ 3 → (getCore ({ on barred with jobs := [jobOn 1 [3]] }) d).barrier.arrived = true ∨ (getOwner ({ on barred with jobs := [jobOn 1 [3]] }) d).felled = true) ∧
    (∀ (d : Nat), d ∈ (jobOn 1 [3]).cores → (getCore ({ on barred with jobs := [jobOn 1 [3]] }) d).barrier.gen = (getCore ({ on barred with jobs := [jobOn 1 [3]] }) 3).barrier.gen) ∧
    (jobOn 1 [3]).chipArrived = false ∧
    (¬(((getCore ({ on barred with jobs := [jobOn 1 [3]] }) 3).barrier.gen + 1) % 65536, torusHere ({ on barred with jobs := [jobOn 1 [3]] })) ∈ (jobOn 1 [3]).arrived) ∧
    ((List.filter (fun a => decide (a.fst = ((getCore ({ on barred with jobs := [jobOn 1 [3]] }) 3).barrier.gen + 1) % 65536)) (jobOn 1 [3]).arrived).length + 1 < (jobOn 1 [3]).nchips) ∧
    jobOfCore ({ on barred with jobs := [{ jobOn 0 [3] with nchips := 1 }] }) 3 = some ({ jobOn 0 [3] with nchips := 1 } : Job) ∧
    jobById ({ on barred with jobs := [{ jobOn 0 [3] with nchips := 1 }] }) ({ jobOn 0 [3] with nchips := 1 } : Job).jobid = some ({ jobOn 0 [3] with nchips := 1 } : Job) ∧
    notDozing (getCore ({ on barred with jobs := [{ jobOn 0 [3] with nchips := 1 }] }) 3) ∧
    (kReg (getCore ({ on barred with jobs := [{ jobOn 0 [3] with nchips := 1 }] }) 3) 7 1860).testBit 31 = true ∧
    (getCore ({ on barred with jobs := [{ jobOn 0 [3] with nchips := 1 }] }) 3).barrier.arrived = false ∧
    (getOwner ({ on barred with jobs := [{ jobOn 0 [3] with nchips := 1 }] }) 3).felled = false ∧
    1 ≤ semGet (getCore ({ on barred with jobs := [{ jobOn 0 [3] with nchips := 1 }] }) 3) (fld (kReg (getCore ({ on barred with jobs := [{ jobOn 0 [3] with nchips := 1 }] }) 3) 7 1860) 0 5) ∧
    (∀ (d : Nat), d ∈ ({ jobOn 0 [3] with nchips := 1 } : Job).cores → d ≠ 3 → (getCore ({ on barred with jobs := [{ jobOn 0 [3] with nchips := 1 }] }) d).barrier.arrived = true ∨ (getOwner ({ on barred with jobs := [{ jobOn 0 [3] with nchips := 1 }] }) d).felled = true) ∧
    (∀ (d : Nat), d ∈ ({ jobOn 0 [3] with nchips := 1 } : Job).cores → (getCore ({ on barred with jobs := [{ jobOn 0 [3] with nchips := 1 }] }) d).barrier.gen = (getCore ({ on barred with jobs := [{ jobOn 0 [3] with nchips := 1 }] }) 3).barrier.gen) ∧
    ({ jobOn 0 [3] with nchips := 1 } : Job).chipArrived = false ∧
    ({ jobOn 0 [3] with nchips := 1 } : Job).role = 0 ∧
    (¬(((getCore ({ on barred with jobs := [{ jobOn 0 [3] with nchips := 1 }] }) 3).barrier.gen + 1) % 65536, torusHere ({ on barred with jobs := [{ jobOn 0 [3] with nchips := 1 }] })) ∈ ({ jobOn 0 [3] with nchips := 1 } : Job).arrived) ∧
    ({ jobOn 0 [3] with nchips := 1 } : Job).nchips ≤ 1 ∧
    (body7 0x22 (natLe 2 1)).length = 32 ∧
    bodyOp (body7 0x22 (natLe 2 1)) = 34 ∧
    jobById ({ on barred with jobs := [{ jobOn 1 [3] with arrived := [(1, torusHere State.reset)] }] }) (bodyJob (body7 0x22 (natLe 2 1))) = some ({ jobOn 1 [3] with arrived := [(1, torusHere State.reset)] }) ∧
    ({ jobOn 1 [3] with arrived := [(1, torusHere State.reset)] }).role ≠ 2 ∧
    ((torusHere State.reset) = torusHere ({ on barred with jobs := [{ jobOn 1 [3] with arrived := [(1, torusHere State.reset)] }] }) ∨ ({ jobOn 1 [3] with arrived := [(1, torusHere State.reset)] }).role = 1 ∧ Config.jobChip (torusHere State.reset) ({ jobOn 1 [3] with arrived := [(1, torusHere State.reset)] }).jobid = true) ∧
    (bodyArg (body7 0x22 (natLe 2 1)) 8 2, (torusHere State.reset)) ∈ ({ jobOn 1 [3] with arrived := [(1, torusHere State.reset)] }).arrived ∧
    jobById ({ on barred with jobs := [jobOn 1 [3]] }) (bodyJob (body7 0x22 (natLe 2 1))) = some (jobOn 1 [3]) ∧
    ((torusHere State.reset) = torusHere ({ on barred with jobs := [jobOn 1 [3]] }) ∨ (jobOn 1 [3]).role = 1 ∧ Config.jobChip (torusHere State.reset) (jobOn 1 [3]).jobid = true) ∧
    (¬(bodyArg (body7 0x22 (natLe 2 1)) 8 2, (torusHere State.reset)) ∈ (jobOn 1 [3]).arrived) ∧
    ((List.filter (fun a => decide (a.fst = bodyArg (body7 0x22 (natLe 2 1)) 8 2)) (jobOn 1 [3]).arrived).length + 1 < (jobOn 1 [3]).nchips) ∧
    jobById ({ on barred with jobs := [{ jobOn 1 [3] with arrived := [(1, 12)] }] }) (bodyJob (body7 0x22 (natLe 2 1))) = some ({ jobOn 1 [3] with arrived := [(1, 12)] }) ∧
    ({ jobOn 1 [3] with arrived := [(1, 12)] }).role ≠ 2 ∧
    ((torusHere State.reset) = torusHere ({ on barred with jobs := [{ jobOn 1 [3] with arrived := [(1, 12)] }] }) ∨ ({ jobOn 1 [3] with arrived := [(1, 12)] }).role = 1 ∧ Config.jobChip (torusHere State.reset) ({ jobOn 1 [3] with arrived := [(1, 12)] }).jobid = true) ∧
    (¬(bodyArg (body7 0x22 (natLe 2 1)) 8 2, (torusHere State.reset)) ∈ ({ jobOn 1 [3] with arrived := [(1, 12)] }).arrived) ∧
    (({ jobOn 1 [3] with arrived := [(1, 12)] }).nchips ≤ (List.filter (fun a => decide (a.fst = bodyArg (body7 0x22 (natLe 2 1)) 8 2)) ({ jobOn 1 [3] with arrived := [(1, 12)] }).arrived).length + 1) ∧
    (body7 0x23 (natLe 2 1)).length = 32 ∧
    bodyOp (body7 0x23 (natLe 2 1)) = 35 ∧
    jobById ({ on barred with jobs := [jobOn 2 [3, 4]], cores := [(3, barred), (4, awake)] }) (bodyJob (body7 0x23 (natLe 2 1))) = some (jobOn 2 [3, 4]) ∧
    (9 : ChipId) = headChip ({ on barred with jobs := [jobOn 2 [3, 4]], cores := [(3, barred), (4, awake)] }) (jobOn 2 [3, 4]) ∧
    (jobOn 2 [3, 4]).cores.Nodup ∧
    (∀ (c : Nat), c ∈ (jobOn 2 [3, 4]).cores → notDozing (getCore ({ on barred with jobs := [jobOn 2 [3, 4]], cores := [(3, barred), (4, awake)] }) c)) ∧
    (body7 0x10 []).length = 32 ∧
    jobById (on awake) (bodyJob (body7 0x10 [])) = none ∧
    bodyOp (body7 0x10 []) = 16 ∧
    (body7 0x11 []).length = 32 ∧
    jobById (on awake) (bodyJob (body7 0x11 [])) = none ∧
    bodyOp (body7 0x11 []) = 17 ∧
    (body7 0x12 []).length = 32 ∧
    jobById (on awake) (bodyJob (body7 0x12 [])) = none ∧
    bodyOp (body7 0x12 []) = 18 ∧
    (body7 0x13 []).length = 32 ∧
    jobById (on awake) (bodyJob (body7 0x13 [])) = none ∧
    bodyOp (body7 0x13 []) = 19 ∧
    (body7 0x14 []).length = 32 ∧
    jobById (on awake) (bodyJob (body7 0x14 [])) = none ∧
    bodyOp (body7 0x14 []) = 20 ∧
    (body7 0x15 []).length = 32 ∧
    jobById (on awake) (bodyJob (body7 0x15 [])) = none ∧
    bodyOp (body7 0x15 []) = 21 ∧
    (body7 0x16 []).length = 32 ∧
    jobById (on awake) (bodyJob (body7 0x16 [])) = none ∧
    bodyOp (body7 0x16 []) = 22 ∧
    (body7 0x20 []).length = 32 ∧
    jobById (on awake) (bodyJob (body7 0x20 [])) = none ∧
    bodyOp (body7 0x20 []) = 32 ∧
    (body7 0x21 []).length = 32 ∧
    jobById (on awake) (bodyJob (body7 0x21 [])) = none ∧
    bodyOp (body7 0x21 []) = 33 ∧
    (body7 0x22 []).length = 32 ∧
    jobById (on awake) (bodyJob (body7 0x22 [])) = none ∧
    bodyOp (body7 0x22 []) = 34 ∧
    (body7 0x23 []).length = 32 ∧
    jobById (on awake) (bodyJob (body7 0x23 [])) = none ∧
    bodyOp (body7 0x23 []) = 35 := by and_intros <;> decide +kernel

/-- States and operands that meet the hypotheses of QuantiserRegisters. -/
theorem witness_quantiserRegisters :
    reaches ({ on awake with cores := [(3, { awake with pages := [(9, { act := [(0x4C, 0x400003FF#32)] })] })] }) (.mgmt : Port) (PageRef.core (3 : CoreId) 9) (match (.srzp : ScaleReg) with | ScaleReg.srscale => 80 | ScaleReg.srflatv => 84 | ScaleReg.srzp => 88) ({ on awake with cores := [(3, { awake with pages := [(9, { act := [(0x4C, 0x400003FF#32)] })] })] }) ∧
    reaches (on { awake with vxq := { flights := [onBank] } }) (.mgmt : Port) (PageRef.core (3 : CoreId) 9) (match (.srscale : ScaleReg) with | ScaleReg.srscale => 80 | ScaleReg.srflatv => 84 | ScaleReg.srzp => 88) (on { awake with vxq := { flights := [onBank] } }) ∧
    readable ({ on awake with cores := [(3, { awake with pages := [(9, { act := [(0x4C, 0x400003FF#32)] })] })] }) (.mgmt : Port) (PageRef.core (3 : CoreId) 9) 88 ∧
    reaches (on awake) (.mgmt : Port) (PageRef.core (3 : CoreId) 9) (100 + 4 * (15 : Fin 16).val) (on awake) ∧
    (fld (kReg (getCore (on awake) 3) 9 (100 + 4 * (15 : Fin 16).val)) 0 5 = if (16 : BitVec 5) = 0#5 ∨ 16 < (16 : BitVec 5).toNat then 16 else (16 : BitVec 5).toNat) ∧
    reaches (on awake) (.mgmt : Port) (PageRef.core (3 : CoreId) 9) (100 + 4 * (0 : Fin 16).val) (on awake) ∧
    (fld (kReg (getCore (on awake) 3) 9 (100 + 4 * (0 : Fin 16).val)) 0 5 = if (17 : BitVec 5) = 0#5 ∨ 16 < (17 : BitVec 5).toNat then 16 else (17 : BitVec 5).toNat) ∧
    (fld (kReg (getCore (on awake) 3) 9 (100 + 4 * (0 : Fin 16).val)) 0 5 ≠ if (1 : BitVec 5) = 0#5 ∨ 16 < (1 : BitVec 5).toNat then 16 else (1 : BitVec 5).toNat) ∧
    reaches (on awake) (.mgmt : Port) (PageRef.core (3 : CoreId) 8) 92 (on awake) := by decide +kernel

/-- States and operands that meet the hypotheses of GroveClocks. -/
theorem witness_groveClocks :
    reaches (on awake) (.mgmt : Port) (PageRef.core (3 : CoreId) 10) (64 + 4 * (0 : Fin 4).val) (on awake) ∧
    (BitVec.toNat (0x12 : Word) % 4 = 0 ∧ BitVec.toNat (0x12 : Word) / 16 % 32 < fld (kReg (getCore (on awake) 3) 10 88) (4 * (0 : Fin 4).val) 4 + 1 ∨ BitVec.toNat (0x12 : Word) / 16 % 32 < 2 ∨ 16 < BitVec.toNat (0x12 : Word) / 16 % 32 ∨ BitVec.toNat (0x12 : Word) % 4 = 2 ∧ ((kReg (getCore (on awake) 3) 10 88).testBit (16 + (0 : Fin 4).val) = false ∨ 40 ≤ 3)) ∧
    reaches (on awake) (.mgmt : Port) (PageRef.core (3 : CoreId) 10) (64 + 4 * (3 : Fin 4).val) (on awake) ∧
    (¬(BitVec.toNat (0x100 : Word) % 4 = 0 ∧ BitVec.toNat (0x100 : Word) / 16 % 32 < fld (kReg (getCore (on awake) 3) 10 88) (4 * (3 : Fin 4).val) 4 + 1 ∨ BitVec.toNat (0x100 : Word) / 16 % 32 < 2 ∨ 16 < BitVec.toNat (0x100 : Word) / 16 % 32 ∨ BitVec.toNat (0x100 : Word) % 4 = 2 ∧ ((kReg (getCore (on awake) 3) 10 88).testBit (16 + (3 : Fin 4).val) = false ∨ 40 ≤ 3))) ∧
    (¬(BitVec.toNat (0x21 : Word) % 4 = 0 ∧ BitVec.toNat (0x21 : Word) / 16 % 32 < fld (kReg (getCore (on awake) 3) 10 88) (4 * (0 : Fin 4).val) 4 + 1 ∨ BitVec.toNat (0x21 : Word) / 16 % 32 < 2 ∨ 16 < BitVec.toNat (0x21 : Word) / 16 % 32 ∨ BitVec.toNat (0x21 : Word) % 4 = 2 ∧ ((kReg (getCore (on awake) 3) 10 88).testBit (16 + (0 : Fin 4).val) = false ∨ 40 ≤ 3))) ∧
    ((getRegion (getCore (on awake) 3) (1 : Fin 4).val).switching = false ∨ clkSrc (getRegion (getCore (on awake) 3) (1 : Fin 4).val).target = 2 ∧ bankClock (on awake) 3 = false ∨ (getRegion (getCore (on awake) 3) (1 : Fin 4).val).lost = false ∧ clkSrc (getRegion (getCore (on awake) 3) (1 : Fin 4).val).cur = 2 ∧ bankClock (on awake) 3 = false) ∧
    (getRegion (getCore (on (clocked 1 { switching := true, target := 0x41#32 } 0x41#32)) 3) (1 : Fin 4).val).switching = true ∧
    (¬(clkSrc (getRegion (getCore (on (clocked 1 { switching := true, target := 0x41#32 } 0x41#32)) 3) (1 : Fin 4).val).target = 2 ∧ bankClock (on (clocked 1 { switching := true, target := 0x41#32 } 0x41#32)) 3 = false ∨ (getRegion (getCore (on (clocked 1 { switching := true, target := 0x41#32 } 0x41#32)) 3) (1 : Fin 4).val).lost = false ∧ clkSrc (getRegion (getCore (on (clocked 1 { switching := true, target := 0x41#32 } 0x41#32)) 3) (1 : Fin 4).val).cur = 2 ∧ bankClock (on (clocked 1 { switching := true, target := 0x41#32 } 0x41#32)) 3 = false)) ∧
    kReg (getCore (atLeast (on (clocked 1 { switching := true, target := 0x41#32 } 0x41#32)) ((getRegion (getCore (on (clocked 1 { switching := true, target := 0x41#32 } 0x41#32)) 3) (1 : Fin 4).val).since + switchTime (getRegion (getCore (on (clocked 1 { switching := true, target := 0x41#32 } 0x41#32)) 3) (1 : Fin 4).val))) 3) 10 (64 + 4 * (1 : Fin 4).val) = BitVec.toNat (getRegion (getCore (on (clocked 1 { switching := true, target := 0x41#32 } 0x41#32)) 3) (1 : Fin 4).val).target ∧
    (getRegion (getCore (on (clocked 1 { switching := true, target := 0x41#32 } 0x21#32)) 3) (1 : Fin 4).val).switching = true ∧
    (¬(clkSrc (getRegion (getCore (on (clocked 1 { switching := true, target := 0x41#32 } 0x21#32)) 3) (1 : Fin 4).val).target = 2 ∧ bankClock (on (clocked 1 { switching := true, target := 0x41#32 } 0x21#32)) 3 = false ∨ (getRegion (getCore (on (clocked 1 { switching := true, target := 0x41#32 } 0x21#32)) 3) (1 : Fin 4).val).lost = false ∧ clkSrc (getRegion (getCore (on (clocked 1 { switching := true, target := 0x41#32 } 0x21#32)) 3) (1 : Fin 4).val).cur = 2 ∧ bankClock (on (clocked 1 { switching := true, target := 0x41#32 } 0x21#32)) 3 = false)) ∧
    kReg (getCore (atLeast (on (clocked 1 { switching := true, target := 0x41#32 } 0x21#32)) ((getRegion (getCore (on (clocked 1 { switching := true, target := 0x41#32 } 0x21#32)) 3) (1 : Fin 4).val).since + switchTime (getRegion (getCore (on (clocked 1 { switching := true, target := 0x41#32 } 0x21#32)) 3) (1 : Fin 4).val))) 3) 10 (64 + 4 * (1 : Fin 4).val) ≠ BitVec.toNat (getRegion (getCore (on (clocked 1 { switching := true, target := 0x41#32 } 0x21#32)) 3) (1 : Fin 4).val).target ∧
    (getRegion (getCore ({ on (clocked 1 { switching := true, cur := 0x20#32, target := 0x22#32 } 0x22#32) with banks := [] }) 3) (1 : Fin 4).val).switching = true ∧
    (clkSrc (getRegion (getCore ({ on (clocked 1 { switching := true, cur := 0x20#32, target := 0x22#32 } 0x22#32) with banks := [] }) 3) (1 : Fin 4).val).target = 2 ∧ bankClock ({ on (clocked 1 { switching := true, cur := 0x20#32, target := 0x22#32 } 0x22#32) with banks := [] }) 3 = false ∨ (getRegion (getCore ({ on (clocked 1 { switching := true, cur := 0x20#32, target := 0x22#32 } 0x22#32) with banks := [] }) 3) (1 : Fin 4).val).lost = false ∧ clkSrc (getRegion (getCore ({ on (clocked 1 { switching := true, cur := 0x20#32, target := 0x22#32 } 0x22#32) with banks := [] }) 3) (1 : Fin 4).val).cur = 2 ∧ bankClock ({ on (clocked 1 { switching := true, cur := 0x20#32, target := 0x22#32 } 0x22#32) with banks := [] }) 3 = false) ∧
    (getRegion (getCore ({ on (clocked 1 { cur := 0x22#32, target := 0x22#32 } 0x22#32) with banks := [] }) 3) (1 : Fin 4).val).switching = false ∧
    (getRegion (getCore ({ on (clocked 1 { cur := 0x22#32, target := 0x22#32 } 0x22#32) with banks := [] }) 3) (1 : Fin 4).val).lost = false ∧
    clkSrc (getRegion (getCore ({ on (clocked 1 { cur := 0x22#32, target := 0x22#32 } 0x22#32) with banks := [] }) 3) (1 : Fin 4).val).cur = 2 ∧
    bankClock ({ on (clocked 1 { cur := 0x22#32, target := 0x22#32 } 0x22#32) with banks := [] }) 3 = false ∧
    ((getRegion (getCore (on awake) 3) (1 : Fin 4).val).switching = true ∧ ¬(clkSrc (getRegion (getCore (on awake) 3) (1 : Fin 4).val).target = 2 ∧ bankClock (on awake) 3 = false ∨ (getRegion (getCore (on awake) 3) (1 : Fin 4).val).lost = false ∧ clkSrc (getRegion (getCore (on awake) 3) (1 : Fin 4).val).cur = 2 ∧ bankClock (on awake) 3 = false) ∨ (getRegion (getCore (on awake) 3) (1 : Fin 4).val).switching = false ∧ ((getRegion (getCore (on awake) 3) (1 : Fin 4).val).lost = true ∨ clkSrc (getRegion (getCore (on awake) 3) (1 : Fin 4).val).cur ≠ 2 ∨ bankClock (on awake) 3 = true)) := by and_intros <;> decide +kernel

/-- States and operands that meet the hypotheses of GrovePortRule. -/
theorem witness_grovePortRule :
    readyHead (on { kGv with grv := { grove0 with blanking := some 0 } }) 3 QueueId.gvq = some (entry 0 dGv) ∧
    opOf (entry 0 dGv).raw = 80 ∧
    (getCore (on { kGv with grv := { grove0 with blanking := some 0 } }) 3).gvq.fb = none ∧
    ((∃ o, o ∈ (getCore (on { kGv with grv := { grove0 with blanking := some 0 } }) 3).grv.port.ops ∧ o.aborting = true) ∨ (getCore (on { kGv with grv := { grove0 with blanking := some 0 } }) 3).grv.blanking ≠ none) ∧
    readyHead (on { kGv with grv := { grove0 with halted := true } }) 3 QueueId.gvq = some (entry 0 dGv) ∧
    (getCore (on { kGv with grv := { grove0 with halted := true } }) 3).gvq.fb = none ∧
    (¬((∃ o, o ∈ (getCore (on { kGv with grv := { grove0 with halted := true } }) 3).grv.port.ops ∧ o.aborting = true) ∨ (getCore (on { kGv with grv := { grove0 with halted := true } }) 3).grv.blanking ≠ none)) ∧
    (getCore (on { kGv with grv := { grove0 with halted := true } }) 3).grv.halted = true ∧
    readyHead (on { kGv with spd := { segs := [(0, { phase := .off })] } }) 3 QueueId.gvq = some (entry 0 dGv) ∧
    (getCore (on { kGv with spd := { segs := [(0, { phase := .off })] } }) 3).gvq.fb = none ∧
    (¬((∃ o, o ∈ (getCore (on { kGv with spd := { segs := [(0, { phase := .off })] } }) 3).grv.port.ops ∧ o.aborting = true) ∨ (getCore (on { kGv with spd := { segs := [(0, { phase := .off })] } }) 3).grv.blanking ≠ none)) ∧
    (getCore (on { kGv with spd := { segs := [(0, { phase := .off })] } }) 3).grv.halted = false ∧
    touchesOff (getCore (on { kGv with spd := { segs := [(0, { phase := .off })] } }) 3) ((gvopPlan (getCore (on { kGv with spd := { segs := [(0, { phase := .off })] } }) 3) (getCore (on { kGv with spd := { segs := [(0, { phase := .off })] } }) 3).gvq.loops (effective (getCore (on { kGv with spd := { segs := [(0, { phase := .off })] } }) 3).gvq.loops (getCore (on { kGv with spd := { segs := [(0, { phase := .off })] } }) 3).gvq.issue (entry 0 dGv).raw) (entry 0 dGv)).ins ++ (gvopPlan (getCore (on { kGv with spd := { segs := [(0, { phase := .off })] } }) 3) (getCore (on { kGv with spd := { segs := [(0, { phase := .off })] } }) 3).gvq.loops (effective (getCore (on { kGv with spd := { segs := [(0, { phase := .off })] } }) 3).gvq.loops (getCore (on { kGv with spd := { segs := [(0, { phase := .off })] } }) 3).gvq.issue (entry 0 dGv).raw) (entry 0 dGv)).outs ++ trecRegion (effective (getCore (on { kGv with spd := { segs := [(0, { phase := .off })] } }) 3).gvq.loops (getCore (on { kGv with spd := { segs := [(0, { phase := .off })] } }) 3).gvq.issue (entry 0 dGv).raw)) = true ∧
    readyHead (on { kGv with gvq := holding [splice dGv 2 [0x20, 0]] }) 3 QueueId.gvq = some (entry 0 (splice dGv 2 [0x20, 0])) ∧
    opOf (entry 0 (splice dGv 2 [0x20, 0])).raw = 80 ∧
    (getCore (on { kGv with gvq := holding [splice dGv 2 [0x20, 0]] }) 3).gvq.fb = none ∧
    (¬((∃ o, o ∈ (getCore (on { kGv with gvq := holding [splice dGv 2 [0x20, 0]] }) 3).grv.port.ops ∧ o.aborting = true) ∨ (getCore (on { kGv with gvq := holding [splice dGv 2 [0x20, 0]] }) 3).grv.blanking ≠ none)) ∧
    (getCore (on { kGv with gvq := holding [splice dGv 2 [0x20, 0]] }) 3).grv.halted = false ∧
    touchesOff (getCore (on { kGv with gvq := holding [splice dGv 2 [0x20, 0]] }) 3) ((gvopPlan (getCore (on { kGv with gvq := holding [splice dGv 2 [0x20, 0]] }) 3) (getCore (on { kGv with gvq := holding [splice dGv 2 [0x20, 0]] }) 3).gvq.loops (effective (getCore (on { kGv with gvq := holding [splice dGv 2 [0x20, 0]] }) 3).gvq.loops (getCore (on { kGv with gvq := holding [splice dGv 2 [0x20, 0]] }) 3).gvq.issue (entry 0 (splice dGv 2 [0x20, 0])).raw) (entry 0 (splice dGv 2 [0x20, 0]))).ins ++ (gvopPlan (getCore (on { kGv with gvq := holding [splice dGv 2 [0x20, 0]] }) 3) (getCore (on { kGv with gvq := holding [splice dGv 2 [0x20, 0]] }) 3).gvq.loops (effective (getCore (on { kGv with gvq := holding [splice dGv 2 [0x20, 0]] }) 3).gvq.loops (getCore (on { kGv with gvq := holding [splice dGv 2 [0x20, 0]] }) 3).gvq.issue (entry 0 (splice dGv 2 [0x20, 0])).raw) (entry 0 (splice dGv 2 [0x20, 0]))).outs ++ trecRegion (effective (getCore (on { kGv with gvq := holding [splice dGv 2 [0x20, 0]] }) 3).gvq.loops (getCore (on { kGv with gvq := holding [splice dGv 2 [0x20, 0]] }) 3).gvq.issue (entry 0 (splice dGv 2 [0x20, 0])).raw)) = false ∧
    semsReady (getCore (on { kGv with gvq := holding [splice dGv 2 [0x20, 0]] }) 3) QueueId.gvq (entry 0 (splice dGv 2 [0x20, 0])) = false ∧
    readyHead (on { kGv with spd := { tags := [] } }) 3 QueueId.gvq = some (entry 0 dGv) ∧
    (getCore (on { kGv with spd := { tags := [] } }) 3).gvq.fb = none ∧
    (¬((∃ o, o ∈ (getCore (on { kGv with spd := { tags := [] } }) 3).grv.port.ops ∧ o.aborting = true) ∨ (getCore (on { kGv with spd := { tags := [] } }) 3).grv.blanking ≠ none)) ∧
    (getCore (on { kGv with spd := { tags := [] } }) 3).grv.halted = false ∧
    touchesOff (getCore (on { kGv with spd := { tags := [] } }) 3) ((gvopPlan (getCore (on { kGv with spd := { tags := [] } }) 3) (getCore (on { kGv with spd := { tags := [] } }) 3).gvq.loops (effective (getCore (on { kGv with spd := { tags := [] } }) 3).gvq.loops (getCore (on { kGv with spd := { tags := [] } }) 3).gvq.issue (entry 0 dGv).raw) (entry 0 dGv)).ins ++ (gvopPlan (getCore (on { kGv with spd := { tags := [] } }) 3) (getCore (on { kGv with spd := { tags := [] } }) 3).gvq.loops (effective (getCore (on { kGv with spd := { tags := [] } }) 3).gvq.loops (getCore (on { kGv with spd := { tags := [] } }) 3).gvq.issue (entry 0 dGv).raw) (entry 0 dGv)).outs ++ trecRegion (effective (getCore (on { kGv with spd := { tags := [] } }) 3).gvq.loops (getCore (on { kGv with spd := { tags := [] } }) 3).gvq.issue (entry 0 dGv).raw)) = false ∧
    semsReady (getCore (on { kGv with spd := { tags := [] } }) 3) QueueId.gvq (entry 0 dGv) = true ∧
    (¬((slotUse (getCore (on { kGv with spd := { tags := [] } }) 3) (gvopPlan (getCore (on { kGv with spd := { tags := [] } }) 3) (getCore (on { kGv with spd := { tags := [] } }) 3).gvq.loops (effective (getCore (on { kGv with spd := { tags := [] } }) 3).gvq.loops (getCore (on { kGv with spd := { tags := [] } }) 3).gvq.issue (entry 0 dGv).raw) (entry 0 dGv)) (effective (getCore (on { kGv with spd := { tags := [] } }) 3).gvq.loops (getCore (on { kGv with spd := { tags := [] } }) 3).gvq.issue (entry 0 dGv).raw)).ins.all (mayRead (getCore (on { kGv with spd := { tags := [] } }) 3)) = true ∧ (slotUse (getCore (on { kGv with spd := { tags := [] } }) 3) (gvopPlan (getCore (on { kGv with spd := { tags := [] } }) 3) (getCore (on { kGv with spd := { tags := [] } }) 3).gvq.loops (effective (getCore (on { kGv with spd := { tags := [] } }) 3).gvq.loops (getCore (on { kGv with spd := { tags := [] } }) 3).gvq.issue (entry 0 dGv).raw) (entry 0 dGv)) (effective (getCore (on { kGv with spd := { tags := [] } }) 3).gvq.loops (getCore (on { kGv with spd := { tags := [] } }) 3).gvq.issue (entry 0 dGv).raw)).outs.all (mayTake (getCore (on { kGv with spd := { tags := [] } }) 3)) = true)) ∧
    readyHead (on { kGv with grv := { grove0 with decls := [] } }) 3 QueueId.gvq = some (entry 0 dGv) ∧
    (getCore (on { kGv with grv := { grove0 with decls := [] } }) 3).gvq.fb = none ∧
    (¬((∃ o, o ∈ (getCore (on { kGv with grv := { grove0 with decls := [] } }) 3).grv.port.ops ∧ o.aborting = true) ∨ (getCore (on { kGv with grv := { grove0 with decls := [] } }) 3).grv.blanking ≠ none)) ∧
    (getCore (on { kGv with grv := { grove0 with decls := [] } }) 3).grv.halted = false ∧
    touchesOff (getCore (on { kGv with grv := { grove0 with decls := [] } }) 3) ((gvopPlan (getCore (on { kGv with grv := { grove0 with decls := [] } }) 3) (getCore (on { kGv with grv := { grove0 with decls := [] } }) 3).gvq.loops (effective (getCore (on { kGv with grv := { grove0 with decls := [] } }) 3).gvq.loops (getCore (on { kGv with grv := { grove0 with decls := [] } }) 3).gvq.issue (entry 0 dGv).raw) (entry 0 dGv)).ins ++ (gvopPlan (getCore (on { kGv with grv := { grove0 with decls := [] } }) 3) (getCore (on { kGv with grv := { grove0 with decls := [] } }) 3).gvq.loops (effective (getCore (on { kGv with grv := { grove0 with decls := [] } }) 3).gvq.loops (getCore (on { kGv with grv := { grove0 with decls := [] } }) 3).gvq.issue (entry 0 dGv).raw) (entry 0 dGv)).outs ++ trecRegion (effective (getCore (on { kGv with grv := { grove0 with decls := [] } }) 3).gvq.loops (getCore (on { kGv with grv := { grove0 with decls := [] } }) 3).gvq.issue (entry 0 dGv).raw)) = false ∧
    semsReady (getCore (on { kGv with grv := { grove0 with decls := [] } }) 3) QueueId.gvq (entry 0 dGv) = true ∧
    (slotUse (getCore (on { kGv with grv := { grove0 with decls := [] } }) 3) (gvopPlan (getCore (on { kGv with grv := { grove0 with decls := [] } }) 3) (getCore (on { kGv with grv := { grove0 with decls := [] } }) 3).gvq.loops (effective (getCore (on { kGv with grv := { grove0 with decls := [] } }) 3).gvq.loops (getCore (on { kGv with grv := { grove0 with decls := [] } }) 3).gvq.issue (entry 0 dGv).raw) (entry 0 dGv)) (effective (getCore (on { kGv with grv := { grove0 with decls := [] } }) 3).gvq.loops (getCore (on { kGv with grv := { grove0 with decls := [] } }) 3).gvq.issue (entry 0 dGv).raw)).ins.all (mayRead (getCore (on { kGv with grv := { grove0 with decls := [] } }) 3)) = true ∧
    (slotUse (getCore (on { kGv with grv := { grove0 with decls := [] } }) 3) (gvopPlan (getCore (on { kGv with grv := { grove0 with decls := [] } }) 3) (getCore (on { kGv with grv := { grove0 with decls := [] } }) 3).gvq.loops (effective (getCore (on { kGv with grv := { grove0 with decls := [] } }) 3).gvq.loops (getCore (on { kGv with grv := { grove0 with decls := [] } }) 3).gvq.issue (entry 0 dGv).raw) (entry 0 dGv)) (effective (getCore (on { kGv with grv := { grove0 with decls := [] } }) 3).gvq.loops (getCore (on { kGv with grv := { grove0 with decls := [] } }) 3).gvq.issue (entry 0 dGv).raw)).outs.all (mayTake (getCore (on { kGv with grv := { grove0 with decls := [] } }) 3)) = true ∧
    windowFail (getCore (inOrder (atLeast (on { kGv with grv := { grove0 with decls := [] } }) (getCore (on { kGv with grv := { grove0 with decls := [] } }) 3).gvq.winEnd) 3 (rankIssue (getCore (on { kGv with grv := { grove0 with decls := [] } }) 3) QueueId.gvq)) 3) QueueId.gvq (gvopPlan (getCore (on { kGv with grv := { grove0 with decls := [] } }) 3) (getCore (on { kGv with grv := { grove0 with decls := [] } }) 3).gvq.loops (effective (getCore (on { kGv with grv := { grove0 with decls := [] } }) 3).gvq.loops (getCore (on { kGv with grv := { grove0 with decls := [] } }) 3).gvq.issue (entry 0 dGv).raw) (entry 0 dGv)) (slotUse (getCore (on { kGv with grv := { grove0 with decls := [] } }) 3) (gvopPlan (getCore (on { kGv with grv := { grove0 with decls := [] } }) 3) (getCore (on { kGv with grv := { grove0 with decls := [] } }) 3).gvq.loops (effective (getCore (on { kGv with grv := { grove0 with decls := [] } }) 3).gvq.loops (getCore (on { kGv with grv := { grove0 with decls := [] } }) 3).gvq.issue (entry 0 dGv).raw) (entry 0 dGv)) (effective (getCore (on { kGv with grv := { grove0 with decls := [] } }) 3).gvq.loops (getCore (on { kGv with grv := { grove0 with decls := [] } }) 3).gvq.issue (entry 0 dGv).raw)) (effective (getCore (on { kGv with grv := { grove0 with decls := [] } }) 3).gvq.loops (getCore (on { kGv with grv := { grove0 with decls := [] } }) 3).gvq.issue (entry 0 dGv).raw) = some ({ code := 0x03 } : Fail) ∧
    readyHead (on { kGv with gvq := holding [splice dGv 0x22 [0, 0]] }) 3 QueueId.gvq = some (entry 0 (splice dGv 0x22 [0, 0])) ∧
    opOf (entry 0 (splice dGv 0x22 [0, 0])).raw = 80 ∧
    (getCore (on { kGv with gvq := holding [splice dGv 0x22 [0, 0]] }) 3).gvq.fb = none ∧
    (¬((∃ o, o ∈ (getCore (on { kGv with gvq := holding [splice dGv 0x22 [0, 0]] }) 3).grv.port.ops ∧ o.aborting = true) ∨ (getCore (on { kGv with gvq := holding [splice dGv 0x22 [0, 0]] }) 3).grv.blanking ≠ none)) ∧
    (getCore (on { kGv with gvq := holding [splice dGv 0x22 [0, 0]] }) 3).grv.halted = false ∧
    touchesOff (getCore (on { kGv with gvq := holding [splice dGv 0x22 [0, 0]] }) 3) ((gvopPlan (getCore (on { kGv with gvq := holding [splice dGv 0x22 [0, 0]] }) 3) (getCore (on { kGv with gvq := holding [splice dGv 0x22 [0, 0]] }) 3).gvq.loops (effective (getCore (on { kGv with gvq := holding [splice dGv 0x22 [0, 0]] }) 3).gvq.loops (getCore (on { kGv with gvq := holding [splice dGv 0x22 [0, 0]] }) 3).gvq.issue (entry 0 (splice dGv 0x22 [0, 0])).raw) (entry 0 (splice dGv 0x22 [0, 0]))).ins ++ (gvopPlan (getCore (on { kGv with gvq := holding [splice dGv 0x22 [0, 0]] }) 3) (getCore (on { kGv with gvq := holding [splice dGv 0x22 [0, 0]] }) 3).gvq.loops (effective (getCore (on { kGv with gvq := holding [splice dGv 0x22 [0, 0]] }) 3).gvq.loops (getCore (on { kGv with gvq := holding [splice dGv 0x22 [0, 0]] }) 3).gvq.issue (entry 0 (splice dGv 0x22 [0, 0])).raw) (entry 0 (splice dGv 0x22 [0, 0]))).outs ++ trecRegion (effective (getCore (on { kGv with gvq := holding [splice dGv 0x22 [0, 0]] }) 3).gvq.loops (getCore (on { kGv with gvq := holding [splice dGv 0x22 [0, 0]] }) 3).gvq.issue (entry 0 (splice dGv 0x22 [0, 0])).raw)) = false ∧
    semsReady (getCore (on { kGv with gvq := holding [splice dGv 0x22 [0, 0]] }) 3) QueueId.gvq (entry 0 (splice dGv 0x22 [0, 0])) = true ∧
    (slotUse (getCore (on { kGv with gvq := holding [splice dGv 0x22 [0, 0]] }) 3) (gvopPlan (getCore (on { kGv with gvq := holding [splice dGv 0x22 [0, 0]] }) 3) (getCore (on { kGv with gvq := holding [splice dGv 0x22 [0, 0]] }) 3).gvq.loops (effective (getCore (on { kGv with gvq := holding [splice dGv 0x22 [0, 0]] }) 3).gvq.loops (getCore (on { kGv with gvq := holding [splice dGv 0x22 [0, 0]] }) 3).gvq.issue (entry 0 (splice dGv 0x22 [0, 0])).raw) (entry 0 (splice dGv 0x22 [0, 0]))) (effective (getCore (on { kGv with gvq := holding [splice dGv 0x22 [0, 0]] }) 3).gvq.loops (getCore (on { kGv with gvq := holding [splice dGv 0x22 [0, 0]] }) 3).gvq.issue (entry 0 (splice dGv 0x22 [0, 0])).raw)).ins.all (mayRead (getCore (on { kGv with gvq := holding [splice dGv 0x22 [0, 0]] }) 3)) = true ∧
    (slotUse (getCore (on { kGv with gvq := holding [splice dGv 0x22 [0, 0]] }) 3) (gvopPlan (getCore (on { kGv with gvq := holding [splice dGv 0x22 [0, 0]] }) 3) (getCore (on { kGv with gvq := holding [splice dGv 0x22 [0, 0]] }) 3).gvq.loops (effective (getCore (on { kGv with gvq := holding [splice dGv 0x22 [0, 0]] }) 3).gvq.loops (getCore (on { kGv with gvq := holding [splice dGv 0x22 [0, 0]] }) 3).gvq.issue (entry 0 (splice dGv 0x22 [0, 0])).raw) (entry 0 (splice dGv 0x22 [0, 0]))) (effective (getCore (on { kGv with gvq := holding [splice dGv 0x22 [0, 0]] }) 3).gvq.loops (getCore (on { kGv with gvq := holding [splice dGv 0x22 [0, 0]] }) 3).gvq.issue (entry 0 (splice dGv 0x22 [0, 0])).raw)).outs.all (mayTake (getCore (on { kGv with gvq := holding [splice dGv 0x22 [0, 0]] }) 3)) = true ∧
    windowFail (getCore (inOrder (atLeast (on { kGv with gvq := holding [splice dGv 0x22 [0, 0]] }) (getCore (on { kGv with gvq := holding [splice dGv 0x22 [0, 0]] }) 3).gvq.winEnd) 3 (rankIssue (getCore (on { kGv with gvq := holding [splice dGv 0x22 [0, 0]] }) 3) QueueId.gvq)) 3) QueueId.gvq (gvopPlan (getCore (on { kGv with gvq := holding [splice dGv 0x22 [0, 0]] }) 3) (getCore (on { kGv with gvq := holding [splice dGv 0x22 [0, 0]] }) 3).gvq.loops (effective (getCore (on { kGv with gvq := holding [splice dGv 0x22 [0, 0]] }) 3).gvq.loops (getCore (on { kGv with gvq := holding [splice dGv 0x22 [0, 0]] }) 3).gvq.issue (entry 0 (splice dGv 0x22 [0, 0])).raw) (entry 0 (splice dGv 0x22 [0, 0]))) (slotUse (getCore (on { kGv with gvq := holding [splice dGv 0x22 [0, 0]] }) 3) (gvopPlan (getCore (on { kGv with gvq := holding [splice dGv 0x22 [0, 0]] }) 3) (getCore (on { kGv with gvq := holding [splice dGv 0x22 [0, 0]] }) 3).gvq.loops (effective (getCore (on { kGv with gvq := holding [splice dGv 0x22 [0, 0]] }) 3).gvq.loops (getCore (on { kGv with gvq := holding [splice dGv 0x22 [0, 0]] }) 3).gvq.issue (entry 0 (splice dGv 0x22 [0, 0])).raw) (entry 0 (splice dGv 0x22 [0, 0]))) (effective (getCore (on { kGv with gvq := holding [splice dGv 0x22 [0, 0]] }) 3).gvq.loops (getCore (on { kGv with gvq := holding [splice dGv 0x22 [0, 0]] }) 3).gvq.issue (entry 0 (splice dGv 0x22 [0, 0])).raw)) (effective (getCore (on { kGv with gvq := holding [splice dGv 0x22 [0, 0]] }) 3).gvq.loops (getCore (on { kGv with gvq := holding [splice dGv 0x22 [0, 0]] }) 3).gvq.issue (entry 0 (splice dGv 0x22 [0, 0])).raw) = none ∧
    (gvopPlan (getCore (on { kGv with gvq := holding [splice dGv 0x22 [0, 0]] }) 3) (getCore (on { kGv with gvq := holding [splice dGv 0x22 [0, 0]] }) 3).gvq.loops (effective (getCore (on { kGv with gvq := holding [splice dGv 0x22 [0, 0]] }) 3).gvq.loops (getCore (on { kGv with gvq := holding [splice dGv 0x22 [0, 0]] }) 3).gvq.issue (entry 0 (splice dGv 0x22 [0, 0])).raw) (entry 0 (splice dGv 0x22 [0, 0]))).null = true ∧
    readyHead (on kGv) 3 QueueId.gvq = some (entry 0 dGv) ∧
    (getCore (on kGv) 3).gvq.fb = none ∧
    (¬((∃ o, o ∈ (getCore (on kGv) 3).grv.port.ops ∧ o.aborting = true) ∨ (getCore (on kGv) 3).grv.blanking ≠ none)) ∧
    (getCore (on kGv) 3).grv.halted = false ∧
    touchesOff (getCore (on kGv) 3) ((gvopPlan (getCore (on kGv) 3) (getCore (on kGv) 3).gvq.loops (effective (getCore (on kGv) 3).gvq.loops (getCore (on kGv) 3).gvq.issue (entry 0 dGv).raw) (entry 0 dGv)).ins ++ (gvopPlan (getCore (on kGv) 3) (getCore (on kGv) 3).gvq.loops (effective (getCore (on kGv) 3).gvq.loops (getCore (on kGv) 3).gvq.issue (entry 0 dGv).raw) (entry 0 dGv)).outs ++ trecRegion (effective (getCore (on kGv) 3).gvq.loops (getCore (on kGv) 3).gvq.issue (entry 0 dGv).raw)) = false ∧
    semsReady (getCore (on kGv) 3) QueueId.gvq (entry 0 dGv) = true ∧
    (slotUse (getCore (on kGv) 3) (gvopPlan (getCore (on kGv) 3) (getCore (on kGv) 3).gvq.loops (effective (getCore (on kGv) 3).gvq.loops (getCore (on kGv) 3).gvq.issue (entry 0 dGv).raw) (entry 0 dGv)) (effective (getCore (on kGv) 3).gvq.loops (getCore (on kGv) 3).gvq.issue (entry 0 dGv).raw)).ins.all (mayRead (getCore (on kGv) 3)) = true ∧
    (slotUse (getCore (on kGv) 3) (gvopPlan (getCore (on kGv) 3) (getCore (on kGv) 3).gvq.loops (effective (getCore (on kGv) 3).gvq.loops (getCore (on kGv) 3).gvq.issue (entry 0 dGv).raw) (entry 0 dGv)) (effective (getCore (on kGv) 3).gvq.loops (getCore (on kGv) 3).gvq.issue (entry 0 dGv).raw)).outs.all (mayTake (getCore (on kGv) 3)) = true ∧
    windowFail (getCore (inOrder (atLeast (on kGv) (getCore (on kGv) 3).gvq.winEnd) 3 (rankIssue (getCore (on kGv) 3) QueueId.gvq)) 3) QueueId.gvq (gvopPlan (getCore (on kGv) 3) (getCore (on kGv) 3).gvq.loops (effective (getCore (on kGv) 3).gvq.loops (getCore (on kGv) 3).gvq.issue (entry 0 dGv).raw) (entry 0 dGv)) (slotUse (getCore (on kGv) 3) (gvopPlan (getCore (on kGv) 3) (getCore (on kGv) 3).gvq.loops (effective (getCore (on kGv) 3).gvq.loops (getCore (on kGv) 3).gvq.issue (entry 0 dGv).raw) (entry 0 dGv)) (effective (getCore (on kGv) 3).gvq.loops (getCore (on kGv) 3).gvq.issue (entry 0 dGv).raw)) (effective (getCore (on kGv) 3).gvq.loops (getCore (on kGv) 3).gvq.issue (entry 0 dGv).raw) = none ∧
    (gvopPlan (getCore (on kGv) 3) (getCore (on kGv) 3).gvq.loops (effective (getCore (on kGv) 3).gvq.loops (getCore (on kGv) 3).gvq.issue (entry 0 dGv).raw) (entry 0 dGv)).null = false ∧
    (nextSender (getCore (on awake) 3) = none ∨ inCredits (getCore (on awake) 3) ≤ (getCore (on awake) 3).grv.port.inBuf.length) ∧
    nextSender (getCore (on (porting (gvPort []))) 3) = some (gvPort []) ∧
    portOp (getCore (on (porting (gvPort []))) 3) (gvPort []).tag = some (gvPort []) ∧
    (getCore (on (porting (gvPort []))) 3).grv.port.inBuf.length < inCredits (getCore (on (porting (gvPort []))) 3) ∧
    ((getCore (on awake) 3).grv.port.inBuf = [] ∨ clkRuns (on awake) 3 0 = false) ∧
    (getCore (on (beating (gvPort [four]))) 3).grv.port.inBuf ≠ [] ∧
    clkRuns (on (beating (gvPort [four]))) 3 0 = true ∧
    (OutBeat.scatter []).wf = true ∧
    clkRuns (on (porting (gvPort []))) 3 0 = true ∧
    portOp (getCore (withCredit (atEdge (on (porting (gvPort []))) 3 (on (porting (gvPort []))).now) 3) 3) (3 : Fin 4).val = none ∧
    clkRuns (on (clocked 0 { lost := true } 0)) 3 0 = false ∧
    clkRuns (on (porting { gvPort [] with aborting := true })) 3 0 = true ∧
    portOp (getCore (withCredit (atEdge (on (porting { gvPort [] with aborting := true })) 3 (on (porting { gvPort [] with aborting := true })).now) 3) 3) (2 : Fin 4).val = some ({ gvPort [] with aborting := true } : PortOp) ∧
    ({ gvPort [] with aborting := true } : PortOp).aborting = true ∧
    (OutBeat.result true true (List.replicate 256 7#8)).wf = true ∧
    liveOp (getCore (withCredit (atEdge (on (porting (gvPort []))) 3 (on (porting (gvPort []))).now) 3) 3) (2 : Fin 4).val = some (gvPort []) ∧
    operatorOf (getCore (withCredit (atEdge (on (porting (gvPort []))) 3 (on (porting (gvPort []))).now) 3) 3) (gvSlot (gvPort []).raw) = none ∧
    (OutBeat.result true true (List.replicate 256 7#8)) = OutBeat.result true true (List.replicate 256 7#8) ∧
    clkRuns (on (porting { gvPort [] with row := 1 })) 3 0 = true ∧
    liveOp (getCore (withCredit (atEdge (on (porting { gvPort [] with row := 1 })) 3 (on (porting { gvPort [] with row := 1 })).now) 3) 3) (2 : Fin 4).val = some ({ gvPort [] with row := 1 } : PortOp) ∧
    operatorOf (getCore (withCredit (atEdge (on (porting { gvPort [] with row := 1 })) 3 (on (porting { gvPort [] with row := 1 })).now) 3) 3) (gvSlot ({ gvPort [] with row := 1 } : PortOp).raw) = none ∧
    (OutBeat.scatter [{ off := 0, data := four }]).wf = true ∧
    (OutBeat.scatter [{ off := 0, data := four }]) = OutBeat.scatter ([{ off := 0, data := four }] : List ScatterWrite) ∧
    (BitVec.toNat (slotDecl (getCore (withCredit (atEdge (on (porting (gvPort []))) 3 (on (porting (gvPort []))).now) 3) 3) (gvSlot (gvPort []).raw)).info).testBit 29 = false ∧
    clkRuns (on (scattering (gvPort []))) 3 0 = true ∧
    liveOp (getCore (withCredit (atEdge (on (scattering (gvPort []))) 3 (on (scattering (gvPort []))).now) 3) 3) (2 : Fin 4).val = some (gvPort []) ∧
    operatorOf (getCore (withCredit (atEdge (on (scattering (gvPort []))) 3 (on (scattering (gvPort []))).now) 3) 3) (gvSlot (gvPort []).raw) = none ∧
    (BitVec.toNat (slotDecl (getCore (withCredit (atEdge (on (scattering (gvPort []))) 3 (on (scattering (gvPort []))).now) 3) 3) (gvSlot (gvPort []).raw)).info).testBit 29 = true ∧
    portOp (porting (gvPort [])) outEntry.tag = some (gvPort []) ∧
    (gvPort []).aborting = false ∧
    outEntry.body = OutWrite.result (0x400 : Nat) four (1 : Nat) ∧
    (porting (gvPort [])).spd.bad = [] ∧
    (List.replicate 32 1#8).length = 32 ∧
    Option.any (mayAnswer (getCore (on (porting (gvPort []))) 3)) (liveOp (getCore (on (porting (gvPort []))) 3) (2 : Fin 4).val) = true ∧ clkRuns (on (porting (gvPort []))) 3 0 = true ∧
    liveOp (getCore (outWritten (atEdge (on (porting (gvPort []))) 3 (on (porting (gvPort []))).now) 3 (2 : Fin 4).val) 3) (2 : Fin 4).val = some (gvPort []) ∧
    (¬(Option.any (mayAnswer (getCore (on (porting (gvPort []))) 3)) (liveOp (getCore (on (porting (gvPort []))) 3) (1 : Fin 4).val) = true ∧ clkRuns (on (porting (gvPort []))) 3 0 = true)) ∧
    portOp (getCore (atEdge (on (porting { gvPort [] with aborting := true })) 3 (on (porting { gvPort [] with aborting := true })).now) 3) (2 : Fin 4).val = some ({ gvPort [] with aborting := true } : PortOp) ∧
    fld (kReg (getCore (on (porting (gvPort []))) 3) 10 84) 0 20 ≠ 0 ∧
    (List.find? (fun f => decide (f.work = WorkState.running) && !f.null) (getCore (on (porting (gvPort []))) 3).gvq.flights = some gvFlight) ∧
    (fld (kReg (getCore (on { porting (gvPort []) with pages := [(10, { act := [(0x54, 0#32)] })] }) 3) 10 84) 0 20 = 0 ∨ ∀ (f : Flight), f ∈ (getCore (on { porting (gvPort []) with pages := [(10, { act := [(0x54, 0#32)] })] }) 3).gvq.flights → f.work ≠ WorkState.running ∨ f.null = true) := by and_intros <;> decide +kernel

/-- States and operands that meet the hypotheses of FabricIo. -/
theorem witness_fabricIo :
    (getBank ({ on awake with banks := [(0, { clkOk := true, mismatch := true })], fioPage := { act := [(0x40, 0x81000000#32)] } }) (0 : BankId).val).mismatch = true ∧
    (getBank (on awake) (0 : BankId).val).mismatch = false ∧
    (getBank (on awake) (3 : BankId).val).clkOk = false ∧
    (getBank ({ on (clocked 1 { cur := 0x22#32, target := 0x22#32 } 0x22#32) with banks := [(0, { clkOk := true })] }) (0 : BankId).val).clkOk = true ∧
    (bankCfg ({ on awake with banks := [(0, { clkOk := true })], fioPage := { act := [(0x40, 0x81000000#32)] } }) (0 : BankId).val).testBit 31 = true ∧
    (fld (bankCfg ({ on awake with banks := [(0, { clkOk := true })], fioPage := { act := [(0x40, 0x81000000#32)] } }) (0 : BankId).val) 24 2 = 1 ∨ fld (bankCfg ({ on awake with banks := [(0, { clkOk := true })], fioPage := { act := [(0x40, 0x81000000#32)] } }) (0 : BankId).val) 24 2 = 2) ∧
    pinSampled (pinned 0xA0000000#32 {}) (5 : PinId).val = true ∧
    (getPin (pinned 0xA0000000#32 {}) (5 : PinId).val).level ≠ true ∧
    (¬(fld (evCfg (pinned 0xA0000000#32 {}) (5 : PinId).val) 29 2 = 0 ∧ true = true ∨ fld (evCfg (pinned 0xA0000000#32 {}) (5 : PinId).val) 29 2 = 1 ∧ true = false ∨ 2 ≤ fld (evCfg (pinned 0xA0000000#32 {}) (5 : PinId).val) 29 2)) ∧
    pinSampled (pinned 0x80000000#32 {}) (5 : PinId).val = true ∧
    (getPin (pinned 0x80000000#32 {}) (5 : PinId).val).level ≠ true ∧
    (fld (evCfg (pinned 0x80000000#32 {}) (5 : PinId).val) 29 2 = 0 ∧ true = true ∨ fld (evCfg (pinned 0x80000000#32 {}) (5 : PinId).val) 29 2 = 1 ∧ true = false ∨ 2 ≤ fld (evCfg (pinned 0x80000000#32 {}) (5 : PinId).val) 29 2) ∧
    (atLeast (pinned 0x80000000#32 {}) ((getPin (pinned 0x80000000#32 {}) (5 : PinId).val).lastChange + 17 * (fld (evCfg (pinned 0x80000000#32 {}) (5 : PinId).val) 20 8 + 1))).now < (getPin (pinned 0x80000000#32 {}) (5 : PinId).val).winStart + winLen (evCfg (pinned 0x80000000#32 {}) (5 : PinId).val) ∧
    (getPin (pinned 0x80000000#32 {}) (5 : PinId).val).armed = true ∧
    (fld (evCfg (pinned 0x80000000#32 {}) (5 : PinId).val) 12 8 = 0 ∨ (getPin (pinned 0x80000000#32 {}) (5 : PinId).val).winCount + 1 ≤ fld (evCfg (pinned 0x80000000#32 {}) (5 : PinId).val) 12 8) ∧
    pinSampled (pinned 0x80001000#32 { winCount := 0 }) (5 : PinId).val = true ∧
    (getPin (pinned 0x80001000#32 { winCount := 0 }) (5 : PinId).val).level ≠ true ∧
    (fld (evCfg (pinned 0x80001000#32 { winCount := 0 }) (5 : PinId).val) 29 2 = 0 ∧ true = true ∨ fld (evCfg (pinned 0x80001000#32 { winCount := 0 }) (5 : PinId).val) 29 2 = 1 ∧ true = false ∨ 2 ≤ fld (evCfg (pinned 0x80001000#32 { winCount := 0 }) (5 : PinId).val) 29 2) ∧
    (atLeast (pinned 0x80001000#32 { winCount := 0 }) ((getPin (pinned 0x80001000#32 { winCount := 0 }) (5 : PinId).val).lastChange + 17 * (fld (evCfg (pinned 0x80001000#32 { winCount := 0 }) (5 : PinId).val) 20 8 + 1))).now < (getPin (pinned 0x80001000#32 { winCount := 0 }) (5 : PinId).val).winStart + winLen (evCfg (pinned 0x80001000#32 { winCount := 0 }) (5 : PinId).val) ∧
    (getPin (pinned 0x80001000#32 { winCount := 0 }) (5 : PinId).val).armed = true ∧
    (fld (evCfg (pinned 0x80001000#32 { winCount := 0 }) (5 : PinId).val) 12 8 = 0 ∨ (getPin (pinned 0x80001000#32 { winCount := 0 }) (5 : PinId).val).winCount + 1 ≤ fld (evCfg (pinned 0x80001000#32 { winCount := 0 }) (5 : PinId).val) 12 8) ∧
    pinSampled (pinned 0x80001000#32 { winCount := 1 }) (5 : PinId).val = true ∧
    (getPin (pinned 0x80001000#32 { winCount := 1 }) (5 : PinId).val).level ≠ true ∧
    (fld (evCfg (pinned 0x80001000#32 { winCount := 1 }) (5 : PinId).val) 29 2 = 0 ∧ true = true ∨ fld (evCfg (pinned 0x80001000#32 { winCount := 1 }) (5 : PinId).val) 29 2 = 1 ∧ true = false ∨ 2 ≤ fld (evCfg (pinned 0x80001000#32 { winCount := 1 }) (5 : PinId).val) 29 2) ∧
    (atLeast (pinned 0x80001000#32 { winCount := 1 }) ((getPin (pinned 0x80001000#32 { winCount := 1 }) (5 : PinId).val).lastChange + 17 * (fld (evCfg (pinned 0x80001000#32 { winCount := 1 }) (5 : PinId).val) 20 8 + 1))).now < (getPin (pinned 0x80001000#32 { winCount := 1 }) (5 : PinId).val).winStart + winLen (evCfg (pinned 0x80001000#32 { winCount := 1 }) (5 : PinId).val) ∧
    (getPin (pinned 0x80001000#32 { winCount := 1 }) (5 : PinId).val).armed = true ∧
    fld (evCfg (pinned 0x80001000#32 { winCount := 1 }) (5 : PinId).val) 12 8 ≠ 0 ∧
    fld (evCfg (pinned 0x80001000#32 { winCount := 1 }) (5 : PinId).val) 12 8 < (getPin (pinned 0x80001000#32 { winCount := 1 }) (5 : PinId).val).winCount + 1 ∧
    pinSampled (pinned 0x80001000#32 { armed := false }) (5 : PinId).val = true ∧
    (getPin (pinned 0x80001000#32 { armed := false }) (5 : PinId).val).level ≠ true ∧
    (fld (evCfg (pinned 0x80001000#32 { armed := false }) (5 : PinId).val) 29 2 = 0 ∧ true = true ∨ fld (evCfg (pinned 0x80001000#32 { armed := false }) (5 : PinId).val) 29 2 = 1 ∧ true = false ∨ 2 ≤ fld (evCfg (pinned 0x80001000#32 { armed := false }) (5 : PinId).val) 29 2) ∧
    (atLeast (pinned 0x80001000#32 { armed := false }) ((getPin (pinned 0x80001000#32 { armed := false }) (5 : PinId).val).lastChange + 17 * (fld (evCfg (pinned 0x80001000#32 { armed := false }) (5 : PinId).val) 20 8 + 1))).now < (getPin (pinned 0x80001000#32 { armed := false }) (5 : PinId).val).winStart + winLen (evCfg (pinned 0x80001000#32 { armed := false }) (5 : PinId).val) ∧
    (getPin (pinned 0x80001000#32 { armed := false }) (5 : PinId).val).armed = false ∧
    (getPin (pinned 0x90000000#32 { deliver := [(7, 119)] }) (5 : PinId).val).deliver = ((7 : Nat), (119 : Nat)) :: ([] : List (Nat × Nat)) ∧
    (getPin (pinned 0x80000000#32 { deliver := [(7, 119), (8, 200)] }) (5 : PinId).val).deliver = ((7 : Nat), (119 : Nat)) :: ([(8, 200)] : List (Nat × Nat)) ∧
    (evCfg (pinned 0x80000000#32 { winCount := 3 }) (5 : PinId).val).testBit 31 = true ∧
    pinSampled (pinned 0x80000008#32 { stuckFrom := some 100, level := true }) (5 : PinId).val = true ∧
    (getPin (pinned 0x80000008#32 { stuckFrom := some 100, level := true }) (5 : PinId).val).armed = true ∧
    (getPin (pinned 0x80000008#32 { stuckFrom := some 100, level := true }) (5 : PinId).val).stuckFrom = some (100 : Nat) ∧
    (evCfg (pinned 0x80000008#32 { stuckFrom := some 100, level := true }) (5 : PinId).val).testBit 3 = true ∧
    fld (evCfg (pinned 0x80000008#32 { stuckFrom := some 100, level := true }) (5 : PinId).val) 29 2 < 2 ∧
    reaches (pinned 0x80000000#32 { stuckFrom := some 100, storm := true, armed := false, supp := 4 }) (.mgmt : Port) PageRef.fio (864 + 4 * (5 : PinId).val) (pinned 0x80000000#32 { stuckFrom := some 100, storm := true, armed := false, supp := 4 }) ∧
    readable (on awake) (.mgmt : Port) PageRef.fio (1248 + 12 * (0 : BankId).val) := by and_intros <;> decide +kernel

/-- States and operands that meet the hypotheses of ImageLoads. -/
theorem witness_imageLoads_17 :
    (∀ (tk : Taken), tk ∈ (on awake).taken → leAt tk.block 0 2 = 1 ∨ leAt tk.block 0 2 = 3 → ¬3 ∈ tk.ending) := by decide +kernel

/-- States and operands that meet the hypotheses of ImageLoads. -/
theorem witness_imageLoads_18 :
    reaches (on (loading (load1 1 4) four)) (.mgmt : Port) (PageRef.core (3 : CoreId) 11) 104 (on (loading (load1 1 4) four)) ∧
    (loadBusy (getCore (on (loading (load1 1 4) four)) 3) = true ∨ (BitVec.toNat (0x10000004 : Word)).testBit 30 = true) := by decide +kernel

/-- States and operands that meet the hypotheses of ImageLoads. -/
theorem witness_imageLoads_19 :
    reaches (on awake) (.mgmt : Port) (PageRef.core (3 : CoreId) 11) 104 (on awake) ∧
    loadBusy (getCore (on awake) 3) = false ∧
    (BitVec.toNat (0x10000004 : Word)).testBit 30 = false ∧
    (ceilDiv (fld (BitVec.toNat (0x10000004 : Word)) 0 17) 1024 ≤ (stagingSlots (getCore (on awake) 3) (fld (BitVec.toNat (0x10000004 : Word)) 0 17)).length ∧ (freshCore (getCore (on awake) 3) = true ∨ ∀ (n : Nat), n ∈ stagingSlots (getCore (on awake) 3) (fld (BitVec.toNat (0x10000004 : Word)) 0 17) → untagged (getCore (on awake) 3) n = true)) := by decide +kernel

/-- States and operands that meet the hypotheses of ImageLoads. -/
theorem witness_imageLoads_20 :
    reaches (on { awake with mxq := { tail := 1 } }) (.mgmt : Port) (PageRef.core (3 : CoreId) 11) 104 (on { awake with mxq := { tail := 1 } }) ∧
    loadBusy (getCore (on { awake with mxq := { tail := 1 } }) 3) = false ∧
    (BitVec.toNat (0x10000004 : Word)).testBit 30 = false ∧
    (¬(ceilDiv (fld (BitVec.toNat (0x10000004 : Word)) 0 17) 1024 ≤ (stagingSlots (getCore (on { awake with mxq := { tail := 1 } }) 3) (fld (BitVec.toNat (0x10000004 : Word)) 0 17)).length ∧ (freshCore (getCore (on { awake with mxq := { tail := 1 } }) 3) = true ∨ ∀ (n : Nat), n ∈ stagingSlots (getCore (on { awake with mxq := { tail := 1 } }) 3) (fld (BitVec.toNat (0x10000004 : Word)) 0 17) → untagged (getCore (on { awake with mxq := { tail := 1 } }) 3) n = true))) := by decide +kernel

/-- States and operands that meet the hypotheses of ImageLoads. -/
theorem witness_imageLoads_21 :
    (getCore (on (loading (load1 1 4) [])) 3).grv.load = some (load1 1 4) ∧ (load1 1 4).phase = 1 ∧ (load1 1 4).asked < (load1 1 4).len ∧
    (∃ f ∈ (lostLine 1).skd.fetches, (∃ off, f.kind = .image off) ∧ f.stage = .faulted 1) ∧
    (lostLine 1).grv.load = some { load1 1 16 with asked := 16 } ∧
    (getCore (on (loading { load1 1 4 with asked := 4 } [])) 3).grv.load = some { load1 1 4 with asked := 4 } ∧ ({ load1 1 4 with asked := 4 } : Load).len ≤ ({ load1 1 4 with asked := 4 } : Load).asked ∧
    (¬ ∃ f ∈ (getCore (on (loading { load1 1 4 with asked := 4 } [])) 3).skd.fetches, ∃ off, f.kind = .image off) ∧
    (load2 crc1 [451]).phase ≠ 1 ∧ ({ load2 crc1 [451] with refetch := some 451 } : Load).refetch = some 451 ∧
    pendOf ({ load2 crc1 [451] with refetch := some 451 } : Load) 451 = some { frame := 451, crc := crc1, pos := 0 } ∧
    ∀ g ∈ (getCore (on (loading { load2 crc1 [451] with refetch := some 451 } [])) 3).skd.fetches, g.kind ≠ .frame 451 :=
  ⟨rfl, rfl, by decide, ⟨_, List.mem_singleton.mpr rfl, ⟨0, rfl⟩, rfl⟩, rfl, rfl, by decide, nofun, by decide, rfl, by decide, nofun⟩

/-- States and operands that meet the hypotheses of ImageLoads. -/
theorem witness_imageLoads_22 :
    check1 (load1 2 4) (slice ([] : List Byte) 0 256) = false := by decide +kernel

/-- States and operands that meet the hypotheses of ImageLoads. -/
theorem witness_imageLoads_23 :
    check1 (load1 2 272) (slice (hdr1 0 [(8, 2, 0x5A05)]) 0 256) = true ∧
    check2 (slice (hdr1 0 [(8, 2, 0x5A05)]) 0 256) = false := by decide +kernel

/-- States and operands that meet the hypotheses of ImageLoads. -/
theorem witness_imageLoads_24 :
    check1 (load1 2 272) (slice (hdr1 0 [(0x2A, 2, 449)]) 0 256) = true ∧
    check2 (slice (hdr1 0 [(0x2A, 2, 449)]) 0 256) = true ∧
    (check3 (slice (hdr1 0 [(0x2A, 2, 449)]) 0 256) = false ∨ check4 (slice (hdr1 0 [(0x2A, 2, 449)]) 0 256) = false) := by decide +kernel

/-- States and operands that meet the hypotheses of ImageLoads. -/
theorem witness_imageLoads_25 :
    check1 ({ load1 2 272 with mask := 15 }) (slice (hdr1 0 []) 0 256) = true ∧
    check2 (slice (hdr1 0 []) 0 256) = true ∧
    check3 (slice (hdr1 0 []) 0 256) = true ∧
    check4 (slice (hdr1 0 []) 0 256) = true ∧
    imageKey ({ load1 2 272 with mask := 15 }) (slice (hdr1 0 []) 0 256) = none := by decide +kernel

/-- States and operands that meet the hypotheses of ImageLoads. -/
theorem witness_imageLoads_26 :
    check1 (load1 2 272) (slice (hdr1 0 []) 0 256) = true ∧
    check2 (slice (hdr1 0 []) 0 256) = true ∧
    check3 (slice (hdr1 0 []) 0 256) = true ∧
    check4 (slice (hdr1 0 []) 0 256) = true ∧
    imageKey (load1 2 272) (slice (hdr1 0 []) 0 256) = some key1 ∧
    gcmTag (roundKeys (keyBytes key1)) (nats (hdrIv (slice (hdr1 0 []) 0 256))) (slice (hdr1 0 []) 0 256) (List.take (hdrBody (slice (hdr1 0 []) 0 256)) (List.drop 256 (hdr1 0 []))) ≠ slice (hdr1 0 []) (256 + hdrBody (slice (hdr1 0 []) 0 256)) 16 := by decide +kernel

/-- States and operands that meet the hypotheses of ImageLoads. -/
theorem witness_imageLoads_27 :
    pass1 (getCore (on (loading (load1 2 4) four)) 3) (load1 2 4) (stagedImage (getCore (on (loading (load1 2 4) four)) 3) (load1 2 4)) = Except.error (0x0A : Nat) ∧
    (getCore (on (loading (load1 2 4) four)) 3).grv.load = some (load1 2 4) ∧
    (load1 2 4).phase = 2 :=
  ⟨rfl, by decide +kernel⟩

/-- States and operands that meet the hypotheses of ImageLoads. -/
theorem witness_imageLoads_28 :
    pass1 (getCore (on (loading (load1 2 272) image0)) 3) (load1 2 272) (stagedImage (getCore (on (loading (load1 2 272) image0)) 3) (load1 2 272)) = Except.ok (key1, ([] : List PendFrame)) ∧
    (getCore (on (loading (load1 2 272) image0)) 3).grv.load = some (load1 2 272) ∧
    (load1 2 272).phase = 2 :=
  ⟨rfl, by decide +kernel⟩

/-- States and operands that meet the hypotheses of ImageLoads. -/
theorem witness_imageLoads_29 :
    (getCore (on (loading { load1 3 272 with todo := [450, 451] } image0)) 3).grv.load = some ({ load1 3 272 with todo := [450, 451] } : Load) ∧
    ({ load1 3 272 with todo := [450, 451] } : Load).phase = 3 ∧
    (∀ (f : Flight), f ∈ (getCore (on (loading { load1 3 272 with todo := [450, 451] } image0)) 3).gvq.flights → opOf f.raw ≠ 80) ∧
    (histChanges (getCore (on (loading { load1 3 272 with todo := [450, 451] } image0)) 3) ({ load1 3 272 with todo := [450, 451] } : Load) = true → (∀ (f : Flight), f ∈ (getCore (on (loading { load1 3 272 with todo := [450, 451] } image0)) 3).vxq.flights → usesHist f.raw = false) ∧ ∀ (b : Fallback), (getCore (on (loading { load1 3 272 with todo := [450, 451] } image0)) 3).vxq.fb = some b → usesHist b.orig.raw = false) := by decide +kernel

/-- States and operands that meet the hypotheses of ImageLoads. -/
theorem witness_imageLoads_30 :
    (getCore (on (loading (load2 crc1 [450, 451, 452]) [])) 3).grv.load = some (load2 crc1 [450, 451, 452]) ∧
    (load2 crc1 [450, 451, 452]).phase = 4 ∧
    (load2 crc1 [450, 451, 452]).refetch = none ∧
    (∀ (f : Nat), f ∈ (load2 crc1 [450, 451, 452]).todo → ∀ (p : PendFrame), pendOf (load2 crc1 [450, 451, 452]) f = some p → crc32c (decryptFrame (load2 crc1 [450, 451, 452]).key (hdrIv (load2 crc1 [450, 451, 452]).hdr) (hdrNframes (load2 crc1 [450, 451, 452]).hdr) p.pos (slice (stagedImage (getCore (on (loading (load2 crc1 [450, 451, 452]) [])) 3) (load2 crc1 [450, 451, 452])) (256 + tableBytes (hdrNframes (load2 crc1 [450, 451, 452]).hdr) + 64 * p.pos) 64)) = p.crc) := by decide +kernel

/-- States and operands that meet the hypotheses of ImageLoads. -/
theorem witness_imageLoads_31 :
    (getCore (on (loading (load2 0 [450, 451, 452]) [])) 3).grv.load = some (load2 0 [450, 451, 452]) ∧
    (load2 0 [450, 451, 452]).phase = 4 ∧
    (load2 0 [450, 451, 452]).refetch = none ∧
    (load2 0 [450, 451, 452]).todo = ([450] : List Nat) ++ (451 : Nat) :: ([452] : List Nat) ∧
    (∀ (x : Nat), x ∈ ([450] : List Nat) → ∀ (p : PendFrame), pendOf (load2 0 [450, 451, 452]) x = some p → crc32c (decryptFrame (load2 0 [450, 451, 452]).key (hdrIv (load2 0 [450, 451, 452]).hdr) (hdrNframes (load2 0 [450, 451, 452]).hdr) p.pos (slice (stagedImage (getCore (on (loading (load2 0 [450, 451, 452]) [])) 3) (load2 0 [450, 451, 452])) (256 + tableBytes (hdrNframes (load2 0 [450, 451, 452]).hdr) + 64 * p.pos) 64)) = p.crc) ∧
    (¬∀ (p : PendFrame), pendOf (load2 0 [450, 451, 452]) (451 : Nat) = some p → crc32c (decryptFrame (load2 0 [450, 451, 452]).key (hdrIv (load2 0 [450, 451, 452]).hdr) (hdrNframes (load2 0 [450, 451, 452]).hdr) p.pos (slice (stagedImage (getCore (on (loading (load2 0 [450, 451, 452]) [])) 3) (load2 0 [450, 451, 452])) (256 + tableBytes (hdrNframes (load2 0 [450, 451, 452]).hdr) + 64 * p.pos) 64)) = p.crc) := by decide +kernel

/-- States and operands that meet the hypotheses of ImageLoads. -/
theorem witness_imageLoads_32 :
    (getCore (on (brought (loading { load2 crc1 [451] with refetch := some 451 } []) (.frame 451) (List.replicate 64 0#8))) 3).grv.load = some ({ load2 crc1 [451] with refetch := some 451 } : Load) ∧
    fetchedImage (getCore (on (brought (loading { load2 crc1 [451] with refetch := some 451 } []) (.frame 451) (List.replicate 64 0#8))) 3) (.frame 451) = some (List.replicate 64 0#8) ∧
    fetchedImage (getCore (on (loading { load2 crc1 [451] with refetch := some 451 } [])) 3) (.frame 451) = none ∧
    ({ load2 crc1 [451] with refetch := some 451 } : Load).refetch = some (451 : Nat) ∧
    pendOf ({ load2 crc1 [451] with refetch := some 451 } : Load) (451 : Nat) = some ({ frame := 451, crc := crc1, pos := 0 } : PendFrame) ∧
    (List.replicate 64 0#8) ≠ ([] : List Byte) ∧
    crc32c (decryptFrame ({ load2 crc1 [451] with refetch := some 451 } : Load).key (hdrIv ({ load2 crc1 [451] with refetch := some 451 } : Load).hdr) (hdrNframes ({ load2 crc1 [451] with refetch := some 451 } : Load).hdr) ({ frame := 451, crc := crc1, pos := 0 } : PendFrame).pos (List.replicate 64 0#8)) = ({ frame := 451, crc := crc1, pos := 0 } : PendFrame).crc := by decide +kernel

/-- States and operands that meet the hypotheses of ImageLoads. -/
theorem witness_imageLoads_33 :
    (getCore (on (brought (loading { load2 0 [451] with refetch := some 451 } []) (.frame 451) (List.replicate 64 0#8))) 3).grv.load = some ({ load2 0 [451] with refetch := some 451 } : Load) ∧
    fetchedImage (getCore (on (brought (loading { load2 0 [451] with refetch := some 451 } []) (.frame 451) (List.replicate 64 0#8))) 3) (.frame 451) = some (List.replicate 64 0#8) ∧
    fetchedImage (getCore (on (loading { load2 0 [451] with refetch := some 451 } [])) 3) (.frame 451) = none ∧
    ({ load2 0 [451] with refetch := some 451 } : Load).refetch = some (451 : Nat) ∧
    pendOf ({ load2 0 [451] with refetch := some 451 } : Load) (451 : Nat) = some ({ frame := 451, crc := 0, pos := 0 } : PendFrame) ∧
    (List.replicate 64 0#8) ≠ ([] : List Byte) ∧
    crc32c (decryptFrame ({ load2 0 [451] with refetch := some 451 } : Load).key (hdrIv ({ load2 0 [451] with refetch := some 451 } : Load).hdr) (hdrNframes ({ load2 0 [451] with refetch := some 451 } : Load).hdr) ({ frame := 451, crc := 0, pos := 0 } : PendFrame).pos (List.replicate 64 0#8)) ≠ ({ frame := 451, crc := 0, pos := 0 } : PendFrame).crc := by decide +kernel

/-- States and operands that meet the hypotheses of ImageLoads. -/
theorem witness_imageLoads_34 :
    reaches (on (loading (load1 1 4) four)) (.mgmt : Port) (PageRef.core (3 : CoreId) 11) 104 (on (loading (load1 1 4) four)) ∧
    loadBusy (getCore (on (loading (load1 1 4) four)) 3) = true := by decide +kernel

/-- States and operands that meet the hypotheses of ImageLoads. -/
theorem witness_imageLoads_35 :
    reaches (on awake) (.mgmt : Port) (PageRef.core (3 : CoreId) 11) 104 (on awake) ∧
    loadBusy (getCore (on awake) 3) = false := by decide +kernel

/-- States and operands that meet the hypotheses of ImageLoads. -/
theorem witness_imageLoads_36 :
    (getCore (on { awake with grv := { blanking := some 40 } }) 3).grv.blanking = some (40 : Nat) := by decide +kernel

/-- States and operands that meet the hypotheses of ScrubberRule. -/
theorem witness_scrubberRule :
    scrubRuns (on awake) 3 = true ∧
    (getCore (on awake) 3).grv.passOn = false ∧
    reaches (on awake) (.mgmt : Port) (PageRef.core (3 : CoreId) 11) 64 (on awake) ∧
    scrubRuns (on (scrubbing { kind := 1 })) 3 = true ∧
    (getCore (on (scrubbing { kind := 1 })) 3).grv.passOn = true ∧
    (getCore (on (scrubbing { kind := 1 })) 3).grv.repair = none ∧
    (List.replicate 64 0#8).length = 64 ∧
    scrubRuns (on (scrubbing { kind := 0 })) 3 = true ∧
    (getCore (on (scrubbing { kind := 0 })) 3).grv.passOn = true ∧
    (getCore (on (scrubbing { kind := 0 })) 3).grv.repair = none ∧
    ((.single : EccResult) = EccResult.good ∨ (.single : EccResult) = EccResult.single) ∧
    (sigOf (getCore (on (scrubbing { kind := 0 })) 3) (getCore (on (scrubbing { kind := 0 })) 3).grv.frame).kind = 0 ∧
    scrubRuns (on (scrubbing { kind := 1, crc := word (crc32c (List.replicate 64 3#8)) })) 3 = true ∧
    (getCore (on (scrubbing { kind := 1, crc := word (crc32c (List.replicate 64 3#8)) })) 3).grv.passOn = true ∧
    (getCore (on (scrubbing { kind := 1, crc := word (crc32c (List.replicate 64 3#8)) })) 3).grv.repair = none ∧
    (List.replicate 64 3#8).length = 64 ∧
    ((.good : EccResult) = EccResult.good ∨ (.good : EccResult) = EccResult.single) ∧
    (sigOf (getCore (on (scrubbing { kind := 1, crc := word (crc32c (List.replicate 64 3#8)) })) 3) (getCore (on (scrubbing { kind := 1, crc := word (crc32c (List.replicate 64 3#8)) })) 3).grv.frame).kind ≠ 0 ∧
    word (crc32c (List.replicate 64 3#8)) = (sigOf (getCore (on (scrubbing { kind := 1, crc := word (crc32c (List.replicate 64 3#8)) })) 3) (getCore (on (scrubbing { kind := 1, crc := word (crc32c (List.replicate 64 3#8)) })) 3).grv.frame).crc ∧
    scrubRuns (on (scrubbing { kind := 2, crit := true })) 3 = true ∧
    (getCore (on (scrubbing { kind := 2, crit := true })) 3).grv.passOn = true ∧
    (getCore (on (scrubbing { kind := 2, crit := true })) 3).grv.repair = none ∧
    (sigOf (getCore (on (scrubbing { kind := 2, crit := true })) 3) (getCore (on (scrubbing { kind := 2, crit := true })) 3).grv.frame).kind = 2 ∧
    word (crc32c (List.replicate 64 3#8)) ≠ (sigOf (getCore (on (scrubbing { kind := 2, crit := true })) 3) (getCore (on (scrubbing { kind := 2, crit := true })) 3).grv.frame).crc ∧
    (sigOf (getCore (on (scrubbing { kind := 1 })) 3) (getCore (on (scrubbing { kind := 1 })) 3).grv.frame).kind = 1 ∧
    word (crc32c (List.replicate 64 3#8)) ≠ (sigOf (getCore (on (scrubbing { kind := 1 })) 3) (getCore (on (scrubbing { kind := 1 })) 3).grv.frame).crc ∧
    (getCore (on (repairing (word crc1))) 3).grv.repair = some ({ frame := 7, since := 0 } : Repair) ∧
    framesHeld (getCore (on (repairing (word crc1))) 3) = false ∧
    (sigOf (getCore (on (repairing (word crc1))) 3) 7).kind ≠ 2 ∧
    fetchedImage (getCore (on (brought (repairing (word crc1)) (.repair 7 0) (List.replicate 64 0#8))) 3) (.repair 7 0) = some (List.replicate 64 0#8) ∧
    fetchedImage (getCore (on (repairing (word crc1))) 3) (.repair 7 0) = none ∧
    fget? (getCore (on (repairing (word crc1))) 3).grv.images (sigOf (getCore (on (repairing (word crc1))) 3) ({ frame := 7, since := 0 } : Repair).frame).handle = some ({ key := key1, iv := hdrIv (hdr1 1 []), nframes := 1 } : ImageHdr) ∧
    word (crc32c (decryptFrame ({ key := key1, iv := hdrIv (hdr1 1 []), nframes := 1 } : ImageHdr).key ({ key := key1, iv := hdrIv (hdr1 1 []), nframes := 1 } : ImageHdr).iv ({ key := key1, iv := hdrIv (hdr1 1 []), nframes := 1 } : ImageHdr).nframes (sigOf (getCore (on (repairing (word crc1))) 3) ({ frame := 7, since := 0 } : Repair).frame).pos (List.replicate 64 0#8))) = (sigOf (getCore (on (repairing (word crc1))) 3) ({ frame := 7, since := 0 } : Repair).frame).crc ∧
    (getCore (on (repairing 0#32)) 3).grv.repair = some ({ frame := 7, since := 0 } : Repair) ∧
    framesHeld (getCore (on (repairing 0#32)) 3) = false ∧
    (sigOf (getCore (on (repairing 0#32)) 3) 7).kind ≠ 2 ∧
    fetchedImage (getCore (on (brought (repairing 0#32) (.repair 7 0) (List.replicate 64 0#8))) 3) (.repair 7 0) = some (List.replicate 64 0#8) ∧
    fetchedImage (getCore (on (repairing 0#32)) 3) (.repair 7 0) = none ∧
    fget? (getCore (on (repairing 0#32)) 3).grv.images (sigOf (getCore (on (repairing 0#32)) 3) ({ frame := 7, since := 0 } : Repair).frame).handle = some ({ key := key1, iv := hdrIv (hdr1 1 []), nframes := 1 } : ImageHdr) ∧
    word (crc32c (decryptFrame ({ key := key1, iv := hdrIv (hdr1 1 []), nframes := 1 } : ImageHdr).key ({ key := key1, iv := hdrIv (hdr1 1 []), nframes := 1 } : ImageHdr).iv ({ key := key1, iv := hdrIv (hdr1 1 []), nframes := 1 } : ImageHdr).nframes (sigOf (getCore (on (repairing 0#32)) 3) ({ frame := 7, since := 0 } : Repair).frame).pos (List.replicate 64 0#8))) ≠ (sigOf (getCore (on (repairing 0#32)) 3) ({ frame := 7, since := 0 } : Repair).frame).crc ∧
    (getCore (on (repairing 0#32)) 3).grv.load = none ∧
    (sigOf (getCore (on (repairing 0#32)) 3) 7).kind = 1 ∧
    (getCore (on (repairing 0#32)) 3).skd.fetches = [] ∧
    framesHeld (getCore (on (scrubbing { kind := 2, crit := true })) 3) = false ∧
    framesHeld (getCore (on (loading (load1 2 4) four)) 3) = true ∧
    (sigOf (getCore (on { scrubbing { kind := 2 } with grv := { (scrubbing { kind := 2 }).grv with repair := some { frame := 7, since := 0 } } }) 3) 7).kind = 2 ∧
    (getOwner (on awake) 3).felled = false ∧
    (1 : Word) = (1 : Word) ∧
    ((1 : Word) = (1 : Word) ∧ (1 : Word) ≠ (2 : Word) ∧ (1 : Word) = (1 : Word) ∨ (1 : Word) = (2 : Word) ∧ (1 : Word) ≠ (2 : Word) ∧ (1 : Word) = (1 : Word) ∨ (1 : Word) = (2 : Word) ∧ (1 : Word) ≠ (1 : Word) ∧ (1 : Word) = (1 : Word)) ∧
    (1 : Word) ≠ (3 : Word) ∧
    (1 : Word) ≠ (2 : Word) ∧
    (3 : Word) ≠ (2 : Word) := by and_intros <;> decide +kernel

/-- States and operands that meet the hypotheses of KeyStore. -/
theorem witness_keyStore :
    reaches (keyed { staged := List.replicate 7 1#32 }) Port.mgmt PageRef.jnl 1988 (keyed { staged := List.replicate 7 1#32 }) ∧
    (keyed { staged := List.replicate 7 1#32 }).keys.lock = false ∧
    (keyed { staged := List.replicate 7 1#32 }).keys.staged.length < 8 ∧
    reaches (keyed { lock := true }) Port.mgmt PageRef.jnl 1988 (keyed { lock := true }) ∧
    ((keyed { lock := true }).keys.lock = true ∨ 8 ≤ (keyed { lock := true }).keys.staged.length) ∧
    reaches (keyed { staged := List.replicate 8 1#32 }) Port.mgmt PageRef.jnl 1984 (keyed { staged := List.replicate 8 1#32 }) ∧
    (keyed { staged := List.replicate 8 1#32 }).keys.lock = false ∧
    (keyed { staged := List.replicate 8 1#32 }).keys.staged.length = 8 ∧
    reaches (keyed { staged := List.replicate 7 1#32 }) Port.mgmt PageRef.jnl 1984 (keyed { staged := List.replicate 7 1#32 }) ∧
    ((keyed { staged := List.replicate 7 1#32 }).keys.lock = true ∨ (keyed { staged := List.replicate 7 1#32 }).keys.staged.length ≠ 8) ∧
    reaches (keyed { regValid := true, reg := 3 }) Port.mgmt PageRef.jnl 1984 (keyed { regValid := true, reg := 3 }) ∧
    (keyed { regValid := true, reg := 3 }).keys.lock = false ∧
    reaches (keyed { lock := true }) Port.mgmt PageRef.jnl 1984 (keyed { lock := true }) ∧
    (keyed { lock := true }).keys.lock = true ∧
    2 ≤ (keyed { lock := true }).boot.step ∧
    ((0x7C4 : Nat) = 1984 ∨ (0x7C4 : Nat) = 1988) := by decide +kernel

/-- States and operands that meet the hypotheses of ErrorRecordReads. -/
theorem witness_errorRecordReads :
    readable (on (fifoed [rec1 1, rec1 0])) (.mgmt : Port) (PageRef.core (3 : CoreId) 13) 72 ∧
    (getCore (on (fifoed [rec1 1, rec1 0])) 3).err.fifo = (rec1 1) :: ([rec1 0] : List ErrRec) ∧
    readable ({ on (fifoed [rec1 1]) with latchM := { errRec := [(3, (1#32, 2#32, 3#32))] } }) (.mgmt : Port) (PageRef.core (3 : CoreId) 13) 76 ∧
    fget (getLatch ({ on (fifoed [rec1 1]) with latchM := { errRec := [(3, (1#32, 2#32, 3#32))] } }) (.mgmt : Port)).errRec 3 (0#32, 0#32, 0#32) = (1#32, 2#32, 3#32) ∧
    readable (on awake) (.mgmt : Port) (PageRef.core (3 : CoreId) 13) 72 ∧
    (getCore (on awake) 3).err.fifo = [] ∧
    reaches (on (fifoed [rec1 1, rec1 0])) (.mgmt : Port) (PageRef.core (3 : CoreId) 13) 88 (on (fifoed [rec1 1, rec1 0])) ∧
    reaches (on awake) (.mgmt : Port) (PageRef.core (3 : CoreId) 13) 88 (on awake) := by decide +kernel

/-- States and operands that meet the hypotheses of ErrorFifoOrder. -/
theorem witness_errorFifoOrder :
    (fifoed [rec1 2, rec1 1, rec1 0]).err.fifo.length < 16 ∧
    (fifoed (List.replicate 16 (rec1 0))).err.fifo = (List.replicate 15 (rec1 0)) ++ [(rec1 0)] ∧
    (List.replicate 15 (rec1 0)).length = 15 ∧
    (List.Pairwise (fun a b => b.cls ≤ a.cls) (fifoed [rec1 2, rec1 1, rec1 0]).err.fifo) ∧
    (rec1 1).cls ≠ 2 ∧
    (rec1 2).cls = 2 ∧
    (kReg awake 13 92).testBit 31 = false ∧
    (rec1 2).code < 256 ∧
    (rec1 2).page < 16 ∧
    (kReg ({ awake with pages := [(13, { act := [(0x5C, 0x80070030#32)] })] } : Core) 13 92).testBit 31 = true ∧
    reaches (on awake) (.mgmt : Port) (PageRef.core (3 : CoreId) 13) 68 (on awake) := by decide +kernel

/-- States and operands that meet the hypotheses of FellingRule. -/
theorem witness_fellingRule :
    reaches (on awake) (.mgmt : Port) PageRef.jnl 80 (on awake) ∧
    (1199 < (1200 : BitVec 11).toNat ∨ (getOwner (on awake) (1200 : BitVec 11).toNat).felled = true) ∧
    (3 : BitVec 11).toNat < 1200 ∧
    (getOwner (on awake) (3 : BitVec 11).toNat).felled = false ∧
    (1199 : BitVec 11).toNat < 1200 ∧
    (getOwner (on awake) (1199 : BitVec 11).toNat).felled = false ∧
    (on awake).jobs = [] ∧
    (on awake).taken = [] ∧
    (on awake).jnl.queue.length < 16 ∧
    (getCore (on { awake with err := { felling := true } }) 3).err.felling = true ∧
    (getCore (on { awake with err := { felling := true } }) 3).skd.streams = [] ∧
    (∀ (r : JRec), r ∈ (on { awake with err := { felling := true } }).jnl.queue ++ (on { awake with err := { felling := true } }).jnl.fences → ¬(r.ty = 2 ∧ leAt r.payload 0 2 = 3)) ∧
    reaches felled3 (.mgmt : Port) PageRef.jnl 80 felled3 ∧
    (getOwner felled3 (3 : BitVec 11).toNat).felled = true ∧
    felled3.jnl.queue.length < 16 ∧
    reaches ({ felled3 with jnl := { queue := List.replicate 16 jrec } }) (.mgmt : Port) PageRef.jnl 80 ({ felled3 with jnl := { queue := List.replicate 16 jrec } }) ∧
    (getOwner ({ felled3 with jnl := { queue := List.replicate 16 jrec } }) (3 : BitVec 11).toNat).felled = true ∧
    16 ≤ ({ felled3 with jnl := { queue := List.replicate 16 jrec } }).jnl.queue.length ∧
    (1199 < (3 : BitVec 11).toNat ∨ (getOwner (on awake) (3 : BitVec 11).toNat).felled = false) := by decide +kernel

/-- States and operands that meet the hypotheses of JournalRule. -/
theorem witness_journalRule :
    (journalled { queue := [jrec], compacting := true }).jnl.queue = jrec :: ([] : List JRec) ∧
    ((journalled { queue := [jrec], compacting := true }).jnl.compacting = true ∨ 1048576 < (journalled { queue := [jrec], compacting := true }).jnl.fill + recLen jrec.ty) ∧
    (journalled { queue := [jrec, jrec], fill := 64, seq := 2 }).jnl.queue = jrec :: ([jrec] : List JRec) ∧
    (journalled { queue := [jrec, jrec], fill := 64, seq := 2 }).jnl.compacting = false ∧
    (journalled { queue := [jrec, jrec], fill := 64, seq := 2 }).jnl.fill + recLen jrec.ty < 786432 ∧
    ([jrec] : List JRec).length < 16 ∧
    (journalled { queue := [jrec], fill := 786432, seq := 2 }).jnl.queue = jrec :: ([] : List JRec) ∧
    (journalled { queue := [jrec], fill := 786432, seq := 2 }).jnl.compacting = false ∧
    786432 ≤ (journalled { queue := [jrec], fill := 786432, seq := 2 }).jnl.fill + recLen jrec.ty ∧
    (journalled { queue := [jrec], fill := 786432, seq := 2 }).jnl.fill + recLen jrec.ty ≤ 1048576 ∧
    ([] : List JRec).length < 16 ∧
    reaches (journalled { fill := 32, seq := 9 }) (.mgmt : Port) PageRef.jnl 76 (journalled { fill := 32, seq := 9 }) ∧
    ((journalled { zeroing := some (5, 0) }).jnl.compacting = true ∨ (journalled { zeroing := some (5, 0) }).jnl.zeroing ≠ none) ∧
    (journalled { fill := 32, seq := 9 }).jnl.compacting = false ∧
    (journalled { fill := 32, seq := 9 }).jnl.zeroing = none ∧
    (journalled { compacting := true, snapFill := 192, half := 1 }).jnl.compacting = true ∧
    (journalled { zeroing := some (131071, 0) }).jnl.zeroing = some ((131071 : Nat), (0 : Nat)) ∧
    readable (on awake) (.mgmt : Port) PageRef.jnl 88 := by decide +kernel

/-- States and operands that meet the hypotheses of CruiseRule. -/
theorem witness_cruiseRule :
    (cruiseMay (on { awake with pages := [(13, { act := [(0x68, 0#32)] })] }) 3 = false ∨ (getCore (on { awake with pages := [(13, { act := [(0x68, 0#32)] })] }) 3).cruise.running = true) ∧
    cruiseMay (on awake) 3 = true ∧
    (getCore (on awake) 3).cruise.running = false ∧
    cruiseMay (idleOn {}) 3 = true ∧
    (getCore (idleOn {}) 3).cruise.running = false ∧
    (getCore (on (cruising { running := true, step := 442 })) 3).cruise.running = true ∧
    (getCore (on (cruising { running := true, step := 442 })) 3).cruise.work = false ∧
    (getCore (atLeast (on (cruising { running := true, step := 442 })) ((getCore (on (cruising { running := true, step := 442 })) 3).cruise.since + cruiseCycles (getCore (on (cruising { running := true, step := 442 })) 3).cruise.step)) 3).cruise.step + 1 < 444 ∧
    (getCore (on (cruising { running := true, step := 443 })) 3).cruise.running = true ∧
    (getCore (on (cruising { running := true, step := 443 })) 3).cruise.work = false ∧
    444 ≤ (getCore (atLeast (on (cruising { running := true, step := 443 })) ((getCore (on (cruising { running := true, step := 443 })) 3).cruise.since + cruiseCycles (getCore (on (cruising { running := true, step := 443 })) 3).cruise.step)) 3).cruise.step + 1 ∧
    (getCore (on (cruising { running := true })) 3).cruise.running = true ∧
    (getCore (on (cruising { running := true })) 3).cruise.work = false ∧
    (¬(396 ≤ (getCore (on (cruising { running := true })) 3).cruise.step ∧ marchSkips (getCore (on (cruising { running := true })) 3) (getCore (on (cruising { running := true })) 3).cruise.march = true)) ∧
    (getCore (on { cruising { running := true } with pages := [(13, { act := [(0x60, 4#32)] })] }) 3).cruise.running = true ∧
    (getCore (on { cruising { running := true } with pages := [(13, { act := [(0x60, 4#32)] })] }) 3).cruise.work = false ∧
    (¬(396 ≤ (getCore (on { cruising { running := true } with pages := [(13, { act := [(0x60, 4#32)] })] }) 3).cruise.step ∧ marchSkips (getCore (on { cruising { running := true } with pages := [(13, { act := [(0x60, 4#32)] })] }) 3) (getCore (on { cruising { running := true } with pages := [(13, { act := [(0x60, 4#32)] })] }) 3).cruise.march = true)) ∧
    (kReg (getCore (atLeast (on { cruising { running := true } with pages := [(13, { act := [(0x60, 4#32)] })] }) ((getCore (on { cruising { running := true } with pages := [(13, { act := [(0x60, 4#32)] })] }) 3).cruise.since + cruiseCycles (getCore (on { cruising { running := true } with pages := [(13, { act := [(0x60, 4#32)] })] }) 3).cruise.step * 2)) 3) 13 96).testBit 31 = false ∧
    (getCore (on { cruising { running := true } with pages := [(13, { act := [(0x60, 0x80000004#32)] })] }) 3).cruise.running = true ∧
    (getCore (on { cruising { running := true } with pages := [(13, { act := [(0x60, 0x80000004#32)] })] }) 3).cruise.work = false ∧
    (¬(396 ≤ (getCore (on { cruising { running := true } with pages := [(13, { act := [(0x60, 0x80000004#32)] })] }) 3).cruise.step ∧ marchSkips (getCore (on { cruising { running := true } with pages := [(13, { act := [(0x60, 0x80000004#32)] })] }) 3) (getCore (on { cruising { running := true } with pages := [(13, { act := [(0x60, 0x80000004#32)] })] }) 3).cruise.march = true)) ∧
    (kReg (getCore (atLeast (on { cruising { running := true } with pages := [(13, { act := [(0x60, 0x80000004#32)] })] }) ((getCore (on { cruising { running := true } with pages := [(13, { act := [(0x60, 0x80000004#32)] })] }) 3).cruise.since + cruiseCycles (getCore (on { cruising { running := true } with pages := [(13, { act := [(0x60, 0x80000004#32)] })] }) 3).cruise.step * 2)) 3) 13 96).testBit 31 = true ∧
    (getCore (on { cruising { running := true, step := 396 } with spd := { segs := [(0, { phase := .off })] } }) 3).cruise.running = true ∧
    (getCore (on { cruising { running := true, step := 396 } with spd := { segs := [(0, { phase := .off })] } }) 3).cruise.work = false ∧
    (¬¬(396 ≤ (getCore (on { cruising { running := true, step := 396 } with spd := { segs := [(0, { phase := .off })] } }) 3).cruise.step ∧ marchSkips (getCore (on { cruising { running := true, step := 396 } with spd := { segs := [(0, { phase := .off })] } }) 3) (getCore (on { cruising { running := true, step := 396 } with spd := { segs := [(0, { phase := .off })] } }) 3).cruise.march = true)) ∧
    (getCore (on awake) 3).cruise.work = false ∧
    (getCore (on (cruising { running := true, work := true })) 3).cruise.work = true ∧
    (cruising { running := true, work := true }).cruise.running = true := by decide +kernel

/-- States and operands that meet the hypotheses of PowerStates. -/
theorem witness_powerStates :
    (getCore (on awake) 3).pwr.waking = none ∧
    (getCore (on awake) 3).pwr.descending = none ∧
    (getOwner (on awake) 3).felled = false ∧
    (getCore (on awake) 3).pwr.st = PState.active ∧
    (kReg (getCore (on awake) 3) 12 68).testBit 31 = true ∧
    quietUnits (getCore (on awake) 3) = true ∧
    (getCore (on (inState .doze)) 3).pwr.waking = none ∧
    (getCore (on (inState .doze)) 3).pwr.descending = none ∧
    (getOwner (on (inState .doze)) 3).felled = false ∧
    (getCore (on (inState .doze)) 3).pwr.st = PState.doze ∧
    (kReg (getCore (on (inState .doze)) 3) 12 68).testBit 30 = true ∧
    idleUnits (getCore (on (inState .doze)) 3) = true ∧
    reaches (on (inState .felled)) (.mgmt : Port) (PageRef.core (3 : CoreId) 12) 68 (on (inState .felled)) ∧
    (getCore (on (inState .felled)) 3).pwr.st = PState.felled ∧
    reaches (on (inState .doze)) (.mgmt : Port) (PageRef.core (3 : CoreId) 12) 68 (on (inState .doze)) ∧
    reaches (on (inState .sleep)) (.mgmt : Port) (PageRef.core (3 : CoreId) 12) 68 (on (inState .sleep)) ∧
    (getCore (on (inState .sleep)) 3).pwr.st = PState.sleep ∧
    reaches (on (inState .shut)) (.mgmt : Port) (PageRef.core (3 : CoreId) 12) 68 (on (inState .shut)) ∧
    (getCore (on (inState .shut)) 3).pwr.st = PState.shut ∧
    reaches (on awake) (.mgmt : Port) (PageRef.core (3 : CoreId) 12) 68 (on awake) ∧
    reaches (on { awake with mxq := { tail := 1, issue := 1, flights := [{ idx := 0, raw := ctl 0 [] }] } }) (.mgmt : Port) (PageRef.core (3 : CoreId) 12) 68 (on { awake with mxq := { tail := 1, issue := 1, flights := [{ idx := 0, raw := ctl 0 [] }] } }) ∧
    (getCore (on { awake with mxq := { tail := 1, issue := 1, flights := [{ idx := 0, raw := ctl 0 [] }] } }) 3).pwr.waking = none ∧
    (getCore (on { awake with mxq := { tail := 1, issue := 1, flights := [{ idx := 0, raw := ctl 0 [] }] } }) 3).pwr.descending = none ∧
    (getCore (on { awake with mxq := { tail := 1, issue := 1, flights := [{ idx := 0, raw := ctl 0 [] }] } }) 3).pwr.st = PState.active ∧
    quietUnits (getCore (on { awake with mxq := { tail := 1, issue := 1, flights := [{ idx := 0, raw := ctl 0 [] }] } }) 3) = false ∧
    ((getCore (on (inState .doze)) 3).pwr.st = PState.active ∨ (getCore (on (inState .doze)) 3).pwr.st = PState.doze) ∧
    reaches (on { inState .doze with mxq := { tail := 1 } }) (.mgmt : Port) (PageRef.core (3 : CoreId) 12) 68 (on { inState .doze with mxq := { tail := 1 } }) ∧
    (getCore (on { inState .doze with mxq := { tail := 1 } }) 3).pwr.waking = none ∧
    (getCore (on { inState .doze with mxq := { tail := 1 } }) 3).pwr.descending = none ∧
    ((getCore (on { inState .doze with mxq := { tail := 1 } }) 3).pwr.st = PState.active ∨ (getCore (on { inState .doze with mxq := { tail := 1 } }) 3).pwr.st = PState.doze) ∧
    idleUnits (getCore (on { inState .doze with mxq := { tail := 1 } }) 3) = false ∧
    (getCore (on (inState .sleep)) 3).pwr.waking = none ∧
    (getCore (on (inState .sleep)) 3).pwr.descending = none ∧
    ((getCore (on (inState .sleep)) 3).pwr.st = PState.active ∨ (getCore (on (inState .sleep)) 3).pwr.st = PState.doze ∨ (getCore (on (inState .sleep)) 3).pwr.st = PState.sleep) ∧
    idleUnits (getCore (on (inState .sleep)) 3) = true ∧
    slotsBusy (getCore (on (inState .sleep)) 3) = false ∧
    reaches (on { inState .sleep with spd := { tags := [(1, { st := .held })] } }) (.mgmt : Port) (PageRef.core (3 : CoreId) 12) 68 (on { inState .sleep with spd := { tags := [(1, { st := .held })] } }) ∧
    (getCore (on { inState .sleep with spd := { tags := [(1, { st := .held })] } }) 3).pwr.waking = none ∧
    (getCore (on { inState .sleep with spd := { tags := [(1, { st := .held })] } }) 3).pwr.descending = none ∧
    ((getCore (on { inState .sleep with spd := { tags := [(1, { st := .held })] } }) 3).pwr.st = PState.active ∨ (getCore (on { inState .sleep with spd := { tags := [(1, { st := .held })] } }) 3).pwr.st = PState.doze ∨ (getCore (on { inState .sleep with spd := { tags := [(1, { st := .held })] } }) 3).pwr.st = PState.sleep) ∧
    (idleUnits (getCore (on { inState .sleep with spd := { tags := [(1, { st := .held })] } }) 3) = false ∨ slotsBusy (getCore (on { inState .sleep with spd := { tags := [(1, { st := .held })] } }) 3) = true) ∧
    ((getCore (on (inState .sleep)) 3).pwr.st = PState.sleep ∨ (getCore (on (inState .sleep)) 3).pwr.st = PState.shut) ∧
    (getCore (on (inState .shut)) 3).pwr.waking = none ∧
    (getCore (on (inState .shut)) 3).pwr.descending = none ∧
    ((getCore (on (inState .shut)) 3).pwr.st = PState.doze ∨ (getCore (on (inState .shut)) 3).pwr.st = PState.sleep ∨ (getCore (on (inState .shut)) 3).pwr.st = PState.shut) ∧
    (getCore (on { awake with pwr := { st := .sleep, descending := some .shut, deadline := 256 } }) 3).pwr.descending = some (.shut : PState) ∧
    (getCore (on { awake with pwr := { st := .shut, waking := some .active, deadline := 34000 } }) 3).pwr.waking = some (.active : PState) ∧
    (getCore (on { awake with pwr := { st := .shut, waking := some .active, deadline := 34000 } }) 3).pwr.descending = none ∧
    (getCore (on { awake with pwr := { st := .active, dataClk := true } }) 3).pwr.dataClk = true ∧
    (getCore (on { awake with pwr := { st := .active, meshClk := true } }) 3).pwr.meshClk = true ∧
    (∀ (f : Flit), f ∈ (on { awake with pwr := { st := .active, meshClk := true } }).mesh → f.here ≠ some (3 % 40, 3 / 40)) := by and_intros <;> decide +kernel

/-- States and operands that meet the hypotheses of InitialisationRule. -/
theorem witness_initialisationRule :
    State.reset.boot.powered = false ∧
    (on awake).boot.powered = true ∧
    (on awake).boot.writeback = false ∧
    ({ on awake with boot := { powered := true, writeback := true }, yards := [(2, yarded)] }).boot.writeback = true ∧
    (booting 0).boot.powered = true ∧
    (booting 0).boot.ready = false ∧
    (booting 0).boot.stopped = false ∧
    (booting 0).boot.writeback = false ∧
    ((booting 0).boot.step = 0 ∨ (booting 0).boot.step = 1 ∨ (booting 0).boot.step = 3) ∧
    (booting 2).boot.powered = true ∧
    (booting 2).boot.ready = false ∧
    (booting 2).boot.stopped = false ∧
    (booting 2).boot.writeback = false ∧
    (booting 2).boot.step = 2 ∧
    (booting 3).boot.powered = true ∧
    (booting 3).boot.ready = false ∧
    (booting 3).boot.stopped = false ∧
    (booting 3).boot.writeback = false ∧
    (booting 3).boot.step = 3 ∧
    (booting 4).boot.powered = true ∧
    (booting 4).boot.ready = false ∧
    (booting 4).boot.stopped = false ∧
    (booting 4).boot.writeback = false ∧
    (booting 4).boot.step = 4 ∧
    (booting 5).boot.powered = true ∧
    (booting 5).boot.ready = false ∧
    (booting 5).boot.stopped = false ∧
    (booting 5).boot.writeback = false ∧
    (booting 5).boot.step = 5 ∧
    (booting 6).boot.powered = true ∧
    (booting 6).boot.ready = false ∧
    (booting 6).boot.stopped = false ∧
    (booting 6).boot.writeback = false ∧
    (booting 6).boot.step = 6 ∧
    (getOwner (booting 4) 1199).felled = false := by decide +kernel
end Sys2Proof.Tests
end

section
/-! SUPPORT. What every command keeps: one theorem over all constructors for the commands that reset nothing, one for all of them; the statements about the queue, time and the MRAM follow. -/

namespace Sys2Proof.Machine

/-- The commands of reset and initialisation (R451 to R454): the only ones that may change the boot record or the origin of the time. -/
def isReset : Instr → Bool
  | .powerGood | .warmReset | .warmWritebackDone | .initStepDone _ | .powerLoss _ => true
  | _ => false

/-- A command outside reset and initialisation moves. -/
theorem moves_exec : ∀ (c : Instr) (s u : State), isReset c = false → exec c s = .next u → Moves s u
  | .registerWrite p addr v, s, u, _, hn => moves_execRegisterWrite p addr v s u hn
  | .illegalPageAccess p addr width write, s, u, _, hn => moves_of_keeps (keeps_execIllegalPageAccess p addr width write s u hn)
  | .shcopy p pg, s, u, _, hn => moves_of_keeps (keeps_execShcopy p pg s u hn)
  | .cntclr p pg, s, u, _, hn => moves_of_keeps (keeps_execCntclr p pg s u hn)
  | .errClr p pg, s, u, _, hn => moves_of_keeps (keeps_execErrClr p pg s u hn)
  | .chipSwapGo p c pg, s, u, _, hn => moves_of_keeps (keeps_execChipSwapGo p c pg s u hn)
  | .jobSwapGo p c pg, s, u, _, hn => moves_of_keeps (keeps_execJobSwapGo p c pg s u hn)
  | .swapCancel p c pg, s, u, _, hn => moves_of_keeps (keeps_execSwapCancel p c pg s u hn)
  | .swapHold c, s, u, _, hn => moves_of_keeps (keeps_execSwapHold c s u hn)
  | .quiet c, s, u, _, hn => moves_of_keeps (keeps_execQuiet c s u hn)
  | .quietReceived c, s, u, _, hn => moves_of_keeps (keeps_execQuietReceived c s u hn)
  | .swapat c, s, u, _, hn => moves_of_keeps (keeps_execSwapat c s u hn)
  | .swapExchange t, s, u, _, hn => moves_of_keeps (keeps_execSwapExchange t s u hn)
  | .holdRelease t, s, u, _, hn => moves_of_keeps (keeps_execHoldRelease t s u hn)
  | .swapTimeout t, s, u, _, hn => moves_of_keeps (keeps_execSwapTimeout t s u hn)
  | .swapReleaseCommand c, s, u, _, hn => moves_of_keeps (keeps_execSwapReleaseCommand c s u hn)
  | .cmdPrepare src r, s, u, _, hn => moves_of_keeps (keeps_execCmdPrepare src r s u hn)
  | .cmdReady src r, s, u, _, hn => moves_of_keeps (keeps_execCmdReady src r s u hn)
  | .cmdCommit src r, s, u, _, hn => moves_of_keeps (keeps_execCmdCommit src r s u hn)
  | .cmdDone src r, s, u, _, hn => moves_of_keeps (keeps_execCmdDone src r s u hn)
  | .cmdRelease src r, s, u, _, hn => moves_of_keeps (keeps_execCmdRelease src r s u hn)
  | .cmdAbort src r, s, u, _, hn => moves_of_keeps (keeps_execCmdAbort src r s u hn)
  | .cmdSwapreq src, s, u, _, hn => moves_of_keeps (keeps_execCmdSwapreq src s u hn)
  | .readyTimeout job, s, u, _, hn => moves_of_keeps (keeps_execReadyTimeout job s u hn)
  | .doneTimeout job, s, u, _, hn => moves_of_keeps (keeps_execDoneTimeout job s u hn)
  | .scratchpadPortWrite p c off data, s, u, _, hn => moves_of_keeps (keeps_execScratchpadPortWrite p c off data s u hn)
  | .scratchpadPortRead p c off width, s, u, _, hn => moves_of_keeps (keeps_execScratchpadPortRead p c off width s u hn)
  | .rtimeLoRead p, s, u, _, hn => moves_of_keeps (keeps_execRtimeLoRead p s u hn)
  | .mailboxDoorbell p slot, s, u, _, hn => moves_of_keeps (keeps_execMailboxDoorbell p slot s u hn)
  | .mailboxTake block, s, u, _, hn => moves_of_keeps (keeps_execMailboxTake block s u hn)
  | .loadJob t slot manifest imageHdrs, s, u, _, hn => moves_of_keeps (keeps_execLoadJob t slot manifest imageHdrs s u hn)
  | .endJob t slot, s, u, _, hn => moves_of_keeps (keeps_execEndJob t slot s u hn)
  | .endJobAnswer t slot, s, u, _, hn => moves_of_keeps (keeps_execEndJobAnswer t slot s u hn)
  | .loadImage t slot header, s, u, _, hn => moves_of_keeps (keeps_execLoadImage t slot header s u hn)
  | .mbxSuspend t slot, s, u, _, hn => moves_of_keeps (keeps_execMbxSuspend t slot s u hn)
  | .query t slot, s, u, _, hn => moves_of_keeps (keeps_execQuery t slot s u hn)
  | .tenCtrlWrite p t v, s, u, _, hn => moves_of_keeps (keeps_execTenCtrlWrite p t v s u hn)
  | .tenAsidWrite p t v, s, u, _, hn => moves_of_keeps (keeps_execTenAsidWrite p t v s u hn)
  | .coreAssign p c v, s, u, _, hn => moves_of_keeps (keeps_execCoreAssign p c v s u hn)
  | .coreRelease p c v, s, u, _, hn => moves_of_keeps (keeps_execCoreRelease p c v s u hn)
  | .coreZeroed c, s, u, _, hn => moves_of_keeps (keeps_execCoreZeroed c s u hn)
  | .doorbell p c q tail, s, u, _, hn => moves_of_keeps (keeps_execDoorbell p c q tail s u hn)
  | .descriptorFetch c q r, s, u, _, hn => moves_of_keeps (keeps_execDescriptorFetch c q r s u hn)
  | .nop c q, s, u, _, hn => moves_of_keeps (keeps_execNop c q s u hn)
  | .loop c q, s, u, _, hn => moves_of_keeps (keeps_execLoop c q s u hn)
  | .setreg c q, s, u, _, hn => moves_of_keeps (keeps_execSetreg c q s u hn)
  | .mxmul c, s, u, _, hn => moves_of_keeps (keeps_execMxmul c s u hn)
  | .mxconv c, s, u, _, hn => moves_of_keeps (keeps_execMxconv c s u hn)
  | .velt c, s, u, _, hn => moves_of_keeps (keeps_execVelt c s u hn)
  | .vred c, s, u, _, hn => moves_of_keeps (keeps_execVred c s u hn)
  | .vsoftmax c, s, u, _, hn => moves_of_keeps (keeps_execVsoftmax c s u hn)
  | .vnorm c, s, u, _, hn => moves_of_keeps (keeps_execVnorm c s u hn)
  | .vquant c, s, u, _, hn => moves_of_keeps (keeps_execVquant c s u hn)
  | .vdequant c, s, u, _, hn => moves_of_keeps (keeps_execVdequant c s u hn)
  | .vsample c, s, u, _, hn => moves_of_keeps (keeps_execVsample c s u hn)
  | .vrand c, s, u, _, hn => moves_of_keeps (keeps_execVrand c s u hn)
  | .skstream c, s, u, _, hn => moves_of_keeps (keeps_execSkstream c s u hn)
  | .mvfill c, s, u, _, hn => moves_of_keeps (keeps_execMvfill c s u hn)
  | .mvcopy c, s, u, _, hn => moves_of_keeps (keeps_execMvcopy c s u hn)
  | .upstep c, s, u, _, hn => moves_of_keeps (keeps_execUpstep c s u hn)
  | .gvop c, s, u, _, hn => moves_of_keeps (keeps_execGvop c s u hn)
  | .illegalOpcode c q, s, u, _, hn => moves_of_keeps (keeps_execIllegalOpcode c q s u hn)
  | .descriptorComplete c q, s, u, _, hn => moves_of_keeps (keeps_execDescriptorComplete c q s u hn)
  | .nullCompletion c q, s, u, _, hn => moves_of_keeps (keeps_execNullCompletion c q s u hn)
  | .clipTestFire c q, s, u, _, hn => moves_of_keeps (keeps_execClipTestFire c q s u hn)
  | .descriptorFail c q, s, u, _, hn => moves_of_keeps (keeps_execDescriptorFail c q s u hn)
  | .residueMismatch c n stepNo tree, s, u, _, hn => moves_of_keeps (keeps_execResidueMismatch c n stepNo tree s u hn)
  | .parityError c wordNo mask reader, s, u, _, hn => moves_of_keeps (keeps_execParityError c wordNo mask reader s u hn)
  | .queueStop p c q, s, u, _, hn => moves_of_keeps (keeps_execQueueStop p c q s u hn)
  | .queueStopped c q, s, u, _, hn => moves_of_keeps (keeps_execQueueStopped c q s u hn)
  | .queueResume p c q, s, u, _, hn => moves_of_keeps (keeps_execQueueResume p c q s u hn)
  | .queueSkip p c q, s, u, _, hn => moves_of_keeps (keeps_execQueueSkip p c q s u hn)
  | .queueFlush p c q, s, u, _, hn => moves_of_keeps (keeps_execQueueFlush p c q s u hn)
  | .semaAdd p c sem amount, s, u, _, hn => moves_of_keeps (keeps_execSemaAdd p c sem amount s u hn)
  | .queueWaitAged c q, s, u, _, hn => moves_of_keeps (keeps_execQueueWaitAged c q s u hn)
  | .bankRequestAged c bank unit, s, u, _, hn => moves_of_keeps (keeps_execBankRequestAged c bank unit s u hn)
  | .arrivalWrite id, s, u, _, hn => moves_of_keeps (keeps_execArrivalWrite id s u hn)
  | .spdUtagWrite p c n v, s, u, _, hn => moves_of_keeps (keeps_execSpdUtagWrite p c n v s u hn)
  | .refetchComplete c slot r, s, u, _, hn => moves_of_keeps (keeps_execRefetchComplete c slot r s u hn)
  | .gatherTimeout c, s, u, _, hn => moves_of_keeps (keeps_execGatherTimeout c s u hn)
  | .gbflush p c, s, u, _, hn => moves_of_keeps (keeps_execGbflush p c s u hn)
  | .segmentPowerOff p c seg, s, u, _, hn => moves_of_keeps (keeps_execSegmentPowerOff p c seg s u hn)
  | .segmentPowerOn p c seg, s, u, _, hn => moves_of_keeps (keeps_execSegmentPowerOn p c seg s u hn)
  | .segmentSettled c seg, s, u, _, hn => moves_of_keeps (keeps_execSegmentSettled c seg s u hn)
  | .segmentUp c seg, s, u, _, hn => moves_of_keeps (keeps_execSegmentUp c seg s u hn)
  | .tagcmdSetEmpty p c first last, s, u, _, hn => moves_of_keeps (keeps_execTagcmdSetEmpty p c first last s u hn)
  | .tagcmdSetFull p c first last count, s, u, _, hn => moves_of_keeps (keeps_execTagcmdSetFull p c first last count s u hn)
  | .tagcmdClearBacked p c first last, s, u, _, hn => moves_of_keeps (keeps_execTagcmdClearBacked p c first last s u hn)
  | .tagcmdDone c, s, u, _, hn => moves_of_keeps (keeps_execTagcmdDone c s u hn)
  | .skidderInject c, s, u, _, hn => moves_of_keeps (keeps_execSkidderInject c s u hn)
  | .readResponse id, s, u, _, hn => moves_of_keeps (keeps_execReadResponse id s u hn)
  | .writeAck id, s, u, _, hn => moves_of_keeps (keeps_execWriteAck id s u hn)
  | .nack id, s, u, _, hn => moves_of_keeps (keeps_execNack id s u hn)
  | .yardRead id ecc, s, u, _, hn => moves_of_keeps (keeps_execYardRead id ecc s u hn)
  | .yardWrite id ecc, s, u, _, hn => moves_of_keeps (keeps_execYardWrite id ecc s u hn)
  | .yardFill port line data, s, u, _, hn => moves_of_keeps (keeps_execYardFill port line data s u hn)
  | .externalWrite pa, s, u, _, hn => moves_of_keeps (keeps_execExternalWrite pa s u hn)
  | .externalRead pa, s, u, _, hn => moves_of_keeps (keeps_execExternalRead pa s u hn)
  | .translationResponse c va r, s, u, _, hn => moves_of_keeps (keeps_execTranslationResponse c va r s u hn)
  | .slotVisitEnter c ctx, s, u, _, hn => moves_of_keeps (keeps_execSlotVisitEnter c ctx s u hn)
  | .slotVisitComplete c ctx, s, u, _, hn => moves_of_keeps (keeps_execSlotVisitComplete c ctx s u hn)
  | .slotendSend c ctx, s, u, _, hn => moves_of_keeps (keeps_execSlotendSend c ctx s u hn)
  | .streamComplete c ctx, s, u, _, hn => moves_of_keeps (keeps_execStreamComplete c ctx s u hn)
  | .streamHalt c ctx, s, u, _, hn => moves_of_keeps (keeps_execStreamHalt c ctx s u hn)
  | .ctxResume p c ctx, s, u, _, hn => moves_of_keeps (keeps_execCtxResume p c ctx s u hn)
  | .ctxAbort p c ctx, s, u, _, hn => moves_of_keeps (keeps_execCtxAbort p c ctx s u hn)
  | .abortComplete c ctx, s, u, _, hn => moves_of_keeps (keeps_execAbortComplete c ctx s u hn)
  | .ctxFree p c ctx, s, u, _, hn => moves_of_keeps (keeps_execCtxFree p c ctx s u hn)
  | .stallTimeout c, s, u, _, hn => moves_of_keeps (keeps_execStallTimeout c s u hn)
  | .pullRequest id, s, u, _, hn => moves_of_keeps (keeps_execPullRequest id s u hn)
  | .remoteArrival src, s, u, _, hn => moves_of_keeps (keeps_execRemoteArrival src s u hn)
  | .forwardAck n code, s, u, _, hn => moves_of_keeps (keeps_execForwardAck n code s u hn)
  | .windowOpen p c win setep epoch, s, u, _, hn => moves_of_keeps (keeps_execWindowOpen p c win setep epoch s u hn)
  | .windowClose p c win, s, u, _, hn => moves_of_keeps (keeps_execWindowClose p c win s u hn)
  | .guardExpiry c win, s, u, _, hn => moves_of_keeps (keeps_execGuardExpiry c win s u hn)
  | .cmdStop src r, s, u, _, hn => moves_of_keeps (keeps_execCmdStop src r s u hn)
  | .cmdStart src r, s, u, _, hn => moves_of_keeps (keeps_execCmdStart src r s u hn)
  | .cmdClose src, s, u, _, hn => moves_of_keeps (keeps_execCmdClose src s u hn)
  | .cmdCtxcmd src r, s, u, _, hn => moves_of_keeps (keeps_execCmdCtxcmd src r s u hn)
  | .cmdAbortrep src r, s, u, _, hn => moves_of_keeps (keeps_execCmdAbortrep src r s u hn)
  | .cmdSeed src r0 r1, s, u, _, hn => moves_of_keeps (keeps_execCmdSeed src r0 r1 s u hn)
  | .cmdEpoch src r, s, u, _, hn => moves_of_keeps (keeps_execCmdEpoch src r s u hn)
  | .cmdArrive src r, s, u, _, hn => moves_of_keeps (keeps_execCmdArrive src r s u hn)
  | .cmdPass src r, s, u, _, hn => moves_of_keeps (keeps_execCmdPass src r s u hn)
  | .cmdAnswer src r0 r1 r2, s, u, _, hn => moves_of_keeps (keeps_execCmdAnswer src r0 r1 r2 s u hn)
  | .cmdRefused src r, s, u, _, hn => moves_of_keeps (keeps_execCmdRefused src r s u hn)
  | .jobcmdSeed p c, s, u, _, hn => moves_of_keeps (keeps_execJobcmdSeed p c s u hn)
  | .jobcmdEpoch p c v, s, u, _, hn => moves_of_keeps (keeps_execJobcmdEpoch p c v s u hn)
  | .barrierCoreArrive c, s, u, _, hn => moves_of_keeps (keeps_execBarrierCoreArrive c s u hn)
  | .scaleFileWrite p c r v, s, u, _, hn => moves_of_keeps (keeps_execScaleFileWrite p c r v s u hn)
  | .srzpAccess p c, s, u, _, hn => moves_of_keeps (keeps_execSrzpAccess p c s u hn)
  | .histClr p c h, s, u, _, hn => moves_of_keeps (keeps_execHistClr p c h s u hn)
  | .histLenWrite p c h len, s, u, _, hn => moves_of_keeps (keeps_execHistLenWrite p c h len s u hn)
  | .tlyClr p c, s, u, _, hn => moves_of_keeps (keeps_execTlyClr p c s u hn)
  | .clockSwitch p c n v, s, u, _, hn => moves_of_keeps (keeps_execClockSwitch p c n v s u hn)
  | .clockSwitchDone c n, s, u, _, hn => moves_of_keeps (keeps_execClockSwitchDone c n s u hn)
  | .clockLost c n, s, u, _, hn => moves_of_keeps (keeps_execClockLost c n s u hn)
  | .portInBeat c, s, u, _, hn => moves_of_keeps (keeps_execPortInBeat c s u hn)
  | .portInCredit c, s, u, _, hn => moves_of_keeps (keeps_execPortInCredit c s u hn)
  | .portOutBeat c tag beat, s, u, _, hn => moves_of_keeps (keeps_execPortOutBeat c tag beat s u hn)
  | .portDone c tag ok tally, s, u, _, hn => moves_of_keeps (keeps_execPortDone c tag ok tally s u hn)
  | .portAborted c tag, s, u, _, hn => moves_of_keeps (keeps_execPortAborted c tag s u hn)
  | .portTimeout c, s, u, _, hn => moves_of_keeps (keeps_execPortTimeout c s u hn)
  | .supplyStatusChange b good, s, u, _, hn => moves_of_keeps (keeps_execSupplyStatusChange b good s u hn)
  | .bankClockLost b, s, u, _, hn => moves_of_keeps (keeps_execBankClockLost b s u hn)
  | .bankClockRunning b, s, u, _, hn => moves_of_keeps (keeps_execBankClockRunning b s u hn)
  | .pinEvent pin level, s, u, _, hn => moves_of_keeps (keeps_execPinEvent pin level s u hn)
  | .fioEventDeliver pin, s, u, _, hn => moves_of_keeps (keeps_execFioEventDeliver pin s u hn)
  | .stormWindowExpiry pin, s, u, _, hn => moves_of_keeps (keeps_execStormWindowExpiry pin s u hn)
  | .stuckStorm pin, s, u, _, hn => moves_of_keeps (keeps_execStuckStorm pin s u hn)
  | .pinRearm p pin, s, u, _, hn => moves_of_keeps (keeps_execPinRearm p pin s u hn)
  | .tsloRead p b, s, u, _, hn => moves_of_keeps (keeps_execTsloRead p b s u hn)
  | .imageLoad p c v, s, u, _, hn => moves_of_keeps (keeps_execImageLoad p c v s u hn)
  | .stagingComplete c r, s, u, _, hn => moves_of_keeps (keeps_execStagingComplete c r s u hn)
  | .pass1Complete c, s, u, _, hn => moves_of_keeps (keeps_execPass1Complete c s u hn)
  | .quiesceComplete c, s, u, _, hn => moves_of_keeps (keeps_execQuiesceComplete c s u hn)
  | .frameRefetchDone c r, s, u, _, hn => moves_of_keeps (keeps_execFrameRefetchDone c r s u hn)
  | .imageRelease c, s, u, _, hn => moves_of_keeps (keeps_execImageRelease c s u hn)
  | .groveBlank p c, s, u, _, hn => moves_of_keeps (keeps_execGroveBlank p c s u hn)
  | .groveBlankDone c, s, u, _, hn => moves_of_keeps (keeps_execGroveBlankDone c s u hn)
  | .scrubPassStart c, s, u, _, hn => moves_of_keeps (keeps_execScrubPassStart c s u hn)
  | .scrubForce p c, s, u, _, hn => moves_of_keeps (keeps_execScrubForce p c s u hn)
  | .scrubFrameRead c observed sig, s, u, _, hn => moves_of_keeps (keeps_execScrubFrameRead c observed sig s u hn)
  | .scrubRepairDone c r, s, u, _, hn => moves_of_keeps (keeps_execScrubRepairDone c r s u hn)
  | .tmrVote c item a b d, s, u, _, hn => moves_of_keeps (keeps_execTmrVote c item a b d s u hn)
  | .keyDataWrite p v, s, u, _, hn => moves_execKeyDataWrite p v s u hn
  | .keyCommit p, s, u, _, hn => moves_execKeyCommit p s u hn
  | .keyErase p, s, u, _, hn => moves_execKeyErase p s u hn
  | .keyLock p, s, u, _, hn => moves_execKeyLock p s u hn
  | .errRecRead p c, s, u, _, hn => moves_of_keeps (keeps_execErrRecRead p c s u hn)
  | .errPop p c seq, s, u, _, hn => moves_of_keeps (keeps_execErrPop p c seq s u hn)
  | .fifoOvfClear p c, s, u, _, hn => moves_of_keeps (keeps_execFifoOvfClear p c s u hn)
  | .flitArrival id parityOk, s, u, _, hn => moves_of_keeps (keeps_execFlitArrival id parityOk s u hn)
  | .flitResend id, s, u, _, hn => moves_of_keeps (keeps_execFlitResend id s u hn)
  | .linkFail id, s, u, _, hn => moves_of_keeps (keeps_execLinkFail id s u hn)
  | .fellCommand p c, s, u, _, hn => moves_of_keeps (keeps_execFellCommand p c s u hn)
  | .fellingComplete c, s, u, _, hn => moves_of_keeps (keeps_execFellingComplete c s u hn)
  | .restoreCommand p c, s, u, _, hn => moves_of_keeps (keeps_execRestoreCommand p c s u hn)
  | .journalWriteDone, s, u, _, hn => moves_execJournalWriteDone s u hn
  | .jnlCompact p, s, u, _, hn => moves_execJnlCompact p s u hn
  | .compactionSeal, s, u, _, hn => moves_execCompactionSeal s u hn
  | .zeroWord, s, u, _, hn => moves_execZeroWord s u hn
  | .jnlRddataRead p, s, u, _, hn => moves_of_keeps (keeps_execJnlRddataRead p s u hn)
  | .cruiseStepStart c, s, u, _, hn => moves_of_keeps (keeps_execCruiseStepStart c s u hn)
  | .cruiseStepDone c r, s, u, _, hn => moves_of_keeps (keeps_execCruiseStepDone c r s u hn)
  | .cruisePreempt c, s, u, _, hn => moves_of_keeps (keeps_execCruisePreempt c s u hn)
  | .autoDoze c, s, u, _, hn => moves_of_keeps (keeps_execAutoDoze c s u hn)
  | .autoSleep c, s, u, _, hn => moves_of_keeps (keeps_execAutoSleep c s u hn)
  | .stateEntryDone c, s, u, _, hn => moves_of_keeps (keeps_execStateEntryDone c s u hn)
  | .targetDoze p c, s, u, _, hn => moves_of_keeps (keeps_execTargetDoze p c s u hn)
  | .targetSleep p c, s, u, _, hn => moves_of_keeps (keeps_execTargetSleep p c s u hn)
  | .targetShut p c, s, u, _, hn => moves_of_keeps (keeps_execTargetShut p c s u hn)
  | .targetActive p c, s, u, _, hn => moves_of_keeps (keeps_execTargetActive p c s u hn)
  | .wakeComplete c, s, u, _, hn => moves_of_keeps (keeps_execWakeComplete c s u hn)
  | .dataBranchStop c, s, u, _, hn => moves_of_keeps (keeps_execDataBranchStop c s u hn)
  | .meshBranchStop c, s, u, _, hn => moves_of_keeps (keeps_execMeshBranchStop c s u hn)
  | .powerGood, _, _, hr, _ => nomatch hr
  | .warmReset, _, _, hr, _ => nomatch hr
  | .warmWritebackDone, _, _, hr, _ => nomatch hr
  | .initStepDone _, _, _, hr, _ => nomatch hr
  | .corePowerupTimeout c, s, u, _, hn => moves_of_keeps (keeps_execCorePowerupTimeout c s u hn)
  | .powerLoss _, _, _, hr, _ => nomatch hr

/-- Every command boots: it keeps the queue and the canonical MRAM, and time does not run back. -/
theorem boots_exec (c : Instr) (s u : State) (h : exec c s = .next u) : Boots s u := by
  cases hr : isReset c with
  | false => exact boots_of_moves (moves_exec c s u hr h)
  | true =>
    cases c with
    | powerGood => exact boots_execPowerGood s u h
    | warmReset => exact boots_execWarmReset s u h
    | warmWritebackDone => exact boots_execWarmWritebackDone s u h
    | initStepDone r => exact (boots_execInitStepDone r s u h).1
    | powerLoss b => exact boots_execPowerLoss b s u h
    | _ => cases hr

/-- A step with an empty queue lets one FCLK cycle pass. -/
theorem step_of_empty {s : State} (h : s.pending = []) : step s = .next (atLeast s (s.now + 1)) := by
  unfold step
  rw [h]

/-- A step with a command at the front of the queue is its effect on the state with the queue's rest. -/
theorem step_of_front {s : State} {c : Instr} {rest : List Instr} (h : s.pending = c :: rest) : step s = exec c { s with pending := rest } := by
  unfold step
  rw [h]

/-- From s to t time does not run back, its origin stays or is set to the time of s, and a canonical MRAM stays so. -/
def Ages (s t : State) : Prop :=
  s.now ≤ t.now ∧ (t.origin = s.origin ∨ t.origin = s.now) ∧ (s.jnl.mram.wf = true → t.jnl.mram.wf = true)

/-- What boots, ages. -/
theorem ages_of_boots {s t : State} (h : Boots s t) : Ages s t := h.2

/-- A step ages. -/
theorem ages_step {s t : State} (h : step s = .next t) : Ages s t := by
  cases hp : s.pending with
  | nil =>
    rw [step_of_empty hp] at h
    cases h
    exact ages_of_boots (boots_of_moves (moves_atLeast s (s.now + 1)))
  | cons c rest =>
    rw [step_of_front hp] at h
    have hages := ages_of_boots (boots_exec c { s with pending := rest } t h)
    exact hages

/-- What ages keeps the invariants of every step. -/
theorem sound_of_ages {s t : State} (hs : sound s) (h : Ages s t) : sound t := by
  obtain ⟨horigin, hmram⟩ := hs
  obtain ⟨hnow, ho, hwf⟩ := h
  refine ⟨?_, hwf hmram⟩
  rcases ho with ho | ho
  · exact ho ▸ Nat.le_trans horigin hnow
  · exact ho ▸ hnow

/-- Settles O2: the queue is among the parts that every command keeps. -/
theorem commandsLeaveQueueAlone : Obligations.CommandsLeaveQueueAlone :=
  fun c s t h => (boots_exec c s t h).1

/-- Settles O3: a step ages, whether a command is at the front of the queue or none waits, and what ages keeps the invariants. -/
theorem stepKeepsSound : Obligations.StepKeepsSound :=
  fun _ _ hs h => ⟨sound_of_ages hs (ages_step h), (ages_step h).1⟩

end Sys2Proof.Machine
end

section
/-! SUPPORT. A step by the queue: the state after a cycle in which no command waits. -/

namespace Sys2Proof.Machine

/-- A lookup in a map whose values are replaced by key. -/
theorem fget?_map {α : Type} (f : Nat → α → α) (m : FMap α) (k : Nat) : fget? (m.map fun e => (e.1, f e.1 e.2)) k = (fget? m k).map (f k) := by
  induction m with
  | nil => rfl
  | cons e m ih =>
    simp only [List.map_cons, fget?]
    split
    · rename_i h
      rw [h]
      rfl
    · exact ih

/-- Waiting for a later cycle makes it that cycle. -/
theorem now_atLeast_of_lt {s : State} {n : Nat} (h : s.now < n) : (atLeast s n).now = n := by
  rw [atLeast, if_pos h]

/-- Waiting for a later cycle lets the units and the grove of every core that is held work up to it; one that is not held stays at reset. -/
theorem getCore_atLeast_of_lt {s : State} {n : Nat} (h : s.now < n) (c : Nat) :
    getCore (atLeast s n) c = if (fget? s.cores c).isSome then groveTo s c (coreTo (getCore s c) s.now n) s.now n else {} := by
  have hmap := fget?_map (fun d k => groveTo s d (coreTo k s.now n) s.now n) s.cores c
  rw [atLeast, if_pos h]
  unfold getCore fget
  rw [hmap]
  cases fget? s.cores c <;> rfl

/-- Settles O1: by the equations of a step, and what waiting for the next cycle does. -/
theorem stepRunsFrontCommand : Obligations.StepRunsFrontCommand :=
  ⟨fun _ _ _ h => step_of_front h,
    fun s h => ⟨step_of_empty h, now_atLeast_of_lt (Nat.lt_succ_self s.now), getCore_atLeast_of_lt (Nat.lt_succ_self s.now)⟩⟩

end Sys2Proof.Machine
end

section
/-! SUPPORT. That every well-formed command answers a next state, except the load of a job, whose manifest names how many headers it needs. -/

namespace Sys2Proof.Machine

/-- The command answers a next state. -/
def Completes (o : Out1) : Prop := ∃ t, o = .next t

/-- An answer that faults unless a length is the one asked for. -/
theorem completes_unless_length {n m : Nat} (h : (n == m) = true) (f : Fault) (t : State) : Completes (if n ≠ m then .fault f else .next t) :=
  ⟨t, if_neg (not_not_intro (eq_of_beq h))⟩

/-- An answer that faults unless an operand is well formed. -/
theorem completes_unless_wf {b : Bool} (h : b = true) (f : Fault) (t : State) : Completes (if !b then .fault f else .next t) :=
  ⟨t, if_neg (by simp [h])⟩

/-- A flit from another chip answers where its payload has the length that its header gives (R253). -/
theorem completes_remoteArrival (src : RemoteSrc) (s : State) (hw : src.wf = true) : Completes (execRemoteArrival src s) := by
  cases src with
  | torus p h data => exact ⟨remoteFlit s (.port p.val) h data, if_pos hw⟩
  | mesh id => exact ⟨_, rfl⟩

/-- A well-formed command other than the load of a job answers a next state. -/
theorem completes_exec (c : Instr) (s : State) (hw : c.wf = true) (hl : ∀ t n m h, c ≠ .loadJob t n m h) : Completes (exec c s) := by
  cases c with
  | loadJob t n m h => exact absurd rfl (hl t n m h)
  | mailboxTake b => exact completes_unless_length hw _ _
  | loadImage t n h => exact completes_unless_length hw _ _
  | yardFill p n d => exact completes_unless_length hw _ _
  | portDone k n b t => exact completes_unless_length hw _ _
  | scrubFrameRead k o e => exact completes_unless_length hw _ _
  | portOutBeat k n b => exact completes_unless_wf (b := b.wf) hw _ _
  | remoteArrival src => exact completes_remoteArrival src s hw
  | cmdStop src | cmdStart src | cmdClose src | cmdCtxcmd src | cmdAbortrep src | cmdAnswer src | cmdRefused src
  | cmdPrepare src | cmdReady src | cmdCommit src | cmdDone src | cmdRelease src | cmdAbort src | cmdSwapreq src
  | cmdSeed src | cmdEpoch src | cmdArrive src | cmdPass src => exact completes_unless_wf (b := src.wf) hw _ _
  | _ => exact ⟨_, rfl⟩  -- no fault stands in its meaning

/-- The load of a job answers a next state or faults as malformed (R70). -/
theorem completes_execLoadJob (t : TenantId) (n : BitVec 6) (m : List Byte) (h : List (List Byte)) (s : State) :
    Completes (execLoadJob t n m h s) ∨ execLoadJob t n m h s = .fault .malformed := by
  unfold execLoadJob
  split
  · exact Or.inr rfl
  · exact Or.inl ⟨_, rfl⟩

/-- Settles O7: all faults but that of the load of a job are excluded by the lengths that a well-formed command has. -/
theorem wellFormedCommandsComplete : Obligations.WellFormedCommandsComplete := by
  intro c s hw
  by_cases hl : ∃ t n m h, c = .loadJob t n m h
  · obtain ⟨t, n, m, h, rfl⟩ := hl
    exact (completes_execLoadJob t n m h s).imp_right fun hf => ⟨hf, t, n, m, h, rfl⟩
  · exact Or.inl (completes_exec c s hw fun t n m h hc => hl ⟨t, n, m, h, hc⟩)

end Sys2Proof.Machine
end

section
/-! SUPPORT. What a register write does where it reaches a register that only holds what is written, a shadow word, or a register of the EVT page. -/

namespace Sys2Proof.Machine

/-! From the address to the page (R49). -/

/-- A write to an address of a page is one through the gate of that page. -/
theorem exec_registerWrite_page {s : State} {addr : BitVec 44} {pg : PageRef} {off : Nat} (hb : 2 ≤ s.boot.step)
    (ha : decodeAddr addr.toNat = .page pg off) (p : Port) (v : Word) :
    exec (.registerWrite p addr v) s = .next (pageWrite s p pg off v.toNat) := by
  show execRegisterWrite p addr v s = _
  rw [execRegisterWrite, if_neg (Nat.not_lt.mpr hb), ha]

/-- A write that reaches a register of a core's page other than CQ is made on the state that its gate leaves (R8). -/
theorem pageWrite_core {s u : State} {p : Port} {c : CoreId} {i : Fin 14} {off : Nat} (hi : i.val ≠ 0) (h : reaches s p (.core c i) off u) (v : Nat) :
    pageWrite s p (.core c i) off v = writeReg u p (.core c i) off v := by
  simp only [pageWrite, hi, decide_false, Bool.false_and, Bool.false_eq_true, if_false]
  exact coreWrite_ok s u p c i off _ hi h

/-- The offsets from 0x40 up to the counters are no common registers (R43). -/
theorem commonOff_eq_false {off : Nat} (h1 : 0x40 ≤ off) (h2 : off < 0xFC0) : commonOff off = false := by
  simp only [commonOff, List.contains_eq_mem, List.mem_cons, List.not_mem_nil, or_false, Bool.or_eq_false_iff, decide_eq_false_iff_not,
    Bool.and_eq_false_iff]
  omega

/-! The effect on a page. -/

/-- A row that is found is one of the table's. -/
theorem mem_of_findRow {rs : List RegRow} {off : Nat} {r : RegRow} (h : findRow rs off = some r) : r ∈ rs := List.mem_of_find?_eq_some h

/-- A plain write to a register without bits that a 1 clears: the RW bits take the value, the others stay (R43). -/
theorem writePlain_of_rw {rs : List RegRow} {off : Nat} {r : RegRow} (hr : findRow rs off = some r) (hrw : r.rw ≠ 0) (hw1c : r.w1c = 0) (p : Page) (v : Nat) :
    writePlain rs p off v = { p with act := fset p.act off (word ((v &&& r.rw) ||| ((actWord rs p off).toNat &&& (0xFFFFFFFF - r.rw)))) } := by
  simp [writePlain, hr, hrw, hw1c, setAct]

/-- A write to the shadow word of a set register: it takes the RW bits, or sets SHLOCKHIT while a swap of the page is in progress (R48, R73). -/
theorem writeShadow_of_set {i off : Nat} {r : RegRow} (hr : findRow (rowsCore i) (off - 0x7C0) = some r) (hset : r.set = true) (p : Page) (v : Nat) :
    writeShadow i p off v =
      if p.swppend then { p with shlockhit := true } else { p with shd := fset p.shd (off - 0x7C0) (word (v &&& r.rw)) } := by
  simp [writeShadow, hr, hset]

/-! The MXA, VEC and UPD pages. -/

/-- No register of the MXA, VEC and UPD pages has bits that a 1 clears (R136, R329, R346). -/
theorem w1c_eq_zero_of_plainPage {i off : Nat} {r : RegRow} (hi : i = 2 ∨ i = 3 ∨ i = 4) (h : findRow (rowsCore i) off = some r) : r.w1c = 0 := by
  have hm := mem_of_findRow h
  have hall : ∀ q ∈ rowsMxa ++ rowsVec ++ rowsUpd, q.w1c = 0 := by decide
  refine hall r ?_
  rcases hi with rfl | rfl | rfl <;> simp only [rowsCore] at hm <;> simp [hm]

/-- The registers of the MXA, VEC and UPD pages only hold what is written. -/
theorem writeUnit_of_plainPage {i : Nat} (hi : i = 2 ∨ i = 3 ∨ i = 4) (s : State) (p : Port) (c off v : Nat) :
    writeUnit s p c i off v = modCore s c fun k => plainCore k i off v := by
  rcases hi with rfl | rfl | rfl <;> rfl

/-- A write to an active register of a core's page. -/
theorem writeReg_active {c : CoreId} {i : Fin 14} {off : Nat} (h1 : 0x40 ≤ off) (h2 : off < 0x800) (s : State) (p : Port) (v : Nat) :
    writeReg s p (.core c i) off v = writeUnit s p c.val i.val off v := by
  simp [writeReg, commonOff_eq_false h1 (by omega : off < 0xFC0), Nat.not_le.mpr h2]

/-- A write to a shadow word of a core's page. -/
theorem writeReg_shadow {c : CoreId} {i : Fin 14} {off : Nat} (h1 : 0x800 ≤ off) (h2 : off < 0xFC0) (s : State) (p : Port) (v : Nat) :
    writeReg s p (.core c i) off v = modCore s c.val fun k => modKPage k i.val fun q => writeShadow i.val q off v := by
  simp [writeReg, commonOff_eq_false (by omega : 0x40 ≤ off) h2, h1]

/-! The EVT page (R53). -/

/-- Taking its place among the writes of a cycle leaves the boot record. -/
theorem boot_portOrder (s : State) (p : Port) (pg : PageRef) : (portOrder s p pg).boot = s.boot := by
  obtain ⟨-, -, h, -⟩ := rest_parts (rest_portOrder s p pg)
  exact h

/-- The management port's write to a register of the EVT page reaches it from initialisation step 2 on (R453). -/
theorem reaches_evt {s : State} {off : Nat} (hb : 2 ≤ s.boot.step) (ho : offExists .evt off = true) : reaches s .mgmt .evt off (portOrder s .mgmt .evt) := by
  have hb' : ¬ (portOrder s .mgmt .evt).boot.step < 2 := by
    rw [boot_portOrder]
    omega
  unfold reaches pageGate
  rw [if_pos rfl]
  unfold pageAccess
  rw [if_neg hb', ho]
  exact if_neg (by decide)

/-- The management port's write to the EVT page is made on the state that its gate leaves. -/
theorem pageWrite_evt {s : State} {off : Nat} (hb : 2 ≤ s.boot.step) (ho : offExists .evt off = true) (v : Nat) :
    pageWrite s .mgmt .evt off v = writeReg (portOrder s .mgmt .evt) .mgmt .evt off v := by
  unfold pageWrite
  dsimp only
  rw [reaches_evt hb ho, gated_true]

/-- A write to EVT_PEND clears the bits that it gives as 1 (R53). -/
theorem writeReg_evtPend (s : State) (p : Port) (v : Nat) :
    writeReg s p .evt 0x40 v = { s with evPend := s.evPend &&& ~~~(BitVec.ofNat 8 v) } := by
  rw [writeReg, commonOff_eq_false (by decide) (by decide)]
  rfl

/-- A write to EVT_MASK sets its eight bits (R53). -/
theorem writeReg_evtMask (s : State) (p : Port) (v : Nat) :
    writeReg s p .evt 0x44 v =
      { s with evt := { s.evt with act := fset s.evt.act 0x44 (word ((v &&& 0xFF) ||| (gReg s .evt 0x44 &&& 0xFFFFFF00))) } } := by
  have hr : findRow rowsEvt 0x44 = some { base := 0x44, rw := 0xFF } := rfl
  rw [writeReg, commonOff_eq_false (by decide) (by decide)]
  show { s with evt := writePlain rowsEvt s.evt 0x44 v } = _
  rw [writePlain_of_rw hr (by decide) rfl]
  rfl

/-! The statement. -/

/-- A write that reaches an active register of the MXA, VEC or UPD page with RW bits. -/
theorem exec_registerWrite_plainPage {s u : State} {p : Port} {addr : BitVec 44} {c : CoreId} {i : Fin 14} {off : Nat} {r : RegRow} (hb : 2 ≤ s.boot.step)
    (ha : decodeAddr addr.toNat = .page (.core c i) off) (hi : i.val = 2 ∨ i.val = 3 ∨ i.val = 4) (h1 : 0x40 ≤ off) (h2 : off < 0x800)
    (hr : findRow (rowsCore i.val) off = some r) (hrw : r.rw ≠ 0) (h : reaches s p (.core c i) off u) (v : Word) :
    exec (.registerWrite p addr v) s = .next (putCore u c.val (modKPage (getCore u c.val) i.val fun q =>
      { q with act := fset q.act off (word ((v.toNat &&& r.rw) ||| ((actWord (rowsCore i.val) q off).toNat &&& (0xFFFFFFFF - r.rw)))) })) := by
  rw [exec_registerWrite_page hb ha, pageWrite_core (by omega) h, writeReg_active h1 h2, writeUnit_of_plainPage hi]
  simp only [plainCore, writePlain_of_rw hr hrw (w1c_eq_zero_of_plainPage hi hr)]
  rfl

/-- A write that reaches the shadow word of a set register. -/
theorem exec_registerWrite_shadow {s u : State} {p : Port} {addr : BitVec 44} {c : CoreId} {i : Fin 14} {off : Nat} {r : RegRow} (hb : 2 ≤ s.boot.step)
    (ha : decodeAddr addr.toNat = .page (.core c i) off) (hi : i.val ≠ 0) (h1 : 0x800 ≤ off) (h2 : off < 0xFC0)
    (hr : findRow (rowsCore i.val) (off - 0x7C0) = some r) (hset : r.set = true) (h : reaches s p (.core c i) off u) (v : Word) :
    exec (.registerWrite p addr v) s = .next (putCore u c.val (modKPage (getCore u c.val) i.val fun q =>
      if q.swppend then { q with shlockhit := true } else { q with shd := fset q.shd (off - 0x7C0) (word (v.toNat &&& r.rw)) })) := by
  rw [exec_registerWrite_page hb ha, pageWrite_core hi h, writeReg_shadow h1 h2]
  simp only [writeShadow_of_set hr hset]
  rfl

/-- The management port's write to EVT_PEND or EVT_MASK. -/
theorem exec_registerWrite_evt {s : State} {addr : BitVec 44} {off : Nat} (hb : 2 ≤ s.boot.step) (ha : decodeAddr addr.toNat = .page .evt off)
    (ho : offExists .evt off = true) (v : Word) :
    exec (.registerWrite .mgmt addr v) s = .next (writeReg (portOrder s .mgmt .evt) .mgmt .evt off v.toNat) := by
  rw [exec_registerWrite_page hb ha, pageWrite_evt hb ho]

/-- Settles O10: the address is decoded, the gate lets the write through, and each kind of register has its own effect. -/
theorem registerWritesTakeEffect : Obligations.RegisterWritesTakeEffect := by
  refine ⟨?_, ?_, ?_, ?_⟩
  · intro s u p addr v c i off r hb ha hi h1 h2 hr hrw h
    exact exec_registerWrite_plainPage hb ha hi h1 h2 hr hrw h v
  · intro s u p addr v c i off r hb ha hi h1 h2 hr hset h
    exact exec_registerWrite_shadow hb ha hi h1 h2 hr hset h v
  · intro s v hb
    exact (exec_registerWrite_evt hb (off := 0x40) rfl (by decide) v).trans (congrArg _ (writeReg_evtPend _ _ _))
  · intro s v hb
    exact (exec_registerWrite_evt hb (off := 0x44) rfl (by decide) v).trans (congrArg _ (writeReg_evtMask _ _ _))

end Sys2Proof.Machine
end

section
/-! SUPPORT. A flit and its next link (R25 to R28, R235, R411): the flit that a number finds after each change of the mesh, what leaving and entering a router change of a core, and the hops of unicast and of multicast flits. -/

namespace Sys2Proof.Machine

/-! The flit that a number finds. -/

/-- The flit found is of that number. -/
theorem id_of_findFlit {s : State} {id : Nat} {f : Flit} (h : findFlit s id = some f) : f.id = id := by
  simpa using List.find?_some (p := fun g : Flit => g.id == id) h

/-- A change that leaves the numbers is made on the flits that are found. -/
theorem findFlit_modFlit (s : State) (id n : Nat) {g : Flit → Flit} (hg : ∀ x, (g x).id = x.id) :
    findFlit (modFlit s id g) n = (findFlit s n).map fun x => if x.id == id then g x else x := by
  have hid : ((fun x : Flit => x.id == n) ∘ fun x => if x.id == id then g x else x) = fun x => x.id == n := by
    funext x
    by_cases h : x.id = id <;> simp [h, hg]
  rw [findFlit, modFlit, List.find?_map, hid, findFlit]

/-- The flit just changed. -/
theorem findFlit_modFlit_same {s : State} {id : Nat} {f : Flit} {g : Flit → Flit} (hg : ∀ x, (g x).id = x.id) (h : findFlit s id = some f) :
    findFlit (modFlit s id g) id = some (g f) := by
  simp [findFlit_modFlit s id id hg, h, id_of_findFlit h]

/-- Changing a flit leaves those of another number. -/
theorem findFlit_modFlit_ne {s : State} {id n : Nat} {g : Flit → Flit} (hg : ∀ x, (g x).id = x.id) (h : n ≠ id) :
    findFlit (modFlit s id g) n = findFlit s n := by
  rw [findFlit_modFlit s id n hg]
  cases hf : findFlit s n with
  | none => rfl
  | some x => simp [id_of_findFlit hf, h]

/-- A number whose flits were taken out finds none. -/
theorem findFlit_of_removed {s u : State} {id : Nat} (hm : u.mesh = s.mesh.filter fun g => g.id ≠ id) : findFlit u id = none := by
  simp [findFlit, hm]

/-- Taking the flits of a number out leaves those of another. -/
theorem findFlit_of_removed_ne {s u : State} {id n : Nat} (hm : u.mesh = s.mesh.filter fun g => g.id ≠ id) (h : n ≠ id) : findFlit u n = findFlit s n := by
  rw [findFlit, hm, List.find?_filter, findFlit]
  congr 1
  funext g
  by_cases hg : g.id = n <;> simp [hg, h]

/-- The flit put in the place of those of its number. -/
theorem findFlit_of_replaced {s u : State} {id : Nat} {f : Flit} (hm : u.mesh = (s.mesh.filter fun g => g.id ≠ id) ++ [f]) (hid : f.id = id) :
    findFlit u id = some f := by
  have hnone := findFlit_of_removed (s := s) (u := { s with mesh := s.mesh.filter fun g => g.id ≠ id }) rfl
  rw [findFlit] at hnone
  rw [findFlit, hm, List.find?_append, hnone]
  simp [hid]

/-- A flit in the place of those of its number leaves those of another. -/
theorem findFlit_of_replaced_ne {s u : State} {id n : Nat} {f : Flit} (hm : u.mesh = (s.mesh.filter fun g => g.id ≠ id) ++ [f])
    (hid : f.id = id) (h : n ≠ id) : findFlit u n = findFlit s n := by
  have hrest := findFlit_of_removed_ne (s := s) (u := { s with mesh := s.mesh.filter fun g => g.id ≠ id }) rfl h
  rw [← hrest, findFlit, hm, List.find?_append, findFlit]
  simp [hid, h.symm]

/-! Links and routers. -/

/-- Taking a link leaves the flits where they are. -/
@[simp] theorem mesh_useLink (s : State) (r : Nat × Nat) (p vc : Nat) : (useLink s r p vc).mesh = s.mesh := by
  unfold useLink
  dsimp only
  split <;> simp

/-- Leaving a router changes the cores alone. -/
theorem leaveRouter_eq (s : State) (r : Option (Nat × Nat)) : leaveRouter s r = { s with cores := (leaveRouter s r).cores } := by
  cases r <;> rfl

/-- Leaving a router leaves the flits where they are. -/
@[simp] theorem mesh_leaveRouter (s : State) (r : Option (Nat × Nat)) : (leaveRouter s r).mesh = s.mesh := by rw [leaveRouter_eq]

/-- Leaving a router takes no number for a flit. -/
@[simp] theorem nextFlit_leaveRouter (s : State) (r : Option (Nat × Nat)) : (leaveRouter s r).nextFlit = s.nextFlit := by rw [leaveRouter_eq]

/-- Leaving a router sends nothing out of the block. -/
@[simp] theorem outbox_leaveRouter (s : State) (r : Option (Nat × Nat)) : (leaveRouter s r).outbox = s.outbox := by rw [leaveRouter_eq]

/-- The cores of t differ from those of s in their power control alone. -/
def OnlyPwr (s t : State) : Prop := ∀ d, getCore t d = { getCore s d with pwr := (getCore t d).pwr }

/-- A chain of two. -/
theorem OnlyPwr.trans {s t u : State} (h : OnlyPwr s t) (g : OnlyPwr t u) : OnlyPwr s u := fun d => by rw [g d, h d]

/-- A change of a core's power control. -/
theorem onlyPwr_modPwr (s : State) (c : Nat) (f : Pwr → Pwr) : OnlyPwr s (modCore s c fun k => modPwr k f) := by
  intro d
  by_cases h : d = c
  · rw [h, getCore_modCore_same]
    rfl
  · rw [getCore_modCore_ne s _ h]

/-- Leaving a router notes the time in its power control (R440). -/
theorem onlyPwr_leaveRouter (s : State) (r : Option (Nat × Nat)) : OnlyPwr s (leaveRouter s r) := by
  cases r with
  | none => exact fun _ => rfl
  | some r => exact onlyPwr_modPwr s _ _

/-- Entering a router changes its power control (R440). -/
theorem onlyPwr_enterRouter (s : State) (f : Flit) (r : Nat × Nat) (p : Nat) (rest : List (Nat × Nat)) : OnlyPwr s (enterRouter s f r p rest) :=
  onlyPwr_modPwr { s with mesh := (s.mesh.filter fun g => g.id ≠ f.id) ++ [{ f with here := some r, inPort := p, route := rest, fails := 0 }] } _ _

/-- The branch of the router that is entered runs (R440). -/
theorem meshClk_enterRouter (s : State) (f : Flit) (r : Nat × Nat) (p : Nat) (rest : List (Nat × Nat)) :
    (getCore (enterRouter s f r p rest) (coreAt r)).pwr.meshClk = true := by
  rw [enterRouter, getCore_modCore_same]
  rfl

/-- The flit that has entered the router is the last of those in the mesh. -/
theorem mesh_enterRouter (s : State) (f : Flit) (r : Nat × Nat) (p : Nat) (rest : List (Nat × Nat)) :
    (enterRouter s f r p rest).mesh = (s.mesh.filter fun g => g.id ≠ f.id) ++ [{ f with here := some r, inPort := p, route := rest, fails := 0 }] := rfl

/-! Unicast flits. -/

/-- A flit that has routers before it, or is bound for no torus port, stays at the router that it enters. -/
theorem hopUnicast_of_stays {s : State} {f : Flit} {r : Nat × Nat} {p : Nat} {rest : List (Nat × Nat)} (h : rest ≠ [] ∨ ∀ q, f.dst ≠ .torus q) :
    hopUnicast s f r p rest = enterRouter s f r p rest := by
  unfold hopUnicast
  split
  · next q hdst =>
    rcases h with h | h
    · exact absurd rfl h
    · exact absurd hdst (h q)
  · rfl

/-- A flit bound for a torus port leaves the chip at its last router (R251). -/
theorem hopUnicast_of_leaves {s : State} {f : Flit} {r : Nat × Nat} {p q : Nat} (h : f.dst = .torus q) :
    hopUnicast s f r p [] = leaveChip (enterRouter s f r p []) f r := by
  simp [hopUnicast, h]

/-- A flit that leaves the chip is no longer in the mesh. -/
theorem mesh_leaveChip (s : State) (f : Flit) (r : Nat × Nat) : (leaveChip s f r).mesh = s.mesh.filter fun g => g.id ≠ f.id := by
  unfold leaveChip
  dsimp only
  split <;> simp

/-- A flit with a header leaves with it and its payload (R253). -/
theorem outbox_leaveChip_hdr {f : Flit} {q : Nat} {h : RemoteHdr} (hdst : f.dst = .torus q) (hh : f.hdr = some h) (s : State) (r : Nat × Nat) :
    (leaveChip s f r).outbox = s.outbox ++ [.torus q h f.data] := by
  simp [leaveChip, hdst, hh, emit]

/-- A command leaves with its head and its body (R264). -/
theorem outbox_leaveChip_cmd {f : Flit} {q : Nat} {w : WinCmd} (hdst : f.dst = .torus q) (hh : f.hdr = none) (hc : f.cmd = some w) (s : State) (r : Nat × Nat) :
    (leaveChip s f r).outbox = s.outbox ++ [.torusCmd q w f.data] := by
  simp [leaveChip, hdst, hh, hc, emit]

/-- Entering a router sends nothing out of the block. -/
theorem outbox_enterRouter (s : State) (f : Flit) (r : Nat × Nat) (p : Nat) (rest : List (Nat × Nat)) : (enterRouter s f r p rest).outbox = s.outbox := rfl

/-! Multicast flits (R235). -/

/-- The members with which a multicast flit takes its next link: those of the first direction of its tree, or all at its root. -/
def nextMembers (f : Flit) : List Nat :=
  match f.here with
  | some h => ((treeBranches h f.tree).head?.map (·.1)).getD []
  | none => f.tree

/-- Those of the members ms that stand beyond router r. -/
def beyond (r : Nat × Nat) (ms : List Nat) : List Nat := ms.filter fun m => coreXY m ≠ r

/-- A multicast flit leaves a copy at router r where one of the members ms stands. -/
def leaveCopy (s : State) (f : Flit) (r : Nat × Nat) (p : Nat) (ms : List Nat) : State :=
  if ms.length = (beyond r ms).length then s
  else { s with
    mesh := s.mesh ++ [{ f with here := some r, inPort := p, fails := 0, id := s.nextFlit, dst := .core (coreAt r), tree := [], route := [] }]
    nextFlit := s.nextFlit + 1 }

/-- A multicast flit goes on from router r with those of the members ms that stand beyond. -/
def sendOnward (s : State) (f : Flit) (r : Nat × Nat) (p : Nat) (ms : List Nat) : State :=
  if beyond r ms = [] then s
  else { s with
    mesh := s.mesh ++ [aimTree { f with here := some r, inPort := p, fails := 0, id := s.nextFlit, tree := beyond r ms }]
    nextFlit := s.nextFlit + 1 }

/-- The hop of a multicast flit: what remains of it, the copy for the router, the copy that goes on, and the router's branch runs. -/
theorem hopTree_eq (s : State) (f : Flit) (r : Nat × Nat) (p : Nat) :
    hopTree s f r p = modCore (sendOnward (leaveCopy (remainTree s f (nextMembers f)) f r p (nextMembers f)) f r p (nextMembers f)) (coreAt r)
      fun k => modPwr k fun x => { x with meshClk := true } := rfl

/-- The mesh after the hop of a multicast flit. -/
theorem mesh_hopTree (s : State) (f : Flit) (r : Nat × Nat) (p : Nat) :
    (hopTree s f r p).mesh = (sendOnward (leaveCopy (remainTree s f (nextMembers f)) f r p (nextMembers f)) f r p (nextMembers f)).mesh := by
  rw [hopTree_eq]
  rfl

/-- What remains of a multicast flit takes no new number. -/
theorem nextFlit_remainTree (s : State) (f : Flit) (ms : List Nat) : (remainTree s f ms).nextFlit = s.nextFlit := by
  unfold remainTree
  dsimp only
  split <;> rfl

/-- A multicast flit with which all members go on leaves nothing behind. -/
theorem mesh_remainTree_all (s : State) (f : Flit) : (remainTree s f f.tree).mesh = s.mesh.filter fun g => g.id ≠ f.id := by
  have hnone : (f.tree.filter fun m => !f.tree.contains m) = [] := by simp
  rw [remainTree, hnone]
  rfl

/-- Where a member stands at the router, it is not among those beyond. -/
theorem length_ne_of_member {r : Nat × Nat} {ms : List Nat} (h : ∃ m ∈ ms, coreXY m = r) : ms.length ≠ (beyond r ms).length := by
  obtain ⟨m, hm, hr⟩ := h
  intro hlen
  have hall := List.length_filter_eq_length_iff.mp hlen.symm m hm
  simp [hr] at hall

/-- Where no member stands at the router, all are beyond it. -/
theorem beyond_of_no_member {r : Nat × Nat} {ms : List Nat} (h : ∀ m ∈ ms, coreXY m ≠ r) : beyond r ms = ms := by
  simpa [beyond] using h

/-- A flit that is aimed keeps its router, its members and its bytes. -/
theorem aimTree_fields (f : Flit) : (aimTree f).here = f.here ∧ (aimTree f).tree = f.tree ∧ (aimTree f).data = f.data := by
  unfold aimTree
  split <;> exact ⟨rfl, rfl, rfl⟩

/-- A flit without a member at the router leaves no copy there. -/
theorem leaveCopy_of_no_member {r : Nat × Nat} {ms : List Nat} (h : ∀ m ∈ ms, coreXY m ≠ r) (s : State) (f : Flit) (p : Nat) :
    leaveCopy s f r p ms = s := if_pos (by rw [beyond_of_no_member h])

/-- The copy that goes on is the last of those in the mesh. -/
theorem mesh_sendOnward {r : Nat × Nat} {ms : List Nat} (h : beyond r ms ≠ []) (s : State) (f : Flit) (p : Nat) :
    (sendOnward s f r p ms).mesh = s.mesh ++ [aimTree { f with here := some r, inPort := p, fails := 0, id := s.nextFlit, tree := beyond r ms }] := by
  rw [sendOnward, if_neg h]

/-- The copy that goes on takes nothing out of the mesh. -/
theorem mem_sendOnward {s : State} {g : Flit} (hg : g ∈ s.mesh) (f : Flit) (r : Nat × Nat) (p : Nat) (ms : List Nat) :
    g ∈ (sendOnward s f r p ms).mesh := by
  by_cases h : beyond r ms = []
  · rwa [sendOnward, if_pos h]
  · rw [mesh_sendOnward h]
    exact List.mem_append_left _ hg

/-- From its root, at a router without a member, a multicast flit goes on with all its members. -/
theorem mesh_hopTree_root {f : Flit} {r : Nat × Nat} (ht : f.tree ≠ []) (hh : f.here = none) (hm : ∀ m ∈ f.tree, coreXY m ≠ r) (s : State) (p : Nat) :
    (hopTree s f r p).mesh = (s.mesh.filter fun g => g.id ≠ f.id) ++ [aimTree { f with id := s.nextFlit, here := some r, inPort := p, fails := 0 }] := by
  have hall : nextMembers f = f.tree := by rw [nextMembers, hh]
  have hbeyond := beyond_of_no_member hm
  rw [mesh_hopTree, hall, leaveCopy_of_no_member hm, mesh_sendOnward (by rwa [hbeyond]), hbeyond, mesh_remainTree_all, nextFlit_remainTree]

/-- The copy that goes on has the members beyond the router. -/
theorem mem_hopTree_onward {f : Flit} {r : Nat × Nat} (h : beyond r (nextMembers f) ≠ []) (s : State) (p : Nat) :
    ∃ g ∈ (hopTree s f r p).mesh, g.here = some r ∧ g.tree = beyond r (nextMembers f) ∧ g.data = f.data := by
  rw [mesh_hopTree, mesh_sendOnward h]
  exact ⟨_, List.mem_append_right _ (List.mem_singleton_self _), aimTree_fields _⟩

/-- The copy for a member at the router has reached its destination. -/
theorem mem_hopTree_local {f : Flit} {r : Nat × Nat} (h : ∃ m ∈ nextMembers f, coreXY m = r) (s : State) (p : Nat) :
    ∃ g ∈ (hopTree s f r p).mesh, g.here = some r ∧ g.dst = .core (coreAt r) ∧ g.route = [] ∧ g.tree = [] ∧ g.data = f.data := by
  rw [mesh_hopTree, leaveCopy, if_neg (length_ne_of_member h)]
  refine ⟨_, mem_sendOnward (List.mem_append_right _ (List.mem_singleton_self _)) _ _ _ _, ?_⟩
  exact ⟨rfl, rfl, rfl, rfl, rfl⟩

/-! The commands. -/

/-- A flit without its turn, or before a failed link, stays as it is. -/
theorem exec_flitArrival_of_no_turn {s : State} {id : Nat} {f : Flit} {r : Nat × Nat} {rest : List (Nat × Nat)} (hf : findFlit s id = some f)
    (hr : f.route = r :: rest) (h : hasTurn s r (portInto f r) f = false ∨ (r, portInto f r) ∈ s.failedLinks) (ok : Bool) :
    exec (.flitArrival id ok) s = .next s := by
  show execFlitArrival id ok s = _
  simp only [execFlitArrival, hf, hr]
  rw [if_pos (by simpa using h.symm)]

section
variable {s : State} {id : Nat} {f : Flit} {r : Nat × Nat} {rest : List (Nat × Nat)} (hf : findFlit s id = some f) (hr : f.route = r :: rest)
  (hl : (r, portInto f r) ∉ s.failedLinks) (ht : hasTurn s r (portInto f r) f = true)
include hf hr hl ht

/-- A flit that has its turn takes the link: with bad parity it stays to be resent, with good parity it leaves its router and hops (R411). -/
theorem exec_flitArrival_of_turn (ok : Bool) :
    exec (.flitArrival id ok) s = .next (
      let s1 := useLink s r (portInto f r) f.vc
      if !ok then modFlit s1 id fun f => { f with fails := f.fails + 1, resend := true }
      else if f.tree = [] then hopUnicast (leaveRouter s1 f.here) f r (portInto f r) rest else hopTree (leaveRouter s1 f.here) f r (portInto f r)) := by
  show execFlitArrival id ok s = _
  simp only [execFlitArrival, hf, hr]
  rw [if_neg (by simp [hl, ht])]

/-- A multicast flit that has its turn hops along its tree. -/
theorem exec_flitArrival_tree (hT : f.tree ≠ []) :
    exec (.flitArrival id true) s = .next (hopTree (leaveRouter (useLink s r (portInto f r) f.vc) f.here) f r (portInto f r)) := by
  simp [exec_flitArrival_of_turn hf hr hl ht, hT]

/-- A unicast flit that has its turn hops along its route. -/
theorem exec_flitArrival_unicast (hT : f.tree = []) :
    exec (.flitArrival id true) s = .next (hopUnicast (leaveRouter (useLink s r (portInto f r) f.vc) f.here) f r (portInto f r) rest) := by
  simp [exec_flitArrival_of_turn hf hr hl ht, hT]

/-- With bad parity the flit stays, to be resent, and no other changes. -/
theorem flitArrival_bad_parity :
    ∃ u, exec (.flitArrival id false) s = .next u ∧ u = { useLink s r (portInto f r) f.vc with mesh := u.mesh } ∧
      findFlit u id = some { f with fails := f.fails + 1, resend := true } ∧ ∀ n, n ≠ id → findFlit u n = findFlit (useLink s r (portInto f r) f.vc) n := by
  have hf1 : findFlit (useLink s r (portInto f r) f.vc) id = some f := by rwa [findFlit, mesh_useLink]
  exact ⟨_, exec_flitArrival_of_turn hf hr hl ht false, rfl, findFlit_modFlit_same (fun _ => rfl) hf1, fun _ => findFlit_modFlit_ne fun _ => rfl⟩

/-- A unicast flit that stays on the chip enters its next router, whose branch runs. -/
theorem flitArrival_enters (hT : f.tree = []) (hstay : rest ≠ [] ∨ ∀ q, f.dst ≠ .torus q) :
    ∃ u, exec (.flitArrival id true) s = .next u ∧ u = { useLink s r (portInto f r) f.vc with mesh := u.mesh, cores := u.cores } ∧
      findFlit u id = some { f with here := some r, inPort := portInto f r, route := rest, fails := 0 } ∧
      (∀ n, n ≠ id → findFlit u n = findFlit (useLink s r (portInto f r) f.vc) n) ∧ (getCore u (coreAt r)).pwr.meshClk = true ∧
      OnlyPwr (useLink s r (portInto f r) f.vc) u := by
  obtain rfl := id_of_findFlit hf
  have hmesh := mesh_enterRouter (leaveRouter (useLink s r (portInto f r) f.vc) f.here) f r (portInto f r) rest
  rw [mesh_leaveRouter] at hmesh
  refine ⟨_, exec_flitArrival_unicast hf hr hl ht hT, ?_⟩
  rw [hopUnicast_of_stays hstay]
  refine ⟨?_, findFlit_of_replaced hmesh rfl, fun n hn => findFlit_of_replaced_ne hmesh rfl hn, meshClk_enterRouter _ _ _ _ _,
    (onlyPwr_leaveRouter _ _).trans (onlyPwr_enterRouter _ _ _ _ _)⟩
  rw [leaveRouter_eq]
  rfl

/-- A flit at its torus port's last router leaves the chip with its header, or a command with its head. -/
theorem flitArrival_leaves {q : Nat} (hT : f.tree = []) (hlast : rest = []) (hdst : f.dst = .torus q) :
    ∃ u, exec (.flitArrival id true) s = .next u ∧ (∀ h, f.hdr = some h → u.outbox = (useLink s r (portInto f r) f.vc).outbox ++ [.torus q h f.data]) ∧
      (∀ w, f.hdr = none → f.cmd = some w → u.outbox = (useLink s r (portInto f r) f.vc).outbox ++ [.torusCmd q w f.data]) ∧ findFlit u id = none ∧
      ∀ n, n ≠ id → findFlit u n = findFlit (useLink s r (portInto f r) f.vc) n := by
  obtain rfl := id_of_findFlit hf
  subst hlast
  have henter := mesh_enterRouter (leaveRouter (useLink s r (portInto f r) f.vc) f.here) f r (portInto f r) []
  rw [mesh_leaveRouter] at henter
  have hleave := mesh_leaveChip (enterRouter (leaveRouter (useLink s r (portInto f r) f.vc) f.here) f r (portInto f r) []) f r
  refine ⟨_, exec_flitArrival_unicast hf hr hl ht hT, ?_⟩
  rw [hopUnicast_of_leaves hdst]
  refine ⟨fun h hh => ?_, fun w hh hw => ?_, findFlit_of_removed hleave, fun n hn => ?_⟩
  · rw [outbox_leaveChip_hdr hdst hh, outbox_enterRouter, outbox_leaveRouter]
  · rw [outbox_leaveChip_cmd hdst hh hw, outbox_enterRouter, outbox_leaveRouter]
  · exact (findFlit_of_removed_ne hleave hn).trans (findFlit_of_replaced_ne henter rfl hn)

end

/-- A multicast flit at a router of its tree has a branch to take. -/
theorem tree_ne_nil_of_branches {h : Nat × Nat} {ms : List Nat} {b : List Nat × (Nat × Nat)} {bs : List (List Nat × (Nat × Nat))}
    (hb : treeBranches h ms = b :: bs) : ms ≠ [] := by
  rintro rfl
  simp [treeBranches] at hb

/-- The members of the first branch take the next link. -/
theorem nextMembers_of_branches {f : Flit} {h n : Nat × Nat} {ms : List Nat} {bs : List (List Nat × (Nat × Nat))} (hh : f.here = some h)
    (hb : treeBranches h f.tree = (ms, n) :: bs) : nextMembers f = ms := by
  simp [nextMembers, hh, hb]

/-- A resend clears the mark of its flit and counts in the ERR page of the receiving router's core. -/
theorem exec_flitResend_of_marked {s : State} {id : Nat} {f : Flit} {r : Nat × Nat} {rest : List (Nat × Nat)} (hf : findFlit s id = some f)
    (hr : f.route = r :: rest) (hm : f.resend = true) (hn : f.fails < 8) :
    exec (.flitResend id) s = .next (modCore (modFlit s id fun f => { f with resend := false }) (coreAt r) fun k => kBump k 13 5) := by
  show execFlitResend id s = _
  simp [execFlitResend, hf, hr, hm, hn]

/-- Eight failures in a row fail the link into the router. -/
theorem exec_linkFail_of_eight {s : State} {id : Nat} {f : Flit} {r : Nat × Nat} {rest : List (Nat × Nat)} (hf : findFlit s id = some f)
    (hr : f.route = r :: rest) (hn : 8 ≤ f.fails) (hl : (r, portInto f r) ∉ s.failedLinks) :
    exec (.linkFail id) s = .next (coreErr { s with failedLinks := s.failedLinks ++ [(r, portInto f r)] } (coreAt r)
      { code := ePARITY, cls := 2, page := 13, detail := word (portInto f r) }) := by
  show execLinkFail id s = _
  simp [execLinkFail, hf, hr, hn, hl]

/-- Settles O41: a flit's arrival by its parity and its kind, then the commands that resend it and that fail its link. -/
theorem linkRule : Obligations.LinkRule := by
  refine ⟨?arrival, ?noTurn, ?resend, ?failure⟩
  case arrival =>
    intro s id f r rest hf hr hl ht
    refine ⟨flitArrival_bad_parity hf hr hl ht, flitArrival_enters hf hr hl ht, fun _ => flitArrival_leaves hf hr hl ht, ?root, ?branch⟩
    case root =>
      intro hT hh hm
      refine ⟨_, exec_flitArrival_tree hf hr hl ht hT, ?_⟩
      rw [mesh_hopTree_root hT hh hm, mesh_leaveRouter, nextFlit_leaveRouter, id_of_findFlit hf]
    case branch =>
      intro h ms n bs hh hb
      obtain rfl := nextMembers_of_branches hh hb
      exact ⟨_, exec_flitArrival_tree hf hr hl ht (tree_ne_nil_of_branches hb), fun hne => mem_hopTree_onward hne _ _, fun hm => mem_hopTree_local hm _ _⟩
  case noTurn =>
    intro s id f r rest ok hf hr h
    exact exec_flitArrival_of_no_turn hf hr h ok
  case resend =>
    intro s id f r rest hf hr hm hn
    exact ⟨_, exec_flitResend_of_marked hf hr hm hn, findFlit_modFlit_same (fun _ => rfl) hf, fun _ => findFlit_modFlit_ne fun _ => rfl, rfl⟩
  case failure =>
    intro s id f r rest hf hr hn hl
    exact exec_linkFail_of_eight hf hr hn hl

end Sys2Proof.Machine
end

section
/-! SUPPORT. The scale file, the history slots and the tally totals through their registers (R106, R281, R295, R296, R306): what each operation on a core reads back and what it leaves alone. -/

namespace Sys2Proof.Machine

/-! Registers and counters of a page. -/

/-- Counting leaves the words of the page's registers. -/
@[simp] theorem act_bump (p : Page) (n amt : Nat) : (bump p n amt).act = p.act := by
  unfold bump
  dsimp only
  split
  · rfl
  · split <;> rfl

/-- A counter leaves the registers of every page. -/
@[simp] theorem kReg_kBump (k : Core) (i n amt j off : Nat) : kReg (kBump k i n amt) j off = kReg k j off := by
  by_cases hj : j = i
  · subst hj
    simp only [kReg, kBump, kPage_modKPage_same, actWord, act_bump]
  · rw [kReg, kBump, kPage_modKPage_ne k _ hj, kReg]

/-- Setting a register leaves the counters. -/
@[simp] theorem cnt_setKReg (k : Core) (i off v j : Nat) : (kPage (setKReg k i off v) j).cnt = (kPage k j).cnt := by
  by_cases hj : j = i
  · subst hj
    rw [setKReg, kPage_modKPage_same]
    rfl
  · rw [setKReg, kPage_modKPage_ne k _ hj]

/-- What a count leaves in the counters depends on the counters alone. -/
theorem cnt_bump_congr {p q : Page} (h : p.cnt = q.cnt) (n amt : Nat) : (bump p n amt).cnt = (bump q n amt).cnt := by
  simp only [bump, h]
  split
  · exact h
  · split <;> rfl

/-- Setting a register of a page leaves the other pages. -/
theorem kPage_setKReg_ne (k : Core) {i j : Nat} (off v : Nat) (h : j ≠ i) : kPage (setKReg k i off v) j = kPage k j :=
  kPage_modKPage_ne k _ h

/-! The scale file (R281). -/

/-- An entry with the field that a register names set from a value (R306). -/
def entryWith (e : ScaleEnt) (v : Nat) : ScaleReg → ScaleEnt
  | .srscale => { e with scale := word v }
  | .srflatv => { e with flatv := word v }
  | .srzp => { e with zp := BitVec.ofNat 8 v, flat := v.testBit 8 }

/-- QNT_SRSEL.INDEX: the number of the entry that the registers show (R306). -/
def selIndex (k : Core) : Nat := fld (kReg k 9 0x4C) 0 10

/-- Replacing an entry changes the scale file alone. -/
theorem setEntry_eq (k : Core) (b i : Nat) (e : ScaleEnt) : setEntry k b i e = { k with qnt := (setEntry k b i e).qnt } := by
  unfold setEntry
  split <;> rfl

/-- Replacing an entry leaves the pages. -/
@[simp] theorem pages_setEntry (k : Core) (b i : Nat) (e : ScaleEnt) : (setEntry k b i e).pages = k.pages := by
  rw [setEntry_eq]

/-- The replaced entry reads back, in its bank alone. -/
theorem fileEntry_setEntry (k : Core) (b i : Nat) (e : ScaleEnt) (a n : Nat) :
    fileEntry (setEntry k b i e) a n = if (a = 0 ↔ b = 0) ∧ n = i then e else fileEntry k a n := by
  have hbank : ∀ m : FMap ScaleEnt, fget (fset m i e) n {} = if n = i then e else fget m n {} := by
    intro m
    split
    · next h => rw [h, fget_fset_same]
    · next h => exact fget_fset_ne m e _ h
  by_cases ha : a = 0 <;> by_cases hb : b = 0 <;> simp [fileEntry, fileBank, setEntry, ha, hb, hbank]

/-- While its bank is in use a write is dropped: SRDROP is set and QNT counter 8 counts (R281). -/
theorem filePoke_of_busy {k : Core} (h : bankBusy k (selBank k) = true) (r : ScaleReg) (v : Nat) :
    filePoke k r v = kBump (setKReg k 9 0x44 (kReg k 9 0x44 ||| 8)) 9 8 := by
  simp [filePoke, h]

/-- A write to a bank that is not in use sets the field of the selected entry (R281). -/
theorem filePoke_of_free {k : Core} (h : bankBusy k (selBank k) = false) (r : ScaleReg) (v : Nat) :
    filePoke k r v = setEntry k (selBank k) (selIndex k) (entryWith (fileEntry k (selBank k) (selIndex k)) v r) := by
  cases r <;> simp [filePoke, h, selIndex, entryWith]

/-- A write to the scale file leaves the registers but QNT_STATUS. -/
theorem kReg_filePoke (k : Core) (r : ScaleReg) (v : Nat) {off : Nat} (ho : off ≠ 0x44) : kReg (filePoke k r v) 9 off = kReg k 9 off := by
  cases h : bankBusy k (selBank k) with
  | true => rw [filePoke_of_busy h, kReg_kBump, kReg_setKReg_ne k _ (Or.inr ho)]
  | false => rw [filePoke_of_free h, kReg, kPage, pages_setEntry, ← kPage, ← kReg]

/-- A write to the scale file changes the pages and the scale file alone. -/
theorem filePoke_eq (k : Core) (r : ScaleReg) (v : Nat) :
    filePoke k r v = { k with pages := (filePoke k r v).pages, qnt := (filePoke k r v).qnt } := by
  cases h : bankBusy k (selBank k) with
  | true =>
    rw [filePoke_of_busy h]
    rfl
  | false =>
    rw [filePoke_of_free h, pages_setEntry]
    exact setEntry_eq k _ _ _

/-- A write to the scale file leaves the pages but QNT. -/
theorem kPage_filePoke_ne (k : Core) (r : ScaleReg) (v : Nat) {j : Nat} (hj : j ≠ 9) : kPage (filePoke k r v) j = kPage k j := by
  cases h : bankBusy k (selBank k) with
  | true => rw [filePoke_of_busy h, kBump, kPage_modKPage_ne _ _ hj, kPage_setKReg_ne k _ _ hj]
  | false => rw [filePoke_of_free h, kPage, pages_setEntry, ← kPage]

/-! INDEX (R306). -/

/-- An index moved on within its ten bits leaves a register word. -/
theorem index_advance_lt {w : Nat} (hw : w < 2 ^ 32) : w - fld w 0 10 + (fld w 0 10 + 1) % 1024 < 2 ^ 32 := by
  have hf : fld w 0 10 = w % 1024 := rfl
  omega

/-- INDEX moves on under INC; without it nothing changes (R306). -/
theorem srAdvance_cases (k : Core) :
    ((kReg k 9 0x4C).testBit 30 = true ∧ srAdvance k = setKReg k 9 0x4C (kReg k 9 0x4C - selIndex k + (selIndex k + 1) % 1024)) ∨
    ((kReg k 9 0x4C).testBit 30 = false ∧ srAdvance k = k) := by
  cases h : (kReg k 9 0x4C).testBit 30 with
  | true => exact .inl ⟨rfl, if_pos h⟩
  | false => exact .inr ⟨rfl, if_neg (by simp [h])⟩

/-- QNT_SRSEL after INDEX has moved on under INC. -/
theorem kReg_srAdvance_same (k : Core) :
    kReg (srAdvance k) 9 0x4C = if (kReg k 9 0x4C).testBit 30 then kReg k 9 0x4C - selIndex k + (selIndex k + 1) % 1024 else kReg k 9 0x4C := by
  obtain ⟨h, hk⟩ | ⟨h, hk⟩ := srAdvance_cases k
  · rw [hk, kReg_setKReg_same, if_pos h]
    exact Nat.mod_eq_of_lt (index_advance_lt (BitVec.isLt _))
  · simp [hk, h]

/-- Moving INDEX on leaves the other registers. -/
theorem kReg_srAdvance_ne (k : Core) {off : Nat} (ho : off ≠ 0x4C) : kReg (srAdvance k) 9 off = kReg k 9 off := by
  obtain ⟨-, hk⟩ | ⟨-, hk⟩ := srAdvance_cases k
  · rw [hk, kReg_setKReg_ne k _ (Or.inr ho)]
  · rw [hk]

/-- Moving INDEX on leaves the counters. -/
@[simp] theorem cnt_srAdvance (k : Core) (j : Nat) : (kPage (srAdvance k) j).cnt = (kPage k j).cnt := by
  obtain ⟨-, hk⟩ | ⟨-, hk⟩ := srAdvance_cases k
  · rw [hk, cnt_setKReg]
  · rw [hk]

/-- Moving INDEX on changes the pages alone. -/
theorem srAdvance_eq (k : Core) : srAdvance k = { k with pages := (srAdvance k).pages } := by
  obtain ⟨-, hk⟩ | ⟨-, hk⟩ := srAdvance_cases k
  · rw [hk]
    rfl
  · rw [hk]

/-- Moving INDEX on leaves the pages but QNT. -/
theorem kPage_srAdvance_ne (k : Core) {j : Nat} (hj : j ≠ 9) : kPage (srAdvance k) j = kPage k j := by
  obtain ⟨-, hk⟩ | ⟨-, hk⟩ := srAdvance_cases k
  · rw [hk, kPage_setKReg_ne k _ _ hj]
  · rw [hk]

/-! A write of QNT_SRSCALE, QNT_SRFLATV or QNT_SRZP (R281, R306). -/

/-- Only a write of QNT_SRZP moves INDEX on. -/
theorem scaleFilePut_cases (k : Core) (r : ScaleReg) (v : Nat) :
    (r = .srzp ∧ scaleFilePut k r v = srAdvance (filePoke k r v)) ∨ (r ≠ .srzp ∧ scaleFilePut k r v = filePoke k r v) := by
  by_cases h : r = .srzp
  · exact .inl ⟨h, if_pos h⟩
  · exact .inr ⟨h, if_neg h⟩

/-- QNT_SRSEL after a write of the scale file. -/
theorem kReg_scaleFilePut_srsel (k : Core) (r : ScaleReg) (v : Nat) :
    kReg (scaleFilePut k r v) 9 0x4C =
      if r = .srzp ∧ (kReg k 9 0x4C).testBit 30 then kReg k 9 0x4C - selIndex k + (selIndex k + 1) % 1024 else kReg k 9 0x4C := by
  have hsel : kReg (filePoke k r v) 9 0x4C = kReg k 9 0x4C := kReg_filePoke k r v (by decide)
  obtain ⟨h, hput⟩ | ⟨h, hput⟩ := scaleFilePut_cases k r v
  · rw [hput, kReg_srAdvance_same, selIndex, hsel]
    simp [h, selIndex]
  · simp [hput, hsel, h]

/-- The other registers are as the write to the entry leaves them. -/
theorem kReg_scaleFilePut_ne (k : Core) (r : ScaleReg) (v : Nat) {off : Nat} (ho : off ≠ 0x4C) :
    kReg (scaleFilePut k r v) 9 off = kReg (filePoke k r v) 9 off := by
  obtain ⟨-, hput⟩ | ⟨-, hput⟩ := scaleFilePut_cases k r v
  · rw [hput, kReg_srAdvance_ne _ ho]
  · rw [hput]

/-- The scale file is as the write to the entry leaves it. -/
theorem qnt_scaleFilePut (k : Core) (r : ScaleReg) (v : Nat) : (scaleFilePut k r v).qnt = (filePoke k r v).qnt := by
  obtain ⟨-, hput⟩ | ⟨-, hput⟩ := scaleFilePut_cases k r v
  · rw [hput, srAdvance_eq]
  · rw [hput]

/-- The counters are as the write to the entry leaves them. -/
theorem cnt_scaleFilePut (k : Core) (r : ScaleReg) (v j : Nat) : (kPage (scaleFilePut k r v) j).cnt = (kPage (filePoke k r v) j).cnt := by
  obtain ⟨-, hput⟩ | ⟨-, hput⟩ := scaleFilePut_cases k r v
  · rw [hput, cnt_srAdvance]
  · rw [hput]

/-- A write of the scale file changes the pages and the scale file alone. -/
theorem scaleFilePut_eq (k : Core) (r : ScaleReg) (v : Nat) :
    scaleFilePut k r v = { k with pages := (scaleFilePut k r v).pages, qnt := (scaleFilePut k r v).qnt } := by
  obtain ⟨-, hput⟩ | ⟨-, hput⟩ := scaleFilePut_cases k r v
  · rw [hput, srAdvance_eq]
    exact congrArg (fun x : Core => { x with pages := (srAdvance (filePoke k r v)).pages }) (filePoke_eq k r v)
  · rw [hput]
    exact filePoke_eq k r v

/-- A write of the scale file leaves the pages but QNT. -/
theorem kPage_scaleFilePut_ne (k : Core) (r : ScaleReg) (v : Nat) {j : Nat} (hj : j ≠ 9) : kPage (scaleFilePut k r v) j = kPage k j := by
  obtain ⟨-, hput⟩ | ⟨-, hput⟩ := scaleFilePut_cases k r v
  · rw [hput, kPage_srAdvance_ne _ hj, kPage_filePoke_ne k r v hj]
  · rw [hput, kPage_filePoke_ne k r v hj]

/-- A bank that is not in use has the new entry, and no counter moves. -/
theorem scaleFilePut_of_free {k : Core} (h : bankBusy k (selBank k) = false) (r : ScaleReg) (v : Nat) :
    (∀ a n, fileEntry (scaleFilePut k r v) a n =
      if (a = 0 ↔ selBank k = 0) ∧ n = selIndex k then entryWith (fileEntry k (selBank k) (selIndex k)) v r else fileEntry k a n) ∧
    (kPage (scaleFilePut k r v) 9).cnt = (kPage k 9).cnt := by
  constructor
  · intro a n
    rw [← fileEntry_setEntry, ← filePoke_of_free h, fileEntry, fileBank, qnt_scaleFilePut]
    rfl
  · rw [cnt_scaleFilePut, filePoke_of_free h, kPage, pages_setEntry, ← kPage]

/-- A bank in use stays, with SRDROP set and QNT counter 8 up by one. -/
theorem scaleFilePut_of_busy {k : Core} (h : bankBusy k (selBank k) = true) (r : ScaleReg) (v : Nat) :
    (scaleFilePut k r v).qnt = k.qnt ∧ (kReg (scaleFilePut k r v) 9 0x44).testBit 3 = true ∧
    (kPage (scaleFilePut k r v) 9).cnt = (bump (kPage k 9) 8 1).cnt := by
  refine ⟨?entries, ?srdrop, ?counter⟩
  case entries =>
    rw [qnt_scaleFilePut, filePoke_of_busy h]
    rfl
  case srdrop =>
    rw [kReg_scaleFilePut_ne k r v (by decide), filePoke_of_busy h, kReg_kBump, kReg_setKReg_same, Nat.testBit_mod_two_pow, Nat.testBit_or,
      show Nat.testBit 8 3 = true from rfl, Bool.or_true]
    rfl
  case counter =>
    rw [cnt_scaleFilePut, filePoke_of_busy h, kBump, kPage_modKPage_same]
    exact cnt_bump_congr (cnt_setKReg k _ _ _ 9) 8 1

/-- A write of the scale file that reaches its register is made on the core in the state that its gate leaves. -/
theorem exec_scaleFileWrite {s u : State} {p : Port} {c : CoreId} {r : ScaleReg} (h : reaches s p (.core c 9) (srOff r) u) (v : Word) :
    exec (.scaleFileWrite p c r v) s = .next (putCore u c.val (scaleFilePut (getCore u c.val) r v.toNat)) :=
  congrArg _ (coreWrite_ok s u p c 9 (srOff r) _ (by decide) h)

/-- A read of QNT_SRZP gives the selected entry's FLAT and ZP, then INDEX moves on. -/
theorem exec_srzpAccess {s : State} {p : Port} {c : CoreId} (h : readable s p (.core c 9) 0x58) :
    exec (.srzpAccess p c) s = .next (answerRead (modCore s c.val srAdvance) p (natLe 4 (srzpWord (getCore s c.val)))) := by
  show execSrzpAccess p c s = _
  rw [execSrzpAccess, h, gated_true]

/-- The word of QNT_SRZP: FLAT at bit 8, ZP below it. -/
theorem srzpWord_eq (k : Core) :
    srzpWord k = (if (fileEntry k (selBank k) (selIndex k)).flat then 256 else 0) + (fileEntry k (selBank k) (selIndex k)).zp.toNat := by
  show b2n (fileEntry k (selBank k) (selIndex k)).flat * 256 + _ = _
  cases (fileEntry k (selBank k) (selIndex k)).flat <;> simp [b2n, selIndex]

/-! The history slots (R295, R296). -/

/-- Emptying a history slot leaves the others. -/
theorem hist_emptyHist (k : Core) (h m : Nat) : fget (emptyHist k h).qnt.hist m [] = if m = h then [] else fget k.qnt.hist m [] := by
  split
  · next e => simp [emptyHist, fget, e]
  · next e => simp [emptyHist, fget, fget?_fdel_ne _ e]

/-- The length that a written LEN is taken as (R306). -/
def histLenOf (len : Nat) : Nat := if len = 0 ∨ 16 < len then 16 else len

/-- A length that is taken is at most 16. -/
theorem histLenOf_le (len : Nat) : histLenOf len ≤ 16 := by
  unfold histLenOf
  split <;> omega

/-- A write of LEN that changes nothing leaves the slot; a change empties it and sets LEN (R296). -/
theorem histLen_eq (k : Core) (h len : Nat) :
    histLen k h len = if fld (kReg k 9 (0x64 + 4 * h)) 0 5 = histLenOf len then k
      else setKReg (emptyHist k h) 9 (0x64 + 4 * h) (histLenOf len) := by
  have hn : (if len = 0 || 16 < len then 16 else len) = histLenOf len := by simp [histLenOf]
  rw [← hn]
  rfl

/-- CLR that reaches its register empties the slot. -/
theorem exec_histClr {s u : State} {p : Port} {c : CoreId} {h : Fin 16} (hr : reaches s p (.core c 9) (0x64 + 4 * h.val) u) :
    exec (.histClr p c h) s = .next (putCore u c.val (emptyHist (getCore u c.val) h.val)) :=
  congrArg _ (coreWrite_ok s u p c 9 _ _ (by decide) hr)

/-- A write of LEN that reaches its register acts on the slot. -/
theorem exec_histLenWrite {s u : State} {p : Port} {c : CoreId} {h : Fin 16} (hr : reaches s p (.core c 9) (0x64 + 4 * h.val) u) (len : BitVec 5) :
    exec (.histLenWrite p c h len) s = .next (putCore u c.val (histLen (getCore u c.val) h.val len.toNat)) :=
  congrArg _ (coreWrite_ok s u p c 9 _ _ (by decide) hr)

/-! The tally totals (R106). -/

/-- Registers of a page that are all set to 0. -/
theorem kReg_foldl_setKReg_zero (l : List Nat) (k : Core) (i off : Nat) :
    kReg (l.foldl (fun k o => setKReg k i o 0) k) i off = if off ∈ l then 0 else kReg k i off := by
  induction l generalizing k with
  | nil => simp
  | cons o l ih =>
    rw [List.foldl_cons, ih]
    by_cases hl : off ∈ l
    · simp [hl]
    · by_cases ho : off = o
      · simp [ho, kReg_setKReg_same]
      · simp [hl, ho, kReg_setKReg_ne k 0 (Or.inr ho)]

/-- The registers of the TLY page from 0x40 to 0x58 are clear, the others stay. -/
theorem kReg_tlyClear (k : Core) (off : Nat) :
    kReg (tlyClear k) 8 off = if off ∈ [0x40, 0x44, 0x48, 0x4C, 0x50, 0x54, 0x58] then 0 else kReg k 8 off :=
  kReg_foldl_setKReg_zero _ k 8 off

/-- Clearing the totals leaves the pages but TLY. -/
theorem kPage_tlyClear_ne (k : Core) {j : Nat} (hj : j ≠ 8) : kPage (tlyClear k) j = kPage k j := by
  simp only [tlyClear, List.foldl_cons, List.foldl_nil, kPage_setKReg_ne _ _ _ hj]

/-- CLR that reaches TLY_CTRL clears the totals. -/
theorem exec_tlyClr {s u : State} {p : Port} {c : CoreId} (h : reaches s p (.core c 8) 0x5C u) :
    exec (.tlyClr p c) s = .next (putCore u c.val (tlyClear (getCore u c.val))) :=
  congrArg _ (coreWrite_ok s u p c 8 0x5C _ (by decide) h)

/-! The statement. -/

/-- A length of five bits as it is taken. -/
theorem histLenOf_toNat (len : BitVec 5) : histLenOf len.toNat = if len = 0#5 ∨ 16 < len.toNat then 16 else len.toNat := by
  simp [histLenOf, BitVec.toNat_eq]

/-- Settles O47: each command is its operation on the one core, whose laws say what is read back and what stays. -/
theorem quantiserRegisters : Obligations.QuantiserRegisters := by
  refine ⟨?scaleWrite, ?srzpRead, ?history, ?totals⟩
  case scaleWrite =>
    intro s s1 p c r v k b i h
    have h' : reaches s p (.core c 9) (srOff r) s1 := by cases r <;> exact h
    refine ⟨_, exec_scaleFileWrite h' v, onlyCore_putCore s1 c.val _, ?_⟩
    rw [getCore_putCore_same]
    refine ⟨kReg_scaleFilePut_srsel k r v.toNat, fun hfree => ?_, fun hbusy => scaleFilePut_of_busy hbusy r v.toNat, scaleFilePut_eq k r v.toNat,
      fun j hj => kPage_scaleFilePut_ne k r v.toNat hj⟩
    obtain ⟨hentries, hcnt⟩ := scaleFilePut_of_free hfree r v.toNat
    refine ⟨fun a n => (hentries a n).trans ?_, hcnt⟩
    cases r <;> simp only [entryWith, word, BitVec.ofNat_toNat, BitVec.setWidth_eq] <;> rfl
  case srzpRead =>
    intro s p c h k w e
    rw [exec_srzpAccess h, srzpWord_eq]
    rfl
  case history =>
    intro s s1 p c h len hr k n
    have hn : histLenOf len.toNat = n := histLenOf_toNat len
    refine ⟨⟨_, exec_histClr hr, onlyCore_putCore s1 c.val _, ?_⟩, fun he => ?_, fun he => ⟨_, exec_histLenWrite hr len, onlyCore_putCore s1 c.val _, ?_⟩⟩
    · rw [getCore_putCore_same]
      exact ⟨rfl, hist_emptyHist k h.val⟩
    · rw [exec_histLenWrite hr, histLen_eq, hn, if_pos he]
    · rw [getCore_putCore_same, histLen_eq, hn, if_neg he]
      have hlt : n < 2 ^ 32 := by
        have := histLenOf_le len.toNat
        omega
      exact ⟨(kReg_setKReg_same _ _ _ _).trans (Nat.mod_eq_of_lt hlt), fun off ho => kReg_setKReg_ne (emptyHist k h.val) _ (Or.inr ho),
        fun j hj => kPage_setKReg_ne (emptyHist k h.val) _ _ hj, hist_emptyHist k h.val⟩
  case totals =>
    intro s s1 p c h
    refine ⟨_, exec_tlyClr h, onlyCore_putCore s1 c.val _, ?_⟩
    rw [getCore_putCore_same]
    refine ⟨rfl, fun i hi => ?_, fun off ho => ?_, fun j hj => kPage_tlyClear_ne _ hj⟩
    · rw [kReg_tlyClear, if_pos]
      simp only [List.mem_cons, List.not_mem_nil, or_false]
      omega
    · rw [kReg_tlyClear, if_neg]
      simp only [List.mem_cons, List.not_mem_nil, or_false]
      omega

end Sys2Proof.Machine
end

section
/-! SUPPORT. The power of a scratchpad's segments (R209, R210): what each of its operations on a core reads back and what it leaves alone. -/

namespace Sys2Proof.Machine

/-! One bit of a register word. -/

/-- Adding a bit that is clear leaves the others: no carry leaves it. -/
theorem testBit_add_two_pow_ne {x i j : Nat} (hi : x.testBit i = false) (hj : j ≠ i) : (x + 2 ^ i).testBit j = x.testBit j := by
  rcases Nat.lt_or_gt_of_ne hj with hlt | hgt
  · rw [Nat.add_comm, Nat.testBit_two_pow_add_gt hlt]
  · obtain ⟨d, rfl⟩ : ∃ d, j = i + 1 + d := ⟨j - (i + 1), by omega⟩
    have heven : x / 2 ^ i % 2 = 0 := by simpa [Nat.testBit_eq_decide_div_mod_eq] using hi
    have hdiv : (x + 2 ^ i) / 2 ^ (i + 1) = x / 2 ^ (i + 1) := by
      rw [Nat.pow_succ, ← Nat.div_div_eq_div_mul, ← Nat.div_div_eq_div_mul, Nat.add_div_right _ (Nat.two_pow_pos i)]
      omega
    rw [Nat.add_comm _ d, ← Nat.testBit_div_two_pow, hdiv, Nat.testBit_div_two_pow]

/-- A word with bit i cleared. -/
theorem testBit_setBit_false (w i j : Nat) : (setBit w i false).testBit j = (decide (j ≠ i) && w.testBit j) := by
  cases hw : w.testBit i with
  | false =>
    by_cases hj : j = i <;> simp [setBit, hw, hj]
  | true =>
    obtain ⟨x, rfl⟩ : ∃ x, w = x + 2 ^ i := ⟨w - 2 ^ i, (Nat.sub_add_cancel (Nat.ge_two_pow_of_testBit hw)).symm⟩
    have hx : x.testBit i = false := by simpa [Nat.add_comm x, Nat.testBit_two_pow_add_eq] using hw
    have hclear : setBit (x + 2 ^ i) i false = x := by simp [setBit, hw]
    rw [hclear]
    by_cases hj : j = i
    · simp [hj, hx]
    · simp [hj, testBit_add_two_pow_ne hx hj]

/-- Setting a bit that is clear adds it. -/
theorem setBit_true_of_clear {w i : Nat} (h : w.testBit i = false) : setBit w i true = w + 2 ^ i := by
  simp [setBit, h]

/-! What a wake leaves (R443). -/

/-- A wake changes the power control, and counts on the PWR page where it begins. -/
theorem wakeTo_cases (k : Core) (now : Nat) (goal : PState) (cause : Nat) :
    (∃ f, wakeTo k now goal cause = modPwr k f) ∨ ∃ f n, wakeTo k now goal cause = kBump (modPwr k f) 12 n := by
  unfold wakeTo
  extract_lets p p1 from_
  by_cases hup : (from_ = .active || from_ = .felled) = true
  · exact .inl ⟨fun _ => p1, if_pos hup⟩
  · rw [if_neg hup]
    split
    · exact .inl ⟨fun _ => _, rfl⟩
    · exact .inr ⟨fun _ => _, _, rfl⟩

/-- A change of tags or semaphores wakes the core, or leaves it. -/
theorem wakeOnChange_cases (k0 k : Core) (now : Nat) : wakeOnChange k0 k now = k ∨ wakeOnChange k0 k now = wakeTo k now .active 2 := by
  unfold wakeOnChange wakeDoze
  split
  · exact .inl rfl
  · split
    · exact .inr rfl
    · exact .inl rfl

/-- A change that wakes the core leaves the scratchpad and the pages but PWR as the change has them. -/
theorem wakeOnChange_keeps (k0 k : Core) (now : Nat) :
    (wakeOnChange k0 k now).spd = k.spd ∧ ∀ j, j ≠ 12 → kPage (wakeOnChange k0 k now) j = kPage k j := by
  rcases wakeOnChange_cases k0 k now with h | h
  · rw [h]
    exact ⟨rfl, fun _ _ => rfl⟩
  · rw [h]
    obtain ⟨f, hw⟩ | ⟨f, n, hw⟩ := wakeTo_cases k now .active 2
    · rw [hw]
      exact ⟨rfl, fun _ _ => rfl⟩
    · rw [hw]
      exact ⟨rfl, fun _ hj => kPage_modKPage_ne _ _ hj⟩

/-- The registers of the pages but PWR are as the change has them. -/
theorem kReg_wakeOnChange (k0 k : Core) (now : Nat) {j : Nat} (hj : j ≠ 12) (off : Nat) : kReg (wakeOnChange k0 k now) j off = kReg k j off := by
  rw [kReg, (wakeOnChange_keeps k0 k now).2 j hj, kReg]

/-- The tags are as the change has them. -/
@[simp] theorem tagOf_wakeOnChange (k0 k : Core) (now n : Nat) : tagOf (wakeOnChange k0 k now) n = tagOf k n := by
  rw [tagOf, (wakeOnChange_keeps k0 k now).1, tagOf]

/-- The segments are as the change has them. -/
@[simp] theorem segUp_wakeOnChange (k0 k : Core) (now g : Nat) : segUp (wakeOnChange k0 k now) g = segUp k g := by
  rw [segUp, (wakeOnChange_keeps k0 k now).1, segUp]

/-- The ON bits are as the change has them. -/
@[simp] theorem segOn_wakeOnChange (k0 k : Core) (now g : Nat) : segOn (wakeOnChange k0 k now) g = segOn k g := by
  rw [segOn, kReg_wakeOnChange k0 k now (by decide), segOn]

/-! The phase of a segment. -/

/-- A segment that is put in a phase, and the others. -/
theorem segUp_setSeg (k : Core) (g h : Nat) (ph : SegPhase) (now : Nat) : segUp (setSeg k g ph now) h = if h = g then ph == .up else segUp k h := by
  by_cases hg : h = g
  · simp [segUp, setSeg, modSpd, hg]
  · simp [segUp, setSeg, modSpd, hg, fget_fset_ne]

/-- A phase leaves the tags. -/
@[simp] theorem tagOf_setSeg (k : Core) (g : Nat) (ph : SegPhase) (now n : Nat) : tagOf (setSeg k g ph now) n = tagOf k n := rfl

/-- A phase leaves the bytes. -/
@[simp] theorem mem_setSeg (k : Core) (g : Nat) (ph : SegPhase) (now : Nat) : (setSeg k g ph now).spd.mem = k.spd.mem := rfl

/-! The loss of a segment's contents (R206, R209). -/

/-- A lookup where only the keys that sel picks are left. -/
theorem fget_filter {α : Type} (m : FMap α) (sel : Nat → Bool) (n : Nat) (d : α) : fget (m.filter fun e => sel e.1) n d = if sel n then fget m n d else d := by
  unfold fget
  induction m with
  | nil => simp [fget?]
  | cons e m ih =>
    by_cases hn : n = e.1
    · cases hs : sel e.1 <;> simp_all [fget?]
    · cases hs : sel e.1 <;> simp_all [fget?]

/-- A dropped segment's bytes are 0, the others stay (R212). -/
theorem memGet_dropSegment (k : Core) (g now a : Nat) : memGet (dropSegment k g now).spd.mem a = if a / 65536 = g then 0#8 else memGet k.spd.mem a := by
  have hrange : (g * 65536 ≤ a ∧ a < g * 65536 + 65536) ↔ a / 65536 = g := by omega
  simp only [dropSegment, mem_setSeg, modSpd, touchRows_spd, memGet_memZero, hrange]

/-- A dropped segment's slots have no tags, the others keep theirs. -/
theorem tagOf_dropSegment (k : Core) (g now n : Nat) : tagOf (dropSegment k g now) n = if n / 64 = g then {} else tagOf k n := by
  have hfilter := fget_filter k.spd.tags (fun m => decide (m / 64 ≠ g)) n {}
  rw [dropSegment, tagOf_setSeg, tagOf]
  simp only [modSpd, touchRows_spd]
  rw [hfilter]
  by_cases h : n / 64 = g <;> simp [h, tagOf]

/-- A dropped segment's gather entries are gone. -/
theorem gather_dropSegment (k : Core) (g now : Nat) : (dropSegment k g now).spd.gather = k.spd.gather.filter fun e => e.row / 2048 ≠ g := by
  simp [dropSegment, setSeg, modSpd]

/-- A dropped segment is off, the others stay. -/
theorem segUp_dropSegment (k : Core) (g now h : Nat) : segUp (dropSegment k g now) h = if h = g then false else segUp k h := by
  rw [dropSegment, segUp_setSeg]
  simp only [segUp, modSpd, touchRows_spd]
  rfl

/-- Dropping a resident record leaves the pages (R120). -/
@[simp] theorem touchRows_pages (k : Core) (sel : Nat → Bool) : (touchRows k sel).pages = k.pages := by
  unfold touchRows
  repeat' split
  all_goals rfl

/-- The loss of a segment's contents changes no register. -/
@[simp] theorem kReg_dropSegment (k : Core) (g now i off : Nat) : kReg (dropSegment k g now) i off = kReg k i off := by
  simp [kReg, kPage, dropSegment, setSeg]

/-! ON bits (R209, R210). -/

/-- After a segment is powered off, its ON bit is clear and the others stay. -/
theorem segOn_powered_off (k : Core) (now : Nat) {g h : Nat} (hh : h < 32) :
    segOn (dropSegment (setOn k g false) g now) h = (decide (h ≠ g) && segOn k h) := by
  rw [segOn, kReg_dropSegment, setOn, kReg_setKReg_same, Nat.testBit_mod_two_pow, testBit_setBit_false]
  simp [hh, segOn]

/-- An ON bit of a segment in use stays: REFUSED is set and SPD counter 8 counts (R209). -/
theorem segOffBit_of_busy {k : Core} {g : Nat} (hon : segOn k g = true) (hb : segBusy k g = true) (now : Nat) :
    segOffBit k g now = kBump (setKReg k 5 0x54 (kReg k 5 0x54 ||| 2 ^ (16 + g))) 5 8 := by
  simp [segOffBit, hon, hb]

/-- An ON bit of a segment that is not in use is cleared, and the segment loses its contents (R209). -/
theorem segOffBit_of_free {k : Core} {g : Nat} (hon : segOn k g = true) (hb : segBusy k g = false) (now : Nat) :
    segOffBit k g now = dropSegment (setOn k g false) g now := by
  simp [segOffBit, hon, hb]

/-- An ON bit that is clear and that the port may set is set, and the ramp begins (R210). -/
theorem segOnBit_of_allowed {k : Core} {g : Nat} {tenant : Bool} (hoff : segOn k g = false) (ha : tenant = false ∨ segAllowed k g = true) (now : Nat) :
    segOnBit k g now tenant = setSeg (setKReg k 5 0x50 (kReg k 5 0x50 + 2 ^ g)) g .ramping now := by
  have hguard : (segOn k g || (tenant && !segAllowed k g)) = false := by
    rcases ha with h | h <;> simp [hoff, h]
  rw [segOnBit, hguard, setOn, setBit_true_of_clear hoff]
  rfl

/-- A tenant does not power a segment that ALLOW does not name (R210). -/
theorem segOnBit_of_denied {k : Core} {g : Nat} (ha : segAllowed k g = false) (now : Nat) : segOnBit k g now true = k := by
  simp [segOnBit, ha]

/-- Every port but the management port is a tenant's. -/
theorem isSome_portTenant (p : Port) : (portTenant p).isSome = decide (p ≠ .mgmt) := by
  cases p <;> rfl

/-! The commands. -/

section
variable {s u : State} {p : Port} {c : CoreId} (g : Fin 12) (h : reaches s p (.core c 5) 0x50 u)
include h

/-- Clearing an ON bit is made on the state that the gate leaves, and wakes the core where a tag goes. -/
theorem exec_segmentPowerOff : exec (.segmentPowerOff p c g) s =
    .next (putCore u c.val (wakeOnChange (getCore u c.val) (segOffBit (getCore u c.val) g.val u.now) u.now)) :=
  congrArg _ (coreWrite_ok s u p c 5 0x50 _ (by decide) h)

/-- Setting an ON bit is made on the state that the gate leaves. -/
theorem exec_segmentPowerOn : exec (.segmentPowerOn p c g) s =
    .next (putCore u c.val (segOnBit (getCore u c.val) g.val u.now (portTenant p).isSome)) :=
  congrArg _ (coreWrite_ok s u p c 5 0x50 _ (by decide) h)

end

/-- The end of a segment's ramp: zeroing begins, 3,400 FCLK cycles after the ramp at the earliest (R210). -/
theorem exec_segmentSettled_of_ramping {s : State} {c : CoreId} {g : Fin 12} {n : Nat}
    (h : fget (getCore s c.val).spd.segs g.val {} = { phase := .ramping, since := n }) :
    exec (.segmentSettled c g) s = .next (modCore (atLeast s (n + 3400)) c.val fun k => setSeg k g.val .zeroing (atLeast s (n + 3400)).now) := by
  show execSegmentSettled c g s = _
  simp [execSegmentSettled, h]

/-- The end of a segment's zeroing: it is up without contents, 128 FCLK cycles after zeroing began at the earliest (R210). -/
theorem exec_segmentUp_of_zeroing {s : State} {c : CoreId} {g : Fin 12} {n : Nat}
    (h : fget (getCore s c.val).spd.segs g.val {} = { phase := .zeroing, since := n }) :
    exec (.segmentUp c g) s = .next (modCore (atLeast s (n + 128)) c.val fun k =>
      setSeg (dropSegment k g.val (atLeast s (n + 128)).now) g.val .up (atLeast s (n + 128)).now) := by
  show execSegmentUp c g s = _
  simp [execSegmentUp, h]

/-- Settles O33: each command is its operation on the one core, whose laws say what the segment loses and what stays. -/
theorem segmentPower : Obligations.SegmentPower := by
  refine ⟨?refused, ?off, ?on, ?denied, ?settled, ?up⟩
  case refused =>
    intro s u p c g h hon hbusy
    refine ⟨_, exec_segmentPowerOff g h, onlyCore_putCore u c.val _, ?_⟩
    have hsema : semaWords (getCore u c.val) = semaWords (segOffBit (getCore u c.val) g.val u.now) := by
      rw [segOffBit_of_busy hon hbusy, semaWords, semaWords, kBump, kPage_modKPage_ne _ _ (by decide), kPage_setKReg_ne _ _ _ (by decide)]
    have htags : (getCore u c.val).spd.tags = (segOffBit (getCore u c.val) g.val u.now).spd.tags := by rw [segOffBit_of_busy hon hbusy]; rfl
    rw [getCore_putCore_same, wakeOnChange_id _ _ _ htags (.inr hsema), segOffBit_of_busy hon hbusy]
    refine ⟨rfl, ?_, ?_, ?_⟩
    · rwa [segOn, kReg_kBump, kReg_setKReg_ne _ _ (.inr (by decide))]
    · have hlt : 16 + g.val < 32 := by omega
      rw [kReg_kBump, kReg_setKReg_same, Nat.testBit_mod_two_pow, Nat.testBit_or, Nat.testBit_two_pow_self]
      simp [hlt]
    · rw [kBump, kPage_modKPage_same]
      exact cnt_bump_congr (cnt_setKReg _ _ _ _ _) 8 1
  case off =>
    intro s u p c g h hon hfree
    refine ⟨_, exec_segmentPowerOff g h, onlyCore_putCore u c.val _, ?_⟩
    rw [getCore_putCore_same, segOffBit_of_free hon hfree]
    simp only [segOn_wakeOnChange, segUp_wakeOnChange, tagOf_wakeOnChange, (wakeOnChange_keeps _ _ _).1]
    refine ⟨?_, ?_, fun i hi hne => ⟨?_, ?_⟩, memGet_dropSegment _ _ _, tagOf_dropSegment _ _ _, gather_dropSegment _ _ _⟩
    · simp [segOn_powered_off _ _ (show g.val < 32 by omega)]
    · exact (segUp_dropSegment _ _ _ _).trans (if_pos rfl)
    · simp [segOn_powered_off _ _ (show i < 32 by omega), hne]
    · exact (segUp_dropSegment _ _ _ _).trans (if_neg hne)
  case on =>
    intro s u p c g h hoff ha
    have ht : (portTenant p).isSome = false ∨ segAllowed (getCore u c.val) g.val = true := ha.imp_left fun hp => by simp [isSome_portTenant, hp]
    rw [exec_segmentPowerOn g h, segOnBit_of_allowed hoff ht]
    rfl
  case denied =>
    intro s u p c g h _ hp ha
    have ht : (portTenant p).isSome = true := by simp [isSome_portTenant, hp]
    rw [exec_segmentPowerOn g h, ht, segOnBit_of_denied ha]
  case settled =>
    intro s c g n h
    exact ⟨exec_segmentSettled_of_ramping h, le_atLeast s _⟩
  case up =>
    intro s c g n h
    refine ⟨_, exec_segmentUp_of_zeroing h, onlyCore_putCore _ c.val _, le_atLeast s _, ?_⟩
    rw [getCore_modCore_same]
    refine ⟨?_, fun i hi => ?_, fun a => ?_, fun m => ?_⟩
    · simp [segUp_setSeg]
    · simp [segUp_setSeg, segUp_dropSegment, hi]
    · exact memGet_dropSegment _ g.val (atLeast s (n + 128)).now a
    · exact tagOf_dropSegment _ g.val (atLeast s (n + 128)).now m

end Sys2Proof.Machine
end

section
/-! SUPPORT. Tag commands and untagged ranges (R200, R202, R213): what a slot that is reached becomes, what the walk of a range counts, and what a change of the ranges takes from slots and descriptors. -/

namespace Sys2Proof.Machine

/-! Counts that follow one another (R45). -/

/-- The counters after a count: it saturates at all ones. -/
theorem cnt_bump (p : Page) (n amt : Nat) :
    (bump p n amt).cnt = if amt = 0 then p.cnt else fset p.cnt n (word (min ((fget p.cnt n 0#32).toNat + amt) 0xFFFFFFFF)) := by
  unfold bump
  dsimp only
  by_cases h0 : amt = 0
  · rw [if_pos h0, if_pos h0]
  · rw [if_neg h0, if_neg h0]
    split
    · next hsat => rw [Nat.min_eq_right hsat]; rfl
    · next hsat => rw [Nat.min_eq_left (by omega)]

/-- Two counts of a counter are one of their sum. -/
theorem cnt_bump_bump (p : Page) (n a b : Nat) : (bump (bump p n a) n b).cnt = (bump p n (a + b)).cnt := by
  have hword : ∀ x, (word (min x 0xFFFFFFFF)).toNat = min x 0xFFFFFFFF := fun x => by
    simp only [word, BitVec.toNat_ofNat]
    omega
  by_cases ha : a = 0
  · subst ha
    rw [Nat.zero_add]
    exact cnt_bump_congr (by simp [cnt_bump]) n b
  · by_cases hb : b = 0
    · simp [hb, cnt_bump]
    · have hmin : ∀ x, min (min (x + a) 0xFFFFFFFF + b) 0xFFFFFFFF = min (x + (a + b)) 0xFFFFFFFF := fun x => by omega
      simp only [cnt_bump, ha, hb, if_false, fget_fset_same, fset_fset, hword, hmin, Nat.add_eq_zero_iff, false_and]

/-! Work on tags. -/

/-- k' comes from k by work on tags and counters: the power control, the locks and the registers stay, gather entries only go, and no byte changes but by theirs. -/
structure TagWork (k k' : Core) : Prop where
  pwr : k'.pwr = k.pwr
  lock : k'.spd.lock = k.spd.lock
  regs : ∀ i off, kReg k' i off = kReg k i off
  gather : ∀ g ∈ k'.spd.gather, g ∈ k.spd.gather
  bytes : ∀ a, byteKept k k' a

/-- No work. -/
theorem TagWork.refl (k : Core) : TagWork k k := ⟨rfl, rfl, fun _ _ => rfl, fun _ h => h, byteKept_refl k⟩

/-- A chain of two. -/
theorem TagWork.trans {k k' k'' : Core} (h : TagWork k k') (g : TagWork k' k'') : TagWork k k'' where
  pwr := g.pwr.trans h.pwr
  lock := g.lock.trans h.lock
  regs i off := (g.regs i off).trans (h.regs i off)
  gather x hx := h.gather x (g.gather x hx)
  bytes a := byteKept_trans (h.bytes a) h.gather (g.bytes a)

/-- A list of such steps. -/
theorem TagWork.foldl {f : Core → Nat → Core} (hf : ∀ k n, TagWork k (f k n)) (l : List Nat) (k : Core) : TagWork k (l.foldl f k) := by
  induction l generalizing k with
  | nil => exact .refl k
  | cons n l ih => exact (hf k n).trans (ih (f k n))

/-- Slots that are untagged stay so. -/
theorem TagWork.untagged {k k' : Core} (h : TagWork k k') (n : Nat) : untagged k' n = untagged k n := by
  simp only [Machine.untagged, h.regs]

/-- A slot whose tag stays is skipped as before. -/
theorem TagWork.skips {k k' : Core} (h : TagWork k k') {n : Nat} (ht : tagOf k' n = tagOf k n) : tagSkips k' n = tagSkips k n := by
  simp only [tagSkips, h.untagged, ht, lockedSlot, h.lock]

/-- Dropping a resident record changes it alone (R120). -/
theorem touchRows_eq (k : Core) (sel : Nat → Bool) : touchRows k sel = { k with mxa := (touchRows k sel).mxa } := by
  unfold touchRows
  repeat' split
  all_goals rfl

/-- A flush changes the scratchpad and drops a resident record at most. -/
theorem gatherFlush_eq (k : Core) (sel : Gather → Bool) : gatherFlush k sel = { k with spd := (gatherFlush k sel).spd, mxa := (gatherFlush k sel).mxa } := by
  unfold gatherFlush
  rw [touchRows_eq]
  rfl

/-- Writing entries counts no slot. -/
theorem skipped_gatherApplies (l : List Gather) (d : Spd) : (l.foldl gatherApply d).skipped = d.skipped := by
  induction l generalizing d with
  | nil => rfl
  | cons g l ih => exact ih (gatherApply d g)

/-- A flush counts no slot. -/
@[simp] theorem skipped_flushSlot (k : Core) (n : Nat) : (flushSlot k n).spd.skipped = k.spd.skipped := by
  rw [flushSlot, gatherFlush_spd]
  exact skipped_gatherApplies _ _

/-- A flush leaves the pages. -/
@[simp] theorem pages_flushSlot (k : Core) (n : Nat) : (flushSlot k n).pages = k.pages := by
  rw [flushSlot, gatherFlush_eq]

/-- A flush leaves the tags. -/
@[simp] theorem tagOf_flushSlot (k : Core) (n i : Nat) : tagOf (flushSlot k n) i = tagOf k i := by
  rw [tagOf, flushSlot, gatherFlush_tags, tagOf]

/-- The tag that was set, and the others. -/
theorem tagOf_setTag (k : Core) (n : Nat) (t : Tag) (i : Nat) : tagOf (setTag k n t) i = if i = n then t else tagOf k i := by
  by_cases h : i = n
  · simp [tagOf, setTag, modSpd, h]
  · simp [tagOf, setTag, modSpd, h, fget_fset_ne]

/-- Setting a tag leaves the bytes and the gather buffer. -/
theorem tagWork_setTag (k : Core) (n : Nat) (t : Tag) : TagWork k (setTag k n t) := ⟨rfl, rfl, fun _ _ => rfl, fun _ h => h, fun _ => .inl rfl⟩

/-- A flush writes gather entries. -/
theorem tagWork_flushSlot (k : Core) (n : Nat) : TagWork k (flushSlot k n) where
  pwr := by rw [flushSlot, gatherFlush_eq]
  lock := by
    rw [flushSlot, gatherFlush_spd]
    exact (gatherApplies_tags _ _).2.2.1
  regs i off := by rw [kReg, kPage, pages_flushSlot, kReg, kPage]
  gather := gather_gatherFlush k _
  bytes := byteKept_gatherFlush k _

/-- A change of tag sets it, after a flush where the state changes (R206). -/
theorem changeTag_cases (k : Core) (n : Nat) {t : Tag} (hb : t.backed = false) : changeTag k n t = setTag k n t ∨ changeTag k n t = setTag (flushSlot k n) n t := by
  have ht : (if t.st = .empty then { t with backed := false } else t) = t := by
    split
    · rw [← hb]
    · rfl
  unfold changeTag
  dsimp only
  rw [ht]
  split
  · exact .inl rfl
  · exact .inr rfl

/-! A slot that a tag command reaches (R213). -/

/-- The tag that a command gives a slot that it does not skip. -/
def commandedTag (op count : Nat) (t : Tag) : Tag :=
  if op = 1 then { t with st := .empty, count := 0, backed := false }
  else if op = 2 then { t with st := .full, count := count, backed := false } else { t with backed := false }

/-- A slot that is not skipped takes its tag, after a flush or without one. -/
theorem tagApply_cases (k : Core) (op count n : Nat) :
    tagApply k op count n = setTag k n (commandedTag op count (tagOf k n)) ∨ tagApply k op count n = setTag (flushSlot k n) n (commandedTag op count (tagOf k n)) := by
  unfold tagApply commandedTag
  dsimp only
  split
  · exact changeTag_cases k n rfl
  · exact changeTag_cases k n rfl
  · next h1 h2 => rw [if_neg h1, if_neg h2]; exact .inl rfl

/-- What a command does to a slot that it reaches: a skipped slot is counted, another takes its tag. -/
theorem tagReach_cases (op count : Nat) (k : Core) (n : Nat) :
    (tagSkips k n = true ∧ tagReach op count k n = kBump (modSpd k fun d => { d with skipped := d.skipped + 1 }) 5 9) ∨
    (tagSkips k n = false ∧ ∃ k1, (k1 = k ∨ k1 = flushSlot k n) ∧ tagReach op count k n = setTag k1 n (commandedTag op count (tagOf k n))) := by
  cases hs : tagSkips k n with
  | true => exact .inl ⟨rfl, if_pos hs⟩
  | false =>
    have hr : tagReach op count k n = tagApply k op count n := if_neg (by simp [hs])
    rcases tagApply_cases k op count n with h | h
    · exact .inr ⟨rfl, k, .inl rfl, hr.trans h⟩
    · exact .inr ⟨rfl, flushSlot k n, .inr rfl, hr.trans h⟩

/-- Reaching a slot is work on tags. -/
theorem tagWork_tagReach (op count : Nat) (k : Core) (n : Nat) : TagWork k (tagReach op count k n) := by
  obtain ⟨-, h⟩ | ⟨-, k1, hk1, h⟩ := tagReach_cases op count k n
  · rw [h]
    exact ⟨rfl, rfl, fun i off => kReg_kBump _ 5 9 1 i off, fun _ hg => hg, fun _ => .inl rfl⟩
  · rw [h]
    refine TagWork.trans ?_ (tagWork_setTag k1 n _)
    rcases hk1 with rfl | rfl
    · exact .refl _
    · exact tagWork_flushSlot k n

/-- The tags after a slot is reached. -/
theorem tagOf_tagReach (op count : Nat) (k : Core) (n i : Nat) :
    tagOf (tagReach op count k n) i = if i = n ∧ tagSkips k n = false then commandedTag op count (tagOf k n) else tagOf k i := by
  obtain ⟨hs, h⟩ | ⟨hs, k1, hk1, h⟩ := tagReach_cases op count k n
  · rw [h, if_neg (by simp [hs])]
    rfl
  · have htags : tagOf k1 i = tagOf k i := by rcases hk1 with rfl | rfl <;> simp
    simp only [h, tagOf_setTag, htags, hs, and_true]

/-- Reaching a slot counts it where it is skipped. -/
theorem counts_tagReach (op count : Nat) (k : Core) (n : Nat) :
    (tagReach op count k n).spd.skipped = k.spd.skipped + (tagSkips k n).toNat ∧
    (kPage (tagReach op count k n) 5).cnt = (bump (kPage k 5) 9 (tagSkips k n).toNat).cnt := by
  obtain ⟨hs, h⟩ | ⟨hs, k1, hk1, h⟩ := tagReach_cases op count k n
  · rw [h, hs, kBump, kPage_modKPage_same]
    exact ⟨rfl, rfl⟩
  · rw [h, hs, cnt_bump]
    rcases hk1 with rfl | rfl
    · exact ⟨rfl, rfl⟩
    · exact ⟨skipped_flushSlot k n, by rw [kPage, (setTag_fields _ n _).1, pages_flushSlot]; rfl⟩

/-- A slot that is reached leaves the others to be skipped or not. -/
theorem tagSkips_tagReach_ne (op count : Nat) (k : Core) {n i : Nat} (h : i ≠ n) : tagSkips (tagReach op count k n) i = tagSkips k i :=
  (tagWork_tagReach op count k n).skips (by rw [tagOf_tagReach, if_neg (fun hi => h hi.1)])

/-! The walk of a range. -/

/-- The tags after the slots of a list are reached, each once. -/
theorem tagOf_walk (op count : Nat) {l : List Nat} (hl : l.Nodup) (k : Core) (i : Nat) :
    tagOf (l.foldl (tagReach op count) k) i = if i ∈ l ∧ tagSkips k i = false then commandedTag op count (tagOf k i) else tagOf k i := by
  induction l generalizing k with
  | nil => simp
  | cons n l ih =>
    obtain ⟨hn, hl⟩ := List.nodup_cons.mp hl
    rw [List.foldl_cons, ih hl]
    by_cases hi : i = n
    · subst hi
      simp [hn, tagOf_tagReach]
    · simp [hi, tagSkips_tagReach_ne, tagOf_tagReach]

/-- What the walk counts: the slots of the list that are skipped. -/
theorem counts_walk (op count : Nat) {l : List Nat} (hl : l.Nodup) (k : Core) :
    (l.foldl (tagReach op count) k).spd.skipped = k.spd.skipped + (l.filter (tagSkips k)).length ∧
    (kPage (l.foldl (tagReach op count) k) 5).cnt = (bump (kPage k 5) 9 (l.filter (tagSkips k)).length).cnt := by
  induction l generalizing k with
  | nil => simp [cnt_bump]
  | cons n l ih =>
    obtain ⟨hn, hl⟩ := List.nodup_cons.mp hl
    obtain ⟨hskip, hcnt⟩ := counts_tagReach op count k n
    obtain ⟨ihskip, ihcnt⟩ := ih hl (tagReach op count k n)
    have hrest : l.filter (tagSkips (tagReach op count k n)) = l.filter (tagSkips k) :=
      List.filter_congr fun i hi => tagSkips_tagReach_ne op count k (ne_of_mem_of_not_mem hi hn)
    have hlen : ((n :: l).filter (tagSkips k)).length = (tagSkips k n).toNat + (l.filter (tagSkips k)).length := by
      cases h : tagSkips k n <;> simp [h, Nat.add_comm]
    rw [List.foldl_cons, ihskip, ihcnt, hrest, hlen, hskip]
    exact ⟨Nat.add_assoc _ _ _, (cnt_bump_congr hcnt 9 _).trans (cnt_bump_bump _ 9 _ _)⟩

/-- The slots of a tag command's range. -/
def rangeOf (m : TagCmd) : List Nat := (List.range (m.last + 1 - m.first)).map (m.first + ·)

/-- A slot of the range lies between its ends. -/
theorem mem_rangeOf (m : TagCmd) (i : Nat) : i ∈ rangeOf m ↔ m.first ≤ i ∧ i ≤ m.last := by
  simp only [rangeOf, List.mem_map, List.mem_range]
  constructor
  · rintro ⟨j, hj, rfl⟩
    omega
  · rintro ⟨h1, h2⟩
    exact ⟨i - m.first, by omega, by omega⟩

/-- The range has each slot once. -/
theorem nodup_rangeOf (m : TagCmd) : (rangeOf m).Nodup :=
  List.Pairwise.map (m.first + ·) (fun _ _ hne h => hne (Nat.add_left_cancel h)) List.nodup_range

/-- The core after the walk of a whole range, the command at its end. -/
def walked (k : Core) (m : TagCmd) : Core :=
  modSpd ((rangeOf m).foldl (tagReach m.op m.count) k) fun d => { d with cmd := some { m with next := m.last + 1 } }

/-- In a core that does not doze, a command that has had the cycles for its range has walked it. -/
theorem tagTo_of_whole_range {k : Core} {m : TagCmd} {t : Nat} (hd : notDozing k) (hc : k.spd.cmd = some m) (hn : m.next = m.first)
    (hr : m.first ≤ m.last) (ht : m.last < m.first + 8 * (t - m.since)) : tagTo k t = walked k m := by
  have hstop : min (m.last + 1) (m.first + 8 * (t - m.since)) = m.last + 1 := by omega
  have hpwr : (walked k m).pwr = k.pwr := (TagWork.foldl (tagWork_tagReach m.op m.count) (rangeOf m) k).pwr
  have hmax : max m.first (m.last + 1) = m.last + 1 := by omega
  unfold tagTo
  rw [hc]
  dsimp only
  rw [hstop, hn, hmax]
  exact wakeOnChange_awake k (walked k m) t (by rwa [notDozing, hpwr])

/-- The walk of a whole range: what the slots become, what is counted, and that no byte changes but those that gather entries hold. -/
theorem walked_effect (k : Core) (m : TagCmd) :
    (∀ n, tagOf (walked k m) n = if m.first ≤ n ∧ n ≤ m.last ∧ tagSkips k n = false then commandedTag m.op m.count (tagOf k n) else tagOf k n) ∧
    ((walked k m).spd.skipped = k.spd.skipped + ((rangeOf m).filter (tagSkips k)).length ∧
      (kPage (walked k m) 5).cnt = (bump (kPage k 5) 9 ((rangeOf m).filter (tagSkips k)).length).cnt) ∧
    ∀ a, byteKept k (walked k m) a := by
  refine ⟨fun n => ?_, counts_walk m.op m.count (nodup_rangeOf m) k, (TagWork.foldl (tagWork_tagReach m.op m.count) (rangeOf m) k).bytes⟩
  refine (tagOf_walk m.op m.count (nodup_rangeOf m) k n).trans ?_
  simp only [mem_rangeOf, and_assoc]

/-! The start and the end of a tag command. -/

/-- A command on a range of slots begins where none is in progress (R213). -/
theorem tagCommand_begins {k : Core} {op count first last : Nat} (hc : k.spd.cmd = none) (hr : first ≤ last) (hl : last ≤ 767)
    (hop : op = 1 ∨ (op = 2 ∧ count ≠ 0) ∨ op = 3) (now : Nat) :
    tagCommand k op count first last now =
      modSpd k fun d => { d with cmd := some { op := op, count := count, first := first, last := last, since := now, next := first }, skipped := 0 } := by
  have hguard : ¬ (k.spd.cmd.isSome || last < first || 767 < last || op = 0 || 3 < op || (op = 2 && count = 0)) = true := by
    simp only [hc, Option.isSome_none, Bool.false_or, Bool.or_eq_true, Bool.and_eq_true, decide_eq_true_eq]
    omega
  exact if_neg hguard

/-- A command without a range of slots, one that makes slots FULL with COUNT 0, and one while another is in progress is ignored and counted (R213). -/
theorem tagCommand_ignored {k : Core} {op count first last : Nat} (h : (last < first ∨ 767 < last ∨ k.spd.cmd ≠ none) ∨ (op = 2 ∧ count = 0)) (now : Nat) :
    tagCommand k op count first last now = kBump k 5 9 := by
  have hguard : (k.spd.cmd.isSome || last < first || 767 < last || op = 0 || 3 < op || (op = 2 && count = 0)) = true := by
    simp only [Bool.or_eq_true, Bool.and_eq_true, decide_eq_true_eq, Option.isSome_iff_ne_none]
    rcases h with (hr | hl | hc) | hop
    · exact .inl (.inl (.inl (.inl (.inr hr))))
    · exact .inl (.inl (.inl (.inr hl)))
    · exact .inl (.inl (.inl (.inl (.inl hc))))
    · exact .inr hop
  exact if_pos hguard

section
variable {s u : State} {p : Port} {c : CoreId} (h : reaches s p (.core c 5) 0x60 u) (a b : BitVec 10)
include h

/-- A command that makes slots EMPTY starts on the state that its gate leaves. -/
theorem exec_tagcmdSetEmpty : exec (.tagcmdSetEmpty p c a b) s = .next (putCore u c.val (tagCommand (getCore u c.val) 1 0 a.toNat b.toNat u.now)) :=
  congrArg _ (coreWrite_ok s u p c 5 0x60 _ (by decide) h)

/-- A command that makes slots FULL starts on the state that its gate leaves. -/
theorem exec_tagcmdSetFull (n : BitVec 4) :
    exec (.tagcmdSetFull p c a b n) s = .next (putCore u c.val (tagCommand (getCore u c.val) 2 n.toNat a.toNat b.toNat u.now)) :=
  congrArg _ (coreWrite_ok s u p c 5 0x60 _ (by decide) h)

/-- A command that clears BACKED starts on the state that its gate leaves. -/
theorem exec_tagcmdClearBacked : exec (.tagcmdClearBacked p c a b) s = .next (putCore u c.val (tagCommand (getCore u c.val) 3 0 a.toNat b.toNat u.now)) :=
  congrArg _ (coreWrite_ok s u p c 5 0x60 _ (by decide) h)

end

/-! A change of the untagged ranges (R202). -/

/-- The slots that a change of the ranges makes untagged or tagged. -/
def changedSlots (k0 k : Core) : List Nat := (List.range 768).filter fun n => untagged k0 n ≠ untagged k n

/-- A slot changed by it. -/
theorem mem_changedSlots (k0 k : Core) (n : Nat) : n ∈ changedSlots k0 k ↔ n < 768 ∧ untagged k0 n ≠ untagged k n := by
  simp [changedSlots]

/-- The slots changed lose their tags, their gather entries written first. -/
def untag (k : Core) (ns : List Nat) : Core := modSpd (ns.foldl flushSlot k) fun d => { d with tags := d.tags.filter fun e => !ns.contains e.1 }

/-- A queue whose descriptors have no tag effect any more on the slots changed. -/
def Queue.without (ns : List Nat) (x : Queue) : Queue :=
  { x with flights := x.flights.map (Flight.without fun n => ns.contains n), fb := x.fb.map fun b => { b with orig := b.orig.without fun n => ns.contains n } }

/-- The slots changed, the queues and the streams lose what they have of them. -/
def untagAll (k : Core) (ns : List Nat) : Core :=
  let k1 := allQ.foldl (fun k q => modQ k q (Queue.without ns)) (untag k ns)
  { k1 with skd := { k1.skd with streams := k1.skd.streams.map (Stream.without ns) } }

/-- A change of the ranges acts on the slots that it changes, if there are any. -/
theorem retag_cases (k0 k : Core) : (changedSlots k0 k = [] ∧ retag k0 k = k) ∨ retag k0 k = untagAll k (changedSlots k0 k) := by
  have heq : retag k0 k = if changedSlots k0 k = [] then k else untagAll k (changedSlots k0 k) := by
    unfold retag changedSlots
    rfl
  by_cases h : changedSlots k0 k = []
  · exact .inl ⟨h, heq.trans (if_pos h)⟩
  · exact .inr (heq.trans (if_neg h))

/-- Flushing slots leaves the pages and the queues. -/
theorem foldl_flushSlot_keeps (ns : List Nat) (k : Core) :
    (ns.foldl flushSlot k).pages = k.pages ∧ (∀ q, getQ (ns.foldl flushSlot k) q = getQ k q) ∧ (ns.foldl flushSlot k).spd.tags = k.spd.tags := by
  induction ns generalizing k with
  | nil => exact ⟨rfl, fun _ => rfl, rfl⟩
  | cons n ns ih =>
    obtain ⟨hpages, hq, htags⟩ := ih (flushSlot k n)
    refine ⟨hpages.trans (pages_flushSlot k n), fun q => (hq q).trans ?_, htags.trans (gatherFlush_tags k _)⟩
    rw [flushSlot, gatherFlush_eq]
    cases q <;> rfl

/-- The slots that are untagged have no tags, the others keep theirs. -/
theorem tagOf_untagAll (k : Core) (ns : List Nat) (n : Nat) : tagOf (untagAll k ns) n = if n ∈ ns then {} else tagOf k n := by
  have hfilter := fget_filter (ns.foldl flushSlot k).spd.tags (fun m => !ns.contains m) n {}
  rw [(foldl_flushSlot_keeps ns k).2.2] at hfilter
  have htags : (untagAll k ns).spd.tags = k.spd.tags.filter fun e => !ns.contains e.1 := by
    rw [← (foldl_flushSlot_keeps ns k).2.2]
    rfl
  rw [tagOf, htags, hfilter]
  by_cases h : n ∈ ns <;> simp [h, tagOf]

/-- Slots are untagged by work on tags. -/
theorem tagWork_untagAll (k : Core) (ns : List Nat) : TagWork k (untagAll k ns) :=
  (TagWork.foldl tagWork_flushSlot ns k).trans ⟨rfl, rfl, fun _ _ => rfl, fun _ h => h, fun _ => .inl rfl⟩

/-- Descriptors in flight have no tag effect on the slots that are untagged. -/
theorem flights_untagAll {k : Core} {ns : List Nat} {q : QueueId} {f : Flight} (hf : f ∈ (getQ (untagAll k ns) q).flights) {m : Nat}
    (hm : m ∈ f.pins ++ f.held ++ f.inplace ++ f.consume) : m ∉ ns := by
  have hq : getQ (untagAll k ns) q = Queue.without ns (getQ (untag k ns) q) := by cases q <;> rfl
  rw [hq] at hf
  obtain ⟨g, -, rfl⟩ := List.mem_map.mp hf
  have hsel : ∀ l : List Nat, m ∈ (l.filter fun n => !ns.contains n) → m ∉ ns := fun l h => by simpa using (List.mem_filter.mp h).2
  simp only [List.mem_append] at hm
  rcases hm with ((hm | hm) | hm) | hm
  all_goals exact hsel _ hm

/-- Untagging slots leaves the pages. -/
theorem pages_untagAll (k : Core) (ns : List Nat) : (untagAll k ns).pages = k.pages := (foldl_flushSlot_keeps ns k).1

/-! The effect of a change of the ranges. -/

/-- A change of the ranges is work on tags. -/
theorem tagWork_retag (k0 k : Core) : TagWork k (retag k0 k) := by
  obtain ⟨-, h⟩ | h := retag_cases k0 k
  · rw [h]
    exact .refl k
  · rw [h]
    exact tagWork_untagAll k _

/-- A change of the ranges leaves the pages. -/
theorem pages_retag (k0 k : Core) : (retag k0 k).pages = k.pages := by
  obtain ⟨-, h⟩ | h := retag_cases k0 k
  · rw [h]
  · rw [h, pages_untagAll]

/-- A slot that becomes untagged or tagged loses its tag, the others keep theirs. -/
theorem tagOf_retag (k0 k : Core) (n : Nat) : tagOf (retag k0 k) n = if n ∈ changedSlots k0 k then {} else tagOf k n := by
  obtain ⟨hnone, h⟩ | h := retag_cases k0 k
  · rw [h, hnone, if_neg List.not_mem_nil]
  · rw [h, tagOf_untagAll]

/-- Descriptors in flight have tag effects on slots alone that the change of the ranges leaves. -/
theorem flights_retag {k0 k : Core} {q : QueueId} {f : Flight} (hf : f ∈ (getQ (retag k0 k) q).flights) {m : Nat}
    (hm : m ∈ f.pins ++ f.held ++ f.inplace ++ f.consume) : m ∉ changedSlots k0 k := by
  obtain ⟨hnone, -⟩ | h := retag_cases k0 k
  · exact hnone ▸ List.not_mem_nil
  · rw [h] at hf
    exact flights_untagAll hf hm

/-! The command and the statement. -/

/-- The core after a write of v to SPD_UTAGn (R202). -/
def utagWritten (k : Core) (n : Fin 4) (v : Word) : Core := retag k (setKReg k 5 (0x40 + 4 * n.val) (v &&& 0x83FF03FF#32).toNat)

/-- A write of SPD_UTAGn that reaches its register is made on the state that its gate leaves; a core that does not doze stays awake. -/
theorem exec_spdUtagWrite {s u : State} {p : Port} {c : CoreId} {n : Fin 4} (h : reaches s p (.core c 5) (0x40 + 4 * n.val) u)
    (hd : notDozing (getCore u c.val)) (v : Word) : exec (.spdUtagWrite p c n v) s = .next (putCore u c.val (utagWritten (getCore u c.val) n v)) := by
  have hpwr : (utagWritten (getCore u c.val) n v).pwr = (getCore u c.val).pwr := (tagWork_retag _ _).pwr
  have hwake := wakeOnChange_awake (getCore u c.val) (utagWritten (getCore u c.val) n v) u.now (by rwa [notDozing, hpwr])
  exact congrArg _ ((coreWrite_ok s u p c 5 _ _ (by decide) h).trans (congrArg (putCore u c.val) hwake))

/-- The registers after a write of SPD_UTAGn. -/
theorem kReg_utagWritten (k : Core) (n : Fin 4) (v : Word) :
    kReg (utagWritten k n v) 5 (0x40 + 4 * n.val) = (v &&& 0x83FF03FF#32).toNat ∧
    ∀ off, off ≠ 0x40 + 4 * n.val → kReg (utagWritten k n v) 5 off = kReg k 5 off := by
  refine ⟨?_, fun off ho => ?_⟩
  · rw [utagWritten, (tagWork_retag _ _).regs, kReg_setKReg_same, Nat.mod_eq_of_lt (BitVec.isLt _)]
  · rw [utagWritten, (tagWork_retag _ _).regs, kReg_setKReg_ne k _ (.inr ho)]

/-- A write of SPD_UTAGn changes no byte but those that gather entries hold. -/
theorem byteKept_utagWritten (k : Core) (n : Fin 4) (v : Word) (a : Nat) : byteKept k (utagWritten k n v) a :=
  byteKept_trans (k' := setKReg k 5 (0x40 + 4 * n.val) (v &&& 0x83FF03FF#32).toNat) (.inl rfl) (fun _ hg => hg) ((tagWork_retag _ _).bytes a)

/-- A slot that is not among those changed is untagged or tagged as before. -/
theorem mem_changedSlots_utagWritten (k : Core) (n : Fin 4) (v : Word) {m : Nat} (hm : m < 768) :
    m ∈ changedSlots k (setKReg k 5 (0x40 + 4 * n.val) (v &&& 0x83FF03FF#32).toNat) ↔ untagged (utagWritten k n v) m ≠ untagged k m := by
  rw [mem_changedSlots, utagWritten, (tagWork_retag _ _).untagged]
  simp [hm, eq_comm]

/-- Settles O34: a tag command starts by its checks, walks its range slot by slot, each as the law of a slot that is reached, and ends; a change of the ranges acts on the slots that it changes. -/
theorem tagCommandsAndUntaggedRanges : Obligations.TagCommandsAndUntaggedRanges := by
  refine ⟨?start, ?walk, ?finish, ?ranges⟩
  case start =>
    intro s u p c a b n h
    refine ⟨fun hc hr hl => ⟨?_, ?_, fun hn => ?_⟩, fun hbad => ⟨?_, ?_, ?_⟩, fun hn => ?_⟩
    · rw [exec_tagcmdSetEmpty h, tagCommand_begins hc hr hl (.inl rfl)]
      rfl
    · rw [exec_tagcmdClearBacked h, tagCommand_begins hc hr hl (.inr (.inr rfl))]
      rfl
    · rw [exec_tagcmdSetFull h, tagCommand_begins hc hr hl (.inr (.inl ⟨rfl, fun h0 => hn (BitVec.eq_of_toNat_eq h0)⟩))]
      rfl
    · rw [exec_tagcmdSetEmpty h, tagCommand_ignored (.inl hbad)]
      rfl
    · rw [exec_tagcmdClearBacked h, tagCommand_ignored (.inl hbad)]
      rfl
    · rw [exec_tagcmdSetFull h, tagCommand_ignored (.inl hbad)]
      rfl
    · rw [exec_tagcmdSetFull h, tagCommand_ignored (.inr ⟨rfl, by rw [hn]; rfl⟩)]
      rfl
  case walk =>
    intro k m t hd hc hn hr _ _ ht
    rw [tagTo_of_whole_range hd hc hn hr ht]
    exact walked_effect k m
  case finish =>
    intro s c t hc
    show execTagcmdDone c s = _
    rw [execTagcmdDone, hc]
    rfl
  case ranges =>
    intro s u p c n v h hd
    refine ⟨_, exec_spdUtagWrite h hd v, onlyCore_putCore u c.val _, ?_⟩
    rw [getCore_putCore_same]
    obtain ⟨hsame, hother⟩ := kReg_utagWritten (getCore u c.val) n v
    refine ⟨hsame, hother, fun m hm hkept => ?_, fun m hm hchanged => ?_, fun q f hf m hfm hm => ?_, fun a => ?_, fun j hj => ?_⟩
    · have hout := fun hin => (mem_changedSlots_utagWritten _ n v hm).mp hin hkept
      rw [utagWritten, tagOf_retag, if_neg hout]
      rfl
    · rw [utagWritten, tagOf_retag, if_pos ((mem_changedSlots_utagWritten _ n v hm).mpr hchanged)]
    · exact Decidable.byContradiction fun hne => flights_retag hf hfm ((mem_changedSlots_utagWritten _ n v hm).mpr hne)
    · exact byteKept_utagWritten _ n v a
    · rw [utagWritten, kPage, pages_retag]
      exact kPage_setKReg_ne _ _ _ hj

end Sys2Proof.Machine
end
